-- ==== Sys2Proof/Word.lean ====
section
/-! DEFINITION. The word types and their plainest bit-field arithmetic (00 R3, R4). -/

namespace Sys2Proof

abbrev Byte := BitVec 8
abbrev W32 := BitVec 32
abbrev Word := BitVec 64
/-- A vector register's 64 containers, lane 0 least significant (01 R24). -/
abbrev VReg := BitVec 2048

/-- Bits `lo + n - 1 : lo` of a natural number. -/
def fld (w lo n : Nat) : Nat := w / 2 ^ lo % 2 ^ n

end Sys2Proof
end

