-- ==== Sys2Proof/Config.lean ====
section
/-! DEFINITION. What the device fixes and the open values: native latencies (02 R66), and constants with no body that
stand for every value the spec leaves open and for the cryptographic functions that the device calls by name. -/

namespace Sys2Proof.Config

/-- The native latency of operation class 0 to 15 (02 R66). -/
def native (c : Nat) : Nat :=
  match c with
  | 2 => 3
  | 3 => 20
  | 4 => 6
  | 5 => 2
  | 6 => 4
  | 7 => 8
  | 8 => 8
  | 9 => 6
  | 10 => 4
  | 11 => 2
  | 12 => 2
  | 13 => 2
  | 14 => 4
  | _ => 1

/-- The n-th open value that a run draws. DESIGN CHOICE, log entry 3. -/
opaque freeWord : Nat → BitVec 2048

/-- The n-th open choice that a run makes. DESIGN CHOICE, log entry 3. -/
opaque freeChoice : Nat → Nat

/-! Functions that the spec names and other standards define (02 R64, 14 R385-R396, 18 R466). -/

/-- SHA-384. DESIGN CHOICE, log entry 4. -/
opaque sha384 : List Byte → BitVec 384

/-- Whether an ECDSA P-384 signature (r, then s) over a digest verifies under a public key. DESIGN CHOICE, log entry 4. -/
opaque ecdsaOk : BitVec 768 → BitVec 384 → BitVec 768 → Bool

/-- Whether 96 bytes are a point on P-384. DESIGN CHOICE, log entry 4. -/
opaque onCurve : BitVec 768 → Bool

/-- AES-256-GCM of a link frame: ciphertext and tag, from key, IV, additional data and plaintext. -/
opaque gcmSeal : BitVec 256 → BitVec 96 → BitVec 128 → List Byte → List Byte × BitVec 128

/-- The device's fused id, and the SHA-384 digest of the debug authority's key and that key (14 R390, R395). -/
opaque deviceId : BitVec 128
opaque authorityKey : BitVec 768

/-- What slot 4 takes for a lifecycle state and a fuse count (14 R394). -/
opaque lifecycleDigest : Nat → Nat → BitVec 384

/-- The HBM row that holds a granule (16 R442). -/
opaque hbmRow : Nat → Nat

/-- The words of each slice that the slice test of a start finds faulty (07 R192). -/
opaque faultyWords : Nat → List (BitVec 9 × BitVec 22)

/-- The secured message that protects a plaintext in a session (18 R466). DESIGN CHOICE, log entry 53. -/
opaque secured : Nat → List Byte → List Byte

/-- The device certificate and the firmware images' digests are the device's own. -/
opaque certificate : List Byte

end Sys2Proof.Config
end

