-- ==== Sys2Proof/Syntax.lean ====
section
/-! DEFINITION. The instructions and steps of the Guvar 9: one constructor for each row of the opcode table.
Rows 0-207 are the slot instructions of a bundle (02 R38-R51), rows 208-242 the landing operations (12 R305),
rows 243-355 the steps that engines, service software, the fabric and the host take (95_what_each_step_holds.md). -/

namespace Sys2Proof

/-- The predicate of a slot header (02 R39): PN inverts, PI 0-23 names p0-p23, 31 means always. -/
structure Pred where
  pn : Bool
  pi : BitVec 5
deriving DecidableEq, Repr

/-- A ferry as it stands on a link and in a pool: header, manifest, program and cargo flits (12 R297). -/
structure Ferry where
  header   : BitVec 256
  manifest : BitVec 256
  program  : BitVec 256
  cargo    : List (BitVec 256)
deriving DecidableEq, Repr

/-- What a memory read finds in its check bits (07 R195, R197). -/
inductive MemError where
  | clean | single | uncorrectable
deriving DecidableEq, Repr

/-- What the patrol scrub, or an access, reads (07 R192, R195): a word of the slice by its index, a word of a tile's
side-band record (row sum i as i, column sum j as 64 + j), or a container of an accumulator tile. -/
inductive ScrubWord where
  | slice (word : BitVec 22)
  | record (tile : BitVec 10) (word : BitVec 7)
  | acc (tile : BitVec 4) (i j : BitVec 6)
deriving DecidableEq, Repr

/-- What a frame brings (14 R385, R389): the ferries that it completes, and those of which it brings a flit but not the last;
`retry` marks the first frame that a transmitter sends in answer to a retry request (16 R438). -/
structure FrameLoad where
  whole : List Ferry
  parts : List Ferry
  retry : Bool
deriving DecidableEq, Repr

/-- The algorithms that a requester supports (14 R393), as the bits of its request name them. -/
structure SpdmOffer where
  asym : BitVec 32
  hash : BitVec 32
  dhe  : BitVec 16
  aead : BitVec 16
deriving DecidableEq, Repr

/-- What a port brings to this node (12 R301): a ferry for its router, or what a system ferry carries to the node itself: an
UNREACHABLE delivery (12 R323), a ferry notice (12 R328), a request of a peer on this node's map (07 R200, 14 R379: a read of
`len` bytes, or a write of `data`), a peer's ATOM (09 R249, R250), a forwarded torus launch, and the end of one (11 R288); or the news that a link has failed at
its other end (16 R443). -/
inductive Inbound where
  | ferry (f : Ferry)
  | unreachable (queue : BitVec 12) (cargo : BitVec 2048) (desc0 desc1 : BitVec 64)
  | notice (record : BitVec 512)
  | peer (orig : BitVec 15) (tenant : BitVec 12) (pa : BitVec 48) (len : BitVec 12) (data : Option (List Byte))
  | atom (orig : BitVec 15) (tenant : BitVec 12) (core : BitVec 9) (id : BitVec 16) (again : Bool) (code : BitVec 4)
      (pa : BitVec 48) (v expected : BitVec 64)
  | launch (orig : BitVec 15) (tenant : BitVec 12) (lid : BitVec 64) (record : BitVec 512)
  | endLaunch (orig : BitVec 15) (tenant : BitVec 12) (lid : BitVec 64)
  | linkDown (link : BitVec 2)
deriving DecidableEq, Repr

/-- A port of a node of the fabric (16 R445). -/
structure FarPort where
  node : BitVec 15
  port : BitVec 3
deriving DecidableEq, Repr

/-- What a member node of a torus launch reports to the arrival node (11 R282, R288): whether it has accepted the record, and of
the tasks it ran how many executed EXIT, how many a trap ended, their flags, the highest status code, and the energy charged. -/
structure MemberReport where
  accepted : Bool
  nexit    : BitVec 32
  ntrap    : BitVec 32
  cki      : BitVec 11
  status   : Byte
  used     : BitVec 64
deriving DecidableEq, Repr

/-- The report of a member that refuses the record. -/
def MemberReport.refusal : MemberReport := ⟨false, 0, 0, 0, 0, 0⟩

/-- The envelope of a management request (18 R466): its route (0 BAR0, 1 management port), the SPDM session that
carries it, the TAG that its response repeats, and on BAR0 the secured message as it stands in the mailbox. -/
structure MgmtReq where
  port    : Bool
  session : BitVec 32
  tag     : BitVec 64
  msg     : List Byte
deriving DecidableEq, Repr

/-- Why a management request is turned away before any command runs (18 R466). -/
inductive RejectKind where
  | noSession | badTag | badLen | badForm | busy
deriving DecidableEq, Repr

/-- Where a schedule-cycle stop takes hold (17 R461): a core, and a SYS.CCYC value or now. -/
structure StopAt where
  core : BitVec 9
  at'  : Option (BitVec 64)
deriving DecidableEq, Repr

/-- A resume (17 R461): the core, and the records that the debugger has put in place of the dumped ones, by context. -/
structure ResumeWith where
  core    : BitVec 9
  records : List (BitVec 2 × List Byte)
deriving DecidableEq, Repr

/-- An object of the DOE mailbox (18 R462): the vendor and number of its type, and the index that Discovery asks for. -/
structure DoeObject where
  vendor : BitVec 16
  kind   : Byte
  index  : Byte
deriving DecidableEq, Repr

/-- Every instruction and step. Slot instructions carry their raw operand fields (02 R42-R46).
DESIGN CHOICE, log entry 70. -/
inductive Instr where
  /-- NOP (R41): opcode 0 of any slot class. -/
  | nop
  /-- BPREP (R268). -/
  | bprep (p : Pred) (bt : BitVec 4) (target : BitVec 14)
  /-- BPREPS (R268). -/
  | bpreps (p : Pred) (bt : BitVec 4) (a : BitVec 6)
  /-- BR (R269). -/
  | br (p : Pred) (bt : BitVec 4)
  /-- BRL (R269). -/
  | brl (p : Pred) (bt : BitVec 4) (link : BitVec 3)
  /-- BANKSW (R270). -/
  | banksw (p : Pred) (pd : BitVec 5) (bt : BitVec 4)
  /-- LOOP (R264). -/
  | loop (p : Pred) (lx : BitVec 4) (a : BitVec 6) (endp : BitVec 13)
  /-- LBRK (R265). -/
  | lbrk (p : Pred) (lx : BitVec 4)
  /-- VANY (R271). -/
  | vany (p : Pred) (pd : BitVec 5) (ps : BitVec 5)
  /-- VALL (R271). -/
  | vall (p : Pred) (pd : BitVec 5) (ps : BitVec 5)
  /-- SETFMT (R273). -/
  | setfmt (p : Pred) (val : BitVec 6) (mask : BitVec 6)
  /-- SETFMT_SCALAR (R273). -/
  | setfmtScalar (p : Pred) (a : BitVec 6) (mask : BitVec 6)
  /-- FENCE_I (R272). -/
  | fenceI (p : Pred) (pd : BitVec 5) (bank : BitVec 2)
  /-- YIELD (R274). -/
  | yield (p : Pred)
  /-- EXIT (R275). -/
  | exit (p : Pred)
  /-- TRAP (R428). -/
  | trap (p : Pred) (val : BitVec 16)
  /-- ERET (R429). -/
  | eret (p : Pred)
  /-- CRGN_OPEN (R424). -/
  | crgnOpen (p : Pred) (bt : BitVec 4) (mask : BitVec 4)
  /-- CRGN_CLOSE (R427). -/
  | crgnClose (p : Pred)
  /-- CHKERR (R430). -/
  | chkerr (p : Pred) (a : BitVec 6) (pd : BitVec 5) (mask : BitVec 11)
  /-- PMARK (R276). -/
  | pmark (p : Pred) (marker : BitVec 16)
  /-- ADD (R102). -/
  | add (p : Pred) (d : BitVec 6) (a : BitVec 6) (b : BitVec 6) (t : BitVec 4)
  /-- SUB (R102). -/
  | sub (p : Pred) (d : BitVec 6) (a : BitVec 6) (b : BitVec 6) (t : BitVec 4)
  /-- AND (R102). -/
  | and (p : Pred) (d : BitVec 6) (a : BitVec 6) (b : BitVec 6) (t : BitVec 4)
  /-- OR (R102). -/
  | or (p : Pred) (d : BitVec 6) (a : BitVec 6) (b : BitVec 6) (t : BitVec 4)
  /-- XOR (R102). -/
  | xor (p : Pred) (d : BitVec 6) (a : BitVec 6) (b : BitVec 6) (t : BitVec 4)
  /-- ANDN (R102). -/
  | andn (p : Pred) (d : BitVec 6) (a : BitVec 6) (b : BitVec 6) (t : BitVec 4)
  /-- SHL (R102). -/
  | shl (p : Pred) (d : BitVec 6) (a : BitVec 6) (b : BitVec 6) (t : BitVec 4)
  /-- SHR (R102). -/
  | shr (p : Pred) (d : BitVec 6) (a : BitVec 6) (b : BitVec 6) (t : BitVec 4)
  /-- ROTL (R102). -/
  | rotl (p : Pred) (d : BitVec 6) (a : BitVec 6) (b : BitVec 6) (t : BitVec 4)
  /-- MIN (R102). -/
  | min (p : Pred) (d : BitVec 6) (a : BitVec 6) (b : BitVec 6) (t : BitVec 4)
  /-- MAX (R102). -/
  | max (p : Pred) (d : BitVec 6) (a : BitVec 6) (b : BitVec 6) (t : BitVec 4)
  /-- MUL (R102). -/
  | mul (p : Pred) (d : BitVec 6) (a : BitVec 6) (b : BitVec 6) (t : BitVec 4)
  /-- MULH (R102). -/
  | mulh (p : Pred) (d : BitVec 6) (a : BitVec 6) (b : BitVec 6) (t : BitVec 4)
  /-- DIV (R103). -/
  | div (p : Pred) (d : BitVec 6) (a : BitVec 6) (b : BitVec 6) (t : BitVec 4)
  /-- REM (R103). -/
  | rem (p : Pred) (d : BitVec 6) (a : BitVec 6) (b : BitVec 6) (t : BitVec 4)
  /-- SHRA (R102). -/
  | shra (p : Pred) (d : BitVec 6) (a : BitVec 6) (b : BitVec 6) (t : BitVec 4)
  /-- CLZ (R102). -/
  | clz (p : Pred) (d : BitVec 6) (a : BitVec 6) (t : BitVec 4)
  /-- CTZ (R102). -/
  | ctz (p : Pred) (d : BitVec 6) (a : BitVec 6) (t : BitVec 4)
  /-- POPC (R102). -/
  | popc (p : Pred) (d : BitVec 6) (a : BitVec 6) (t : BitVec 4)
  /-- SEXT (R102). -/
  | sext (p : Pred) (d : BitVec 6) (a : BitVec 6) (t : BitVec 4)
  /-- ZEXT (R102). -/
  | zext (p : Pred) (d : BitVec 6) (a : BitVec 6) (t : BitVec 4)
  /-- ADDSH (R102). -/
  | addsh (p : Pred) (d : BitVec 6) (a : BitVec 6) (b : BitVec 6) (k : BitVec 8) (t : BitVec 4)
  /-- SEL (R102). -/
  | sel (p : Pred) (d : BitVec 6) (a : BitVec 6) (b : BitVec 6) (c : BitVec 6)
  /-- CMP (R104). -/
  | cmp (p : Pred) (d : BitVec 6) (a : BitVec 6) (b : BitVec 6) (cond : BitVec 8) (t : BitVec 4)
  /-- ADDI (R105). -/
  | addi (p : Pred) (d : BitVec 6) (a : BitVec 6) (t : BitVec 4) (imm : BitVec 32)
  /-- ANDI (R105). -/
  | andi (p : Pred) (d : BitVec 6) (a : BitVec 6) (t : BitVec 4) (imm : BitVec 32)
  /-- ORI (R105). -/
  | ori (p : Pred) (d : BitVec 6) (a : BitVec 6) (t : BitVec 4) (imm : BitVec 32)
  /-- XORI (R105). -/
  | xori (p : Pred) (d : BitVec 6) (a : BitVec 6) (t : BitVec 4) (imm : BitVec 32)
  /-- SHLI (R105). -/
  | shli (p : Pred) (d : BitVec 6) (a : BitVec 6) (t : BitVec 4) (imm : BitVec 32)
  /-- SHRI (R105). -/
  | shri (p : Pred) (d : BitVec 6) (a : BitVec 6) (t : BitVec 4) (imm : BitVec 32)
  /-- SHRAI (R105). -/
  | shrai (p : Pred) (d : BitVec 6) (a : BitVec 6) (t : BitVec 4) (imm : BitVec 32)
  /-- MOVI (R105). -/
  | movi (p : Pred) (d : BitVec 6) (t : BitVec 4) (imm : BitVec 32)
  /-- MOVHI (R105). -/
  | movhi (p : Pred) (d : BitVec 6) (a : BitVec 6) (imm : BitVec 32)
  /-- CMPI (R104). -/
  | cmpi (p : Pred) (d : BitVec 6) (a : BitVec 6) (cond : BitVec 4) (t : BitVec 4) (imm : BitVec 32)
  /-- FADD (R106). -/
  | fadd (p : Pred) (d : BitVec 6) (a : BitVec 6) (b : BitVec 6) (t : BitVec 4)
  /-- FSUB (R106). -/
  | fsub (p : Pred) (d : BitVec 6) (a : BitVec 6) (b : BitVec 6) (t : BitVec 4)
  /-- FMUL (R106). -/
  | fmul (p : Pred) (d : BitVec 6) (a : BitVec 6) (b : BitVec 6) (t : BitVec 4)
  /-- FFMA (R106). -/
  | ffma (p : Pred) (d : BitVec 6) (a : BitVec 6) (b : BitVec 6) (c : BitVec 6) (t : BitVec 4)
  /-- FMIN (R107). -/
  | fmin (p : Pred) (d : BitVec 6) (a : BitVec 6) (b : BitVec 6) (num : BitVec 8) (t : BitVec 4)
  /-- FMAX (R107). -/
  | fmax (p : Pred) (d : BitVec 6) (a : BitVec 6) (b : BitVec 6) (num : BitVec 8) (t : BitVec 4)
  /-- FCMP (R108). -/
  | fcmp (p : Pred) (d : BitVec 6) (a : BitVec 6) (b : BitVec 6) (cond : BitVec 8) (t : BitVec 4)
  /-- FCVT (R109). -/
  | fcvt (p : Pred) (d : BitVec 6) (a : BitVec 6) (ts : BitVec 4) (td : BitVec 4)
  /-- FCLASS (R110). -/
  | fclass (p : Pred) (d : BitVec 6) (a : BitVec 6) (t : BitVec 4)
  /-- PAND (R111). -/
  | pand (p : Pred) (d : BitVec 6) (a : BitVec 6) (b : BitVec 6)
  /-- POR (R111). -/
  | por (p : Pred) (d : BitVec 6) (a : BitVec 6) (b : BitVec 6)
  /-- PXOR (R111). -/
  | pxor (p : Pred) (d : BitVec 6) (a : BitVec 6) (b : BitVec 6)
  /-- PANDN (R111). -/
  | pandn (p : Pred) (d : BitVec 6) (a : BitVec 6) (b : BitVec 6)
  /-- PCNT (R111). -/
  | pcnt (p : Pred) (d : BitVec 6) (a : BitVec 6)
  /-- PFIRST (R111). -/
  | pfirst (p : Pred) (d : BitVec 6) (a : BitVec 6)
  /-- MOVPS (R111). -/
  | movps (p : Pred) (d : BitVec 6) (a : BitVec 6)
  /-- MOVSP (R111). -/
  | movsp (p : Pred) (d : BitVec 6) (a : BitVec 6)
  /-- MOVSYS (R112). -/
  | movsys (p : Pred) (d : BitVec 6) (num : BitVec 32)
  /-- SETSYS (R112). -/
  | setsys (p : Pred) (a : BitVec 6) (num : BitVec 32)
  /-- LD (R187). -/
  | ld (p : Pred) (d : BitVec 6) (a : BitVec 6) (x : BitVec 6) (t : BitVec 4) (sc : BitVec 3) (off : BitVec 24)
  /-- ST (R187). -/
  | st (p : Pred) (d : BitVec 6) (a : BitVec 6) (x : BitVec 6) (t : BitVec 4) (sc : BitVec 3) (off : BitVec 24)
  /-- STNT (R226). -/
  | stnt (p : Pred) (d : BitVec 6) (a : BitVec 6) (x : BitVec 6) (t : BitVec 4) (sc : BitVec 3) (off : BitVec 24)
  /-- STCMB (R227). -/
  | stcmb (p : Pred) (d : BitVec 6) (a : BitVec 6) (x : BitVec 6) (t : BitVec 4) (sc : BitVec 3) (ms : BitVec 3) (off : BitVec 24)
  /-- VADD (R118). -/
  | vadd (p : Pred) (d : BitVec 6) (a : BitVec 6) (b : BitVec 6) (sat : BitVec 8) (t : BitVec 4)
  /-- VSUB (R118). -/
  | vsub (p : Pred) (d : BitVec 6) (a : BitVec 6) (b : BitVec 6) (sat : BitVec 8) (t : BitVec 4)
  /-- VMUL (R118). -/
  | vmul (p : Pred) (d : BitVec 6) (a : BitVec 6) (b : BitVec 6) (t : BitVec 4)
  /-- VMULH (R118). -/
  | vmulh (p : Pred) (d : BitVec 6) (a : BitVec 6) (b : BitVec 6) (t : BitVec 4)
  /-- VSHL (R118). -/
  | vshl (p : Pred) (d : BitVec 6) (a : BitVec 6) (b : BitVec 6) (t : BitVec 4)
  /-- VSHR (R118). -/
  | vshr (p : Pred) (d : BitVec 6) (a : BitVec 6) (b : BitVec 6) (t : BitVec 4)
  /-- VMIN (R118). -/
  | vmin (p : Pred) (d : BitVec 6) (a : BitVec 6) (b : BitVec 6) (t : BitVec 4)
  /-- VMAX (R118). -/
  | vmax (p : Pred) (d : BitVec 6) (a : BitVec 6) (b : BitVec 6) (t : BitVec 4)
  /-- VAND (R118). -/
  | vand (p : Pred) (d : BitVec 6) (a : BitVec 6) (b : BitVec 6)
  /-- VOR (R118). -/
  | vor (p : Pred) (d : BitVec 6) (a : BitVec 6) (b : BitVec 6)
  /-- VXOR (R118). -/
  | vxor (p : Pred) (d : BitVec 6) (a : BitVec 6) (b : BitVec 6)
  /-- VSHRA (R118). -/
  | vshra (p : Pred) (d : BitVec 6) (a : BitVec 6) (b : BitVec 6) (t : BitVec 4)
  /-- VABS (R118). -/
  | vabs (p : Pred) (d : BitVec 6) (a : BitVec 6) (sat : BitVec 8) (t : BitVec 4)
  /-- VCMP (R118). -/
  | vcmp (p : Pred) (d : BitVec 6) (a : BitVec 6) (b : BitVec 6) (cond : BitVec 8) (t : BitVec 4)
  /-- VSEL (R118). -/
  | vsel (p : Pred) (d : BitVec 6) (a : BitVec 6) (b : BitVec 6) (c : BitVec 6)
  /-- VDOT4 (R120). -/
  | vdot4 (p : Pred) (d : BitVec 6) (a : BitVec 6) (b : BitVec 6) (c : BitVec 6) (sat : BitVec 8) (t : BitVec 4)
  /-- VSATN (R121). -/
  | vsatn (p : Pred) (d : BitVec 6) (a : BitVec 6) (b : BitVec 6) (uns : BitVec 8) (t : BitVec 4)
  /-- VWIDEN (R121). -/
  | vwiden (p : Pred) (d : BitVec 6) (a : BitVec 6) (part : BitVec 8) (t : BitVec 4)
  /-- VPACK (R121). -/
  | vpack (p : Pred) (d : BitVec 6) (a : BitVec 6) (b : BitVec 6) (t : BitVec 4)
  /-- VPACK_T2 (R122). -/
  | vpackT2 (p : Pred) (d : BitVec 6) (a : BitVec 6) (part : BitVec 8)
  /-- VUNPACK (R122). -/
  | vunpack (p : Pred) (d : BitVec 6) (a : BitVec 6) (part : BitVec 8)
  /-- VFADD (R123). -/
  | vfadd (p : Pred) (d : BitVec 6) (a : BitVec 6) (b : BitVec 6) (t : BitVec 4)
  /-- VFSUB (R123). -/
  | vfsub (p : Pred) (d : BitVec 6) (a : BitVec 6) (b : BitVec 6) (t : BitVec 4)
  /-- VFMUL (R123). -/
  | vfmul (p : Pred) (d : BitVec 6) (a : BitVec 6) (b : BitVec 6) (t : BitVec 4)
  /-- VFFMA (R123). -/
  | vffma (p : Pred) (d : BitVec 6) (a : BitVec 6) (b : BitVec 6) (c : BitVec 6) (t : BitVec 4)
  /-- VFMIN (R123). -/
  | vfmin (p : Pred) (d : BitVec 6) (a : BitVec 6) (b : BitVec 6) (num : BitVec 8) (t : BitVec 4)
  /-- VFMAX (R123). -/
  | vfmax (p : Pred) (d : BitVec 6) (a : BitVec 6) (b : BitVec 6) (num : BitVec 8) (t : BitVec 4)
  /-- VFCMP (R123). -/
  | vfcmp (p : Pred) (d : BitVec 6) (a : BitVec 6) (b : BitVec 6) (cond : BitVec 8)
  /-- VFRCP (R124). -/
  | vfrcp (p : Pred) (d : BitVec 6) (a : BitVec 6)
  /-- VFRSQ (R124). -/
  | vfrsq (p : Pred) (d : BitVec 6) (a : BitVec 6)
  /-- VFEXP2 (R124). -/
  | vfexp2 (p : Pred) (d : BitVec 6) (a : BitVec 6)
  /-- VFLOG2 (R124). -/
  | vflog2 (p : Pred) (d : BitVec 6) (a : BitVec 6)
  /-- VFCVT (R125). -/
  | vfcvt (p : Pred) (d : BitVec 6) (a : BitVec 6) (ts : BitVec 4) (part : BitVec 2) (td : BitVec 4)
  /-- VQUANT (R126). -/
  | vquant (p : Pred) (d : BitVec 6) (a : BitVec 6) (k : BitVec 6) (part : BitVec 2) (td : BitVec 4)
  /-- VDEQ (R126). -/
  | vdeq (p : Pred) (d : BitVec 6) (a : BitVec 6) (k : BitVec 6) (ts : BitVec 4) (part : BitVec 2)
  /-- VFCLASS (R127). -/
  | vfclass (p : Pred) (d : BitVec 6) (a : BitVec 6)
  /-- VRED (R128). -/
  | vred (p : Pred) (d : BitVec 6) (a : BitVec 6) (op : BitVec 8) (t : BitVec 4)
  /-- VPERM (R129). -/
  | vperm (p : Pred) (d : BitVec 6) (a : BitVec 6) (b : BitVec 6) (c : BitVec 6)
  /-- VSLIDE (R129). -/
  | vslide (p : Pred) (d : BitVec 6) (a : BitVec 6) (b : BitVec 6) (n : BitVec 8)
  /-- VBCAST (R130). -/
  | vbcast (p : Pred) (d : BitVec 6) (a : BitVec 6)
  /-- VBCAST_LANE (R130). -/
  | vbcastLane (p : Pred) (d : BitVec 6) (a : BitVec 6) (n : BitVec 6)
  /-- VIOTA (R130). -/
  | viota (p : Pred) (d : BitVec 6) (a : BitVec 6) (b : BitVec 6)
  /-- VCOUNTGE (R131). -/
  | vcountge (p : Pred) (d : BitVec 6) (a : BitVec 6) (b : BitVec 6) (t : BitVec 4)
  /-- VCOMPRESS (R132). -/
  | vcompress (p : Pred) (d : BitVec 6) (a : BitVec 6)
  /-- VEXPAND (R132). -/
  | vexpand (p : Pred) (d : BitVec 6) (a : BitVec 6)
  /-- MOVVS (R133). -/
  | movvs (p : Pred) (d : BitVec 6) (a : BitVec 6) (n : BitVec 6) (t : BitVec 4)
  /-- MOVSV (R133). -/
  | movsv (p : Pred) (d : BitVec 6) (a : BitVec 6) (n : BitVec 6)
  /-- VLD (R188). -/
  | vld (p : Pred) (d : BitVec 6) (a : BitVec 6) (x : BitVec 6) (sc : BitVec 3) (off : BitVec 24)
  /-- VLDS (R188). -/
  | vlds (p : Pred) (d : BitVec 6) (a : BitVec 6) (x : BitVec 6) (sc : BitVec 3) (off : BitVec 24)
  /-- VLDX (R188). -/
  | vldx (p : Pred) (d : BitVec 6) (a : BitVec 6) (x : BitVec 6) (sc : BitVec 3) (off : BitVec 24)
  /-- VST (R188). -/
  | vst (p : Pred) (d : BitVec 6) (a : BitVec 6) (x : BitVec 6) (sc : BitVec 3) (off : BitVec 24)
  /-- VSTS (R188). -/
  | vsts (p : Pred) (d : BitVec 6) (a : BitVec 6) (x : BitVec 6) (sc : BitVec 3) (off : BitVec 24)
  /-- VSTX (R188). -/
  | vstx (p : Pred) (d : BitVec 6) (a : BitVec 6) (x : BitVec 6) (sc : BitVec 3) (off : BitVec 24)
  /-- VSTNT (R226). -/
  | vstnt (p : Pred) (d : BitVec 6) (a : BitVec 6) (x : BitVec 6) (sc : BitVec 3) (off : BitVec 24)
  /-- VSTCMB (R227). -/
  | vstcmb (p : Pred) (d : BitVec 6) (a : BitVec 6) (x : BitVec 6) (t : BitVec 4) (sc : BitVec 3) (ms : BitVec 3) (off : BitVec 24)
  /-- TXIN (R154). -/
  | txin (p : Pred) (a : BitVec 6)
  /-- TXOUT (R154). -/
  | txout (p : Pred) (d : BitVec 6)
  /-- TXCLR (R154). -/
  | txclr (p : Pred)
  /-- VACCRD (R152). -/
  | vaccrd (p : Pred) (d : BitVec 6) (c : BitVec 6) (a : BitVec 6) (col : BitVec 8)
  /-- VACCWR (R152). -/
  | vaccwr (p : Pred) (d : BitVec 6) (b : BitVec 6) (a : BitVec 6) (col : BitVec 8)
  /-- VSPILL (R153). -/
  | vspill (p : Pred) (d : BitVec 6) (a : BitVec 6) (x : BitVec 6) (sc : BitVec 3) (off : BitVec 24)
  /-- VFILL (R153). -/
  | vfill (p : Pred) (d : BitVec 6) (a : BitVec 6) (x : BitVec 6) (sc : BitVec 3) (off : BitVec 24)
  /-- MMA (R147). -/
  | mma (p : Pred) (d : BitVec 6) (ta : BitVec 4) (tb : BitVec 4)
  /-- MZERO (R148). -/
  | mzero (p : Pred) (d : BitVec 6) (mask : BitVec 16)
  /-- MLOAD (R149). -/
  | mload (p : Pred) (d : BitVec 6) (c : BitVec 6) (a : BitVec 6) (b : BitVec 6) (t : BitVec 4) (nrow : BitVec 7) (ncol : BitVec 7)
  /-- MSTORE (R150). -/
  | mstore (p : Pred) (d : BitVec 6) (c : BitVec 6) (a : BitVec 6) (b : BitVec 6) (t : BitVec 4) (tt : BitVec 4) (nrow : BitVec 7) (ncol : BitVec 7)
  /-- MSETP (R151). -/
  | msetp (p : Pred) (c : BitVec 6) (a : BitVec 6)
  /-- MGETP (R151). -/
  | mgetp (p : Pred) (d : BitVec 6) (c : BitVec 6)
  /-- SEAL (R180). -/
  | seal (p : Pred) (d : BitVec 6) (a : BitVec 6) (b : BitVec 6)
  /-- SEAL_ACC (R180). -/
  | sealAcc (p : Pred) (d : BitVec 6) (c : BitVec 6)
  /-- SCHECK (R180). -/
  | scheck (p : Pred) (d : BitVec 6) (a : BitVec 6) (b : BitVec 6) (c : BitVec 6)
  /-- SCHECK_ACC (R180). -/
  | scheckAcc (p : Pred) (d : BitVec 6) (c : BitVec 6) (a : BitVec 6)
  /-- SFIX (R180). -/
  | sfix (p : Pred) (d : BitVec 6) (a : BitVec 6) (b : BitVec 6) (c : BitVec 6)
  /-- SFIX_ACC (R180). -/
  | sfixAcc (p : Pred) (d : BitVec 6) (c : BitVec 6) (a : BitVec 6)
  /-- SQUERY (R180). -/
  | squery (p : Pred) (d : BitVec 6) (a : BitVec 6) (b : BitVec 6)
  /-- SQUERY_ACC (R180). -/
  | squeryAcc (p : Pred) (d : BitVec 6) (c : BitVec 6) (b : BitVec 6)
  /-- CPY (R240). -/
  | cpy (p : Pred) (d : BitVec 6) (a : BitVec 6) (b : BitVec 6) (c : BitVec 6)
  /-- CPY2 (R241). -/
  | cpy2 (p : Pred) (d : BitVec 6) (a : BitVec 6) (b : BitVec 6) (c : BitVec 6) (rows : BitVec 10) (rlen : BitVec 10)
  /-- CPYQ_IN (R242). -/
  | cpyqIn (p : Pred) (d : BitVec 6) (c : BitVec 6) (a : BitVec 6) (b : BitVec 6) (stride : BitVec 20)
  /-- CPYQ_OUT (R242). -/
  | cpyqOut (p : Pred) (d : BitVec 6) (c : BitVec 6) (a : BitVec 6) (b : BitVec 6) (stride : BitVec 20)
  /-- CPYMC (R243). -/
  | cpymc (p : Pred) (d : BitVec 6) (a : BitVec 6) (b : BitVec 6) (c : BitVec 6) (clusters : BitVec 8) (cores : BitVec 8) (dom : BitVec 3)
  /-- CPYCRC (R244). -/
  | cpycrc (p : Pred) (d : BitVec 6) (a : BitVec 6) (b : BitVec 6) (c : BitVec 6)
  /-- CPYCRC_CHK (R244). -/
  | cpycrcChk (p : Pred) (d : BitVec 6) (b : BitVec 6) (c : BitVec 6)
  /-- TWAIT (R233). -/
  | twait (p : Pred) (d : BitVec 6) (tl : BitVec 3) (a : BitVec 6)
  /-- TWAIT_IMM (R246). -/
  | twaitImm (p : Pred) (d : BitVec 6) (tl : BitVec 3) (n : BitVec 20)
  /-- TREAD_CNT (R247). -/
  | treadCnt (p : Pred) (d : BitVec 6) (tl : BitVec 3)
  /-- TREAD_ISS (R247). -/
  | treadIss (p : Pred) (d : BitVec 6) (tl : BitVec 3)
  /-- TREAD_STOP (R247). -/
  | treadStop (p : Pred) (d : BitVec 6) (tl : BitVec 3)
  /-- TREAD_RETIRE (R236). -/
  | treadRetire (p : Pred) (d : BitVec 6) (tl : BitVec 3)
  /-- TREAD_PROG (R238). -/
  | treadProg (p : Pred) (d : BitVec 6)
  /-- TREAD_CRC (R244). -/
  | treadCrc (p : Pred) (d : BitVec 6)
  /-- ATOM (R249). -/
  | atom (p : Pred) (d : BitVec 6) (a : BitVec 6) (b : BitVec 6) (c : BitVec 6) (code : BitVec 4)
  /-- REL (R228). -/
  | rel (p : Pred) (d : BitVec 6)
  /-- ACQ (R229). -/
  | acq (p : Pred) (d : BitVec 6) (a : BitVec 6) (b : BitVec 6)
  /-- ACQ_CUR (R229). -/
  | acqCur (p : Pred) (d : BitVec 6) (a : BitVec 6)
  /-- PHASE (R216). -/
  | phase (p : Pred) (d : BitVec 6)
  /-- NTDRAIN (R223). -/
  | ntdrain (p : Pred) (d : BitVec 6)
  /-- LOGSTAT_PUB (R231). -/
  | logstatPub (p : Pred) (d : BitVec 6)
  /-- LOGSTAT_TAIL (R231). -/
  | logstatTail (p : Pred) (d : BitVec 6)
  /-- LOGSTAT_FREE (R231). -/
  | logstatFree (p : Pred) (d : BitVec 6)
  /-- LOGSTAT_VIEW (R231). -/
  | logstatView (p : Pred) (d : BitVec 6)
  /-- LOGSTAT_MEMBERS (R231). -/
  | logstatMembers (p : Pred) (d : BitVec 6)
  /-- LOGSTAT_SELF (R231). -/
  | logstatSelf (p : Pred) (d : BitVec 6)
  /-- LOGSTAT_CURSOR (R231). -/
  | logstatCursor (p : Pred) (d : BitVec 6) (a : BitVec 6)
  /-- LOGSTAT_RBLD (R231). -/
  | logstatRbld (p : Pred) (d : BitVec 6)
  /-- FBUILD (R339). -/
  | fbuild (p : Pred) (a : BitVec 6) (b : BitVec 6) (c : BitVec 6) (opts : BitVec 5) (tpl : BitVec 8) (clen : BitVec 9)
  /-- FSEND (R340). -/
  | fsend (p : Pred) (d : BitVec 6)
  /-- DWAIT (R341). -/
  | dwait (p : Pred) (d : BitVec 6) (a : BitVec 6) (dq : BitVec 3)
  /-- DREAD_CNT (R342). -/
  | dreadCnt (p : Pred) (d : BitVec 6) (dq : BitVec 3)
  /-- DREAD_CONS (R342). -/
  | dreadCons (p : Pred) (d : BitVec 6) (dq : BitVec 3)
  /-- DREAD_DESC0 (R342). -/
  | dreadDesc0 (p : Pred) (d : BitVec 6) (dq : BitVec 3)
  /-- DREAD_DESC1 (R342). -/
  | dreadDesc1 (p : Pred) (d : BitVec 6) (dq : BitVec 3)
  /-- DREAD_NUM (R342). -/
  | dreadNum (p : Pred) (d : BitVec 6) (dq : BitVec 3)
  /-- FRECV (R343). -/
  | frecv (p : Pred) (d : BitVec 6) (dq : BitVec 3)
  /-- FRECV_PEEK (R343). -/
  | frecvPeek (p : Pred) (d : BitVec 6) (dq : BitVec 3)
  /-- CSLOT_ALLOC (R344). -/
  | cslotAlloc (p : Pred) (d : BitVec 6) (a : BitVec 6) (b : BitVec 6) (c : BitVec 6) (code : BitVec 4) (tpl : BitVec 8)
  /-- CSLOT_FREE (R344). -/
  | cslotFree (p : Pred) (d : BitVec 6) (a : BitVec 6) (b : BitVec 6) (c : BitVec 6) (tpl : BitVec 8)
  /-- CSLOT_READ (R344). -/
  | cslotRead (p : Pred) (d : BitVec 6) (a : BitVec 6) (b : BitVec 6) (c : BitVec 6) (tpl : BitVec 8)
  /-- SWOPEN (R364). -/
  | swopen (p : Pred) (d : BitVec 6) (a : BitVec 6) (b : BitVec 6) (c : BitVec 6) (id : BitVec 6) (expect : BitVec 12)
  /-- SWSUB (R352). -/
  | swsub (p : Pred) (d : BitVec 6) (a : BitVec 6) (b : BitVec 6) (c : BitVec 6) (id : BitVec 6) (q : BitVec 4)
  /-- SWMERGE (R365). -/
  | swmerge (p : Pred) (d : BitVec 6) (a : BitVec 6) (b : BitVec 6) (c : BitVec 6) (id : BitVec 6)
  /-- SWREAD (R366). -/
  | swread (p : Pred) (d : BitVec 6) (a : BitVec 6) (id : BitVec 6)
  /-- SWCLOSE (R367). -/
  | swclose (p : Pred) (d : BitVec 6) (c : BitVec 6) (id : BitVec 6)
  /-- LAUNCH (R295). -/
  | launch (p : Pred) (d : BitVec 6) (a : BitVec 6) (c : BitVec 6)
  /-- MPOST_LAUNCH (R296). -/
  | mpostLaunch (p : Pred) (d : BitVec 6) (a : BitVec 6) (b : BitVec 6) (c : BitVec 6)
  /-- MPOST_MSG (R296). -/
  | mpostMsg (p : Pred) (d : BitVec 6) (a : BitVec 6) (b : BitVec 6) (c : BitVec 6)
  /-- CTXSAVE (R432). -/
  | ctxsave (p : Pred) (a : BitVec 6) (groups : BitVec 10)
  /-- CTXSAVE_SR (R432). -/
  | ctxsaveSr (p : Pred) (groups : BitVec 10)
  /-- CTXRSTR (R433). -/
  | ctxrstr (p : Pred) (a : BitVec 6) (groups : BitVec 10)
  /-- CTXRSTR_SR (R433). -/
  | ctxrstrSr (p : Pred) (groups : BitVec 10)
  /-- Landing operation KILL (R315). -/
  | kill
  /-- Landing operation PUSHI (R305). -/
  | pushi (i : BitVec 10)
  /-- Landing operation PUSHH (R305). -/
  | pushh (k : BitVec 2)
  /-- Landing operation POPH (R305). -/
  | poph (k : BitVec 3)
  /-- Landing operation DUP (R305). -/
  | dup (k : BitVec 2)
  /-- Landing operation SWAP (R305). -/
  | swap
  /-- Landing operation FERRY_ADD (R305). -/
  | ferryAdd
  /-- Landing operation FERRY_SUB (R305). -/
  | ferrySub
  /-- Landing operation FERRY_AND (R305). -/
  | ferryAnd
  /-- Landing operation FERRY_OR (R305). -/
  | ferryOr
  /-- Landing operation FERRY_XOR (R305). -/
  | ferryXor
  /-- Landing operation FERRY_MIN (R306). -/
  | ferryMin (f : BitVec 1)
  /-- Landing operation FERRY_MAX (R306). -/
  | ferryMax (f : BitVec 1)
  /-- Landing operation AMAX (R306). -/
  | amax
  /-- Landing operation EQ (R305). -/
  | eq (z : BitVec 1)
  /-- Landing operation LT (R305). -/
  | lt (u : BitVec 1)
  /-- Landing operation JZ (R305). -/
  | jz (k : BitVec 4)
  /-- Landing operation JMP (R305). -/
  | jmp (k : BitVec 4)
  /-- Landing operation LDW_IMM (R307). -/
  | ldwImm (i : BitVec 9)
  /-- Landing operation LDW (R307). -/
  | ldw
  /-- Landing operation ADDW_IMM (R307). -/
  | addwImm (i : BitVec 5) (c : BitVec 4)
  /-- Landing operation ADDW (R307). -/
  | addw (c : BitVec 4)
  /-- Landing operation CMB (R318). -/
  | cmb
  /-- Landing operation CTR (R308). -/
  | ctr (k : BitVec 4)
  /-- Landing operation CTR_INC (R308). -/
  | ctrInc (k : BitVec 4)
  /-- Landing operation NODE (R309). -/
  | node (m : BitVec 3)
  /-- Landing operation HOPS (R305). -/
  | hops (s : BitVec 1)
  /-- Landing operation LOADQ (R309). -/
  | loadq (k : BitVec 3)
  /-- Landing operation CRD (R310). -/
  | crd (k : BitVec 6)
  /-- Landing operation CWR (R310). -/
  | cwr (k : BitVec 6)
  /-- Landing operation CLONE (R311). -/
  | clone
  /-- Landing operation GO (R312). -/
  | go (port : BitVec 3)
  /-- Landing operation GODST (R313). -/
  | godst
  /-- Landing operation DLVR (R314). -/
  | dlvr
  /-- Landing operation PARK (R315). -/
  | park
  /-- Step CSP_WRITE (R12). -/
  | cspWrite (cluster : BitVec 6) (v : BitVec 64)
  /-- Step LTT_COMMIT (R183). -/
  | lttCommit (core : BitVec 9) (hi : BitVec 64)
  /-- Step LOGC_WRITE (R211). -/
  | logcWrite (core : BitVec 9) (v : BitVec 64)
  /-- Step LOGX_WRITE (R211). -/
  | logxWrite (core : BitVec 9) (v : BitVec 64)
  /-- Step TLBI_WRITE (R201). -/
  | tlbiWrite (part : BitVec 6) (v : BitVec 64)
  /-- Step SMPC_WRITE (R453). -/
  | smpcWrite (core : BitVec 9) (v : BitVec 64)
  /-- Step SMPT_WRITE (R454). -/
  | smptWrite (core : BitVec 9) (v : BitVec 64)
  /-- Step TMR_WRITE (R456). -/
  | tmrWrite (core : BitVec 9) (ctx : BitVec 2) (v : BitVec 64)
  /-- Step PCSEL_WRITE (R459). -/
  | pcselWrite (part : BitVec 6) (k : BitVec 4) (v : BitVec 64)
  /-- Step MAILBOX_REGISTER (R277). -/
  | mailboxRegister (num : BitVec 12) (desc : BitVec 256)
  /-- Step OWNERSHIP_TABLE_WRITE (R202). -/
  | ownershipTableWrite (part : BitVec 6) (idx : BitVec 8) (entry : BitVec 128)
  /-- Step CXL_MEM_WRITE (R465). -/
  | cxlMemWrite (addr : BitVec 48) (data : BitVec 512) (en : BitVec 64)
  /-- Step CXL_MEM_READ (R465). -/
  | cxlMemRead (addr : BitVec 48)
  /-- Step LAUNCH_ACCEPT (R279). -/
  | launchAccept (mbox : BitVec 12)
  /-- Step FAULT_REPLY (R204). -/
  | faultReply (reply : BitVec 64)
  /-- Step FAULT_REPLY_TIMEOUT (R204). -/
  | faultReplyTimeout (fid : BitVec 64)
  /-- Step CACK_WRITE (R283). -/
  | cackWrite (mbox : BitVec 12) (v : BitVec 32)
  /-- Step BAR0_WRITE_DISCARDED (R463). -/
  | bar0WriteDiscarded (off : BitVec 20) (data : BitVec 64)
  /-- Step COMPLETION_WRITE (R283). -/
  | completionWrite (mbox : BitVec 12)
  /-- Step SCHEDULE_DECISION (R289). -/
  | scheduleDecision (part : BitVec 6)
  /-- Step ENERGY_CHARGE (R290). -/
  | energyCharge (part : BitVec 6) (lid : BitVec 64) (uj : BitVec 32)
  /-- Step AGING_PROMOTE (R291). -/
  | agingPromote (part : BitVec 6) (lid : BitVec 64)
  /-- Step TORUS_MEMBER_REPORT (R288). -/
  | torusMemberReport (part : BitVec 6) (lid : BitVec 64) (node : BitVec 15) (report : MemberReport)
  /-- Step TORUS_MEMBER_TIMEOUT (R288). -/
  | torusMemberTimeout (part : BitVec 6) (lid : BitVec 64)
  /-- Step RESIDENCY_LIMIT (R19). -/
  | residencyLimit (core : BitVec 9)
  /-- Step OVERDUE_RESULT (R256). -/
  | overdueResult (core : BitVec 9) (ctx : BitVec 2)
  /-- Step TIMER_EXPIRE (R456). -/
  | timerExpire (core : BitVec 9) (ctx : BitVec 2)
  /-- Step LOG_FULL (R221). -/
  | logFull (core : BitVec 9) (ctx : BitVec 2)
  /-- Step PREEMPT_DIVERT (R419). -/
  | preemptDivert (core : BitVec 9) (ctx : BitVec 2)
  /-- Step FULL_SAVE (R421). -/
  | fullSave (core : BitVec 9) (ctx : BitVec 2)
  /-- Step STUB_ABANDON (R420). -/
  | stubAbandon (core : BitVec 9) (ctx : BitVec 2)
  /-- Step GROUP_SAVE (R422). -/
  | groupSave (core : BitVec 9) (part : BitVec 6) (lid : BitVec 64) (grp : BitVec 32)
  /-- Step CONTEXT_RESTORE (R417). -/
  | contextRestore (core : BitVec 9) (ctx : BitVec 2)
  /-- Step EXIT_DRAIN_END (R275). -/
  | exitDrainEnd (core : BitVec 9) (ctx : BitVec 2)
  /-- Step FENCE_I_DONE (R272). -/
  | fenceIDone (core : BitVec 9)
  /-- Step COPY_COMPLETE (R232). -/
  | copyComplete (core : BitVec 9) (ctx : BitVec 2)
  /-- Step NT_STORE_PERFORM (R223). -/
  | ntStorePerform (core : BitVec 9)
  /-- Step SEGMENT_PUBLISH (R215). -/
  | segmentPublish (core : BitVec 9)
  /-- Step PHASE_COMPLETE (R216). -/
  | phaseComplete (part : BitVec 6) (lid : BitVec 64) (grp : BitVec 32)
  /-- Step MMA_ROW_COMMIT (R141). -/
  | mmaRowCommit (core : BitVec 9)
  /-- Step MATRIX_COMPLETE (R147). -/
  | matrixComplete (core : BitVec 9)
  /-- Step SUBNORMAL_ASSIST (R140). -/
  | subnormalAssist (core : BitVec 9)
  /-- Step LOCKSTEP_SELFTEST (R436). -/
  | lockstepSelftest (cluster : BitVec 6) (pass : Bool)
  /-- Step ATOM_HOME (R249). -/
  | atomHome (core : BitVec 9) (ctx : BitVec 2)
  /-- Step ATOM_REPLY (R249). -/
  | atomReply (core : BitVec 9) (ctx : BitVec 2)
  /-- Step ATOM_RETRANSMIT (R250). -/
  | atomRetransmit (core : BitVec 9) (ctx : BitVec 2)
  /-- Step SWEEP_PAGE_OFFER (R354). -/
  | sweepPageOffer (dom : BitVec 3)
  /-- Step SWEEP_CATCHUP_PASS (R355). -/
  | sweepCatchupPass (dom : BitVec 3)
  /-- Step FERRY_RECEIVE (R301). -/
  | ferryReceive (port : BitVec 3) (x : Inbound)
  /-- Step LANDING_START (R303). -/
  | landingStart
  /-- Step MOORING_RELAND (R329). -/
  | mooringReland
  /-- Step ESCAPE_TIMEOUT (R322). -/
  | escapeTimeout (port : BitVec 3)
  /-- Step COMBINE_SLOT_TIMEOUT (R319). -/
  | combineSlotTimeout (slot : BitVec 13)
  /-- Step REACHABILITY_NOTICE (R445). -/
  | reachabilityNotice (node : FarPort) (live : Bool)
  /-- Step FRAME_RECEIVE (R389). -/
  | frameReceive (port : BitVec 3) (link : BitVec 2) (counter : BitVec 64) (tagOk : Bool) (ferries : FrameLoad)
  /-- Step FRAME_CLOSE (R385). -/
  | frameClose (port : BitVec 3) (link : BitVec 2)
  /-- Step VERDICT_MARK (R388). -/
  | verdictMark (port : BitVec 3) (f : Ferry) (poisoned : Bool)
  /-- Step RETRY_REQUEST (R438). -/
  | retryRequest (port : BitVec 3) (link : BitVec 2) (counter : BitVec 64)
  /-- Step LINK_ACK (R438). -/
  | linkAck (port : BitVec 3) (link : BitVec 2) (counter : BitVec 64)
  /-- Step ACK_TIMEOUT (R444). -/
  | ackTimeout (port : BitVec 3) (link : BitVec 2)
  /-- Step REKEY_START (R387). -/
  | rekeyStart (port : BitVec 3) (link : BitVec 2)
  /-- Step REKEY_DEADLINE (R387). -/
  | rekeyDeadline (port : BitVec 3) (link : BitVec 2)
  /-- Step LANE_FAULT (R443). -/
  | laneFault (port : BitVec 3) (link : BitVec 2) (lane : BitVec 2)
  /-- Step LINK_TRAIN_DONE (R443). -/
  | linkTrainDone (port : BitVec 3) (link : BitVec 2) (ok : Bool)
  /-- Step LINK_KEYED (R443). -/
  | linkKeyed (port : BitVec 3) (link : BitVec 2) (ok : Bool)
  /-- Step SLICE_SCRUB (R441). -/
  | sliceScrub (core : BitVec 9) (word : ScrubWord) (err : MemError)
  /-- Step HBM_SCRUB (R441). -/
  | hbmScrub (granule : BitVec 34) (err : MemError)
  /-- Step HBM_ROW_SPARE (R442). -/
  | hbmRowSpare (granule : BitVec 34) (spareLeft : Bool)
  /-- Step COLD_RESET (R446). -/
  | coldReset
  /-- Step START_STAGE_DONE (R446). -/
  | startStageDone (digest : BitVec 384)
  /-- Step START_STAGE_TIMEOUT (R446). -/
  | startStageTimeout (reason : BitVec 8)
  /-- Step CLOCK_THROTTLE (R469). -/
  | clockThrottle (down : Bool)
  /-- Step THERMAL_TRIP (R469). -/
  | thermalTrip
  /-- Step MGMT_LINK_LOSS (R467). -/
  | mgmtLinkLoss
  /-- Step PTP_MESSAGE (R457). -/
  | ptpMessage (offset : BitVec 64)
  /-- Step SAMPLE_TICK (R454). -/
  | sampleTick (core : BitVec 9)
  /-- Step COUNTER_ROTATE (R460). -/
  | counterRotate (part : BitVec 6) (counts : List (BitVec 64)) (ns : BitVec 64)
  /-- Step SCSTOP (R461). -/
  | scstop (stop : StopAt)
  /-- Step SCRESUME (R461). -/
  | scresume (res : ResumeWith)
  /-- Step PART_WRITE (R376). -/
  | partWrite (r : MgmtReq) (entry : BitVec 16) (image : List Byte)
  /-- Step FREEZE_CLEAR (R383). -/
  | freezeClear (r : MgmtReq) (entry : BitVec 16) (action : Byte)
  /-- Step ELOG_READ (R440). -/
  | elogRead (r : MgmtReq) (ring first count : BitVec 16)
  /-- Step PORT_ENABLE (R466). -/
  | portEnable (r : MgmtReq) (port mode : Byte)
  /-- Step LINK_RESET (R466). -/
  | linkReset (r : MgmtReq) (lid : BitVec 32)
  /-- Step IMAGE_LOAD (R466). -/
  | imageLoad (r : MgmtReq) (slot : Byte) (piece : List Byte)
  /-- Step MINIMAL_CLEAR (R447). -/
  | minimalClear (r : MgmtReq)
  /-- Step PART_SWAP_OUT (R466). -/
  | partSwapOut (r : MgmtReq) (entry : BitVec 16)
  /-- Step PART_SWAP_IN (R466). -/
  | partSwapIn (r : MgmtReq) (entry : BitVec 16)
  /-- Step PART_DESTROY (R466). -/
  | partDestroy (r : MgmtReq) (entry : BitVec 16)
  /-- Step OWNER_SET (R392). -/
  | ownerSet (r : MgmtReq) (key : BitVec 768)
  /-- Step KEY_LOAD (R391). -/
  | keyLoad (r : MgmtReq) (slot : BitVec 16) (key : Option (BitVec 768))
  /-- Step GET_VERSION (R393). -/
  | getVersion
  /-- Step GET_CAPABILITIES (R393). -/
  | getCapabilities
  /-- Step NEGOTIATE_ALGORITHMS (R393). -/
  | negotiateAlgorithms (supported : SpdmOffer)
  /-- Step GET_DIGESTS (R393). -/
  | getDigests
  /-- Step GET_CERTIFICATE (R393). -/
  | getCertificate (slot : Byte)
  /-- Step CHALLENGE (R393). -/
  | challenge (slot : Byte) (nonce : BitVec 256)
  /-- Step GET_MEASUREMENTS (R393). -/
  | getMeasurements (block : Byte)
  /-- Step KEY_EXCHANGE (R392). -/
  | keyExchange (reqSession : BitVec 16) (random : BitVec 256)
  /-- Step FINISH (R392). -/
  | finish (sid : BitVec 32) (verified : Bool)
  /-- Step KEY_UPDATE (R393). -/
  | keyUpdate (sid : BitVec 32)
  /-- Step END_SESSION (R393). -/
  | endSession (sid : BitVec 32)
  /-- Step GET_ENCAPSULATED_REQUEST (R393). -/
  | getEncapsulatedRequest (sid : BitVec 32)
  /-- Step DELIVER_ENCAPSULATED_RESPONSE (R393). -/
  | deliverEncapsulatedResponse (sid : BitVec 32) (leafKey : BitVec 768) (verified : Bool)
  /-- Step SPDM_UNSUPPORTED (R393). -/
  | spdmUnsupported (code : Byte)
  /-- Step DOE_UNSUPPORTED (R462). -/
  | doeUnsupported (obj : DoeObject)
  /-- Step DEBUG_NONCE (R396). -/
  | debugNonce (nonce : BitVec 384)
  /-- Step DEBUG_TOKEN (R396). -/
  | debugToken (token : BitVec 1408)
  /-- Step FETCH_TRAP (R53). -/
  | fetchTrap (core : BitVec 9)
  /-- Step MOORED_FAULT_SERVICE (R329). -/
  | mooredFaultService (entry : BitVec 14) (reland : Bool)
  /-- Step HOLD_SIGNAL (R320). -/
  | holdSignal (port : BitVec 3) (lane : BitVec 2) (hold : Bool)
  /-- Step STATUS_TIME_UPDATE (R448). -/
  | statusTimeUpdate (ns : BitVec 64)
  /-- Step MGMT_REQUEST_REJECT (R466). -/
  | mgmtRequestReject (r : MgmtReq) (opc : BitVec 16) (kind : RejectKind)
deriving DecidableEq, Repr

end Sys2Proof
end

