-- ==== Sys2Proof/WellFormed.lean ====
section
/-! DEFINITION. Which instructions are legal: the reserved values of 02 R39, R45, R46, R51 and R52, with the REASON
number that SYS.FIS reports for each (02 R60), and the reserved operands of the landing operations (12 R300, R305). -/

namespace Sys2Proof

/-- A header whose PI is 24-30, or whose PI is 31 with PN set, is reserved (02 R39). -/
def Pred.ok (p : Pred) : Bool :=
  decide (p.pi.toNat < 24) || (p.pi.toNat == 31 && !p.pn)

/-- Type codes 0-6 and 8-13: the sides of FCVT (04 R109). -/
def cvtType (t : Nat) : Bool := decide (t ≤ 6) || (decide (8 ≤ t) && decide (t ≤ 13))

/-- FCVT's accepted pairs: R90 converts to .T2 only from .S8 and .T2 (03 R90, 04 R109). -/
def fcvtPair (ts td : Nat) : Bool := cvtType td && (td != 13 || ts == 0 || ts == 13)

/-- The element types of VFCVT (04 R125). -/
def vcvtType (t : Nat) : Bool := decide (t ≤ 5) || (decide (8 ≤ t) && decide (t ≤ 12))

/-- VFCVT accepts no pair of two integer types (04 R125). -/
def vcvtPair (ts td : Nat) : Bool := vcvtType td && !(decide (ts ≤ 5) && decide (td ≤ 5))

/-- The types that VQUANT writes and VDEQ reads (04 R126). -/
def scaledType (t : Nat) : Bool := decide (t ≤ 5) || (decide (9 ≤ t) && decide (t ≤ 12))

/-- The element width of a type code in bits (02 R46). -/
def typeWidth (t : Nat) : Nat :=
  match t with
  | 0 | 1 | 11 | 12 => 8
  | 2 | 3 | 9 | 10 => 16
  | 4 | 5 | 8 => 32
  | 6 | 7 => 64
  | 13 => 2
  | _ => 32

/-- The part number of a width-changing move runs from 0 to the width ratio less one (04 R125). -/
def partOk (ts td part : Nat) : Bool :=
  let ws := typeWidth ts
  let wd := typeWidth td
  decide (part < (if ws ≥ wd then ws / wd else wd / ws))

/-- VRED's operation and type pairs (04 R128). -/
def vredPair (op t : Nat) : Bool :=
  match op with
  | 0 | 1 | 2 => t == 4 || t == 5 || t == 8
  | 3 => t == 8
  | 4 | 5 => t == 5
  | _ => t == 4 || t == 5 || t == 8

/-- The combining code that MS and T of a combining store name (08 R227). -/
def stcmbCode (ms t : Nat) (scalar : Bool) : Option Nat :=
  match ms, t with
  | 0, 4 => some 0
  | 0, 6 => if scalar then some 1 else none
  | 0, 8 => some 2
  | 1, 4 => some 3
  | 1, 8 => some 5
  | 2, 4 => some 4
  | 2, 8 => some 6
  | 3, 8 => some 7
  | 4, 5 => some 8
  | 5, 5 => some 9
  | 6, 5 => some 10
  | _, _ => none

/-- Whether a combining store takes the type: with its MS, or with some MS where MS is reserved (02 R60, 08 R227). -/
def stcmbType (ms t : Nat) (scalar : Bool) : Bool :=
  if ms < 7 then (stcmbCode ms t scalar).isSome else t == 4 || t == 5 || t == 8 || (t == 6 && scalar)

/-- MMA's accepted operand type pairs (05 R136). -/
def mmaPair (ta tb : Nat) : Bool :=
  (ta == 8 && tb == 8) || (ta == 9 && tb == 9) || (ta == 10 && tb == 10) ||
  ((ta == 11 || ta == 12) && (tb == 11 || tb == 12)) ||
  ((ta == 0 || ta == 1) && (tb == 0 || tb == 1 || tb == 13)) ||
  (ta == 13 && (tb == 0 || tb == 1))

/-- The number of the first failing check, or 0. The checks stand in ascending REASON order (02 R60). -/
def firstFail : List (Nat × Bool) → Nat
  | [] => 0
  | (n, ok) :: rest => if ok then firstFail rest else n

/-- The lowest REASON of 02 R60 that makes the instruction's own fields illegal, 0 when none does. A landing
operation with a reserved operand answers 7: its execution is the fault ILLEGAL (12 R300). -/
def Instr.reason : Instr → Nat
  | .nop => 0
  | .bprep p bt _ => firstFail [(3, p.ok), (5, decide (bt.toNat < 8))]
  | .bpreps p bt _ => firstFail [(3, p.ok), (5, decide (bt.toNat < 8))]
  | .br p bt => firstFail [(3, p.ok), (5, decide (bt.toNat < 8))]
  | .brl p bt _ => firstFail [(3, p.ok), (5, decide (bt.toNat < 8))]
  | .banksw p pd bt => firstFail [(3, p.ok), (5, decide (pd.toNat < 24)), (5, decide (bt.toNat < 8))]
  | .loop p lx _ _ => firstFail [(3, p.ok), (5, decide (lx.toNat < 4))]
  | .lbrk p lx => firstFail [(3, p.ok), (5, decide (lx.toNat < 4))]
  | .vany p pd ps => firstFail [(3, p.ok), (5, decide (pd.toNat < 24)), (5, decide (ps.toNat < 24))]
  | .vall p pd ps => firstFail [(3, p.ok), (5, decide (pd.toNat < 24)), (5, decide (ps.toNat < 24))]
  | .setfmt p _ _ => firstFail [(3, p.ok)]
  | .setfmtScalar p _ _ => firstFail [(3, p.ok)]
  | .fenceI p pd bank => firstFail [(3, p.ok), (5, decide (pd.toNat < 24)), (9, decide (bank.toNat ≠ 3))]
  | .yield p => firstFail [(3, p.ok)]
  | .exit p => firstFail [(3, p.ok)]
  | .trap p _ => firstFail [(3, p.ok)]
  | .eret p => firstFail [(3, p.ok)]
  | .crgnOpen p bt _ => firstFail [(3, p.ok), (5, decide (bt.toNat < 8))]
  | .crgnClose p => firstFail [(3, p.ok)]
  | .chkerr p _ pd _ => firstFail [(3, p.ok), (5, decide (pd.toNat < 24))]
  | .pmark p _ => firstFail [(3, p.ok)]
  | .add p _ _ _ t => firstFail [(3, p.ok), (6, (decide (t.toNat ≤ 7)))]
  | .sub p _ _ _ t => firstFail [(3, p.ok), (6, (decide (t.toNat ≤ 7)))]
  | .and p _ _ _ t => firstFail [(3, p.ok), (6, (decide (t.toNat ≤ 7)))]
  | .or p _ _ _ t => firstFail [(3, p.ok), (6, (decide (t.toNat ≤ 7)))]
  | .xor p _ _ _ t => firstFail [(3, p.ok), (6, (decide (t.toNat ≤ 7)))]
  | .andn p _ _ _ t => firstFail [(3, p.ok), (6, (decide (t.toNat ≤ 7)))]
  | .shl p _ _ _ t => firstFail [(3, p.ok), (6, (decide (t.toNat ≤ 7)))]
  | .shr p _ _ _ t => firstFail [(3, p.ok), (6, (decide (t.toNat ≤ 7)))]
  | .rotl p _ _ _ t => firstFail [(3, p.ok), (6, (decide (t.toNat ≤ 7)))]
  | .min p _ _ _ t => firstFail [(3, p.ok), (6, (decide (t.toNat ≤ 7)))]
  | .max p _ _ _ t => firstFail [(3, p.ok), (6, (decide (t.toNat ≤ 7)))]
  | .mul p _ _ _ t => firstFail [(3, p.ok), (6, (decide (t.toNat ≤ 7)))]
  | .mulh p _ _ _ t => firstFail [(3, p.ok), (6, (decide (t.toNat ≤ 7)))]
  | .div p _ _ _ t => firstFail [(3, p.ok), (6, (decide (t.toNat ≤ 7)))]
  | .rem p _ _ _ t => firstFail [(3, p.ok), (6, (decide (t.toNat ≤ 7)))]
  | .shra p _ _ _ t => firstFail [(3, p.ok), (6, (t.toNat == 0 || t.toNat == 2 || t.toNat == 4 || t.toNat == 6))]
  | .clz p _ _ t => firstFail [(3, p.ok), (6, (decide (t.toNat ≤ 7)))]
  | .ctz p _ _ t => firstFail [(3, p.ok), (6, (decide (t.toNat ≤ 7)))]
  | .popc p _ _ t => firstFail [(3, p.ok), (6, (decide (t.toNat ≤ 7)))]
  | .sext p _ _ t => firstFail [(3, p.ok), (6, (t.toNat == 0 || t.toNat == 2 || t.toNat == 4))]
  | .zext p _ _ t => firstFail [(3, p.ok), (6, (t.toNat == 1 || t.toNat == 3 || t.toNat == 5))]
  | .addsh p _ _ _ k t => firstFail [(3, p.ok), (6, (decide (t.toNat ≤ 7))), (7, (decide (k.toNat ≤ 7)))]
  | .sel p _ _ _ c => firstFail [(3, p.ok), (5, decide (c.toNat < 24))]
  | .cmp p d _ _ cond t => firstFail [(3, p.ok), (5, decide (d.toNat < 24)), (6, (decide (t.toNat ≤ 7))), (7, (decide (cond.toNat ≤ 5)))]
  | .addi p _ _ t _ => firstFail [(3, p.ok), (6, (decide (t.toNat ≤ 7)))]
  | .andi p _ _ t _ => firstFail [(3, p.ok), (6, (decide (t.toNat ≤ 7)))]
  | .ori p _ _ t _ => firstFail [(3, p.ok), (6, (decide (t.toNat ≤ 7)))]
  | .xori p _ _ t _ => firstFail [(3, p.ok), (6, (decide (t.toNat ≤ 7)))]
  | .shli p _ _ t _ => firstFail [(3, p.ok), (6, (decide (t.toNat ≤ 7)))]
  | .shri p _ _ t _ => firstFail [(3, p.ok), (6, (decide (t.toNat ≤ 7)))]
  | .shrai p _ _ t _ => firstFail [(3, p.ok), (6, (t.toNat == 0 || t.toNat == 2 || t.toNat == 4 || t.toNat == 6))]
  | .movi p _ t _ => firstFail [(3, p.ok), (6, (decide (t.toNat ≤ 7)))]
  | .movhi p _ _ _ => firstFail [(3, p.ok)]
  | .cmpi p d _ cond t _ => firstFail [(3, p.ok), (5, decide (d.toNat < 24)), (6, (decide (t.toNat ≤ 7))), (7, (decide (cond.toNat ≤ 5)))]
  | .fadd p _ _ _ t => firstFail [(3, p.ok), (6, ((decide (8 ≤ t.toNat) && decide (t.toNat ≤ 10))))]
  | .fsub p _ _ _ t => firstFail [(3, p.ok), (6, ((decide (8 ≤ t.toNat) && decide (t.toNat ≤ 10))))]
  | .fmul p _ _ _ t => firstFail [(3, p.ok), (6, ((decide (8 ≤ t.toNat) && decide (t.toNat ≤ 10))))]
  | .ffma p _ _ _ _ t => firstFail [(3, p.ok), (6, ((decide (8 ≤ t.toNat) && decide (t.toNat ≤ 10))))]
  | .fmin p _ _ _ num t => firstFail [(3, p.ok), (6, ((decide (8 ≤ t.toNat) && decide (t.toNat ≤ 10)))), (7, (decide (num.toNat ≤ 1)))]
  | .fmax p _ _ _ num t => firstFail [(3, p.ok), (6, ((decide (8 ≤ t.toNat) && decide (t.toNat ≤ 10)))), (7, (decide (num.toNat ≤ 1)))]
  | .fcmp p d _ _ cond t => firstFail [(3, p.ok), (5, decide (d.toNat < 24)), (6, ((decide (8 ≤ t.toNat) && decide (t.toNat ≤ 10)))), (7, (decide (cond.toNat ≤ 6)))]
  | .fcvt p _ _ ts td => firstFail [(3, p.ok), (6, fcvtPair ts.toNat td.toNat), (7, cvtType ts.toNat)]
  | .fclass p _ _ t => firstFail [(3, p.ok), (6, ((decide (8 ≤ t.toNat) && decide (t.toNat ≤ 12))))]
  | .pand p d a b => firstFail [(3, p.ok), (5, decide (d.toNat < 24)), (5, decide (a.toNat < 24)), (5, decide (b.toNat < 24))]
  | .por p d a b => firstFail [(3, p.ok), (5, decide (d.toNat < 24)), (5, decide (a.toNat < 24)), (5, decide (b.toNat < 24))]
  | .pxor p d a b => firstFail [(3, p.ok), (5, decide (d.toNat < 24)), (5, decide (a.toNat < 24)), (5, decide (b.toNat < 24))]
  | .pandn p d a b => firstFail [(3, p.ok), (5, decide (d.toNat < 24)), (5, decide (a.toNat < 24)), (5, decide (b.toNat < 24))]
  | .pcnt p _ a => firstFail [(3, p.ok), (5, decide (a.toNat < 24))]
  | .pfirst p _ a => firstFail [(3, p.ok), (5, decide (a.toNat < 24))]
  | .movps p d _ => firstFail [(3, p.ok), (5, decide (d.toNat < 24))]
  | .movsp p _ a => firstFail [(3, p.ok), (5, decide (a.toNat < 24))]
  | .movsys p _ _ => firstFail [(3, p.ok)]
  | .setsys p _ _ => firstFail [(3, p.ok)]
  | .ld p _ _ _ t _ _ => firstFail [(3, p.ok), (6, (decide (t.toNat ≤ 12)))]
  | .st p _ _ _ t _ _ => firstFail [(3, p.ok), (6, (decide (t.toNat ≤ 12)))]
  | .stnt p _ _ _ t _ _ => firstFail [(3, p.ok), (6, (decide (t.toNat ≤ 12)))]
  | .stcmb p _ _ _ t _ ms _ => firstFail [(3, p.ok), (6, stcmbType ms.toNat t.toNat true), (7, (stcmbCode ms.toNat t.toNat true).isSome)]
  | .vadd p d _ _ sat t => firstFail [(3, p.ok), (5, decide (d.toNat < 48)), (6, (decide (t.toNat ≤ 5))), (7, (decide (sat.toNat ≤ 1)))]
  | .vsub p d _ _ sat t => firstFail [(3, p.ok), (5, decide (d.toNat < 48)), (6, (decide (t.toNat ≤ 5))), (7, (decide (sat.toNat ≤ 1)))]
  | .vmul p d _ _ t => firstFail [(3, p.ok), (5, decide (d.toNat < 48)), (6, (decide (t.toNat ≤ 5)))]
  | .vmulh p d _ _ t => firstFail [(3, p.ok), (5, decide (d.toNat < 48)), (6, (decide (t.toNat ≤ 5)))]
  | .vshl p d _ _ t => firstFail [(3, p.ok), (5, decide (d.toNat < 48)), (6, (decide (t.toNat ≤ 5)))]
  | .vshr p d _ _ t => firstFail [(3, p.ok), (5, decide (d.toNat < 48)), (6, (decide (t.toNat ≤ 5)))]
  | .vmin p d _ _ t => firstFail [(3, p.ok), (5, decide (d.toNat < 48)), (6, (decide (t.toNat ≤ 5)))]
  | .vmax p d _ _ t => firstFail [(3, p.ok), (5, decide (d.toNat < 48)), (6, (decide (t.toNat ≤ 5)))]
  | .vand p d _ _ => firstFail [(3, p.ok), (5, decide (d.toNat < 48))]
  | .vor p d _ _ => firstFail [(3, p.ok), (5, decide (d.toNat < 48))]
  | .vxor p d _ _ => firstFail [(3, p.ok), (5, decide (d.toNat < 48))]
  | .vshra p d _ _ t => firstFail [(3, p.ok), (5, decide (d.toNat < 48)), (6, (t.toNat == 0 || t.toNat == 2 || t.toNat == 4))]
  | .vabs p d _ sat t => firstFail [(3, p.ok), (5, decide (d.toNat < 48)), (6, (t.toNat == 0 || t.toNat == 2 || t.toNat == 4)), (7, (decide (sat.toNat ≤ 1)))]
  | .vcmp p d _ _ cond t => firstFail [(3, p.ok), (5, decide (d.toNat < 24)), (6, (t.toNat == 4 || t.toNat == 5)), (7, (decide (cond.toNat ≤ 5)))]
  | .vsel p d _ _ c => firstFail [(3, p.ok), (5, decide (d.toNat < 48)), (5, decide (c.toNat < 24))]
  | .vdot4 p d _ _ _ sat t => firstFail [(3, p.ok), (5, decide (d.toNat < 48)), (6, (t.toNat == 0 || t.toNat == 1)), (7, (decide (sat.toNat ≤ 1)))]
  | .vsatn p d _ _ uns t => firstFail [(3, p.ok), (5, decide (d.toNat < 48)), (6, (decide (t.toNat ≤ 3))), (7, (decide (uns.toNat ≤ 1)))]
  | .vwiden p d _ part t => firstFail [(3, p.ok), (5, decide (d.toNat < 48)), (6, (decide (t.toNat ≤ 3))), (7, (decide (part.toNat ≤ 1)))]
  | .vpack p d _ _ t => firstFail [(3, p.ok), (5, decide (d.toNat < 48)), (6, (decide (t.toNat ≤ 3)))]
  | .vpackT2 p d _ part => firstFail [(3, p.ok), (5, decide (d.toNat < 48)), (7, (decide (part.toNat ≤ 3)))]
  | .vunpack p d _ part => firstFail [(3, p.ok), (5, decide (d.toNat < 48)), (7, (decide (part.toNat ≤ 3)))]
  | .vfadd p d _ _ t => firstFail [(3, p.ok), (5, decide (d.toNat < 48)), (6, ((decide (8 ≤ t.toNat) && decide (t.toNat ≤ 10))))]
  | .vfsub p d _ _ t => firstFail [(3, p.ok), (5, decide (d.toNat < 48)), (6, ((decide (8 ≤ t.toNat) && decide (t.toNat ≤ 10))))]
  | .vfmul p d _ _ t => firstFail [(3, p.ok), (5, decide (d.toNat < 48)), (6, ((decide (8 ≤ t.toNat) && decide (t.toNat ≤ 10))))]
  | .vffma p d _ _ _ t => firstFail [(3, p.ok), (5, decide (d.toNat < 48)), (6, ((decide (8 ≤ t.toNat) && decide (t.toNat ≤ 10))))]
  | .vfmin p d _ _ num t => firstFail [(3, p.ok), (5, decide (d.toNat < 48)), (6, ((decide (8 ≤ t.toNat) && decide (t.toNat ≤ 10)))), (7, (decide (num.toNat ≤ 1)))]
  | .vfmax p d _ _ num t => firstFail [(3, p.ok), (5, decide (d.toNat < 48)), (6, ((decide (8 ≤ t.toNat) && decide (t.toNat ≤ 10)))), (7, (decide (num.toNat ≤ 1)))]
  | .vfcmp p d _ _ cond => firstFail [(3, p.ok), (5, decide (d.toNat < 24)), (7, (decide (cond.toNat ≤ 6)))]
  | .vfrcp p d _ => firstFail [(3, p.ok), (5, decide (d.toNat < 48))]
  | .vfrsq p d _ => firstFail [(3, p.ok), (5, decide (d.toNat < 48))]
  | .vfexp2 p d _ => firstFail [(3, p.ok), (5, decide (d.toNat < 48))]
  | .vflog2 p d _ => firstFail [(3, p.ok), (5, decide (d.toNat < 48))]
  | .vfcvt p d _ ts part td => firstFail [(3, p.ok), (5, decide (d.toNat < 48)), (6, vcvtPair ts.toNat td.toNat), (7, vcvtType ts.toNat), (7, partOk ts.toNat td.toNat part.toNat)]
  | .vquant p d _ k part td => firstFail [(3, p.ok), (5, decide (d.toNat < 48)), (5, decide (k.toNat < 8)), (6, scaledType td.toNat), (7, partOk 8 td.toNat part.toNat)]
  | .vdeq p d _ k ts part => firstFail [(3, p.ok), (5, decide (d.toNat < 48)), (5, decide (k.toNat < 8)), (7, scaledType ts.toNat), (7, partOk ts.toNat 8 part.toNat)]
  | .vfclass p d _ => firstFail [(3, p.ok), (5, decide (d.toNat < 48))]
  | .vred p d _ op t => firstFail [(3, p.ok), (5, decide (d.toNat < 48)), (6, vredPair op.toNat t.toNat), (7, (decide (op.toNat ≤ 5)))]
  | .vperm p d _ _ _ => firstFail [(3, p.ok), (5, decide (d.toNat < 48))]
  | .vslide p d _ _ n => firstFail [(3, p.ok), (5, decide (d.toNat < 48)), (7, !(decide (64 ≤ n.toNat) && decide (n.toNat ≤ 192)))]
  | .vbcast p d _ => firstFail [(3, p.ok), (5, decide (d.toNat < 48))]
  | .vbcastLane p d _ _ => firstFail [(3, p.ok), (5, decide (d.toNat < 48))]
  | .viota p d _ _ => firstFail [(3, p.ok), (5, decide (d.toNat < 48))]
  | .vcountge p _ _ _ t => firstFail [(3, p.ok), (6, (t.toNat == 4 || t.toNat == 5 || t.toNat == 8))]
  | .vcompress p d _ => firstFail [(3, p.ok), (5, decide (d.toNat < 48))]
  | .vexpand p d _ => firstFail [(3, p.ok), (5, decide (d.toNat < 48))]
  | .movvs p _ _ _ t => firstFail [(3, p.ok), (6, (t.toNat == 4 || t.toNat == 5 || t.toNat == 8))]
  | .movsv p d _ _ => firstFail [(3, p.ok), (5, decide (d.toNat < 48))]
  | .vld p d _ _ _ _ => firstFail [(3, p.ok), (5, decide (d.toNat < 32))]
  | .vlds p d _ _ _ _ => firstFail [(3, p.ok), (5, decide (d.toNat < 32))]
  | .vldx p d _ x _ _ => firstFail [(3, p.ok), (5, decide (d.toNat < 32)), (5, decide (x.toNat < 32))]
  | .vst p _ _ _ _ _ => firstFail [(3, p.ok)]
  | .vsts p _ _ _ _ _ => firstFail [(3, p.ok)]
  | .vstx p _ _ x _ _ => firstFail [(3, p.ok), (5, decide (x.toNat < 32))]
  | .vstnt p _ _ _ _ _ => firstFail [(3, p.ok)]
  | .vstcmb p _ _ _ t _ ms _ => firstFail [(3, p.ok), (6, stcmbType ms.toNat t.toNat false), (7, (stcmbCode ms.toNat t.toNat false).isSome)]
  | .txin p _ => firstFail [(3, p.ok)]
  | .txout p d => firstFail [(3, p.ok), (5, decide (d.toNat < 48))]
  | .txclr p => firstFail [(3, p.ok)]
  | .vaccrd p d c _ col => firstFail [(3, p.ok), (5, decide (d.toNat < 48)), (5, decide (c.toNat < 16)), (7, (decide (col.toNat ≤ 1)))]
  | .vaccwr p d _ _ col => firstFail [(3, p.ok), (5, decide (d.toNat < 16)), (7, (decide (col.toNat ≤ 1)))]
  | .vspill p d _ _ _ _ => firstFail [(3, p.ok), (5, decide (d.toNat < 16))]
  | .vfill p d _ _ _ _ => firstFail [(3, p.ok), (5, decide (d.toNat < 16))]
  | .mma p _ ta tb => firstFail [(3, p.ok), (7, mmaPair ta.toNat tb.toNat)]
  | .mzero p _ _ => firstFail [(3, p.ok)]
  | .mload p _ c _ _ t _ _ => firstFail [(3, p.ok), (5, decide (c.toNat < 16)), (7, (decide (t.toNat ≤ 5) || (decide (8 ≤ t.toNat) && decide (t.toNat ≤ 10))))]
  | .mstore p _ c _ _ t tt _ _ => firstFail [(3, p.ok), (5, decide (c.toNat < 16)), (7, (decide (t.toNat ≤ 5) || (decide (8 ≤ t.toNat) && decide (t.toNat ≤ 12)))), (7, (tt.toNat == 4 || tt.toNat == 8))]
  | .msetp p c _ => firstFail [(3, p.ok), (5, decide (c.toNat < 8))]
  | .mgetp p _ c => firstFail [(3, p.ok), (5, decide (c.toNat < 8))]
  | .seal p _ _ _ => firstFail [(3, p.ok)]
  | .sealAcc p _ c => firstFail [(3, p.ok), (5, decide (c.toNat < 16))]
  | .scheck p _ _ _ _ => firstFail [(3, p.ok)]
  | .scheckAcc p _ c _ => firstFail [(3, p.ok), (5, decide (c.toNat < 16))]
  | .sfix p _ _ _ _ => firstFail [(3, p.ok)]
  | .sfixAcc p _ c _ => firstFail [(3, p.ok), (5, decide (c.toNat < 16))]
  | .squery p _ _ _ => firstFail [(3, p.ok)]
  | .squeryAcc p _ c _ => firstFail [(3, p.ok), (5, decide (c.toNat < 16))]
  | .cpy p _ _ _ _ => firstFail [(3, p.ok)]
  | .cpy2 p _ _ _ _ _ _ => firstFail [(3, p.ok)]
  | .cpyqIn p _ c _ _ _ => firstFail [(3, p.ok), (5, decide (c.toNat < 16))]
  | .cpyqOut p _ c _ _ _ => firstFail [(3, p.ok), (5, decide (c.toNat < 16))]
  | .cpymc p _ _ _ _ _ _ _ => firstFail [(3, p.ok)]
  | .cpycrc p _ _ _ _ => firstFail [(3, p.ok)]
  | .cpycrcChk p _ _ _ => firstFail [(3, p.ok)]
  | .twait p _ tl _ => firstFail [(3, p.ok), (7, decide (tl.toNat ≤ 4))]
  | .twaitImm p _ tl _ => firstFail [(3, p.ok), (7, decide (tl.toNat ≤ 4))]
  | .treadCnt p _ tl => firstFail [(3, p.ok), (7, decide (tl.toNat ≤ 4))]
  | .treadIss p _ tl => firstFail [(3, p.ok), (7, decide (tl.toNat ≤ 4))]
  | .treadStop p _ tl => firstFail [(3, p.ok), (7, decide (tl.toNat ≤ 4))]
  | .treadRetire p _ tl => firstFail [(3, p.ok), (7, decide (tl.toNat ≤ 4))]
  | .treadProg p _ => firstFail [(3, p.ok)]
  | .treadCrc p _ => firstFail [(3, p.ok)]
  | .atom p _ _ _ _ code => firstFail [(3, p.ok), (7, decide (code.toNat ≤ 11))]
  | .rel p _ => firstFail [(3, p.ok)]
  | .acq p _ _ _ => firstFail [(3, p.ok)]
  | .acqCur p _ _ => firstFail [(3, p.ok)]
  | .phase p _ => firstFail [(3, p.ok)]
  | .ntdrain p _ => firstFail [(3, p.ok)]
  | .logstatPub p _ => firstFail [(3, p.ok)]
  | .logstatTail p _ => firstFail [(3, p.ok)]
  | .logstatFree p _ => firstFail [(3, p.ok)]
  | .logstatView p _ => firstFail [(3, p.ok)]
  | .logstatMembers p _ => firstFail [(3, p.ok)]
  | .logstatSelf p _ => firstFail [(3, p.ok)]
  | .logstatCursor p _ _ => firstFail [(3, p.ok)]
  | .logstatRbld p _ => firstFail [(3, p.ok)]
  | .fbuild p _ _ c _ _ clen => firstFail [(3, p.ok), (4, (clen.toNat != 0 || c.toNat == 0))]
  | .fsend p _ => firstFail [(3, p.ok)]
  | .dwait p _ _ _ => firstFail [(3, p.ok)]
  | .dreadCnt p _ _ => firstFail [(3, p.ok)]
  | .dreadCons p _ _ => firstFail [(3, p.ok)]
  | .dreadDesc0 p _ _ => firstFail [(3, p.ok)]
  | .dreadDesc1 p _ _ => firstFail [(3, p.ok)]
  | .dreadNum p _ _ => firstFail [(3, p.ok)]
  | .frecv p d _ => firstFail [(3, p.ok), (5, decide (d.toNat < 32))]
  | .frecvPeek p d _ => firstFail [(3, p.ok), (5, decide (d.toNat < 32))]
  | .cslotAlloc p _ _ _ _ code _ => firstFail [(3, p.ok), (7, (code.toNat == 0 || (decide (2 ≤ code.toNat) && decide (code.toNat ≤ 10))))]
  | .cslotFree p _ _ _ _ _ => firstFail [(3, p.ok)]
  | .cslotRead p _ _ _ _ _ => firstFail [(3, p.ok)]
  | .swopen p _ _ _ _ _ _ => firstFail [(3, p.ok)]
  | .swsub p _ _ _ _ _ _ => firstFail [(3, p.ok)]
  | .swmerge p _ _ _ _ _ => firstFail [(3, p.ok)]
  | .swread p _ _ _ => firstFail [(3, p.ok)]
  | .swclose p _ _ _ => firstFail [(3, p.ok)]
  | .launch p _ _ c => firstFail [(3, p.ok), (5, decide (c.toNat < 24))]
  | .mpostLaunch p _ _ _ c => firstFail [(3, p.ok), (5, decide (c.toNat < 24))]
  | .mpostMsg p _ _ _ c => firstFail [(3, p.ok), (5, decide (c.toNat < 24))]
  | .ctxsave p _ _ => firstFail [(3, p.ok)]
  | .ctxsaveSr p _ => firstFail [(3, p.ok)]
  | .ctxrstr p _ _ => firstFail [(3, p.ok)]
  | .ctxrstrSr p _ => firstFail [(3, p.ok)]
  | .kill => 0
  | .pushi _ => 0
  | .pushh _ => 0
  | .poph k => firstFail [(7, decide (k.toNat ≤ 4))]
  | .dup _ => 0
  | .swap => 0
  | .ferryAdd => 0
  | .ferrySub => 0
  | .ferryAnd => 0
  | .ferryOr => 0
  | .ferryXor => 0
  | .ferryMin _ => 0
  | .ferryMax _ => 0
  | .amax => 0
  | .eq _ => 0
  | .lt _ => 0
  | .jz _ => 0
  | .jmp _ => 0
  | .ldwImm _ => 0
  | .ldw => 0
  | .addwImm _ c => firstFail [(7, (c.toNat == 0 || (decide (2 ≤ c.toNat) && decide (c.toNat ≤ 10))))]
  | .addw c => firstFail [(7, (c.toNat == 0 || (decide (2 ≤ c.toNat) && decide (c.toNat ≤ 10))))]
  | .cmb => 0
  | .ctr _ => 0
  | .ctrInc _ => 0
  | .node m => firstFail [(7, decide (m.toNat ≤ 5))]
  | .hops _ => 0
  | .loadq k => firstFail [(7, decide (k.toNat ≤ 5))]
  | .crd _ => 0
  | .cwr _ => 0
  | .clone => 0
  | .go port => firstFail [(7, decide (port.toNat ≤ 6))]
  | .godst => 0
  | .dlvr => 0
  | .park => 0
  | .cspWrite _ _ => 0
  | .lttCommit _ _ => 0
  | .logcWrite _ _ => 0
  | .logxWrite _ _ => 0
  | .tlbiWrite _ _ => 0
  | .smpcWrite _ _ => 0
  | .smptWrite _ _ => 0
  | .tmrWrite _ _ _ => 0
  | .pcselWrite _ _ _ => 0
  | .mailboxRegister _ _ => 0
  | .ownershipTableWrite _ _ _ => 0
  | .cxlMemWrite _ _ _ => 0
  | .cxlMemRead _ => 0
  | .launchAccept _ => 0
  | .faultReply _ => 0
  | .faultReplyTimeout _ => 0
  | .cackWrite _ _ => 0
  | .bar0WriteDiscarded _ _ => 0
  | .completionWrite _ => 0
  | .scheduleDecision _ => 0
  | .energyCharge _ _ _ => 0
  | .agingPromote _ _ => 0
  | .torusMemberReport _ _ _ _ => 0
  | .torusMemberTimeout _ _ => 0
  | .residencyLimit _ => 0
  | .overdueResult _ _ => 0
  | .timerExpire _ _ => 0
  | .logFull _ _ => 0
  | .preemptDivert _ _ => 0
  | .fullSave _ _ => 0
  | .stubAbandon _ _ => 0
  | .groupSave _ _ _ _ => 0
  | .contextRestore _ _ => 0
  | .exitDrainEnd _ _ => 0
  | .fenceIDone _ => 0
  | .copyComplete _ _ => 0
  | .ntStorePerform _ => 0
  | .segmentPublish _ => 0
  | .phaseComplete _ _ _ => 0
  | .mmaRowCommit _ => 0
  | .matrixComplete _ => 0
  | .subnormalAssist _ => 0
  | .lockstepSelftest _ _ => 0
  | .atomHome _ _ => 0
  | .atomReply _ _ => 0
  | .atomRetransmit _ _ => 0
  | .sweepPageOffer _ => 0
  | .sweepCatchupPass _ => 0
  | .ferryReceive _ _ => 0
  | .landingStart => 0
  | .mooringReland => 0
  | .escapeTimeout _ => 0
  | .combineSlotTimeout _ => 0
  | .reachabilityNotice _ _ => 0
  | .frameReceive _ _ _ _ _ => 0
  | .frameClose _ _ => 0
  | .verdictMark _ _ _ => 0
  | .retryRequest _ _ _ => 0
  | .linkAck _ _ _ => 0
  | .ackTimeout _ _ => 0
  | .rekeyStart _ _ => 0
  | .rekeyDeadline _ _ => 0
  | .laneFault _ _ _ => 0
  | .linkTrainDone _ _ _ => 0
  | .linkKeyed _ _ _ => 0
  | .sliceScrub _ _ _ => 0
  | .hbmScrub _ _ => 0
  | .hbmRowSpare _ _ => 0
  | .coldReset => 0
  | .startStageDone _ => 0
  | .startStageTimeout _ => 0
  | .clockThrottle _ => 0
  | .thermalTrip => 0
  | .mgmtLinkLoss => 0
  | .ptpMessage _ => 0
  | .sampleTick _ => 0
  | .counterRotate _ _ _ => 0
  | .scstop _ => 0
  | .scresume _ => 0
  | .partWrite _ _ _ => 0
  | .freezeClear _ _ _ => 0
  | .elogRead _ _ _ _ => 0
  | .portEnable _ _ _ => 0
  | .linkReset _ _ => 0
  | .imageLoad _ _ _ => 0
  | .minimalClear _ => 0
  | .partSwapOut _ _ => 0
  | .partSwapIn _ _ => 0
  | .partDestroy _ _ => 0
  | .ownerSet _ _ => 0
  | .keyLoad _ _ _ => 0
  | .getVersion => 0
  | .getCapabilities => 0
  | .negotiateAlgorithms _ => 0
  | .getDigests => 0
  | .getCertificate _ => 0
  | .challenge _ _ => 0
  | .getMeasurements _ => 0
  | .keyExchange _ _ => 0
  | .finish _ _ => 0
  | .keyUpdate _ => 0
  | .endSession _ => 0
  | .getEncapsulatedRequest _ => 0
  | .deliverEncapsulatedResponse _ _ _ => 0
  | .spdmUnsupported _ => 0
  | .doeUnsupported _ => 0
  | .debugNonce _ => 0
  | .debugToken _ => 0
  | .fetchTrap _ => 0
  | .mooredFaultService _ _ => 0
  | .holdSignal _ _ _ => 0
  | .statusTimeUpdate _ => 0
  | .mgmtRequestReject _ _ _ => 0

/-- An instruction that no rule of 02 R52 or 12 R300 makes illegal. DESIGN CHOICE, log entry 70. -/
def Instr.wf (i : Instr) : Bool := i.reason == 0

end Sys2Proof
end

