-- ==== Sys2Proof/Decode.lean ====
section
/-! DEFINITION. Decoding slot words and landing operations, total on any bits, and the encoder (02 R39-R53, 12 R300).
Every zero field, selection and reserved value is checked, and an illegal word is rejected by its REASON (02 R60). -/

namespace Sys2Proof

/-- The four slot classes (02 R38). -/
inductive SlotClass where
  | control | scalar | vector | engine
deriving DecidableEq, Repr

/-- The class of a slot number (02 R38). -/
def slotClass (slot : Nat) : SlotClass :=
  match slot with
  | 0 => .control
  | 1 | 2 => .scalar
  | 3 | 4 => .vector
  | _ => .engine

/-- The predicate of a header (02 R39). -/
def predOf (w : Nat) : Pred := { pn := decide (fld w 57 1 = 1), pi := BitVec.ofNat 5 (fld w 52 5) }

/-- Whether every named bit range of the word, given as low bit and width, is 0 (02 R44). -/
def zeros (w : Nat) : List (Nat × Nat) → Bool
  | [] => true
  | (lo, n) :: rest => decide (fld w lo n = 0) && zeros w rest

/-- The verdict on a word: zero fields first, then the lowest of the type, selection and operand reasons (02 R60). A word
whose selection is reserved is judged as a form of its opcode with `fnOk` false: zero fields are those that no form names.
DEDUCED, log entry 62. -/
def verdict (mbz tOk fnOk : Bool) (i : Instr) : Except Nat Instr :=
  if !mbz then .error 4
  else
    let r := i.reason
    if r != 0 && r ≤ 5 then .error r
    else if !tOk then .error 6
    else if r == 6 then .error 6
    else if !fnOk then .error 7
    else if r != 0 then .error r
    else .ok i

/-- The control class (02 R47). Opcode 0 is NOP and all 64 bits are 0 (R41). DEDUCED, log entry 62. -/
def decodeControl (w : Nat) : Except Nat Instr :=
  match fld w 58 6 with
  | 0 => if w = 0 then .ok .nop else .error 3
  | 1 => verdict (zeros w [(42, 6), (37, 5), (32, 5), (14, 18)]) true true (.bprep (predOf w) (BitVec.ofNat 4 (fld w 48 4)) (BitVec.ofNat 14 (fld w 0 14)))
  | 2 => verdict (zeros w [(37, 5), (32, 5), (0, 32)]) true true (.bpreps (predOf w) (BitVec.ofNat 4 (fld w 48 4)) (BitVec.ofNat 6 (fld w 42 6)))
  | 3 => verdict (zeros w [(42, 6), (37, 5), (32, 5), (0, 32)]) true true (.br (predOf w) (BitVec.ofNat 4 (fld w 48 4)))
  | 4 => verdict (zeros w [(42, 6), (37, 5), (32, 5), (3, 29)]) true true (.brl (predOf w) (BitVec.ofNat 4 (fld w 48 4)) (BitVec.ofNat 3 (fld w 0 3)))
  | 5 => verdict (zeros w [(42, 6), (32, 5), (0, 32)]) true true (.banksw (predOf w) (BitVec.ofNat 5 (fld w 37 5)) (BitVec.ofNat 4 (fld w 48 4)))
  | 6 => verdict (zeros w [(37, 5), (32, 5), (13, 19)]) true true (.loop (predOf w) (BitVec.ofNat 4 (fld w 48 4)) (BitVec.ofNat 6 (fld w 42 6)) (BitVec.ofNat 13 (fld w 0 13)))
  | 7 => verdict (zeros w [(42, 6), (37, 5), (32, 5), (0, 32)]) true true (.lbrk (predOf w) (BitVec.ofNat 4 (fld w 48 4)))
  | 8 => verdict (zeros w [(48, 4), (42, 6), (0, 32)]) true true (.vany (predOf w) (BitVec.ofNat 5 (fld w 37 5)) (BitVec.ofNat 5 (fld w 32 5)))
  | 9 => verdict (zeros w [(48, 4), (42, 6), (0, 32)]) true true (.vall (predOf w) (BitVec.ofNat 5 (fld w 37 5)) (BitVec.ofNat 5 (fld w 32 5)))
  | 10 =>
    if fld w 16 1 = 0 then verdict (zeros w [(48, 4), (42, 6), (37, 5), (32, 5), (6, 2), (14, 2), (17, 15)]) true true (.setfmt (predOf w) (BitVec.ofNat 6 (fld w 0 6)) (BitVec.ofNat 6 (fld w 8 6)))
    else verdict (zeros w [(48, 4), (37, 5), (32, 5), (6, 2), (14, 2), (17, 15)]) true true (.setfmtScalar (predOf w) (BitVec.ofNat 6 (fld w 42 6)) (BitVec.ofNat 6 (fld w 8 6)))
  | 11 => verdict (zeros w [(48, 4), (42, 6), (32, 5), (2, 30)]) true true (.fenceI (predOf w) (BitVec.ofNat 5 (fld w 37 5)) (BitVec.ofNat 2 (fld w 0 2)))
  | 12 => verdict (zeros w [(48, 4), (42, 6), (37, 5), (32, 5), (0, 32)]) true true (.yield (predOf w))
  | 13 => verdict (zeros w [(48, 4), (42, 6), (37, 5), (32, 5), (0, 32)]) true true (.exit (predOf w))
  | 14 => verdict (zeros w [(48, 4), (42, 6), (37, 5), (32, 5), (16, 16)]) true true (.trap (predOf w) (BitVec.ofNat 16 (fld w 0 16)))
  | 15 => verdict (zeros w [(48, 4), (42, 6), (37, 5), (32, 5), (0, 32)]) true true (.eret (predOf w))
  | 16 => verdict (zeros w [(42, 6), (37, 5), (32, 5), (4, 28)]) true true (.crgnOpen (predOf w) (BitVec.ofNat 4 (fld w 48 4)) (BitVec.ofNat 4 (fld w 0 4)))
  | 17 => verdict (zeros w [(48, 4), (42, 6), (37, 5), (32, 5), (0, 32)]) true true (.crgnClose (predOf w))
  | 18 => verdict (zeros w [(48, 4), (32, 5), (11, 21)]) true true (.chkerr (predOf w) (BitVec.ofNat 6 (fld w 42 6)) (BitVec.ofNat 5 (fld w 37 5)) (BitVec.ofNat 11 (fld w 0 11)))
  | 19 => verdict (zeros w [(48, 4), (42, 6), (37, 5), (32, 5), (16, 16)]) true true (.pmark (predOf w) (BitVec.ofNat 16 (fld w 0 16)))
  | _ => .error 1

/-- The scalar class (02 R48). Opcode 0 is NOP and all 64 bits are 0 (R41). -/
def decodeScalar (w : Nat) : Except Nat Instr :=
  match fld w 58 6 with
  | 0 => if w = 0 then .ok .nop else .error 3
  | 1 => verdict (zeros w [(28, 6), (0, 16)]) true (decide (fld w 20 8 = 0)) (.add (predOf w) (BitVec.ofNat 6 (fld w 46 6)) (BitVec.ofNat 6 (fld w 40 6)) (BitVec.ofNat 6 (fld w 34 6)) (BitVec.ofNat 4 (fld w 16 4)))
  | 2 => verdict (zeros w [(28, 6), (0, 16)]) true (decide (fld w 20 8 = 0)) (.sub (predOf w) (BitVec.ofNat 6 (fld w 46 6)) (BitVec.ofNat 6 (fld w 40 6)) (BitVec.ofNat 6 (fld w 34 6)) (BitVec.ofNat 4 (fld w 16 4)))
  | 3 => verdict (zeros w [(28, 6), (0, 16)]) true (decide (fld w 20 8 = 0)) (.and (predOf w) (BitVec.ofNat 6 (fld w 46 6)) (BitVec.ofNat 6 (fld w 40 6)) (BitVec.ofNat 6 (fld w 34 6)) (BitVec.ofNat 4 (fld w 16 4)))
  | 4 => verdict (zeros w [(28, 6), (0, 16)]) true (decide (fld w 20 8 = 0)) (.or (predOf w) (BitVec.ofNat 6 (fld w 46 6)) (BitVec.ofNat 6 (fld w 40 6)) (BitVec.ofNat 6 (fld w 34 6)) (BitVec.ofNat 4 (fld w 16 4)))
  | 5 => verdict (zeros w [(28, 6), (0, 16)]) true (decide (fld w 20 8 = 0)) (.xor (predOf w) (BitVec.ofNat 6 (fld w 46 6)) (BitVec.ofNat 6 (fld w 40 6)) (BitVec.ofNat 6 (fld w 34 6)) (BitVec.ofNat 4 (fld w 16 4)))
  | 6 => verdict (zeros w [(28, 6), (0, 16)]) true (decide (fld w 20 8 = 0)) (.andn (predOf w) (BitVec.ofNat 6 (fld w 46 6)) (BitVec.ofNat 6 (fld w 40 6)) (BitVec.ofNat 6 (fld w 34 6)) (BitVec.ofNat 4 (fld w 16 4)))
  | 7 => verdict (zeros w [(28, 6), (0, 16)]) true (decide (fld w 20 8 = 0)) (.shl (predOf w) (BitVec.ofNat 6 (fld w 46 6)) (BitVec.ofNat 6 (fld w 40 6)) (BitVec.ofNat 6 (fld w 34 6)) (BitVec.ofNat 4 (fld w 16 4)))
  | 8 => verdict (zeros w [(28, 6), (0, 16)]) true (decide (fld w 20 8 = 0)) (.shr (predOf w) (BitVec.ofNat 6 (fld w 46 6)) (BitVec.ofNat 6 (fld w 40 6)) (BitVec.ofNat 6 (fld w 34 6)) (BitVec.ofNat 4 (fld w 16 4)))
  | 9 => verdict (zeros w [(28, 6), (0, 16)]) true (decide (fld w 20 8 = 0)) (.shra (predOf w) (BitVec.ofNat 6 (fld w 46 6)) (BitVec.ofNat 6 (fld w 40 6)) (BitVec.ofNat 6 (fld w 34 6)) (BitVec.ofNat 4 (fld w 16 4)))
  | 10 => verdict (zeros w [(28, 6), (0, 16)]) true (decide (fld w 20 8 = 0)) (.rotl (predOf w) (BitVec.ofNat 6 (fld w 46 6)) (BitVec.ofNat 6 (fld w 40 6)) (BitVec.ofNat 6 (fld w 34 6)) (BitVec.ofNat 4 (fld w 16 4)))
  | 11 => verdict (zeros w [(28, 6), (0, 16)]) true (decide (fld w 20 8 = 0)) (.min (predOf w) (BitVec.ofNat 6 (fld w 46 6)) (BitVec.ofNat 6 (fld w 40 6)) (BitVec.ofNat 6 (fld w 34 6)) (BitVec.ofNat 4 (fld w 16 4)))
  | 12 => verdict (zeros w [(28, 6), (0, 16)]) true (decide (fld w 20 8 = 0)) (.max (predOf w) (BitVec.ofNat 6 (fld w 46 6)) (BitVec.ofNat 6 (fld w 40 6)) (BitVec.ofNat 6 (fld w 34 6)) (BitVec.ofNat 4 (fld w 16 4)))
  | 13 => verdict (zeros w [(28, 6), (0, 16)]) true (decide (fld w 20 8 = 0)) (.mul (predOf w) (BitVec.ofNat 6 (fld w 46 6)) (BitVec.ofNat 6 (fld w 40 6)) (BitVec.ofNat 6 (fld w 34 6)) (BitVec.ofNat 4 (fld w 16 4)))
  | 14 => verdict (zeros w [(28, 6), (0, 16)]) true (decide (fld w 20 8 = 0)) (.mulh (predOf w) (BitVec.ofNat 6 (fld w 46 6)) (BitVec.ofNat 6 (fld w 40 6)) (BitVec.ofNat 6 (fld w 34 6)) (BitVec.ofNat 4 (fld w 16 4)))
  | 15 => verdict (zeros w [(28, 6), (0, 16)]) true (decide (fld w 20 8 = 0)) (.div (predOf w) (BitVec.ofNat 6 (fld w 46 6)) (BitVec.ofNat 6 (fld w 40 6)) (BitVec.ofNat 6 (fld w 34 6)) (BitVec.ofNat 4 (fld w 16 4)))
  | 16 => verdict (zeros w [(28, 6), (0, 16)]) true (decide (fld w 20 8 = 0)) (.rem (predOf w) (BitVec.ofNat 6 (fld w 46 6)) (BitVec.ofNat 6 (fld w 40 6)) (BitVec.ofNat 6 (fld w 34 6)) (BitVec.ofNat 4 (fld w 16 4)))
  | 17 => verdict (zeros w [(34, 6), (28, 6), (0, 16)]) true (decide (fld w 20 8 = 0)) (.clz (predOf w) (BitVec.ofNat 6 (fld w 46 6)) (BitVec.ofNat 6 (fld w 40 6)) (BitVec.ofNat 4 (fld w 16 4)))
  | 18 => verdict (zeros w [(34, 6), (28, 6), (0, 16)]) true (decide (fld w 20 8 = 0)) (.ctz (predOf w) (BitVec.ofNat 6 (fld w 46 6)) (BitVec.ofNat 6 (fld w 40 6)) (BitVec.ofNat 4 (fld w 16 4)))
  | 19 => verdict (zeros w [(34, 6), (28, 6), (0, 16)]) true (decide (fld w 20 8 = 0)) (.popc (predOf w) (BitVec.ofNat 6 (fld w 46 6)) (BitVec.ofNat 6 (fld w 40 6)) (BitVec.ofNat 4 (fld w 16 4)))
  | 20 => verdict (zeros w [(34, 6), (28, 6), (0, 16)]) true (decide (fld w 20 8 = 0)) (.sext (predOf w) (BitVec.ofNat 6 (fld w 46 6)) (BitVec.ofNat 6 (fld w 40 6)) (BitVec.ofNat 4 (fld w 16 4)))
  | 21 => verdict (zeros w [(34, 6), (28, 6), (0, 16)]) true (decide (fld w 20 8 = 0)) (.zext (predOf w) (BitVec.ofNat 6 (fld w 46 6)) (BitVec.ofNat 6 (fld w 40 6)) (BitVec.ofNat 4 (fld w 16 4)))
  | 22 => verdict (zeros w [(28, 6), (0, 16)]) true true (.addsh (predOf w) (BitVec.ofNat 6 (fld w 46 6)) (BitVec.ofNat 6 (fld w 40 6)) (BitVec.ofNat 6 (fld w 34 6)) (BitVec.ofNat 8 (fld w 20 8)) (BitVec.ofNat 4 (fld w 16 4)))
  | 23 => verdict (zeros w [(0, 16)]) (decide (fld w 16 4 = 7)) (decide (fld w 20 8 = 0)) (.sel (predOf w) (BitVec.ofNat 6 (fld w 46 6)) (BitVec.ofNat 6 (fld w 40 6)) (BitVec.ofNat 6 (fld w 34 6)) (BitVec.ofNat 6 (fld w 28 6)))
  | 24 => verdict (zeros w [(28, 6), (0, 16)]) true true (.cmp (predOf w) (BitVec.ofNat 6 (fld w 46 6)) (BitVec.ofNat 6 (fld w 40 6)) (BitVec.ofNat 6 (fld w 34 6)) (BitVec.ofNat 8 (fld w 20 8)) (BitVec.ofNat 4 (fld w 16 4)))
  | 25 => verdict (zeros w []) true (decide (fld w 32 4 = 0)) (.addi (predOf w) (BitVec.ofNat 6 (fld w 46 6)) (BitVec.ofNat 6 (fld w 40 6)) (BitVec.ofNat 4 (fld w 36 4)) (BitVec.ofNat 32 (fld w 0 32)))
  | 26 => verdict (zeros w []) true (decide (fld w 32 4 = 0)) (.andi (predOf w) (BitVec.ofNat 6 (fld w 46 6)) (BitVec.ofNat 6 (fld w 40 6)) (BitVec.ofNat 4 (fld w 36 4)) (BitVec.ofNat 32 (fld w 0 32)))
  | 27 => verdict (zeros w []) true (decide (fld w 32 4 = 0)) (.ori (predOf w) (BitVec.ofNat 6 (fld w 46 6)) (BitVec.ofNat 6 (fld w 40 6)) (BitVec.ofNat 4 (fld w 36 4)) (BitVec.ofNat 32 (fld w 0 32)))
  | 28 => verdict (zeros w []) true (decide (fld w 32 4 = 0)) (.xori (predOf w) (BitVec.ofNat 6 (fld w 46 6)) (BitVec.ofNat 6 (fld w 40 6)) (BitVec.ofNat 4 (fld w 36 4)) (BitVec.ofNat 32 (fld w 0 32)))
  | 29 => verdict (zeros w []) true (decide (fld w 32 4 = 0)) (.shli (predOf w) (BitVec.ofNat 6 (fld w 46 6)) (BitVec.ofNat 6 (fld w 40 6)) (BitVec.ofNat 4 (fld w 36 4)) (BitVec.ofNat 32 (fld w 0 32)))
  | 30 => verdict (zeros w []) true (decide (fld w 32 4 = 0)) (.shri (predOf w) (BitVec.ofNat 6 (fld w 46 6)) (BitVec.ofNat 6 (fld w 40 6)) (BitVec.ofNat 4 (fld w 36 4)) (BitVec.ofNat 32 (fld w 0 32)))
  | 31 => verdict (zeros w []) true (decide (fld w 32 4 = 0)) (.shrai (predOf w) (BitVec.ofNat 6 (fld w 46 6)) (BitVec.ofNat 6 (fld w 40 6)) (BitVec.ofNat 4 (fld w 36 4)) (BitVec.ofNat 32 (fld w 0 32)))
  | 32 => verdict (zeros w [(40, 6)]) true (decide (fld w 32 4 = 0)) (.movi (predOf w) (BitVec.ofNat 6 (fld w 46 6)) (BitVec.ofNat 4 (fld w 36 4)) (BitVec.ofNat 32 (fld w 0 32)))
  | 33 => verdict (zeros w []) (decide (fld w 36 4 = 7)) (decide (fld w 32 4 = 0)) (.movhi (predOf w) (BitVec.ofNat 6 (fld w 46 6)) (BitVec.ofNat 6 (fld w 40 6)) (BitVec.ofNat 32 (fld w 0 32)))
  | 34 => verdict (zeros w []) true true (.cmpi (predOf w) (BitVec.ofNat 6 (fld w 46 6)) (BitVec.ofNat 6 (fld w 40 6)) (BitVec.ofNat 4 (fld w 32 4)) (BitVec.ofNat 4 (fld w 36 4)) (BitVec.ofNat 32 (fld w 0 32)))
  | 35 => verdict (zeros w [(28, 6), (0, 16)]) true (decide (fld w 20 8 = 0)) (.fadd (predOf w) (BitVec.ofNat 6 (fld w 46 6)) (BitVec.ofNat 6 (fld w 40 6)) (BitVec.ofNat 6 (fld w 34 6)) (BitVec.ofNat 4 (fld w 16 4)))
  | 36 => verdict (zeros w [(28, 6), (0, 16)]) true (decide (fld w 20 8 = 0)) (.fsub (predOf w) (BitVec.ofNat 6 (fld w 46 6)) (BitVec.ofNat 6 (fld w 40 6)) (BitVec.ofNat 6 (fld w 34 6)) (BitVec.ofNat 4 (fld w 16 4)))
  | 37 => verdict (zeros w [(28, 6), (0, 16)]) true (decide (fld w 20 8 = 0)) (.fmul (predOf w) (BitVec.ofNat 6 (fld w 46 6)) (BitVec.ofNat 6 (fld w 40 6)) (BitVec.ofNat 6 (fld w 34 6)) (BitVec.ofNat 4 (fld w 16 4)))
  | 38 => verdict (zeros w [(0, 16)]) true (decide (fld w 20 8 = 0)) (.ffma (predOf w) (BitVec.ofNat 6 (fld w 46 6)) (BitVec.ofNat 6 (fld w 40 6)) (BitVec.ofNat 6 (fld w 34 6)) (BitVec.ofNat 6 (fld w 28 6)) (BitVec.ofNat 4 (fld w 16 4)))
  | 39 => verdict (zeros w [(28, 6), (0, 16)]) true true (.fmin (predOf w) (BitVec.ofNat 6 (fld w 46 6)) (BitVec.ofNat 6 (fld w 40 6)) (BitVec.ofNat 6 (fld w 34 6)) (BitVec.ofNat 8 (fld w 20 8)) (BitVec.ofNat 4 (fld w 16 4)))
  | 40 => verdict (zeros w [(28, 6), (0, 16)]) true true (.fmax (predOf w) (BitVec.ofNat 6 (fld w 46 6)) (BitVec.ofNat 6 (fld w 40 6)) (BitVec.ofNat 6 (fld w 34 6)) (BitVec.ofNat 8 (fld w 20 8)) (BitVec.ofNat 4 (fld w 16 4)))
  | 41 => verdict (zeros w [(28, 6), (0, 16)]) true true (.fcmp (predOf w) (BitVec.ofNat 6 (fld w 46 6)) (BitVec.ofNat 6 (fld w 40 6)) (BitVec.ofNat 6 (fld w 34 6)) (BitVec.ofNat 8 (fld w 20 8)) (BitVec.ofNat 4 (fld w 16 4)))
  | 42 => verdict (zeros w [(34, 6), (28, 6), (24, 4), (0, 16)]) true true (.fcvt (predOf w) (BitVec.ofNat 6 (fld w 46 6)) (BitVec.ofNat 6 (fld w 40 6)) (BitVec.ofNat 4 (fld w 20 4)) (BitVec.ofNat 4 (fld w 16 4)))
  | 43 => verdict (zeros w [(34, 6), (28, 6), (0, 16)]) true (decide (fld w 20 8 = 0)) (.fclass (predOf w) (BitVec.ofNat 6 (fld w 46 6)) (BitVec.ofNat 6 (fld w 40 6)) (BitVec.ofNat 4 (fld w 16 4)))
  | 44 => verdict (zeros w [(28, 6), (20, 8), (16, 4), (0, 16)]) true true (.pand (predOf w) (BitVec.ofNat 6 (fld w 46 6)) (BitVec.ofNat 6 (fld w 40 6)) (BitVec.ofNat 6 (fld w 34 6)))
  | 45 => verdict (zeros w [(28, 6), (20, 8), (16, 4), (0, 16)]) true true (.por (predOf w) (BitVec.ofNat 6 (fld w 46 6)) (BitVec.ofNat 6 (fld w 40 6)) (BitVec.ofNat 6 (fld w 34 6)))
  | 46 => verdict (zeros w [(28, 6), (20, 8), (16, 4), (0, 16)]) true true (.pxor (predOf w) (BitVec.ofNat 6 (fld w 46 6)) (BitVec.ofNat 6 (fld w 40 6)) (BitVec.ofNat 6 (fld w 34 6)))
  | 47 => verdict (zeros w [(28, 6), (20, 8), (16, 4), (0, 16)]) true true (.pandn (predOf w) (BitVec.ofNat 6 (fld w 46 6)) (BitVec.ofNat 6 (fld w 40 6)) (BitVec.ofNat 6 (fld w 34 6)))
  | 48 => verdict (zeros w [(34, 6), (28, 6), (20, 8), (16, 4), (0, 16)]) true true (.pcnt (predOf w) (BitVec.ofNat 6 (fld w 46 6)) (BitVec.ofNat 6 (fld w 40 6)))
  | 49 => verdict (zeros w [(34, 6), (28, 6), (20, 8), (16, 4), (0, 16)]) true true (.pfirst (predOf w) (BitVec.ofNat 6 (fld w 46 6)) (BitVec.ofNat 6 (fld w 40 6)))
  | 50 => verdict (zeros w [(34, 6), (28, 6), (20, 8), (16, 4), (0, 16)]) true true (.movps (predOf w) (BitVec.ofNat 6 (fld w 46 6)) (BitVec.ofNat 6 (fld w 40 6)))
  | 51 => verdict (zeros w [(34, 6), (28, 6), (20, 8), (16, 4), (0, 16)]) true true (.movsp (predOf w) (BitVec.ofNat 6 (fld w 46 6)) (BitVec.ofNat 6 (fld w 40 6)))
  | 52 => verdict (zeros w [(40, 6), (36, 4), (32, 4)]) true true (.movsys (predOf w) (BitVec.ofNat 6 (fld w 46 6)) (BitVec.ofNat 32 (fld w 0 32)))
  | 53 => verdict (zeros w [(46, 6), (36, 4), (32, 4)]) true true (.setsys (predOf w) (BitVec.ofNat 6 (fld w 40 6)) (BitVec.ofNat 32 (fld w 0 32)))
  | 54 => verdict (zeros w []) true (decide (fld w 24 3 = 0)) (.ld (predOf w) (BitVec.ofNat 6 (fld w 46 6)) (BitVec.ofNat 6 (fld w 40 6)) (BitVec.ofNat 6 (fld w 34 6)) (BitVec.ofNat 4 (fld w 30 4)) (BitVec.ofNat 3 (fld w 27 3)) (BitVec.ofNat 24 (fld w 0 24)))
  | 55 => verdict (zeros w []) true (decide (fld w 24 3 = 0)) (.st (predOf w) (BitVec.ofNat 6 (fld w 46 6)) (BitVec.ofNat 6 (fld w 40 6)) (BitVec.ofNat 6 (fld w 34 6)) (BitVec.ofNat 4 (fld w 30 4)) (BitVec.ofNat 3 (fld w 27 3)) (BitVec.ofNat 24 (fld w 0 24)))
  | 56 => verdict (zeros w []) true (decide (fld w 24 3 = 0)) (.stnt (predOf w) (BitVec.ofNat 6 (fld w 46 6)) (BitVec.ofNat 6 (fld w 40 6)) (BitVec.ofNat 6 (fld w 34 6)) (BitVec.ofNat 4 (fld w 30 4)) (BitVec.ofNat 3 (fld w 27 3)) (BitVec.ofNat 24 (fld w 0 24)))
  | 57 => verdict (zeros w []) true true (.stcmb (predOf w) (BitVec.ofNat 6 (fld w 46 6)) (BitVec.ofNat 6 (fld w 40 6)) (BitVec.ofNat 6 (fld w 34 6)) (BitVec.ofNat 4 (fld w 30 4)) (BitVec.ofNat 3 (fld w 27 3)) (BitVec.ofNat 3 (fld w 24 3)) (BitVec.ofNat 24 (fld w 0 24)))
  | _ => .error 1

/-- The vector class (02 R49). Opcode 0 is NOP and all 64 bits are 0 (R41). DEDUCED, log entry 62. -/
def decodeVector (w : Nat) : Except Nat Instr :=
  match fld w 58 6 with
  | 0 => if w = 0 then .ok .nop else .error 3
  | 1 => verdict (zeros w [(28, 6), (0, 16)]) true true (.vadd (predOf w) (BitVec.ofNat 6 (fld w 46 6)) (BitVec.ofNat 6 (fld w 40 6)) (BitVec.ofNat 6 (fld w 34 6)) (BitVec.ofNat 8 (fld w 20 8)) (BitVec.ofNat 4 (fld w 16 4)))
  | 2 => verdict (zeros w [(28, 6), (0, 16)]) true true (.vsub (predOf w) (BitVec.ofNat 6 (fld w 46 6)) (BitVec.ofNat 6 (fld w 40 6)) (BitVec.ofNat 6 (fld w 34 6)) (BitVec.ofNat 8 (fld w 20 8)) (BitVec.ofNat 4 (fld w 16 4)))
  | 3 => verdict (zeros w [(28, 6), (0, 16)]) true (decide (fld w 20 8 = 0)) (.vmul (predOf w) (BitVec.ofNat 6 (fld w 46 6)) (BitVec.ofNat 6 (fld w 40 6)) (BitVec.ofNat 6 (fld w 34 6)) (BitVec.ofNat 4 (fld w 16 4)))
  | 4 => verdict (zeros w [(28, 6), (0, 16)]) true (decide (fld w 20 8 = 0)) (.vmulh (predOf w) (BitVec.ofNat 6 (fld w 46 6)) (BitVec.ofNat 6 (fld w 40 6)) (BitVec.ofNat 6 (fld w 34 6)) (BitVec.ofNat 4 (fld w 16 4)))
  | 5 => verdict (zeros w [(28, 6), (0, 16)]) (decide (fld w 16 4 = 5)) (decide (fld w 20 8 = 0)) (.vand (predOf w) (BitVec.ofNat 6 (fld w 46 6)) (BitVec.ofNat 6 (fld w 40 6)) (BitVec.ofNat 6 (fld w 34 6)))
  | 6 => verdict (zeros w [(28, 6), (0, 16)]) (decide (fld w 16 4 = 5)) (decide (fld w 20 8 = 0)) (.vor (predOf w) (BitVec.ofNat 6 (fld w 46 6)) (BitVec.ofNat 6 (fld w 40 6)) (BitVec.ofNat 6 (fld w 34 6)))
  | 7 => verdict (zeros w [(28, 6), (0, 16)]) (decide (fld w 16 4 = 5)) (decide (fld w 20 8 = 0)) (.vxor (predOf w) (BitVec.ofNat 6 (fld w 46 6)) (BitVec.ofNat 6 (fld w 40 6)) (BitVec.ofNat 6 (fld w 34 6)))
  | 8 => verdict (zeros w [(28, 6), (0, 16)]) true (decide (fld w 20 8 = 0)) (.vshl (predOf w) (BitVec.ofNat 6 (fld w 46 6)) (BitVec.ofNat 6 (fld w 40 6)) (BitVec.ofNat 6 (fld w 34 6)) (BitVec.ofNat 4 (fld w 16 4)))
  | 9 => verdict (zeros w [(28, 6), (0, 16)]) true (decide (fld w 20 8 = 0)) (.vshr (predOf w) (BitVec.ofNat 6 (fld w 46 6)) (BitVec.ofNat 6 (fld w 40 6)) (BitVec.ofNat 6 (fld w 34 6)) (BitVec.ofNat 4 (fld w 16 4)))
  | 10 => verdict (zeros w [(28, 6), (0, 16)]) true (decide (fld w 20 8 = 0)) (.vshra (predOf w) (BitVec.ofNat 6 (fld w 46 6)) (BitVec.ofNat 6 (fld w 40 6)) (BitVec.ofNat 6 (fld w 34 6)) (BitVec.ofNat 4 (fld w 16 4)))
  | 11 => verdict (zeros w [(28, 6), (0, 16)]) true (decide (fld w 20 8 = 0)) (.vmin (predOf w) (BitVec.ofNat 6 (fld w 46 6)) (BitVec.ofNat 6 (fld w 40 6)) (BitVec.ofNat 6 (fld w 34 6)) (BitVec.ofNat 4 (fld w 16 4)))
  | 12 => verdict (zeros w [(28, 6), (0, 16)]) true (decide (fld w 20 8 = 0)) (.vmax (predOf w) (BitVec.ofNat 6 (fld w 46 6)) (BitVec.ofNat 6 (fld w 40 6)) (BitVec.ofNat 6 (fld w 34 6)) (BitVec.ofNat 4 (fld w 16 4)))
  | 13 => verdict (zeros w [(34, 6), (28, 6), (0, 16)]) true true (.vabs (predOf w) (BitVec.ofNat 6 (fld w 46 6)) (BitVec.ofNat 6 (fld w 40 6)) (BitVec.ofNat 8 (fld w 20 8)) (BitVec.ofNat 4 (fld w 16 4)))
  | 14 => verdict (zeros w [(28, 6), (0, 16)]) true true (.vcmp (predOf w) (BitVec.ofNat 6 (fld w 46 6)) (BitVec.ofNat 6 (fld w 40 6)) (BitVec.ofNat 6 (fld w 34 6)) (BitVec.ofNat 8 (fld w 20 8)) (BitVec.ofNat 4 (fld w 16 4)))
  | 15 => verdict (zeros w [(0, 16)]) (decide (fld w 16 4 = 5)) (decide (fld w 20 8 = 0)) (.vsel (predOf w) (BitVec.ofNat 6 (fld w 46 6)) (BitVec.ofNat 6 (fld w 40 6)) (BitVec.ofNat 6 (fld w 34 6)) (BitVec.ofNat 6 (fld w 28 6)))
  | 16 => verdict (zeros w [(0, 16)]) true true (.vdot4 (predOf w) (BitVec.ofNat 6 (fld w 46 6)) (BitVec.ofNat 6 (fld w 40 6)) (BitVec.ofNat 6 (fld w 34 6)) (BitVec.ofNat 6 (fld w 28 6)) (BitVec.ofNat 8 (fld w 20 8)) (BitVec.ofNat 4 (fld w 16 4)))
  | 17 => verdict (zeros w [(28, 6), (0, 16)]) true true (.vsatn (predOf w) (BitVec.ofNat 6 (fld w 46 6)) (BitVec.ofNat 6 (fld w 40 6)) (BitVec.ofNat 6 (fld w 34 6)) (BitVec.ofNat 8 (fld w 20 8)) (BitVec.ofNat 4 (fld w 16 4)))
  | 18 => verdict (zeros w [(34, 6), (28, 6), (0, 16)]) true true (.vwiden (predOf w) (BitVec.ofNat 6 (fld w 46 6)) (BitVec.ofNat 6 (fld w 40 6)) (BitVec.ofNat 8 (fld w 20 8)) (BitVec.ofNat 4 (fld w 16 4)))
  | 19 =>
    if fld w 16 4 = 13 then verdict (zeros w [(34, 6), (28, 6), (0, 16)]) true true (.vpackT2 (predOf w) (BitVec.ofNat 6 (fld w 46 6)) (BitVec.ofNat 6 (fld w 40 6)) (BitVec.ofNat 8 (fld w 20 8)))
    else verdict (zeros w [(28, 6), (0, 16)]) true (decide (fld w 20 8 = 0)) (.vpack (predOf w) (BitVec.ofNat 6 (fld w 46 6)) (BitVec.ofNat 6 (fld w 40 6)) (BitVec.ofNat 6 (fld w 34 6)) (BitVec.ofNat 4 (fld w 16 4)))
  | 20 => verdict (zeros w [(34, 6), (28, 6), (0, 16)]) (decide (fld w 16 4 = 13)) true (.vunpack (predOf w) (BitVec.ofNat 6 (fld w 46 6)) (BitVec.ofNat 6 (fld w 40 6)) (BitVec.ofNat 8 (fld w 20 8)))
  | 21 => verdict (zeros w [(28, 6), (0, 16)]) true (decide (fld w 20 8 = 0)) (.vfadd (predOf w) (BitVec.ofNat 6 (fld w 46 6)) (BitVec.ofNat 6 (fld w 40 6)) (BitVec.ofNat 6 (fld w 34 6)) (BitVec.ofNat 4 (fld w 16 4)))
  | 22 => verdict (zeros w [(28, 6), (0, 16)]) true (decide (fld w 20 8 = 0)) (.vfsub (predOf w) (BitVec.ofNat 6 (fld w 46 6)) (BitVec.ofNat 6 (fld w 40 6)) (BitVec.ofNat 6 (fld w 34 6)) (BitVec.ofNat 4 (fld w 16 4)))
  | 23 => verdict (zeros w [(28, 6), (0, 16)]) true (decide (fld w 20 8 = 0)) (.vfmul (predOf w) (BitVec.ofNat 6 (fld w 46 6)) (BitVec.ofNat 6 (fld w 40 6)) (BitVec.ofNat 6 (fld w 34 6)) (BitVec.ofNat 4 (fld w 16 4)))
  | 24 => verdict (zeros w [(0, 16)]) true (decide (fld w 20 8 = 0)) (.vffma (predOf w) (BitVec.ofNat 6 (fld w 46 6)) (BitVec.ofNat 6 (fld w 40 6)) (BitVec.ofNat 6 (fld w 34 6)) (BitVec.ofNat 6 (fld w 28 6)) (BitVec.ofNat 4 (fld w 16 4)))
  | 25 => verdict (zeros w [(28, 6), (0, 16)]) true true (.vfmin (predOf w) (BitVec.ofNat 6 (fld w 46 6)) (BitVec.ofNat 6 (fld w 40 6)) (BitVec.ofNat 6 (fld w 34 6)) (BitVec.ofNat 8 (fld w 20 8)) (BitVec.ofNat 4 (fld w 16 4)))
  | 26 => verdict (zeros w [(28, 6), (0, 16)]) true true (.vfmax (predOf w) (BitVec.ofNat 6 (fld w 46 6)) (BitVec.ofNat 6 (fld w 40 6)) (BitVec.ofNat 6 (fld w 34 6)) (BitVec.ofNat 8 (fld w 20 8)) (BitVec.ofNat 4 (fld w 16 4)))
  | 27 => verdict (zeros w [(28, 6), (0, 16)]) (decide (fld w 16 4 = 8)) true (.vfcmp (predOf w) (BitVec.ofNat 6 (fld w 46 6)) (BitVec.ofNat 6 (fld w 40 6)) (BitVec.ofNat 6 (fld w 34 6)) (BitVec.ofNat 8 (fld w 20 8)))
  | 28 => verdict (zeros w [(34, 6), (28, 6), (0, 16)]) (decide (fld w 16 4 = 8)) (decide (fld w 20 8 = 0)) (.vfrcp (predOf w) (BitVec.ofNat 6 (fld w 46 6)) (BitVec.ofNat 6 (fld w 40 6)))
  | 29 => verdict (zeros w [(34, 6), (28, 6), (0, 16)]) (decide (fld w 16 4 = 8)) (decide (fld w 20 8 = 0)) (.vfrsq (predOf w) (BitVec.ofNat 6 (fld w 46 6)) (BitVec.ofNat 6 (fld w 40 6)))
  | 30 => verdict (zeros w [(34, 6), (28, 6), (0, 16)]) (decide (fld w 16 4 = 8)) (decide (fld w 20 8 = 0)) (.vfexp2 (predOf w) (BitVec.ofNat 6 (fld w 46 6)) (BitVec.ofNat 6 (fld w 40 6)))
  | 31 => verdict (zeros w [(34, 6), (28, 6), (0, 16)]) (decide (fld w 16 4 = 8)) (decide (fld w 20 8 = 0)) (.vflog2 (predOf w) (BitVec.ofNat 6 (fld w 46 6)) (BitVec.ofNat 6 (fld w 40 6)))
  | 32 => verdict (zeros w [(34, 6), (28, 6), (26, 2), (0, 16)]) true true (.vfcvt (predOf w) (BitVec.ofNat 6 (fld w 46 6)) (BitVec.ofNat 6 (fld w 40 6)) (BitVec.ofNat 4 (fld w 20 4)) (BitVec.ofNat 2 (fld w 24 2)) (BitVec.ofNat 4 (fld w 16 4)))
  | 33 => verdict (zeros w [(28, 6), (26, 2), (0, 16)]) true (decide (fld w 20 4 = 8)) (.vquant (predOf w) (BitVec.ofNat 6 (fld w 46 6)) (BitVec.ofNat 6 (fld w 40 6)) (BitVec.ofNat 6 (fld w 34 6)) (BitVec.ofNat 2 (fld w 24 2)) (BitVec.ofNat 4 (fld w 16 4)))
  | 34 => verdict (zeros w [(28, 6), (26, 2), (0, 16)]) (decide (fld w 16 4 = 8)) true (.vdeq (predOf w) (BitVec.ofNat 6 (fld w 46 6)) (BitVec.ofNat 6 (fld w 40 6)) (BitVec.ofNat 6 (fld w 34 6)) (BitVec.ofNat 4 (fld w 20 4)) (BitVec.ofNat 2 (fld w 24 2)))
  | 35 => verdict (zeros w [(34, 6), (28, 6), (0, 16)]) (decide (fld w 16 4 = 8)) (decide (fld w 20 8 = 0)) (.vfclass (predOf w) (BitVec.ofNat 6 (fld w 46 6)) (BitVec.ofNat 6 (fld w 40 6)))
  | 36 => verdict (zeros w [(34, 6), (28, 6), (0, 16)]) true true (.vred (predOf w) (BitVec.ofNat 6 (fld w 46 6)) (BitVec.ofNat 6 (fld w 40 6)) (BitVec.ofNat 8 (fld w 20 8)) (BitVec.ofNat 4 (fld w 16 4)))
  | 37 => verdict (zeros w [(0, 16)]) (decide (fld w 16 4 = 5)) (decide (fld w 20 8 = 0)) (.vperm (predOf w) (BitVec.ofNat 6 (fld w 46 6)) (BitVec.ofNat 6 (fld w 40 6)) (BitVec.ofNat 6 (fld w 34 6)) (BitVec.ofNat 6 (fld w 28 6)))
  | 38 => verdict (zeros w [(28, 6), (0, 16)]) (decide (fld w 16 4 = 5)) true (.vslide (predOf w) (BitVec.ofNat 6 (fld w 46 6)) (BitVec.ofNat 6 (fld w 40 6)) (BitVec.ofNat 6 (fld w 34 6)) (BitVec.ofNat 8 (fld w 20 8)))
  | 39 =>
    if fld w 20 8 = 0 then verdict (zeros w [(34, 6), (28, 6), (0, 16)]) (decide (fld w 16 4 = 5)) true (.vbcast (predOf w) (BitVec.ofNat 6 (fld w 46 6)) (BitVec.ofNat 6 (fld w 40 6)))
    else if fld w 20 8 = 1 then verdict (zeros w [(34, 6), (0, 16)]) (decide (fld w 16 4 = 5)) true (.vbcastLane (predOf w) (BitVec.ofNat 6 (fld w 46 6)) (BitVec.ofNat 6 (fld w 40 6)) (BitVec.ofNat 6 (fld w 28 6)))
    else verdict (zeros w [(34, 6), (0, 16)]) (decide (fld w 16 4 = 5)) false (.vbcast (predOf w) (BitVec.ofNat 6 (fld w 46 6)) (BitVec.ofNat 6 (fld w 40 6)))
  | 40 => verdict (zeros w [(28, 6), (0, 16)]) (decide (fld w 16 4 = 5)) (decide (fld w 20 8 = 0)) (.viota (predOf w) (BitVec.ofNat 6 (fld w 46 6)) (BitVec.ofNat 6 (fld w 40 6)) (BitVec.ofNat 6 (fld w 34 6)))
  | 41 => verdict (zeros w [(28, 6), (0, 16)]) true (decide (fld w 20 8 = 0)) (.vcountge (predOf w) (BitVec.ofNat 6 (fld w 46 6)) (BitVec.ofNat 6 (fld w 40 6)) (BitVec.ofNat 6 (fld w 34 6)) (BitVec.ofNat 4 (fld w 16 4)))
  | 42 => verdict (zeros w [(34, 6), (28, 6), (20, 8), (0, 16)]) (decide (fld w 16 4 = 5)) true (.vcompress (predOf w) (BitVec.ofNat 6 (fld w 46 6)) (BitVec.ofNat 6 (fld w 40 6)))
  | 43 => verdict (zeros w [(34, 6), (28, 6), (20, 8), (0, 16)]) (decide (fld w 16 4 = 5)) true (.vexpand (predOf w) (BitVec.ofNat 6 (fld w 46 6)) (BitVec.ofNat 6 (fld w 40 6)))
  | 44 => verdict (zeros w [(34, 6), (0, 16)]) true (decide (fld w 20 8 = 0)) (.movvs (predOf w) (BitVec.ofNat 6 (fld w 46 6)) (BitVec.ofNat 6 (fld w 40 6)) (BitVec.ofNat 6 (fld w 28 6)) (BitVec.ofNat 4 (fld w 16 4)))
  | 45 => verdict (zeros w [(34, 6), (0, 16)]) (decide (fld w 16 4 = 5)) (decide (fld w 20 8 = 0)) (.movsv (predOf w) (BitVec.ofNat 6 (fld w 46 6)) (BitVec.ofNat 6 (fld w 40 6)) (BitVec.ofNat 6 (fld w 28 6)))
  | 46 => verdict (zeros w []) (decide (fld w 30 4 = 5)) (decide (fld w 24 3 = 0)) (.vld (predOf w) (BitVec.ofNat 6 (fld w 46 6)) (BitVec.ofNat 6 (fld w 40 6)) (BitVec.ofNat 6 (fld w 34 6)) (BitVec.ofNat 3 (fld w 27 3)) (BitVec.ofNat 24 (fld w 0 24)))
  | 47 => verdict (zeros w []) (decide (fld w 30 4 = 5)) (decide (fld w 24 3 = 0)) (.vlds (predOf w) (BitVec.ofNat 6 (fld w 46 6)) (BitVec.ofNat 6 (fld w 40 6)) (BitVec.ofNat 6 (fld w 34 6)) (BitVec.ofNat 3 (fld w 27 3)) (BitVec.ofNat 24 (fld w 0 24)))
  | 48 => verdict (zeros w []) (decide (fld w 30 4 = 5)) (decide (fld w 24 3 = 0)) (.vldx (predOf w) (BitVec.ofNat 6 (fld w 46 6)) (BitVec.ofNat 6 (fld w 40 6)) (BitVec.ofNat 6 (fld w 34 6)) (BitVec.ofNat 3 (fld w 27 3)) (BitVec.ofNat 24 (fld w 0 24)))
  | 49 => verdict (zeros w []) (decide (fld w 30 4 = 5)) (decide (fld w 24 3 = 0)) (.vst (predOf w) (BitVec.ofNat 6 (fld w 46 6)) (BitVec.ofNat 6 (fld w 40 6)) (BitVec.ofNat 6 (fld w 34 6)) (BitVec.ofNat 3 (fld w 27 3)) (BitVec.ofNat 24 (fld w 0 24)))
  | 50 => verdict (zeros w []) (decide (fld w 30 4 = 5)) (decide (fld w 24 3 = 0)) (.vsts (predOf w) (BitVec.ofNat 6 (fld w 46 6)) (BitVec.ofNat 6 (fld w 40 6)) (BitVec.ofNat 6 (fld w 34 6)) (BitVec.ofNat 3 (fld w 27 3)) (BitVec.ofNat 24 (fld w 0 24)))
  | 51 => verdict (zeros w []) (decide (fld w 30 4 = 5)) (decide (fld w 24 3 = 0)) (.vstx (predOf w) (BitVec.ofNat 6 (fld w 46 6)) (BitVec.ofNat 6 (fld w 40 6)) (BitVec.ofNat 6 (fld w 34 6)) (BitVec.ofNat 3 (fld w 27 3)) (BitVec.ofNat 24 (fld w 0 24)))
  | 52 => verdict (zeros w []) (decide (fld w 30 4 = 5)) (decide (fld w 24 3 = 0)) (.vstnt (predOf w) (BitVec.ofNat 6 (fld w 46 6)) (BitVec.ofNat 6 (fld w 40 6)) (BitVec.ofNat 6 (fld w 34 6)) (BitVec.ofNat 3 (fld w 27 3)) (BitVec.ofNat 24 (fld w 0 24)))
  | 53 => verdict (zeros w []) true true (.vstcmb (predOf w) (BitVec.ofNat 6 (fld w 46 6)) (BitVec.ofNat 6 (fld w 40 6)) (BitVec.ofNat 6 (fld w 34 6)) (BitVec.ofNat 4 (fld w 30 4)) (BitVec.ofNat 3 (fld w 27 3)) (BitVec.ofNat 3 (fld w 24 3)) (BitVec.ofNat 24 (fld w 0 24)))
  | 54 => verdict (zeros w [(46, 6), (34, 6), (28, 6), (0, 16)]) (decide (fld w 16 4 = 5)) (decide (fld w 20 8 = 0)) (.txin (predOf w) (BitVec.ofNat 6 (fld w 40 6)))
  | 55 => verdict (zeros w [(40, 6), (34, 6), (28, 6), (0, 16)]) (decide (fld w 16 4 = 5)) (decide (fld w 20 8 = 0)) (.txout (predOf w) (BitVec.ofNat 6 (fld w 46 6)))
  | 56 => verdict (zeros w [(46, 6), (40, 6), (34, 6), (28, 6), (16, 4), (0, 16)]) true (decide (fld w 20 8 = 0)) (.txclr (predOf w))
  | 57 => verdict (zeros w [(34, 6), (0, 16)]) (decide (fld w 16 4 = 5)) true (.vaccrd (predOf w) (BitVec.ofNat 6 (fld w 46 6)) (BitVec.ofNat 6 (fld w 28 6)) (BitVec.ofNat 6 (fld w 40 6)) (BitVec.ofNat 8 (fld w 20 8)))
  | 58 => verdict (zeros w [(28, 6), (0, 16)]) (decide (fld w 16 4 = 5)) true (.vaccwr (predOf w) (BitVec.ofNat 6 (fld w 46 6)) (BitVec.ofNat 6 (fld w 34 6)) (BitVec.ofNat 6 (fld w 40 6)) (BitVec.ofNat 8 (fld w 20 8)))
  | 59 => verdict (zeros w []) (decide (fld w 30 4 = 5)) (decide (fld w 24 3 = 0)) (.vspill (predOf w) (BitVec.ofNat 6 (fld w 46 6)) (BitVec.ofNat 6 (fld w 40 6)) (BitVec.ofNat 6 (fld w 34 6)) (BitVec.ofNat 3 (fld w 27 3)) (BitVec.ofNat 24 (fld w 0 24)))
  | 60 => verdict (zeros w []) (decide (fld w 30 4 = 5)) (decide (fld w 24 3 = 0)) (.vfill (predOf w) (BitVec.ofNat 6 (fld w 46 6)) (BitVec.ofNat 6 (fld w 40 6)) (BitVec.ofNat 6 (fld w 34 6)) (BitVec.ofNat 3 (fld w 27 3)) (BitVec.ofNat 24 (fld w 0 24)))
  | _ => .error 1

/-- The engine class (02 R50). Opcode 0 is NOP and all 64 bits are 0 (R41). DEDUCED, log entry 62. -/
def decodeEngine (w : Nat) : Except Nat Instr :=
  match fld w 58 6 with
  | 0 => if w = 0 then .ok .nop else .error 3
  | 1 => verdict (zeros w [(40, 6), (34, 6), (28, 6), (0, 20)]) true true (.mma (predOf w) (BitVec.ofNat 6 (fld w 46 6)) (BitVec.ofNat 4 (fld w 20 4)) (BitVec.ofNat 4 (fld w 24 4)))
  | 2 => verdict (zeros w [(40, 6), (34, 6), (28, 6), (16, 4)]) true (decide (fld w 20 8 = 0)) (.mzero (predOf w) (BitVec.ofNat 6 (fld w 46 6)) (BitVec.ofNat 16 (fld w 0 16)))
  | 3 => verdict (zeros w [(24, 4), (14, 6)]) true true (.mload (predOf w) (BitVec.ofNat 6 (fld w 46 6)) (BitVec.ofNat 6 (fld w 28 6)) (BitVec.ofNat 6 (fld w 40 6)) (BitVec.ofNat 6 (fld w 34 6)) (BitVec.ofNat 4 (fld w 20 4)) (BitVec.ofNat 7 (fld w 0 7)) (BitVec.ofNat 7 (fld w 7 7)))
  | 4 => verdict (zeros w [(14, 6)]) true true (.mstore (predOf w) (BitVec.ofNat 6 (fld w 46 6)) (BitVec.ofNat 6 (fld w 28 6)) (BitVec.ofNat 6 (fld w 40 6)) (BitVec.ofNat 6 (fld w 34 6)) (BitVec.ofNat 4 (fld w 20 4)) (BitVec.ofNat 4 (fld w 24 4)) (BitVec.ofNat 7 (fld w 0 7)) (BitVec.ofNat 7 (fld w 7 7)))
  | 5 => verdict (zeros w [(46, 6), (34, 6), (0, 20)]) true (decide (fld w 20 8 = 0)) (.msetp (predOf w) (BitVec.ofNat 6 (fld w 28 6)) (BitVec.ofNat 6 (fld w 40 6)))
  | 6 => verdict (zeros w [(40, 6), (34, 6), (0, 20)]) true (decide (fld w 20 8 = 0)) (.mgetp (predOf w) (BitVec.ofNat 6 (fld w 46 6)) (BitVec.ofNat 6 (fld w 28 6)))
  | 7 =>
    if fld w 20 8 = 0 then verdict (zeros w [(28, 6), (0, 20)]) true true (.seal (predOf w) (BitVec.ofNat 6 (fld w 46 6)) (BitVec.ofNat 6 (fld w 40 6)) (BitVec.ofNat 6 (fld w 34 6)))
    else if fld w 20 8 = 1 then verdict (zeros w [(40, 6), (34, 6), (0, 20)]) true true (.sealAcc (predOf w) (BitVec.ofNat 6 (fld w 46 6)) (BitVec.ofNat 6 (fld w 28 6)))
    else verdict (zeros w [(0, 20)]) true false (.seal (predOf w) (BitVec.ofNat 6 (fld w 46 6)) (BitVec.ofNat 6 (fld w 40 6)) (BitVec.ofNat 6 (fld w 34 6)))
  | 8 =>
    if fld w 20 8 = 0 then verdict (zeros w [(0, 20)]) true true (.scheck (predOf w) (BitVec.ofNat 6 (fld w 46 6)) (BitVec.ofNat 6 (fld w 40 6)) (BitVec.ofNat 6 (fld w 34 6)) (BitVec.ofNat 6 (fld w 28 6)))
    else if fld w 20 8 = 1 then verdict (zeros w [(34, 6), (0, 20)]) true true (.scheckAcc (predOf w) (BitVec.ofNat 6 (fld w 46 6)) (BitVec.ofNat 6 (fld w 28 6)) (BitVec.ofNat 6 (fld w 40 6)))
    else verdict (zeros w [(0, 20)]) true false (.scheck (predOf w) (BitVec.ofNat 6 (fld w 46 6)) (BitVec.ofNat 6 (fld w 40 6)) (BitVec.ofNat 6 (fld w 34 6)) (BitVec.ofNat 6 (fld w 28 6)))
  | 9 =>
    if fld w 20 8 = 0 then verdict (zeros w [(0, 20)]) true true (.sfix (predOf w) (BitVec.ofNat 6 (fld w 46 6)) (BitVec.ofNat 6 (fld w 40 6)) (BitVec.ofNat 6 (fld w 34 6)) (BitVec.ofNat 6 (fld w 28 6)))
    else if fld w 20 8 = 1 then verdict (zeros w [(34, 6), (0, 20)]) true true (.sfixAcc (predOf w) (BitVec.ofNat 6 (fld w 46 6)) (BitVec.ofNat 6 (fld w 28 6)) (BitVec.ofNat 6 (fld w 40 6)))
    else verdict (zeros w [(0, 20)]) true false (.sfix (predOf w) (BitVec.ofNat 6 (fld w 46 6)) (BitVec.ofNat 6 (fld w 40 6)) (BitVec.ofNat 6 (fld w 34 6)) (BitVec.ofNat 6 (fld w 28 6)))
  | 10 =>
    if fld w 20 8 = 0 then verdict (zeros w [(28, 6), (0, 20)]) true true (.squery (predOf w) (BitVec.ofNat 6 (fld w 46 6)) (BitVec.ofNat 6 (fld w 40 6)) (BitVec.ofNat 6 (fld w 34 6)))
    else if fld w 20 8 = 1 then verdict (zeros w [(40, 6), (0, 20)]) true true (.squeryAcc (predOf w) (BitVec.ofNat 6 (fld w 46 6)) (BitVec.ofNat 6 (fld w 28 6)) (BitVec.ofNat 6 (fld w 34 6)))
    else verdict (zeros w [(0, 20)]) true false (.squery (predOf w) (BitVec.ofNat 6 (fld w 46 6)) (BitVec.ofNat 6 (fld w 40 6)) (BitVec.ofNat 6 (fld w 34 6)))
  | 11 => verdict (zeros w [(0, 20)]) true (decide (fld w 20 8 = 0)) (.cpy (predOf w) (BitVec.ofNat 6 (fld w 46 6)) (BitVec.ofNat 6 (fld w 40 6)) (BitVec.ofNat 6 (fld w 34 6)) (BitVec.ofNat 6 (fld w 28 6)))
  | 12 => verdict (zeros w []) true (decide (fld w 20 8 = 0)) (.cpy2 (predOf w) (BitVec.ofNat 6 (fld w 46 6)) (BitVec.ofNat 6 (fld w 40 6)) (BitVec.ofNat 6 (fld w 34 6)) (BitVec.ofNat 6 (fld w 28 6)) (BitVec.ofNat 10 (fld w 0 10)) (BitVec.ofNat 10 (fld w 10 10)))
  | 13 =>
    if fld w 20 8 = 0 then verdict (zeros w []) true true (.cpyqIn (predOf w) (BitVec.ofNat 6 (fld w 46 6)) (BitVec.ofNat 6 (fld w 28 6)) (BitVec.ofNat 6 (fld w 40 6)) (BitVec.ofNat 6 (fld w 34 6)) (BitVec.ofNat 20 (fld w 0 20)))
    else if fld w 20 8 = 1 then verdict (zeros w []) true true (.cpyqOut (predOf w) (BitVec.ofNat 6 (fld w 46 6)) (BitVec.ofNat 6 (fld w 28 6)) (BitVec.ofNat 6 (fld w 40 6)) (BitVec.ofNat 6 (fld w 34 6)) (BitVec.ofNat 20 (fld w 0 20)))
    else verdict (zeros w []) true false (.cpyqIn (predOf w) (BitVec.ofNat 6 (fld w 46 6)) (BitVec.ofNat 6 (fld w 28 6)) (BitVec.ofNat 6 (fld w 40 6)) (BitVec.ofNat 6 (fld w 34 6)) (BitVec.ofNat 20 (fld w 0 20)))
  | 14 => verdict (zeros w [(19, 1)]) true (decide (fld w 20 8 = 0)) (.cpymc (predOf w) (BitVec.ofNat 6 (fld w 46 6)) (BitVec.ofNat 6 (fld w 40 6)) (BitVec.ofNat 6 (fld w 34 6)) (BitVec.ofNat 6 (fld w 28 6)) (BitVec.ofNat 8 (fld w 0 8)) (BitVec.ofNat 8 (fld w 8 8)) (BitVec.ofNat 3 (fld w 16 3)))
  | 15 =>
    if fld w 20 8 = 0 then verdict (zeros w [(0, 20)]) true true (.cpycrc (predOf w) (BitVec.ofNat 6 (fld w 46 6)) (BitVec.ofNat 6 (fld w 40 6)) (BitVec.ofNat 6 (fld w 34 6)) (BitVec.ofNat 6 (fld w 28 6)))
    else if fld w 20 8 = 1 then verdict (zeros w [(40, 6), (0, 20)]) true true (.cpycrcChk (predOf w) (BitVec.ofNat 6 (fld w 46 6)) (BitVec.ofNat 6 (fld w 34 6)) (BitVec.ofNat 6 (fld w 28 6)))
    else verdict (zeros w [(0, 20)]) true false (.cpycrc (predOf w) (BitVec.ofNat 6 (fld w 46 6)) (BitVec.ofNat 6 (fld w 40 6)) (BitVec.ofNat 6 (fld w 34 6)) (BitVec.ofNat 6 (fld w 28 6)))
  | 16 =>
    if fld w 23 5 = 0 then verdict (zeros w [(34, 6), (28, 6), (0, 20)]) true true (.twait (predOf w) (BitVec.ofNat 6 (fld w 46 6)) (BitVec.ofNat 3 (fld w 20 3)) (BitVec.ofNat 6 (fld w 40 6)))
    else if fld w 23 5 = 1 then verdict (zeros w [(40, 6), (34, 6), (28, 6)]) true true (.twaitImm (predOf w) (BitVec.ofNat 6 (fld w 46 6)) (BitVec.ofNat 3 (fld w 20 3)) (BitVec.ofNat 20 (fld w 0 20)))
    else verdict (zeros w [(28, 12)]) true false (.twait (predOf w) (BitVec.ofNat 6 (fld w 46 6)) (BitVec.ofNat 3 (fld w 20 3)) (BitVec.ofNat 6 (fld w 40 6)))
  | 17 =>
    if fld w 24 3 = 0 then verdict (zeros w [(40, 6), (34, 6), (28, 6), (27, 1), (23, 1), (0, 20)]) true true (.treadCnt (predOf w) (BitVec.ofNat 6 (fld w 46 6)) (BitVec.ofNat 3 (fld w 20 3)))
    else if fld w 24 3 = 1 then verdict (zeros w [(40, 6), (34, 6), (28, 6), (27, 1), (23, 1), (0, 20)]) true true (.treadIss (predOf w) (BitVec.ofNat 6 (fld w 46 6)) (BitVec.ofNat 3 (fld w 20 3)))
    else if fld w 24 3 = 3 then verdict (zeros w [(40, 6), (34, 6), (28, 6), (27, 1), (23, 1), (0, 20)]) true true (.treadStop (predOf w) (BitVec.ofNat 6 (fld w 46 6)) (BitVec.ofNat 3 (fld w 20 3)))
    else if fld w 24 3 = 4 then verdict (zeros w [(40, 6), (34, 6), (28, 6), (27, 1), (23, 1), (0, 20)]) true true (.treadRetire (predOf w) (BitVec.ofNat 6 (fld w 46 6)) (BitVec.ofNat 3 (fld w 20 3)))
    else if fld w 24 3 = 2 then verdict (zeros w [(40, 6), (34, 6), (28, 6), (27, 1), (23, 1), (0, 20)]) true (decide (fld w 20 3 = 0)) (.treadProg (predOf w) (BitVec.ofNat 6 (fld w 46 6)))
    else if fld w 24 3 = 5 then verdict (zeros w [(40, 6), (34, 6), (28, 6), (27, 1), (23, 1), (0, 20)]) true (decide (fld w 20 3 = 0)) (.treadCrc (predOf w) (BitVec.ofNat 6 (fld w 46 6)))
    else verdict (zeros w [(27, 19), (23, 1), (0, 20)]) true false (.treadCnt (predOf w) (BitVec.ofNat 6 (fld w 46 6)) (BitVec.ofNat 3 (fld w 20 3)))
  | 18 => verdict (zeros w [(24, 4), (0, 20)]) true true (.atom (predOf w) (BitVec.ofNat 6 (fld w 46 6)) (BitVec.ofNat 6 (fld w 40 6)) (BitVec.ofNat 6 (fld w 34 6)) (BitVec.ofNat 6 (fld w 28 6)) (BitVec.ofNat 4 (fld w 20 4)))
  | 19 => verdict (zeros w [(40, 6), (34, 6), (28, 6), (0, 20)]) true (decide (fld w 20 8 = 0)) (.rel (predOf w) (BitVec.ofNat 6 (fld w 46 6)))
  | 20 =>
    if fld w 20 8 = 0 then verdict (zeros w [(28, 6), (0, 20)]) true true (.acq (predOf w) (BitVec.ofNat 6 (fld w 46 6)) (BitVec.ofNat 6 (fld w 40 6)) (BitVec.ofNat 6 (fld w 34 6)))
    else if fld w 20 8 = 1 then verdict (zeros w [(34, 6), (28, 6), (0, 20)]) true true (.acqCur (predOf w) (BitVec.ofNat 6 (fld w 46 6)) (BitVec.ofNat 6 (fld w 40 6)))
    else verdict (zeros w [(28, 6), (0, 20)]) true false (.acq (predOf w) (BitVec.ofNat 6 (fld w 46 6)) (BitVec.ofNat 6 (fld w 40 6)) (BitVec.ofNat 6 (fld w 34 6)))
  | 21 => verdict (zeros w [(40, 6), (34, 6), (28, 6), (0, 20)]) true (decide (fld w 20 8 = 0)) (.phase (predOf w) (BitVec.ofNat 6 (fld w 46 6)))
  | 22 => verdict (zeros w [(40, 6), (34, 6), (28, 6), (0, 20)]) true (decide (fld w 20 8 = 0)) (.ntdrain (predOf w) (BitVec.ofNat 6 (fld w 46 6)))
  | 23 =>
    if fld w 20 8 = 0 then verdict (zeros w [(40, 6), (34, 6), (28, 6), (0, 20)]) true true (.logstatPub (predOf w) (BitVec.ofNat 6 (fld w 46 6)))
    else if fld w 20 8 = 1 then verdict (zeros w [(40, 6), (34, 6), (28, 6), (0, 20)]) true true (.logstatTail (predOf w) (BitVec.ofNat 6 (fld w 46 6)))
    else if fld w 20 8 = 2 then verdict (zeros w [(40, 6), (34, 6), (28, 6), (0, 20)]) true true (.logstatFree (predOf w) (BitVec.ofNat 6 (fld w 46 6)))
    else if fld w 20 8 = 3 then verdict (zeros w [(40, 6), (34, 6), (28, 6), (0, 20)]) true true (.logstatView (predOf w) (BitVec.ofNat 6 (fld w 46 6)))
    else if fld w 20 8 = 4 then verdict (zeros w [(40, 6), (34, 6), (28, 6), (0, 20)]) true true (.logstatMembers (predOf w) (BitVec.ofNat 6 (fld w 46 6)))
    else if fld w 20 8 = 5 then verdict (zeros w [(40, 6), (34, 6), (28, 6), (0, 20)]) true true (.logstatSelf (predOf w) (BitVec.ofNat 6 (fld w 46 6)))
    else if fld w 20 8 = 6 then verdict (zeros w [(34, 6), (28, 6), (0, 20)]) true true (.logstatCursor (predOf w) (BitVec.ofNat 6 (fld w 46 6)) (BitVec.ofNat 6 (fld w 40 6)))
    else if fld w 20 8 = 7 then verdict (zeros w [(40, 6), (34, 6), (28, 6), (0, 20)]) true true (.logstatRbld (predOf w) (BitVec.ofNat 6 (fld w 46 6)))
    else verdict (zeros w [(28, 12), (0, 20)]) true false (.logstatPub (predOf w) (BitVec.ofNat 6 (fld w 46 6)))
  | 24 => verdict (zeros w [(46, 6), (25, 3), (17, 3)]) true true (.fbuild (predOf w) (BitVec.ofNat 6 (fld w 40 6)) (BitVec.ofNat 6 (fld w 34 6)) (BitVec.ofNat 6 (fld w 28 6)) (BitVec.ofNat 5 (fld w 20 5)) (BitVec.ofNat 8 (fld w 0 8)) (BitVec.ofNat 9 (fld w 8 9)))
  | 25 => verdict (zeros w [(40, 6), (34, 6), (28, 6), (0, 20)]) true (decide (fld w 20 8 = 0)) (.fsend (predOf w) (BitVec.ofNat 6 (fld w 46 6)))
  | 26 => verdict (zeros w [(34, 6), (28, 6), (3, 17)]) true (decide (fld w 20 8 = 0)) (.dwait (predOf w) (BitVec.ofNat 6 (fld w 46 6)) (BitVec.ofNat 6 (fld w 40 6)) (BitVec.ofNat 3 (fld w 0 3)))
  | 27 =>
    if fld w 20 3 = 0 then verdict (zeros w [(40, 6), (34, 6), (28, 6), (23, 5), (3, 17)]) true true (.dreadCnt (predOf w) (BitVec.ofNat 6 (fld w 46 6)) (BitVec.ofNat 3 (fld w 0 3)))
    else if fld w 20 3 = 1 then verdict (zeros w [(40, 6), (34, 6), (28, 6), (23, 5), (3, 17)]) true true (.dreadCons (predOf w) (BitVec.ofNat 6 (fld w 46 6)) (BitVec.ofNat 3 (fld w 0 3)))
    else if fld w 20 3 = 2 then verdict (zeros w [(40, 6), (34, 6), (28, 6), (23, 5), (3, 17)]) true true (.dreadDesc0 (predOf w) (BitVec.ofNat 6 (fld w 46 6)) (BitVec.ofNat 3 (fld w 0 3)))
    else if fld w 20 3 = 3 then verdict (zeros w [(40, 6), (34, 6), (28, 6), (23, 5), (3, 17)]) true true (.dreadDesc1 (predOf w) (BitVec.ofNat 6 (fld w 46 6)) (BitVec.ofNat 3 (fld w 0 3)))
    else if fld w 20 3 = 4 then verdict (zeros w [(40, 6), (34, 6), (28, 6), (23, 5), (3, 17)]) true true (.dreadNum (predOf w) (BitVec.ofNat 6 (fld w 46 6)) (BitVec.ofNat 3 (fld w 0 3)))
    else verdict (zeros w [(23, 23), (3, 17)]) true false (.dreadCnt (predOf w) (BitVec.ofNat 6 (fld w 46 6)) (BitVec.ofNat 3 (fld w 0 3)))
  | 28 =>
    if fld w 20 8 = 0 then verdict (zeros w [(40, 6), (34, 6), (28, 6), (3, 17)]) true true (.frecv (predOf w) (BitVec.ofNat 6 (fld w 46 6)) (BitVec.ofNat 3 (fld w 0 3)))
    else if fld w 20 8 = 1 then verdict (zeros w [(40, 6), (34, 6), (28, 6), (3, 17)]) true true (.frecvPeek (predOf w) (BitVec.ofNat 6 (fld w 46 6)) (BitVec.ofNat 3 (fld w 0 3)))
    else verdict (zeros w [(28, 18), (3, 17)]) true false (.frecv (predOf w) (BitVec.ofNat 6 (fld w 46 6)) (BitVec.ofNat 3 (fld w 0 3)))
  | 29 =>
    if fld w 20 2 = 0 then verdict (zeros w [(22, 2), (8, 12)]) true true (.cslotAlloc (predOf w) (BitVec.ofNat 6 (fld w 46 6)) (BitVec.ofNat 6 (fld w 40 6)) (BitVec.ofNat 6 (fld w 34 6)) (BitVec.ofNat 6 (fld w 28 6)) (BitVec.ofNat 4 (fld w 24 4)) (BitVec.ofNat 8 (fld w 0 8)))
    else if fld w 20 2 = 1 then verdict (zeros w [(24, 4), (22, 2), (8, 12)]) true true (.cslotFree (predOf w) (BitVec.ofNat 6 (fld w 46 6)) (BitVec.ofNat 6 (fld w 40 6)) (BitVec.ofNat 6 (fld w 34 6)) (BitVec.ofNat 6 (fld w 28 6)) (BitVec.ofNat 8 (fld w 0 8)))
    else if fld w 20 2 = 2 then verdict (zeros w [(24, 4), (22, 2), (8, 12)]) true true (.cslotRead (predOf w) (BitVec.ofNat 6 (fld w 46 6)) (BitVec.ofNat 6 (fld w 40 6)) (BitVec.ofNat 6 (fld w 34 6)) (BitVec.ofNat 6 (fld w 28 6)) (BitVec.ofNat 8 (fld w 0 8)))
    else verdict (zeros w [(22, 2), (8, 12)]) true false (.cslotAlloc (predOf w) (BitVec.ofNat 6 (fld w 46 6)) (BitVec.ofNat 6 (fld w 40 6)) (BitVec.ofNat 6 (fld w 34 6)) (BitVec.ofNat 6 (fld w 28 6)) (BitVec.ofNat 4 (fld w 24 4)) (BitVec.ofNat 8 (fld w 0 8)))
  | 30 => verdict (zeros w [(18, 2)]) true (decide (fld w 20 8 = 0)) (.swopen (predOf w) (BitVec.ofNat 6 (fld w 46 6)) (BitVec.ofNat 6 (fld w 40 6)) (BitVec.ofNat 6 (fld w 34 6)) (BitVec.ofNat 6 (fld w 28 6)) (BitVec.ofNat 6 (fld w 0 6)) (BitVec.ofNat 12 (fld w 6 12)))
  | 31 => verdict (zeros w [(10, 10)]) true (decide (fld w 20 8 = 0)) (.swsub (predOf w) (BitVec.ofNat 6 (fld w 46 6)) (BitVec.ofNat 6 (fld w 40 6)) (BitVec.ofNat 6 (fld w 34 6)) (BitVec.ofNat 6 (fld w 28 6)) (BitVec.ofNat 6 (fld w 0 6)) (BitVec.ofNat 4 (fld w 6 4)))
  | 32 => verdict (zeros w [(6, 14)]) true (decide (fld w 20 8 = 0)) (.swmerge (predOf w) (BitVec.ofNat 6 (fld w 46 6)) (BitVec.ofNat 6 (fld w 40 6)) (BitVec.ofNat 6 (fld w 34 6)) (BitVec.ofNat 6 (fld w 28 6)) (BitVec.ofNat 6 (fld w 0 6)))
  | 33 => verdict (zeros w [(34, 6), (28, 6), (6, 14)]) true (decide (fld w 20 8 = 0)) (.swread (predOf w) (BitVec.ofNat 6 (fld w 46 6)) (BitVec.ofNat 6 (fld w 40 6)) (BitVec.ofNat 6 (fld w 0 6)))
  | 34 => verdict (zeros w [(40, 6), (34, 6), (6, 14)]) true (decide (fld w 20 8 = 0)) (.swclose (predOf w) (BitVec.ofNat 6 (fld w 46 6)) (BitVec.ofNat 6 (fld w 28 6)) (BitVec.ofNat 6 (fld w 0 6)))
  | 35 => verdict (zeros w [(34, 6), (0, 20)]) true (decide (fld w 20 8 = 0)) (.launch (predOf w) (BitVec.ofNat 6 (fld w 46 6)) (BitVec.ofNat 6 (fld w 40 6)) (BitVec.ofNat 6 (fld w 28 6)))
  | 36 =>
    if fld w 20 8 = 0 then verdict (zeros w [(0, 20)]) true true (.mpostLaunch (predOf w) (BitVec.ofNat 6 (fld w 46 6)) (BitVec.ofNat 6 (fld w 40 6)) (BitVec.ofNat 6 (fld w 34 6)) (BitVec.ofNat 6 (fld w 28 6)))
    else if fld w 20 8 = 1 then verdict (zeros w [(0, 20)]) true true (.mpostMsg (predOf w) (BitVec.ofNat 6 (fld w 46 6)) (BitVec.ofNat 6 (fld w 40 6)) (BitVec.ofNat 6 (fld w 34 6)) (BitVec.ofNat 6 (fld w 28 6)))
    else verdict (zeros w [(0, 20)]) true false (.mpostLaunch (predOf w) (BitVec.ofNat 6 (fld w 46 6)) (BitVec.ofNat 6 (fld w 40 6)) (BitVec.ofNat 6 (fld w 34 6)) (BitVec.ofNat 6 (fld w 28 6)))
  | 37 =>
    if fld w 20 1 = 0 then verdict (zeros w [(46, 6), (34, 6), (28, 6), (21, 7), (10, 10)]) true true (.ctxsave (predOf w) (BitVec.ofNat 6 (fld w 40 6)) (BitVec.ofNat 10 (fld w 0 10)))
    else verdict (zeros w [(46, 6), (40, 6), (34, 6), (28, 6), (21, 7), (10, 10)]) true true (.ctxsaveSr (predOf w) (BitVec.ofNat 10 (fld w 0 10)))
  | 38 =>
    if fld w 20 1 = 0 then verdict (zeros w [(46, 6), (34, 6), (28, 6), (21, 7), (10, 10)]) true true (.ctxrstr (predOf w) (BitVec.ofNat 6 (fld w 40 6)) (BitVec.ofNat 10 (fld w 0 10)))
    else verdict (zeros w [(46, 6), (40, 6), (34, 6), (28, 6), (21, 7), (10, 10)]) true true (.ctxrstrSr (predOf w) (BitVec.ofNat 10 (fld w 0 10)))
  | _ => .error 1

/-- A slot word in a given slot (02 R38, R52, R53): the memory opcodes of the scalar class stand in slot 2 alone and
opcodes 46-60 of the vector class in slot 4 alone. -/
def decodeSlot (slot w : Nat) : Except Nat Instr :=
  let op := fld w 58 6
  let known : Bool := match slotClass slot with
    | .control => decide (op ≤ 19) | .scalar => decide (op ≤ 57)
    | .vector => decide (op ≤ 60) | .engine => decide (op ≤ 38)
  if !known then .error 1
  else if slot = 1 ∧ 54 ≤ op then .error 2
  else if slot = 3 ∧ 46 ≤ op then .error 2
  else if op ≠ 0 ∧ !(predOf w).ok then .error 3
  else match slotClass slot with
    | .control => decodeControl w
    | .scalar => decodeScalar w
    | .vector => decodeVector w
    | .engine => decodeEngine w

/-- The six slots of a bundle, each the legal instruction or the REASON of its first failing check (02 R38). -/
def bundleSlot (b : Nat) (k : Nat) : Nat := fld b (64 * k) 64

/-- A landing operation with every operand legal (12 R300, R305). -/
def landOk (i : Instr) : Option Instr := if i.wf then some i else none

/-- One of the 32 landing operations, or none for a reserved opcode or operand (12 R300, R305). -/
def decodeLanding (w : Nat) : Option Instr :=
  match fld w 10 6 with
  | 0 => if zeros w [(0, 10)] then landOk (.kill) else none
  | 1 => landOk (.pushi (BitVec.ofNat 10 (fld w 0 10)))
  | 2 => if zeros w [(2, 8)] then landOk (.pushh (BitVec.ofNat 2 (fld w 0 2))) else none
  | 3 => if zeros w [(3, 7)] then landOk (.poph (BitVec.ofNat 3 (fld w 0 3))) else none
  | 4 => if zeros w [(2, 8)] then landOk (.dup (BitVec.ofNat 2 (fld w 0 2))) else none
  | 5 => if zeros w [(0, 10)] then landOk (.swap) else none
  | 6 => if zeros w [(0, 10)] then landOk (.ferryAdd) else none
  | 7 => if zeros w [(0, 10)] then landOk (.ferrySub) else none
  | 8 => if zeros w [(0, 10)] then landOk (.ferryAnd) else none
  | 9 => if zeros w [(0, 10)] then landOk (.ferryOr) else none
  | 10 => if zeros w [(0, 10)] then landOk (.ferryXor) else none
  | 11 => if zeros w [(1, 9)] then landOk (.ferryMin (BitVec.ofNat 1 (fld w 0 1))) else none
  | 12 => if zeros w [(1, 9)] then landOk (.ferryMax (BitVec.ofNat 1 (fld w 0 1))) else none
  | 13 => if zeros w [(0, 10)] then landOk (.amax) else none
  | 14 => if zeros w [(1, 9)] then landOk (.eq (BitVec.ofNat 1 (fld w 0 1))) else none
  | 15 => if zeros w [(1, 9)] then landOk (.lt (BitVec.ofNat 1 (fld w 0 1))) else none
  | 16 => if zeros w [(4, 6)] then landOk (.jz (BitVec.ofNat 4 (fld w 0 4))) else none
  | 17 => if zeros w [(4, 6)] then landOk (.jmp (BitVec.ofNat 4 (fld w 0 4))) else none
  | 18 => if fld w 9 1 = 1 then (landOk (.ldwImm (BitVec.ofNat 9 (fld w 0 9)))) else (if zeros w [(0, 9)] then landOk (.ldw) else none)
  | 19 => if fld w 9 1 = 1 then (landOk (.addwImm (BitVec.ofNat 5 (fld w 4 5)) (BitVec.ofNat 4 (fld w 0 4)))) else (if zeros w [(4, 5)] then landOk (.addw (BitVec.ofNat 4 (fld w 0 4))) else none)
  | 20 => if zeros w [(0, 10)] then landOk (.cmb) else none
  | 21 => if fld w 4 1 = 0 then (if zeros w [(5, 5)] then landOk (.ctr (BitVec.ofNat 4 (fld w 0 4))) else none) else (if zeros w [(5, 5)] then landOk (.ctrInc (BitVec.ofNat 4 (fld w 0 4))) else none)
  | 22 => if zeros w [(3, 7)] then landOk (.node (BitVec.ofNat 3 (fld w 0 3))) else none
  | 23 => if zeros w [(1, 9)] then landOk (.hops (BitVec.ofNat 1 (fld w 0 1))) else none
  | 24 => if zeros w [(3, 7)] then landOk (.loadq (BitVec.ofNat 3 (fld w 0 3))) else none
  | 25 => if zeros w [(6, 4)] then landOk (.crd (BitVec.ofNat 6 (fld w 0 6))) else none
  | 26 => if zeros w [(6, 4)] then landOk (.cwr (BitVec.ofNat 6 (fld w 0 6))) else none
  | 27 => if zeros w [(0, 10)] then landOk (.clone) else none
  | 28 => if zeros w [(3, 7)] then landOk (.go (BitVec.ofNat 3 (fld w 0 3))) else none
  | 29 => if zeros w [(0, 10)] then landOk (.godst) else none
  | 30 => if zeros w [(0, 10)] then landOk (.dlvr) else none
  | 31 => if zeros w [(0, 10)] then landOk (.park) else none
  | _ => none

/-- The fields of a word, each a value at its lowest bit, laid side by side. -/
def pack : List (Nat × Nat) → Nat
  | [] => 0
  | (v, lo) :: rest => v * 2 ^ lo + pack rest

/-- A slot word: its header (02 R39), then its fields. -/
def slotWord (op : Nat) (p : Pred) (fs : List (Nat × Nat)) : Option (Nat × Nat) :=
  some (64, pack ([(op, 58), (p.pn.toNat, 57), (p.pi.toNat, 52)] ++ fs))

/-- A landing operation's halfword: its opcode, then its operands (12 R300). -/
def landWord (op : Nat) (fs : List (Nat × Nat)) : Option (Nat × Nat) :=
  some (16, pack ((op, 10) :: fs))

/-- The word of a slot instruction (64 bits) or of a landing operation (16 bits) with its number of bits; a step of
the device or of the host has no encoding. Written from the formats of 02 R42-R51 and 12 R300. -/
def encode : Instr → Option (Nat × Nat)
  | .nop => some (64, 0)
  | .bprep p bt target => slotWord 1 p [(bt.toNat, 48), (target.toNat, 0)]
  | .bpreps p bt a => slotWord 2 p [(bt.toNat, 48), (a.toNat, 42)]
  | .br p bt => slotWord 3 p [(bt.toNat, 48)]
  | .brl p bt link => slotWord 4 p [(bt.toNat, 48), (link.toNat, 0)]
  | .banksw p pd bt => slotWord 5 p [(bt.toNat, 48), (pd.toNat, 37)]
  | .loop p lx a endp => slotWord 6 p [(lx.toNat, 48), (a.toNat, 42), (endp.toNat, 0)]
  | .lbrk p lx => slotWord 7 p [(lx.toNat, 48)]
  | .vany p pd ps => slotWord 8 p [(pd.toNat, 37), (ps.toNat, 32)]
  | .vall p pd ps => slotWord 9 p [(pd.toNat, 37), (ps.toNat, 32)]
  | .setfmt p val mask => slotWord 10 p [(mask.toNat, 8), (val.toNat, 0)]
  | .setfmtScalar p a mask => slotWord 10 p [(a.toNat, 42), (1, 16), (mask.toNat, 8)]
  | .fenceI p pd bank => slotWord 11 p [(pd.toNat, 37), (bank.toNat, 0)]
  | .yield p => slotWord 12 p []
  | .exit p => slotWord 13 p []
  | .trap p val => slotWord 14 p [(val.toNat, 0)]
  | .eret p => slotWord 15 p []
  | .crgnOpen p bt mask => slotWord 16 p [(bt.toNat, 48), (mask.toNat, 0)]
  | .crgnClose p => slotWord 17 p []
  | .chkerr p a pd mask => slotWord 18 p [(a.toNat, 42), (pd.toNat, 37), (mask.toNat, 0)]
  | .pmark p marker => slotWord 19 p [(marker.toNat, 0)]
  | .add p d a b t => slotWord 1 p [(d.toNat, 46), (a.toNat, 40), (b.toNat, 34), (t.toNat, 16)]
  | .sub p d a b t => slotWord 2 p [(d.toNat, 46), (a.toNat, 40), (b.toNat, 34), (t.toNat, 16)]
  | .and p d a b t => slotWord 3 p [(d.toNat, 46), (a.toNat, 40), (b.toNat, 34), (t.toNat, 16)]
  | .or p d a b t => slotWord 4 p [(d.toNat, 46), (a.toNat, 40), (b.toNat, 34), (t.toNat, 16)]
  | .xor p d a b t => slotWord 5 p [(d.toNat, 46), (a.toNat, 40), (b.toNat, 34), (t.toNat, 16)]
  | .andn p d a b t => slotWord 6 p [(d.toNat, 46), (a.toNat, 40), (b.toNat, 34), (t.toNat, 16)]
  | .shl p d a b t => slotWord 7 p [(d.toNat, 46), (a.toNat, 40), (b.toNat, 34), (t.toNat, 16)]
  | .shr p d a b t => slotWord 8 p [(d.toNat, 46), (a.toNat, 40), (b.toNat, 34), (t.toNat, 16)]
  | .rotl p d a b t => slotWord 10 p [(d.toNat, 46), (a.toNat, 40), (b.toNat, 34), (t.toNat, 16)]
  | .min p d a b t => slotWord 11 p [(d.toNat, 46), (a.toNat, 40), (b.toNat, 34), (t.toNat, 16)]
  | .max p d a b t => slotWord 12 p [(d.toNat, 46), (a.toNat, 40), (b.toNat, 34), (t.toNat, 16)]
  | .mul p d a b t => slotWord 13 p [(d.toNat, 46), (a.toNat, 40), (b.toNat, 34), (t.toNat, 16)]
  | .mulh p d a b t => slotWord 14 p [(d.toNat, 46), (a.toNat, 40), (b.toNat, 34), (t.toNat, 16)]
  | .div p d a b t => slotWord 15 p [(d.toNat, 46), (a.toNat, 40), (b.toNat, 34), (t.toNat, 16)]
  | .rem p d a b t => slotWord 16 p [(d.toNat, 46), (a.toNat, 40), (b.toNat, 34), (t.toNat, 16)]
  | .shra p d a b t => slotWord 9 p [(d.toNat, 46), (a.toNat, 40), (b.toNat, 34), (t.toNat, 16)]
  | .clz p d a t => slotWord 17 p [(d.toNat, 46), (a.toNat, 40), (t.toNat, 16)]
  | .ctz p d a t => slotWord 18 p [(d.toNat, 46), (a.toNat, 40), (t.toNat, 16)]
  | .popc p d a t => slotWord 19 p [(d.toNat, 46), (a.toNat, 40), (t.toNat, 16)]
  | .sext p d a t => slotWord 20 p [(d.toNat, 46), (a.toNat, 40), (t.toNat, 16)]
  | .zext p d a t => slotWord 21 p [(d.toNat, 46), (a.toNat, 40), (t.toNat, 16)]
  | .addsh p d a b k t => slotWord 22 p [(d.toNat, 46), (a.toNat, 40), (b.toNat, 34), (k.toNat, 20), (t.toNat, 16)]
  | .sel p d a b c => slotWord 23 p [(d.toNat, 46), (a.toNat, 40), (b.toNat, 34), (c.toNat, 28), (7, 16)]
  | .cmp p d a b cond t => slotWord 24 p [(d.toNat, 46), (a.toNat, 40), (b.toNat, 34), (cond.toNat, 20), (t.toNat, 16)]
  | .addi p d a t imm => slotWord 25 p [(d.toNat, 46), (a.toNat, 40), (t.toNat, 36), (imm.toNat, 0)]
  | .andi p d a t imm => slotWord 26 p [(d.toNat, 46), (a.toNat, 40), (t.toNat, 36), (imm.toNat, 0)]
  | .ori p d a t imm => slotWord 27 p [(d.toNat, 46), (a.toNat, 40), (t.toNat, 36), (imm.toNat, 0)]
  | .xori p d a t imm => slotWord 28 p [(d.toNat, 46), (a.toNat, 40), (t.toNat, 36), (imm.toNat, 0)]
  | .shli p d a t imm => slotWord 29 p [(d.toNat, 46), (a.toNat, 40), (t.toNat, 36), (imm.toNat, 0)]
  | .shri p d a t imm => slotWord 30 p [(d.toNat, 46), (a.toNat, 40), (t.toNat, 36), (imm.toNat, 0)]
  | .shrai p d a t imm => slotWord 31 p [(d.toNat, 46), (a.toNat, 40), (t.toNat, 36), (imm.toNat, 0)]
  | .movi p d t imm => slotWord 32 p [(d.toNat, 46), (t.toNat, 36), (imm.toNat, 0)]
  | .movhi p d a imm => slotWord 33 p [(d.toNat, 46), (a.toNat, 40), (7, 36), (imm.toNat, 0)]
  | .cmpi p d a cond t imm => slotWord 34 p [(d.toNat, 46), (a.toNat, 40), (t.toNat, 36), (cond.toNat, 32), (imm.toNat, 0)]
  | .fadd p d a b t => slotWord 35 p [(d.toNat, 46), (a.toNat, 40), (b.toNat, 34), (t.toNat, 16)]
  | .fsub p d a b t => slotWord 36 p [(d.toNat, 46), (a.toNat, 40), (b.toNat, 34), (t.toNat, 16)]
  | .fmul p d a b t => slotWord 37 p [(d.toNat, 46), (a.toNat, 40), (b.toNat, 34), (t.toNat, 16)]
  | .ffma p d a b c t => slotWord 38 p [(d.toNat, 46), (a.toNat, 40), (b.toNat, 34), (c.toNat, 28), (t.toNat, 16)]
  | .fmin p d a b num t => slotWord 39 p [(d.toNat, 46), (a.toNat, 40), (b.toNat, 34), (num.toNat, 20), (t.toNat, 16)]
  | .fmax p d a b num t => slotWord 40 p [(d.toNat, 46), (a.toNat, 40), (b.toNat, 34), (num.toNat, 20), (t.toNat, 16)]
  | .fcmp p d a b cond t => slotWord 41 p [(d.toNat, 46), (a.toNat, 40), (b.toNat, 34), (cond.toNat, 20), (t.toNat, 16)]
  | .fcvt p d a ts td => slotWord 42 p [(d.toNat, 46), (a.toNat, 40), (ts.toNat, 20), (td.toNat, 16)]
  | .fclass p d a t => slotWord 43 p [(d.toNat, 46), (a.toNat, 40), (t.toNat, 16)]
  | .pand p d a b => slotWord 44 p [(d.toNat, 46), (a.toNat, 40), (b.toNat, 34)]
  | .por p d a b => slotWord 45 p [(d.toNat, 46), (a.toNat, 40), (b.toNat, 34)]
  | .pxor p d a b => slotWord 46 p [(d.toNat, 46), (a.toNat, 40), (b.toNat, 34)]
  | .pandn p d a b => slotWord 47 p [(d.toNat, 46), (a.toNat, 40), (b.toNat, 34)]
  | .pcnt p d a => slotWord 48 p [(d.toNat, 46), (a.toNat, 40)]
  | .pfirst p d a => slotWord 49 p [(d.toNat, 46), (a.toNat, 40)]
  | .movps p d a => slotWord 50 p [(d.toNat, 46), (a.toNat, 40)]
  | .movsp p d a => slotWord 51 p [(d.toNat, 46), (a.toNat, 40)]
  | .movsys p d num => slotWord 52 p [(d.toNat, 46), (num.toNat, 0)]
  | .setsys p a num => slotWord 53 p [(a.toNat, 40), (num.toNat, 0)]
  | .ld p d a x t sc off => slotWord 54 p [(d.toNat, 46), (a.toNat, 40), (x.toNat, 34), (t.toNat, 30), (sc.toNat, 27), (off.toNat, 0)]
  | .st p d a x t sc off => slotWord 55 p [(d.toNat, 46), (a.toNat, 40), (x.toNat, 34), (t.toNat, 30), (sc.toNat, 27), (off.toNat, 0)]
  | .stnt p d a x t sc off => slotWord 56 p [(d.toNat, 46), (a.toNat, 40), (x.toNat, 34), (t.toNat, 30), (sc.toNat, 27), (off.toNat, 0)]
  | .stcmb p d a x t sc ms off => slotWord 57 p [(d.toNat, 46), (a.toNat, 40), (x.toNat, 34), (t.toNat, 30), (sc.toNat, 27), (ms.toNat, 24), (off.toNat, 0)]
  | .vadd p d a b sat t => slotWord 1 p [(d.toNat, 46), (a.toNat, 40), (b.toNat, 34), (sat.toNat, 20), (t.toNat, 16)]
  | .vsub p d a b sat t => slotWord 2 p [(d.toNat, 46), (a.toNat, 40), (b.toNat, 34), (sat.toNat, 20), (t.toNat, 16)]
  | .vmul p d a b t => slotWord 3 p [(d.toNat, 46), (a.toNat, 40), (b.toNat, 34), (t.toNat, 16)]
  | .vmulh p d a b t => slotWord 4 p [(d.toNat, 46), (a.toNat, 40), (b.toNat, 34), (t.toNat, 16)]
  | .vshl p d a b t => slotWord 8 p [(d.toNat, 46), (a.toNat, 40), (b.toNat, 34), (t.toNat, 16)]
  | .vshr p d a b t => slotWord 9 p [(d.toNat, 46), (a.toNat, 40), (b.toNat, 34), (t.toNat, 16)]
  | .vmin p d a b t => slotWord 11 p [(d.toNat, 46), (a.toNat, 40), (b.toNat, 34), (t.toNat, 16)]
  | .vmax p d a b t => slotWord 12 p [(d.toNat, 46), (a.toNat, 40), (b.toNat, 34), (t.toNat, 16)]
  | .vand p d a b => slotWord 5 p [(d.toNat, 46), (a.toNat, 40), (b.toNat, 34), (5, 16)]
  | .vor p d a b => slotWord 6 p [(d.toNat, 46), (a.toNat, 40), (b.toNat, 34), (5, 16)]
  | .vxor p d a b => slotWord 7 p [(d.toNat, 46), (a.toNat, 40), (b.toNat, 34), (5, 16)]
  | .vshra p d a b t => slotWord 10 p [(d.toNat, 46), (a.toNat, 40), (b.toNat, 34), (t.toNat, 16)]
  | .vabs p d a sat t => slotWord 13 p [(d.toNat, 46), (a.toNat, 40), (sat.toNat, 20), (t.toNat, 16)]
  | .vcmp p d a b cond t => slotWord 14 p [(d.toNat, 46), (a.toNat, 40), (b.toNat, 34), (cond.toNat, 20), (t.toNat, 16)]
  | .vsel p d a b c => slotWord 15 p [(d.toNat, 46), (a.toNat, 40), (b.toNat, 34), (c.toNat, 28), (5, 16)]
  | .vdot4 p d a b c sat t => slotWord 16 p [(d.toNat, 46), (a.toNat, 40), (b.toNat, 34), (c.toNat, 28), (sat.toNat, 20), (t.toNat, 16)]
  | .vsatn p d a b uns t => slotWord 17 p [(d.toNat, 46), (a.toNat, 40), (b.toNat, 34), (uns.toNat, 20), (t.toNat, 16)]
  | .vwiden p d a part t => slotWord 18 p [(d.toNat, 46), (a.toNat, 40), (part.toNat, 20), (t.toNat, 16)]
  | .vpack p d a b t => slotWord 19 p [(d.toNat, 46), (a.toNat, 40), (b.toNat, 34), (t.toNat, 16)]
  | .vpackT2 p d a part => slotWord 19 p [(d.toNat, 46), (a.toNat, 40), (part.toNat, 20), (13, 16)]
  | .vunpack p d a part => slotWord 20 p [(d.toNat, 46), (a.toNat, 40), (part.toNat, 20), (13, 16)]
  | .vfadd p d a b t => slotWord 21 p [(d.toNat, 46), (a.toNat, 40), (b.toNat, 34), (t.toNat, 16)]
  | .vfsub p d a b t => slotWord 22 p [(d.toNat, 46), (a.toNat, 40), (b.toNat, 34), (t.toNat, 16)]
  | .vfmul p d a b t => slotWord 23 p [(d.toNat, 46), (a.toNat, 40), (b.toNat, 34), (t.toNat, 16)]
  | .vffma p d a b c t => slotWord 24 p [(d.toNat, 46), (a.toNat, 40), (b.toNat, 34), (c.toNat, 28), (t.toNat, 16)]
  | .vfmin p d a b num t => slotWord 25 p [(d.toNat, 46), (a.toNat, 40), (b.toNat, 34), (num.toNat, 20), (t.toNat, 16)]
  | .vfmax p d a b num t => slotWord 26 p [(d.toNat, 46), (a.toNat, 40), (b.toNat, 34), (num.toNat, 20), (t.toNat, 16)]
  | .vfcmp p d a b cond => slotWord 27 p [(d.toNat, 46), (a.toNat, 40), (b.toNat, 34), (cond.toNat, 20), (8, 16)]
  | .vfrcp p d a => slotWord 28 p [(d.toNat, 46), (a.toNat, 40), (8, 16)]
  | .vfrsq p d a => slotWord 29 p [(d.toNat, 46), (a.toNat, 40), (8, 16)]
  | .vfexp2 p d a => slotWord 30 p [(d.toNat, 46), (a.toNat, 40), (8, 16)]
  | .vflog2 p d a => slotWord 31 p [(d.toNat, 46), (a.toNat, 40), (8, 16)]
  | .vfcvt p d a ts part td => slotWord 32 p [(d.toNat, 46), (a.toNat, 40), (part.toNat, 24), (ts.toNat, 20), (td.toNat, 16)]
  | .vquant p d a k part td => slotWord 33 p [(d.toNat, 46), (a.toNat, 40), (k.toNat, 34), (part.toNat, 24), (8, 20), (td.toNat, 16)]
  | .vdeq p d a k ts part => slotWord 34 p [(d.toNat, 46), (a.toNat, 40), (k.toNat, 34), (part.toNat, 24), (ts.toNat, 20), (8, 16)]
  | .vfclass p d a => slotWord 35 p [(d.toNat, 46), (a.toNat, 40), (8, 16)]
  | .vred p d a op t => slotWord 36 p [(d.toNat, 46), (a.toNat, 40), (op.toNat, 20), (t.toNat, 16)]
  | .vperm p d a b c => slotWord 37 p [(d.toNat, 46), (a.toNat, 40), (b.toNat, 34), (c.toNat, 28), (5, 16)]
  | .vslide p d a b n => slotWord 38 p [(d.toNat, 46), (a.toNat, 40), (b.toNat, 34), (n.toNat, 20), (5, 16)]
  | .vbcast p d a => slotWord 39 p [(d.toNat, 46), (a.toNat, 40), (5, 16)]
  | .vbcastLane p d a n => slotWord 39 p [(d.toNat, 46), (a.toNat, 40), (n.toNat, 28), (1, 20), (5, 16)]
  | .viota p d a b => slotWord 40 p [(d.toNat, 46), (a.toNat, 40), (b.toNat, 34), (5, 16)]
  | .vcountge p d a b t => slotWord 41 p [(d.toNat, 46), (a.toNat, 40), (b.toNat, 34), (t.toNat, 16)]
  | .vcompress p d a => slotWord 42 p [(d.toNat, 46), (a.toNat, 40), (5, 16)]
  | .vexpand p d a => slotWord 43 p [(d.toNat, 46), (a.toNat, 40), (5, 16)]
  | .movvs p d a n t => slotWord 44 p [(d.toNat, 46), (a.toNat, 40), (n.toNat, 28), (t.toNat, 16)]
  | .movsv p d a n => slotWord 45 p [(d.toNat, 46), (a.toNat, 40), (n.toNat, 28), (5, 16)]
  | .vld p d a x sc off => slotWord 46 p [(d.toNat, 46), (a.toNat, 40), (x.toNat, 34), (5, 30), (sc.toNat, 27), (off.toNat, 0)]
  | .vlds p d a x sc off => slotWord 47 p [(d.toNat, 46), (a.toNat, 40), (x.toNat, 34), (5, 30), (sc.toNat, 27), (off.toNat, 0)]
  | .vldx p d a x sc off => slotWord 48 p [(d.toNat, 46), (a.toNat, 40), (x.toNat, 34), (5, 30), (sc.toNat, 27), (off.toNat, 0)]
  | .vst p d a x sc off => slotWord 49 p [(d.toNat, 46), (a.toNat, 40), (x.toNat, 34), (5, 30), (sc.toNat, 27), (off.toNat, 0)]
  | .vsts p d a x sc off => slotWord 50 p [(d.toNat, 46), (a.toNat, 40), (x.toNat, 34), (5, 30), (sc.toNat, 27), (off.toNat, 0)]
  | .vstx p d a x sc off => slotWord 51 p [(d.toNat, 46), (a.toNat, 40), (x.toNat, 34), (5, 30), (sc.toNat, 27), (off.toNat, 0)]
  | .vstnt p d a x sc off => slotWord 52 p [(d.toNat, 46), (a.toNat, 40), (x.toNat, 34), (5, 30), (sc.toNat, 27), (off.toNat, 0)]
  | .vstcmb p d a x t sc ms off => slotWord 53 p [(d.toNat, 46), (a.toNat, 40), (x.toNat, 34), (t.toNat, 30), (sc.toNat, 27), (ms.toNat, 24), (off.toNat, 0)]
  | .txin p a => slotWord 54 p [(a.toNat, 40), (5, 16)]
  | .txout p d => slotWord 55 p [(d.toNat, 46), (5, 16)]
  | .txclr p => slotWord 56 p []
  | .vaccrd p d c a col => slotWord 57 p [(d.toNat, 46), (a.toNat, 40), (c.toNat, 28), (col.toNat, 20), (5, 16)]
  | .vaccwr p d b a col => slotWord 58 p [(d.toNat, 46), (a.toNat, 40), (b.toNat, 34), (col.toNat, 20), (5, 16)]
  | .vspill p d a x sc off => slotWord 59 p [(d.toNat, 46), (a.toNat, 40), (x.toNat, 34), (5, 30), (sc.toNat, 27), (off.toNat, 0)]
  | .vfill p d a x sc off => slotWord 60 p [(d.toNat, 46), (a.toNat, 40), (x.toNat, 34), (5, 30), (sc.toNat, 27), (off.toNat, 0)]
  | .mma p d ta tb => slotWord 1 p [(d.toNat, 46), (tb.toNat, 24), (ta.toNat, 20)]
  | .mzero p d mask => slotWord 2 p [(d.toNat, 46), (mask.toNat, 0)]
  | .mload p d c a b t nrow ncol => slotWord 3 p [(d.toNat, 46), (a.toNat, 40), (b.toNat, 34), (c.toNat, 28), (t.toNat, 20), (ncol.toNat, 7), (nrow.toNat, 0)]
  | .mstore p d c a b t tt nrow ncol => slotWord 4 p [(d.toNat, 46), (a.toNat, 40), (b.toNat, 34), (c.toNat, 28), (tt.toNat, 24), (t.toNat, 20), (ncol.toNat, 7), (nrow.toNat, 0)]
  | .msetp p c a => slotWord 5 p [(a.toNat, 40), (c.toNat, 28)]
  | .mgetp p d c => slotWord 6 p [(d.toNat, 46), (c.toNat, 28)]
  | .seal p d a b => slotWord 7 p [(d.toNat, 46), (a.toNat, 40), (b.toNat, 34)]
  | .sealAcc p d c => slotWord 7 p [(d.toNat, 46), (c.toNat, 28), (1, 20)]
  | .scheck p d a b c => slotWord 8 p [(d.toNat, 46), (a.toNat, 40), (b.toNat, 34), (c.toNat, 28)]
  | .scheckAcc p d c a => slotWord 8 p [(d.toNat, 46), (a.toNat, 40), (c.toNat, 28), (1, 20)]
  | .sfix p d a b c => slotWord 9 p [(d.toNat, 46), (a.toNat, 40), (b.toNat, 34), (c.toNat, 28)]
  | .sfixAcc p d c a => slotWord 9 p [(d.toNat, 46), (a.toNat, 40), (c.toNat, 28), (1, 20)]
  | .squery p d a b => slotWord 10 p [(d.toNat, 46), (a.toNat, 40), (b.toNat, 34)]
  | .squeryAcc p d c b => slotWord 10 p [(d.toNat, 46), (b.toNat, 34), (c.toNat, 28), (1, 20)]
  | .cpy p d a b c => slotWord 11 p [(d.toNat, 46), (a.toNat, 40), (b.toNat, 34), (c.toNat, 28)]
  | .cpy2 p d a b c rows rlen => slotWord 12 p [(d.toNat, 46), (a.toNat, 40), (b.toNat, 34), (c.toNat, 28), (rlen.toNat, 10), (rows.toNat, 0)]
  | .cpyqIn p d c a b stride => slotWord 13 p [(d.toNat, 46), (a.toNat, 40), (b.toNat, 34), (c.toNat, 28), (stride.toNat, 0)]
  | .cpyqOut p d c a b stride => slotWord 13 p [(d.toNat, 46), (a.toNat, 40), (b.toNat, 34), (c.toNat, 28), (1, 20), (stride.toNat, 0)]
  | .cpymc p d a b c clusters cores dom => slotWord 14 p [(d.toNat, 46), (a.toNat, 40), (b.toNat, 34), (c.toNat, 28), (dom.toNat, 16), (cores.toNat, 8), (clusters.toNat, 0)]
  | .cpycrc p d a b c => slotWord 15 p [(d.toNat, 46), (a.toNat, 40), (b.toNat, 34), (c.toNat, 28)]
  | .cpycrcChk p d b c => slotWord 15 p [(d.toNat, 46), (b.toNat, 34), (c.toNat, 28), (1, 20)]
  | .twait p d tl a => slotWord 16 p [(d.toNat, 46), (a.toNat, 40), (tl.toNat, 20)]
  | .twaitImm p d tl n => slotWord 16 p [(d.toNat, 46), (1, 23), (tl.toNat, 20), (n.toNat, 0)]
  | .treadCnt p d tl => slotWord 17 p [(d.toNat, 46), (tl.toNat, 20)]
  | .treadIss p d tl => slotWord 17 p [(d.toNat, 46), (1, 24), (tl.toNat, 20)]
  | .treadStop p d tl => slotWord 17 p [(d.toNat, 46), (3, 24), (tl.toNat, 20)]
  | .treadRetire p d tl => slotWord 17 p [(d.toNat, 46), (4, 24), (tl.toNat, 20)]
  | .treadProg p d => slotWord 17 p [(d.toNat, 46), (2, 24)]
  | .treadCrc p d => slotWord 17 p [(d.toNat, 46), (5, 24)]
  | .atom p d a b c code => slotWord 18 p [(d.toNat, 46), (a.toNat, 40), (b.toNat, 34), (c.toNat, 28), (code.toNat, 20)]
  | .rel p d => slotWord 19 p [(d.toNat, 46)]
  | .acq p d a b => slotWord 20 p [(d.toNat, 46), (a.toNat, 40), (b.toNat, 34)]
  | .acqCur p d a => slotWord 20 p [(d.toNat, 46), (a.toNat, 40), (1, 20)]
  | .phase p d => slotWord 21 p [(d.toNat, 46)]
  | .ntdrain p d => slotWord 22 p [(d.toNat, 46)]
  | .logstatPub p d => slotWord 23 p [(d.toNat, 46)]
  | .logstatTail p d => slotWord 23 p [(d.toNat, 46), (1, 20)]
  | .logstatFree p d => slotWord 23 p [(d.toNat, 46), (2, 20)]
  | .logstatView p d => slotWord 23 p [(d.toNat, 46), (3, 20)]
  | .logstatMembers p d => slotWord 23 p [(d.toNat, 46), (4, 20)]
  | .logstatSelf p d => slotWord 23 p [(d.toNat, 46), (5, 20)]
  | .logstatCursor p d a => slotWord 23 p [(d.toNat, 46), (a.toNat, 40), (6, 20)]
  | .logstatRbld p d => slotWord 23 p [(d.toNat, 46), (7, 20)]
  | .fbuild p a b c opts tpl clen => slotWord 24 p [(a.toNat, 40), (b.toNat, 34), (c.toNat, 28), (opts.toNat, 20), (clen.toNat, 8), (tpl.toNat, 0)]
  | .fsend p d => slotWord 25 p [(d.toNat, 46)]
  | .dwait p d a dq => slotWord 26 p [(d.toNat, 46), (a.toNat, 40), (dq.toNat, 0)]
  | .dreadCnt p d dq => slotWord 27 p [(d.toNat, 46), (dq.toNat, 0)]
  | .dreadCons p d dq => slotWord 27 p [(d.toNat, 46), (1, 20), (dq.toNat, 0)]
  | .dreadDesc0 p d dq => slotWord 27 p [(d.toNat, 46), (2, 20), (dq.toNat, 0)]
  | .dreadDesc1 p d dq => slotWord 27 p [(d.toNat, 46), (3, 20), (dq.toNat, 0)]
  | .dreadNum p d dq => slotWord 27 p [(d.toNat, 46), (4, 20), (dq.toNat, 0)]
  | .frecv p d dq => slotWord 28 p [(d.toNat, 46), (dq.toNat, 0)]
  | .frecvPeek p d dq => slotWord 28 p [(d.toNat, 46), (1, 20), (dq.toNat, 0)]
  | .cslotAlloc p d a b c code tpl => slotWord 29 p [(d.toNat, 46), (a.toNat, 40), (b.toNat, 34), (c.toNat, 28), (code.toNat, 24), (tpl.toNat, 0)]
  | .cslotFree p d a b c tpl => slotWord 29 p [(d.toNat, 46), (a.toNat, 40), (b.toNat, 34), (c.toNat, 28), (1, 20), (tpl.toNat, 0)]
  | .cslotRead p d a b c tpl => slotWord 29 p [(d.toNat, 46), (a.toNat, 40), (b.toNat, 34), (c.toNat, 28), (2, 20), (tpl.toNat, 0)]
  | .swopen p d a b c id expect => slotWord 30 p [(d.toNat, 46), (a.toNat, 40), (b.toNat, 34), (c.toNat, 28), (expect.toNat, 6), (id.toNat, 0)]
  | .swsub p d a b c id q => slotWord 31 p [(d.toNat, 46), (a.toNat, 40), (b.toNat, 34), (c.toNat, 28), (q.toNat, 6), (id.toNat, 0)]
  | .swmerge p d a b c id => slotWord 32 p [(d.toNat, 46), (a.toNat, 40), (b.toNat, 34), (c.toNat, 28), (id.toNat, 0)]
  | .swread p d a id => slotWord 33 p [(d.toNat, 46), (a.toNat, 40), (id.toNat, 0)]
  | .swclose p d c id => slotWord 34 p [(d.toNat, 46), (c.toNat, 28), (id.toNat, 0)]
  | .launch p d a c => slotWord 35 p [(d.toNat, 46), (a.toNat, 40), (c.toNat, 28)]
  | .mpostLaunch p d a b c => slotWord 36 p [(d.toNat, 46), (a.toNat, 40), (b.toNat, 34), (c.toNat, 28)]
  | .mpostMsg p d a b c => slotWord 36 p [(d.toNat, 46), (a.toNat, 40), (b.toNat, 34), (c.toNat, 28), (1, 20)]
  | .ctxsave p a groups => slotWord 37 p [(a.toNat, 40), (groups.toNat, 0)]
  | .ctxsaveSr p groups => slotWord 37 p [(1, 20), (groups.toNat, 0)]
  | .ctxrstr p a groups => slotWord 38 p [(a.toNat, 40), (groups.toNat, 0)]
  | .ctxrstrSr p groups => slotWord 38 p [(1, 20), (groups.toNat, 0)]
  | .kill => landWord 0 []
  | .pushi i => landWord 1 [(i.toNat, 0)]
  | .pushh k => landWord 2 [(k.toNat, 0)]
  | .poph k => landWord 3 [(k.toNat, 0)]
  | .dup k => landWord 4 [(k.toNat, 0)]
  | .swap => landWord 5 []
  | .ferryAdd => landWord 6 []
  | .ferrySub => landWord 7 []
  | .ferryAnd => landWord 8 []
  | .ferryOr => landWord 9 []
  | .ferryXor => landWord 10 []
  | .ferryMin f => landWord 11 [(f.toNat, 0)]
  | .ferryMax f => landWord 12 [(f.toNat, 0)]
  | .amax => landWord 13 []
  | .eq z => landWord 14 [(z.toNat, 0)]
  | .lt u => landWord 15 [(u.toNat, 0)]
  | .jz k => landWord 16 [(k.toNat, 0)]
  | .jmp k => landWord 17 [(k.toNat, 0)]
  | .ldwImm i => landWord 18 [(1, 9), (i.toNat, 0)]
  | .ldw => landWord 18 []
  | .addwImm i c => landWord 19 [(1, 9), (i.toNat, 4), (c.toNat, 0)]
  | .addw c => landWord 19 [(c.toNat, 0)]
  | .cmb => landWord 20 []
  | .ctr k => landWord 21 [(k.toNat, 0)]
  | .ctrInc k => landWord 21 [(1, 4), (k.toNat, 0)]
  | .node m => landWord 22 [(m.toNat, 0)]
  | .hops s => landWord 23 [(s.toNat, 0)]
  | .loadq k => landWord 24 [(k.toNat, 0)]
  | .crd k => landWord 25 [(k.toNat, 0)]
  | .cwr k => landWord 26 [(k.toNat, 0)]
  | .clone => landWord 27 []
  | .go port => landWord 28 [(port.toNat, 0)]
  | .godst => landWord 29 []
  | .dlvr => landWord 30 []
  | .park => landWord 31 []
  | .cspWrite _ _ => none
  | .lttCommit _ _ => none
  | .logcWrite _ _ => none
  | .logxWrite _ _ => none
  | .tlbiWrite _ _ => none
  | .smpcWrite _ _ => none
  | .smptWrite _ _ => none
  | .tmrWrite _ _ _ => none
  | .pcselWrite _ _ _ => none
  | .mailboxRegister _ _ => none
  | .ownershipTableWrite _ _ _ => none
  | .cxlMemWrite _ _ _ => none
  | .cxlMemRead _ => none
  | .launchAccept _ => none
  | .faultReply _ => none
  | .faultReplyTimeout _ => none
  | .cackWrite _ _ => none
  | .bar0WriteDiscarded _ _ => none
  | .completionWrite _ => none
  | .scheduleDecision _ => none
  | .energyCharge _ _ _ => none
  | .agingPromote _ _ => none
  | .torusMemberReport _ _ _ _ => none
  | .torusMemberTimeout _ _ => none
  | .residencyLimit _ => none
  | .overdueResult _ _ => none
  | .timerExpire _ _ => none
  | .logFull _ _ => none
  | .preemptDivert _ _ => none
  | .fullSave _ _ => none
  | .stubAbandon _ _ => none
  | .groupSave _ _ _ _ => none
  | .contextRestore _ _ => none
  | .exitDrainEnd _ _ => none
  | .fenceIDone _ => none
  | .copyComplete _ _ => none
  | .ntStorePerform _ => none
  | .segmentPublish _ => none
  | .phaseComplete _ _ _ => none
  | .mmaRowCommit _ => none
  | .matrixComplete _ => none
  | .subnormalAssist _ => none
  | .lockstepSelftest _ _ => none
  | .atomHome _ _ => none
  | .atomReply _ _ => none
  | .atomRetransmit _ _ => none
  | .sweepPageOffer _ => none
  | .sweepCatchupPass _ => none
  | .ferryReceive _ _ => none
  | .landingStart => none
  | .mooringReland => none
  | .escapeTimeout _ => none
  | .combineSlotTimeout _ => none
  | .reachabilityNotice _ _ => none
  | .frameReceive _ _ _ _ _ => none
  | .frameClose _ _ => none
  | .verdictMark _ _ _ => none
  | .retryRequest _ _ _ => none
  | .linkAck _ _ _ => none
  | .ackTimeout _ _ => none
  | .rekeyStart _ _ => none
  | .rekeyDeadline _ _ => none
  | .laneFault _ _ _ => none
  | .linkTrainDone _ _ _ => none
  | .linkKeyed _ _ _ => none
  | .sliceScrub _ _ _ => none
  | .hbmScrub _ _ => none
  | .hbmRowSpare _ _ => none
  | .coldReset => none
  | .startStageDone _ => none
  | .startStageTimeout _ => none
  | .clockThrottle _ => none
  | .thermalTrip => none
  | .mgmtLinkLoss => none
  | .ptpMessage _ => none
  | .sampleTick _ => none
  | .counterRotate _ _ _ => none
  | .scstop _ => none
  | .scresume _ => none
  | .partWrite _ _ _ => none
  | .freezeClear _ _ _ => none
  | .elogRead _ _ _ _ => none
  | .portEnable _ _ _ => none
  | .linkReset _ _ => none
  | .imageLoad _ _ _ => none
  | .minimalClear _ => none
  | .partSwapOut _ _ => none
  | .partSwapIn _ _ => none
  | .partDestroy _ _ => none
  | .ownerSet _ _ => none
  | .keyLoad _ _ _ => none
  | .getVersion => none
  | .getCapabilities => none
  | .negotiateAlgorithms _ => none
  | .getDigests => none
  | .getCertificate _ => none
  | .challenge _ _ => none
  | .getMeasurements _ => none
  | .keyExchange _ _ => none
  | .finish _ _ => none
  | .keyUpdate _ => none
  | .endSession _ => none
  | .getEncapsulatedRequest _ => none
  | .deliverEncapsulatedResponse _ _ _ => none
  | .spdmUnsupported _ => none
  | .doeUnsupported _ => none
  | .debugNonce _ => none
  | .debugToken _ => none
  | .fetchTrap _ => none
  | .mooredFaultService _ _ => none
  | .holdSignal _ _ _ => none
  | .statusTimeUpdate _ => none
  | .mgmtRequestReject _ _ _ => none

/-- The instruction that the decoder reads from a word of the opcode table. The table gives bits to the landing
operations alone, each one 16-bit halfword of a program flit (12 R300). DEDUCED, log entry 11. -/
def decodeTableWord (nbits w : Nat) : Option Instr :=
  if nbits = 16 then decodeLanding (w % 2 ^ 16) else none

end Sys2Proof
end

