-- ==== Sys2Proof/Machine/Flags.lean ====
section
/-! DEFINITION. Number formats, rounding, conversions and the floating-point flags they raise (03 R74-R97): pure
functions on bits. A flag set is the five bits of SYS.FPF: NV 1, DZ 2, OF 4, UF 8, NX 16 (03 R93). -/

namespace Sys2Proof.Machine

/-- A floating-point format: fraction bits, exponent bits, bias (03 R74); `noInf` marks E4M3, whose all-ones exponent
holds normal values and one NaN (03 R75). -/
structure Fmt where
  w     : Nat
  ebits : Nat
  bias  : Nat
  noInf : Bool
deriving DecidableEq, Repr

def fp32 : Fmt := ⟨23, 8, 127, false⟩
def fp16 : Fmt := ⟨10, 5, 15, false⟩
def bf16 : Fmt := ⟨7, 8, 127, false⟩
def e4m3 : Fmt := ⟨3, 4, 7, true⟩
def e5m2 : Fmt := ⟨2, 5, 15, false⟩

/-- The format of a floating-point type code (02 R46, 03 R74). -/
def fmtOf (t : Nat) : Fmt :=
  match t with
  | 9 => fp16
  | 10 => bf16
  | 11 => e4m3
  | 12 => e5m2
  | _ => fp32

/-- Precision, exponent range and largest finite significand of a format (03 R74, R76). -/
def Fmt.p (f : Fmt) : Nat := f.w + 1
def Fmt.emin (f : Fmt) : Int := 1 - f.bias
def Fmt.emax (f : Fmt) : Int := if f.noInf then 8 else f.bias
def Fmt.maxSig (f : Fmt) : Nat := if f.noInf then 14 else 2 ^ f.p - 1
def Fmt.width (f : Fmt) : Nat := 1 + f.ebits + f.w

/-- An exact value: NaN, an infinity, or (−1)^neg × m × 2^e (03 R74, R75). -/
inductive FVal where
  | nan
  | inf (neg : Bool)
  | fin (neg : Bool) (m : Nat) (e : Int)
deriving DecidableEq, Repr

/-- Sign bit in place. -/
def Fmt.signBit (f : Fmt) (neg : Bool) : Nat := if neg then 2 ^ (f.ebits + f.w) else 0

/-- The value that a pattern of the format holds (03 R74, R75). -/
def Fmt.read (f : Fmt) (x : Nat) : FVal :=
  let neg := decide (fld x (f.ebits + f.w) 1 = 1)
  let e := fld x f.w f.ebits
  let fr := fld x 0 f.w
  if e = 2 ^ f.ebits - 1 ∧ !f.noInf then
    if fr = 0 then .inf neg else .nan
  else if f.noInf ∧ e = 15 ∧ fr = 7 then .nan
  else if e = 0 then .fin neg fr (f.emin - f.w)
  else .fin neg (2 ^ f.w + fr) ((e : Int) - f.bias - f.w)

/-- The canonical NaN, the infinity and the largest finite pattern of a format (03 R76). -/
def Fmt.nan (f : Fmt) : Nat :=
  if f.noInf then 0x7F else (2 ^ f.ebits - 1) * 2 ^ f.w + 2 ^ (f.w - 1)
def Fmt.inf (f : Fmt) (neg : Bool) : Nat := f.signBit neg + (2 ^ f.ebits - 1) * 2 ^ f.w
def Fmt.maxFin (f : Fmt) (neg : Bool) : Nat :=
  f.signBit neg + (if f.noInf then 0x7E else (2 ^ f.ebits - 1) * 2 ^ f.w - 1)

abbrev Flag5 := BitVec 5
def flagNV : Flag5 := 1
def flagDZ : Flag5 := 2
def flagOF : Flag5 := 4
def flagUF : Flag5 := 8
def flagNX : Flag5 := 16

/-- The controls of FMT (03 R95). -/
def rndOf (fmt : BitVec 6) : Nat := fld fmt.toNat 0 2
def satOf (fmt : BitVec 6) : Bool := fmt.getLsbD 2
def subnOf (fmt : BitVec 6) : Bool := fmt.getLsbD 3
def tolOf (fmt : BitVec 6) : Nat := fld fmt.toNat 4 2

/-- `m / 2^sh` rounded to an integer for a value of the given sign, and whether it was inexact (03 R81, R82). -/
def roundShift (rnd : Nat) (neg : Bool) (m sh : Nat) : Nat × Bool :=
  let lo := m / 2 ^ sh
  let r := m % 2 ^ sh
  let half := 2 ^ sh / 2
  let up : Bool := match rnd with
    | 0 => decide (half < r) || (decide (r = half) && decide (lo % 2 = 1))
    | 1 => false
    | 2 => neg
    | _ => !neg
  if r = 0 then (lo, false) else (if up then lo + 1 else lo, true)

/-- The significand of `m × 2^e` counted in units of `2^q` (03 R82). -/
def roundAt (rnd : Nat) (neg : Bool) (m : Nat) (e q : Int) : Nat × Bool :=
  if q ≤ e then (m * 2 ^ (e - q).toNat, false) else roundShift rnd neg m (q - e).toNat

/-- What an overflow delivers (03 R84). -/
def overflowResult (f : Fmt) (neg : Bool) (rnd : Nat) (sat : Bool) : Nat :=
  let away : Bool := match rnd with
    | 0 => true
    | 1 => false
    | 2 => neg
    | _ => !neg
  let fp8 := f.noInf || f.w == 2
  if (fp8 && sat) || !away then f.maxFin neg
  else if f.noInf then f.nan
  else f.inf neg

/-- `round_to` of a non-zero exact value: the pattern and the flags OF, UF, NX (03 R82, R84, R88). -/
def roundFin (f : Fmt) (rnd : Nat) (sat : Bool) (neg : Bool) (m : Nat) (e : Int) : Nat × Flag5 :=
  let top : Int := (Nat.log2 m : Int) + e
  let q : Int := max top f.emin - f.p + 1
  let (y, inexact) := roundAt rnd neg m e q
  let qmax : Int := f.emax - f.p + 1
  let big : Bool := decide (qmax ≤ q) && decide (f.maxSig < y * 2 ^ (q - qmax).toNat)
  if big then (overflowResult f neg rnd sat, flagOF ||| flagNX)
  else
    let tiny : Bool :=
      if f.emin ≤ top then false
      else if top < f.emin - 1 then true
      else decide ((roundAt rnd neg m e (top - f.p + 1)).1 < 2 ^ f.p)
    let bits : Nat :=
      if y < 2 ^ f.w then y
      else ((q + f.p - 1 + f.bias).toNat) * 2 ^ f.w + (y - 2 ^ f.w)
    (f.signBit neg + bits,
      (if inexact then flagNX else 0) ||| (if tiny && inexact then flagUF else 0))

/-- Rounding any value to a floating-point format; an infinity into E4M3 follows 03 R85. -/
def roundVal (f : Fmt) (rnd : Nat) (sat : Bool) (x : FVal) : Nat × Flag5 :=
  match x with
  | .nan => (f.nan, 0)
  | .inf neg =>
    if f.noInf then ((if sat then f.maxFin neg else f.nan), flagNV) else (f.inf neg, 0)
  | .fin neg m e => if m = 0 then (f.signBit neg, 0) else roundFin f rnd sat neg m e

/-- The signed integer `±m × 2^(e - base)` of a finite value, for a base no larger than its exponent. -/
def alignTo (base : Int) (neg : Bool) (m : Nat) (e : Int) : Int :=
  let a : Int := (m * 2 ^ (e - base).toNat : Nat)
  if neg then -a else a

/-- The exact value `n × 2^e`; an exact zero takes the given sign (03 R83). -/
def ofInt (n : Int) (e : Int) (zneg : Bool) : FVal :=
  if n = 0 then .fin zneg 0 0 else .fin (decide (n < 0)) n.natAbs e

/-- The exact sum of two values and the NV flag of ∞ − ∞ (03 R83, R85, R86). -/
def addVal (rnd : Nat) (x y : FVal) : FVal × Flag5 :=
  match x, y with
  | .nan, _ => (.nan, 0)
  | _, .nan => (.nan, 0)
  | .inf a, .inf b => if a = b then (.inf a, 0) else (.nan, flagNV)
  | .inf a, _ => (.inf a, 0)
  | _, .inf b => (.inf b, 0)
  | .fin a m e, .fin b n g =>
    let base := min e g
    let s := alignTo base a m e + alignTo base b n g
    if s = 0 then
      (.fin (if m = 0 ∧ n = 0 ∧ a = b then a else decide (rnd = 2)) 0 0, 0)
    else (ofInt s base false, 0)

def FVal.neg : FVal → FVal
  | .nan => .nan
  | .inf a => .inf (!a)
  | .fin a m e => .fin (!a) m e

/-- The exact product and the NV flag of 0 × ∞ (03 R83, R85). -/
def mulVal (x y : FVal) : FVal × Flag5 :=
  match x, y with
  | .nan, _ => (.nan, 0)
  | _, .nan => (.nan, 0)
  | .inf a, .inf b => (.inf (a != b), 0)
  | .inf a, .fin b n _ => if n = 0 then (.nan, flagNV) else (.inf (a != b), 0)
  | .fin a m _, .inf b => if m = 0 then (.nan, flagNV) else (.inf (a != b), 0)
  | .fin a m e, .fin b n g => (.fin (a != b) (m * n) (e + g), 0)

/-- Addition of two patterns rounded once (04 R106, R123). -/
def fAdd (f : Fmt) (fmt : BitVec 6) (x y : Nat) : Nat × Flag5 :=
  let (v, fl) := addVal (rndOf fmt) (f.read x) (f.read y)
  let (r, fl') := roundVal f (rndOf fmt) (satOf fmt) v
  (r, fl ||| fl')

def fSub (f : Fmt) (fmt : BitVec 6) (x y : Nat) : Nat × Flag5 :=
  let (v, fl) := addVal (rndOf fmt) (f.read x) (f.read y).neg
  let (r, fl') := roundVal f (rndOf fmt) (satOf fmt) v
  (r, fl ||| fl')

def fMul (f : Fmt) (fmt : BitVec 6) (x y : Nat) : Nat × Flag5 :=
  let (v, fl) := mulVal (f.read x) (f.read y)
  let (r, fl') := roundVal f (rndOf fmt) (satOf fmt) v
  (r, fl ||| fl')

/-- The exact value of a × b + c: a 0 × ∞ product is NaN with NV even when c is NaN (03 R85, 04 R106). -/
def fmaVal (rnd : Nat) (x y z : FVal) : FVal × Flag5 :=
  let (p, fl) := mulVal x y
  let (s, fl') := addVal rnd p z
  (s, fl ||| fl')

def fFma (f : Fmt) (fmt : BitVec 6) (x y z : Nat) : Nat × Flag5 :=
  let (v, fl) := fmaVal (rndOf fmt) (f.read x) (f.read y) (f.read z)
  let (r, fl') := roundVal f (rndOf fmt) (satOf fmt) v
  (r, fl ||| fl')

/-- Numeric order of two values that are not NaN: negative, zero or positive as x is below, equal to or above y. -/
def cmpVal (x y : FVal) : Int :=
  match x, y with
  | .inf a, .inf b => (if a then -1 else 1) - (if b then -1 else 1)
  | .inf a, _ => if a then -1 else 1
  | _, .inf b => if b then 1 else -1
  | .fin a m e, .fin b n g =>
    let base := min e g
    alignTo base a m e - alignTo base b n g
  | _, _ => 0

/-- The sign of a value, with −0 below +0 (04 R107). -/
def FVal.isNeg : FVal → Bool
  | .nan => false
  | .inf a => a
  | .fin a _ _ => a

/-- Minimum (`max = false`) or maximum of 04 R107; `num` is the .NUM form. -/
def fMinMax (f : Fmt) (num wantMax : Bool) (x y : Nat) : Nat :=
  let a := f.read x
  let b := f.read y
  let x := x % 2 ^ f.width
  let y := y % 2 ^ f.width
  match a == .nan, b == .nan with
  | true, true => f.nan
  | true, false => if num then y else f.nan
  | false, true => if num then x else f.nan
  | false, false =>
    let c := cmpVal a b
    let less : Bool := decide (c < 0) || (decide (c = 0) && a.isNeg && !b.isNeg)
    if less != wantMax then x else y

/-- The truth of an integer condition of 04 R104. -/
def condInt (cond : Nat) (a b : Int) : Bool :=
  match cond with
  | 0 => decide (a = b)
  | 1 => decide (a ≠ b)
  | 2 => decide (a < b)
  | 3 => decide (a ≤ b)
  | 4 => decide (a > b)
  | _ => decide (a ≥ b)

/-- The truth of a floating-point condition of 04 R108. -/
def condFloat (f : Fmt) (cond : Nat) (x y : Nat) : Bool :=
  let a := f.read x
  let b := f.read y
  if a = .nan ∨ b = .nan then cond == 1 || cond == 6
  else if cond = 6 then false
  else condInt cond (cmpVal a b) 0

/-- The class mask of 04 R110. -/
def fClass (f : Fmt) (x : Nat) : Nat :=
  match f.read x with
  | .nan => 2 ^ 8
  | .inf neg => if neg then 1 else 2 ^ 7
  | .fin neg m _ =>
    if m = 0 then (if neg then 2 ^ 3 else 2 ^ 4)
    else if m < 2 ^ f.w then (if neg then 2 ^ 2 else 2 ^ 5)
    else (if neg then 2 ^ 1 else 2 ^ 6)

/-- Signedness and range of an integer type code (02 R46, 03 R77); .B64 (7) reads as unsigned. -/
def signedT (t : Nat) : Bool := t == 0 || t == 2 || t == 4 || t == 6
def intLo (t : Nat) : Int := if signedT t then -(2 ^ (typeWidth t - 1) : Nat) else 0
def intHi (t : Nat) : Int := if signedT t then (2 ^ (typeWidth t - 1) : Nat) - 1 else (2 ^ typeWidth t : Nat) - 1

/-- Bits w(T)−1:0 read in type T (04 R100). -/
def valT (t : Nat) (x : Nat) : Int :=
  let w := typeWidth t
  let u := x % 2 ^ w
  if signedT t ∧ 2 ^ (w - 1) ≤ u then (u : Int) - (2 ^ w : Nat) else (u : Int)

/-- The low n bits of an integer. -/
def lowBits (n : Nat) (y : Int) : Nat := (y % (2 ^ n : Nat)).toNat

/-- `put(T, y)` of 04 R100: y modulo 2^w(T), extended to 64 bits. -/
def putT (t : Nat) (y : Int) : Word :=
  BitVec.ofInt 64 (valT t (lowBits (typeWidth t) y))

/-- The nearest bound of the range of T, and whether it was needed (03 R90 class S, 04 R119). -/
def saturate (t : Nat) (y : Int) : Int × Bool :=
  if y < intLo t then (intLo t, true)
  else if intHi t < y then (intHi t, true)
  else (y, false)

/-- Conversion of a value to an integer type (03 R89). -/
def toIntT (t : Nat) (rnd : Nat) (x : FVal) : Int × Flag5 :=
  match x with
  | .nan => (0, flagNV)
  | .inf neg => (if neg then intLo t else intHi t, flagNV)
  | .fin neg m e =>
    let (a, inexact) := roundAt rnd neg m e 0
    let y : Int := if neg then -(a : Int) else a
    let (z, out) := saturate t y
    (z, if out then flagNV else if inexact then flagNX else 0)

/-- A T2 element's value and whether it is the reserved 0b10 (03 R78). -/
def t2Val (x : Nat) : Int × Bool :=
  match x % 4 with
  | 1 => (1, false)
  | 3 => (-1, false)
  | 2 => (0, true)
  | _ => (0, false)

/-- The encoding of −1, 0 and +1 (03 R78). -/
def t2Code (y : Int) : Nat := if y < 0 then 3 else if y = 0 then 0 else 1

/-- Class C of 03 R90: a clamp to −1, 0, +1, with NV when it changes the value. -/
def clampT2 (y : Int) : Nat × Flag5 :=
  if y > 1 then (1, flagNV) else if y < -1 then (3, flagNV) else (t2Code y, 0)

def isFloatT (t : Nat) : Bool := decide (8 ≤ t) && decide (t ≤ 12)

/-- One element converted from type `ts` to type `td` by 03 R90: the destination pattern (w(td) bits), the flags and
whether a reserved T2 element was consumed. -/
def convert (ts td : Nat) (fmt : BitVec 6) (x : Nat) : Nat × Flag5 × Bool :=
  let rnd := rndOf fmt
  let (src, rsv) : FVal × Bool :=
    if isFloatT ts then ((fmtOf ts).read x, false)
    else if ts = 13 then
      let (v, r) := t2Val x
      (ofInt v 0 false, r)
    else (ofInt (valT ts x) 0 false, false)
  if td = 13 then
    let v := if ts = 13 then (t2Val x).1 else valT ts x
    let (r, fl) := clampT2 v
    (r, fl, rsv)
  else if isFloatT td then
    let (r, fl) := roundVal (fmtOf td) rnd (satOf fmt) src
    (r, fl, rsv)
  else if ts = 13 then (lowBits (typeWidth td) (t2Val x).1, 0, rsv)
  else if isFloatT ts then
    let (y, fl) := toIntT td rnd src
    (lowBits (typeWidth td) y, fl, rsv)
  else
    let (y, out) := saturate td (valT ts x)
    (lowBits (typeWidth td) y, if out then flagNV else 0, rsv)

/-- The scaled conversion of 03 R92: the exact product with the FP32 scale, rounded once to type `td`. -/
def convertScaled (ts td : Nat) (fmt : BitVec 6) (x k : Nat) : Nat × Flag5 :=
  let rnd := rndOf fmt
  let src : FVal := if isFloatT ts then (fmtOf ts).read x else ofInt (valT ts x) 0 false
  let (pr, fl) := mulVal src (fp32.read k)
  if isFloatT td then
    let (r, fl') := roundVal (fmtOf td) rnd (satOf fmt) pr
    (r, fl ||| fl')
  else
    let (y, fl') := toIntT td rnd pr
    (lowBits (typeWidth td) y, fl ||| fl')

/-! Correctly rounded reciprocal, reciprocal square root, 2^x and log2 x (04 R124). A value that is not exact is
carried with one odd bit far below the rounding position, which rounds as the exact value does. -/

/-- Integer square root of `n`, bit by bit from bit `k − 1`. -/
def isqrtFrom (n : Nat) : Nat → Nat → Nat
  | 0, r => r
  | k + 1, r =>
    let c := r + 2 ^ k
    isqrtFrom n k (if c * c ≤ n then c else r)

/-- A magnitude `q × 2^e` with a sticky bit appended. -/
def sticky (q : Nat) (inexact : Bool) : Nat := 2 * q + (if inexact then 1 else 0)

/-- DEDUCED, log entry 29. -/
def fRcp (fmt : BitVec 6) (x : Nat) : Nat × Flag5 :=
  match fp32.read x with
  | .nan => (fp32.nan, 0)
  | .inf neg => (fp32.signBit neg, 0)
  | .fin neg m e =>
    if m = 0 then (fp32.inf neg, flagDZ)
    else
      let q := 2 ^ 100 / m
      roundFin fp32 (rndOf fmt) false neg (sticky q (2 ^ 100 % m != 0)) (-100 - e - 1)

/-- DEDUCED, log entry 29. -/
def fRsq (fmt : BitVec 6) (x : Nat) : Nat × Flag5 :=
  match fp32.read x with
  | .nan => (fp32.nan, 0)
  | .inf neg => if neg then (fp32.nan, flagNV) else (0, 0)
  | .fin neg m e =>
    if m = 0 then (fp32.inf neg, flagDZ)
    else if neg then (fp32.nan, flagNV)
    else
      let odd := e % 2 = 1
      let m' := if odd then 2 * m else m
      let h := (if odd then e - 1 else e) / 2
      let r := isqrtFrom (2 ^ 160 / m') 81 0
      roundFin fp32 (rndOf fmt) false false (sticky r (r * r * m' != 2 ^ 160)) (-80 - h - 1)

/-- Fixed-point bits of the series below. -/
def fixP : Nat := 256

/-- The sum of 1 / (k 2^k), which is ln 2, in units of 2^−256. -/
def ln2Sum : Nat → Nat → Nat
  | 0, _ => 0
  | f + 1, k => 2 ^ fixP / (k * 2 ^ k) + ln2Sum f (k + 1)

def ln2Fix : Nat := ln2Sum 260 1

/-- The series of e^z for z in units of 2^−256, from term `t` of index `k`. -/
def expSum (z : Nat) : Nat → Nat → Nat → Nat
  | 0, _, _ => 0
  | f + 1, k, t => t + expSum z f (k + 1) (t * z / (2 ^ fixP * (k + 1)))

/-- DEDUCED, log entry 29. -/
def fExp2 (fmt : BitVec 6) (x : Nat) : Nat × Flag5 :=
  match fp32.read x with
  | .nan => (fp32.nan, 0)
  | .inf neg => (if neg then 0 else fp32.inf false, 0)
  | .fin neg m e =>
    if m = 0 then (0x3F800000, 0)
    else if 8 < (Nat.log2 m : Int) + e then
      roundFin fp32 (rndOf fmt) false false 1 (if neg then -1000 else 1000)
    else
      -- x in units of 2^-149, split into its floor and its fraction
      let a := alignTo (-149) neg m e
      let n : Int := a / (2 ^ 149 : Nat)
      let fr := (a % (2 ^ 149 : Nat)).toNat
      if fr = 0 then roundFin fp32 (rndOf fmt) false false 1 n
      else
        let z := fr * 2 ^ (fixP - 149) * ln2Fix / 2 ^ fixP
        let y := expSum z 70 0 (2 ^ fixP)
        roundFin fp32 (rndOf fmt) false false (sticky (y / 2 ^ 56) true) (n - 200 - 1)

/-- The series of atanh z for z in units of 2^−256: terms t / (2k + 1), with t falling by z². -/
def atanhSum (z2 : Nat) : Nat → Nat → Nat → Nat
  | 0, _, _ => 0
  | f + 1, k, t => t / (2 * k + 1) + atanhSum z2 f (k + 1) (t * z2 / 2 ^ fixP)

def fLog2 (fmt : BitVec 6) (x : Nat) : Nat × Flag5 :=
  match fp32.read x with
  | .nan => (fp32.nan, 0)
  | .inf neg => if neg then (fp32.nan, flagNV) else (fp32.inf false, 0)
  | .fin neg m e =>
    if m = 0 then (fp32.inf true, flagDZ)
    else if neg then (fp32.nan, flagNV)
    else
      let l := Nat.log2 m
      let ex : Int := (l : Int) + e
      if m = 2 ^ l then roundVal fp32 (rndOf fmt) false (ofInt ex 0 false)
      else
        -- m / 2^l lies in (1, 2): ln of it is 2 atanh of (m - 2^l) / (m + 2^l)
        let z := (m - 2 ^ l) * 2 ^ fixP / (m + 2 ^ l)
        let ath := atanhSum (z * z / 2 ^ fixP) 90 0 z
        let lg := 2 * ath * 2 ^ fixP / ln2Fix
        let r : Int := ex * (2 ^ fixP : Nat) + (lg : Int)
        let mag := if r < 0 then (-r - 1).toNat else r.toNat
        roundFin fp32 (rndOf fmt) false (decide (r < 0)) (sticky (mag / 2 ^ 40) true) (40 - (fixP : Int) - 1)

/-- The exact sum of a list of FP32 patterns rounded once (04 R128 VRED.ADD.F32). -/
def fSum (fmt : BitVec 6) (xs : List Nat) : Nat × Flag5 :=
  let vs := xs.map fp32.read
  if vs.contains .nan then (fp32.nan, 0)
  else if vs.contains (.inf false) ∧ vs.contains (.inf true) then (fp32.nan, flagNV)
  else if vs.contains (.inf false) then (fp32.inf false, 0)
  else if vs.contains (.inf true) then (fp32.inf true, 0)
  else
    let add (acc : Int) (v : FVal) : Int := match v with
      | .fin neg m e => acc + alignTo (-149) neg m e
      | _ => acc
    let s := vs.foldl add 0
    let allNegZero := vs.all fun v => match v with
      | .fin neg m _ => neg && m == 0
      | _ => false
    if s = 0 then
      (fp32.signBit (allNegZero || (decide (rndOf fmt = 2) && !(vs.all fun v => match v with
        | .fin neg m _ => !neg && m == 0
        | _ => false))), 0)
    else roundVal fp32 (rndOf fmt) (satOf fmt) (ofInt s (-149) false)

end Sys2Proof.Machine
end

