-- ==== Sys2Proof/Machine/State.lean ====
section
/-! DEFINITION. The state of one node: its cores with their contexts and engines, its memory and everything the I/O die
holds. Every field is plain data; sparse tables are lists keyed by a number in rising order. -/

namespace Sys2Proof.Machine

/-- Operation classes of the latency table (02 R66). -/
inductive LatClass where
  | salu | pred | smul | sdiv | sld | valu | vfma | vtrans | vld | vacc | xpose | movx | sysrd | brdelay | setfmt | seqret
deriving DecidableEq, Repr

/-- A register as the landing buffer names it (15 R416): scalar, vector, predicate, b, m, k, FMT, stream push, system. -/
inductive Reg where
  | s (n : BitVec 6)
  | v (n : BitVec 5)
  | p (n : BitVec 5)
  | b (n : BitVec 3)
  | m (n : BitVec 3)
  | k (n : BitVec 3)
  | fmt
  | push (n : BitVec 4)
  | sys (n : BitVec 12)
deriving DecidableEq, Repr

/-- One pending write (01 R22, 10 R254-R256). `left` is the landing count minus IC; `ready` is false while the result
does not exist; `cki`, `fpf` and `poison` land with it (03 R94, 15 R411, R412). -/
structure LandEntry where
  reg    : Reg
  val    : BitVec 2048
  chk    : W32
  left   : Nat
  issue  : Word
  slot   : Nat
  ready  : Bool
  fpf    : BitVec 5
  cki    : BitVec 11
deriving DecidableEq, Repr

/-- A hardware loop (10 R262) with its per-slot fill and empty counters (17 R451). -/
structure Loop where
  start : BitVec 14
  fin   : BitVec 14
  act   : Bool
  depth : BitVec 2
  rem   : W32
  fills : Vector W32 6
  nops  : Vector W32 6
deriving DecidableEq, Repr

def Loop.idle : Loop := ⟨0, 0, false, 0, 0, Vector.replicate 6 0, Vector.replicate 6 0⟩

/-- A stream element: 64 containers and the row sum carried with them (09 R242, 04 R116). -/
structure Elem where
  val : VReg
  chk : W32
deriving DecidableEq, Repr

/-- What holds a stream binding (15 R495). -/
inductive BindKind where
  | free | cpyqIn | cpyqOut | swsub
deriving DecidableEq, Repr

structure Binding where
  kind : BindKind
  seq  : Word
deriving DecidableEq, Repr

/-- A stream register: active and shadow binding, the inbound and outbound queues of 4 elements, `pops`, the elements
that slots of the bundle now issuing have taken, and `taken`, all those taken before (04 R114, 09 R242, 13 R358). -/
structure StreamReg where
  active : Binding
  shadow : Binding
  inq    : List Elem
  outq   : List Elem
  pops   : Nat
  taken  : Nat
deriving DecidableEq, Repr

def Binding.none : Binding := ⟨.free, 0⟩
def StreamReg.idle : StreamReg := ⟨Binding.none, Binding.none, [], [], 0, 0⟩

/-- A 64 × 64 tile with its lattice record: row sums and column sums, sum n in bits 32n+31:32n (06 R156). `bad` lists its
poisoned containers, (i, j) as 64 i + j, in rising order, and `good` the good-byte masks of those that a sub-word write has
reached since (07 R195, R196). -/
structure Tile where
  rows : Vector VReg 64
  rsum : VReg
  csum : VReg
  bad  : List Nat
  good : List (Nat × Nat)
deriving DecidableEq, Repr

def Tile.zero : Tile := ⟨Vector.replicate 64 0, 0, 0, [], []⟩

/-- The record of a sealed memory tile (06 R158, R159). `bad` lists its poisoned side-band words: row sum i as i, column
sum j as 64 + j (07 R195). -/
structure LatRec where
  rsum   : VReg
  csum   : VReg
  broken : Bool
  bad    : List Nat
deriving DecidableEq, Repr

/-- A partial of a sweep or its accumulator: m, l and o(0) to o(127), element i in bits 32i+31:32i (13 R358). -/
structure Partial where
  m : W32
  l : W32
  o : BitVec 4096
deriving DecidableEq, Repr

/-- An engine command with everything it captured at issue (05 R134, R150, 09 R239-R249, 12 R340, 13 R364-R367). -/
inductive Cmd where
  | cpy (dst src : Word) (len : Nat)
  | cpy2 (dst src : Word) (rows rlen : Nat) (ds ss : W32)
  | cpyqIn (q : BitVec 4) (src : Word) (count : Nat) (stride : BitVec 20)
  | cpyqOut (q : BitVec 4) (dst : Word) (count : Nat) (stride : BitVec 20)
  | cpymc (dst src : Word) (len : Nat) (clusters cores : BitVec 8) (dom : BitVec 3)
  | cpycrc (dst src : Word) (len : Nat) (write : Bool)
  | ntdrain (upto : Nat)
  | mma (ta tb : Nat) (par : Vector Word 8) (scales : Vector W32 8)
  | mzero (mask : BitVec 16)
  | mload (tile : BitVec 4) (addr stride : Word) (t nrow ncol start : Nat)
  | mstore (tile : BitVec 4) (addr stride : Word) (t tt nrow ncol start : Nat) (m6 : Word) (scales : Vector W32 8)
  | seal (addr : Word) (count : Nat)
  | sealAcc (tile : BitVec 4)
  | scheck (addr : Word) (count : Nat) (res : Word) (fix : Bool)
  | scheckAcc (tile : BitVec 4) (res : Word) (fix : Bool)
  | squery (addr image : Word)
  | squeryAcc (tile : BitVec 4) (image : Word)
  | atom (code : Nat) (addr v rec expected : Word)
  | fsend (f : Ferry)
  | cslot (form code : Nat) (slot param : Word) (tnum : Byte) (tpl : BitVec 768) (image : Nat)
  | swopen (dir : Word) (pages : Nat) (stat : Nat) (id : BitVec 6) (expect : Nat)
  | swsub (q : BitVec 4) (lst : Word) (count : Nat) (stat : Nat) (id : BitVec 6)
  | swmerge (page : Nat) (part : Partial) (id : BitVec 6)
  | swread (rec' : Nat) (id : BitVec 6)
  | swclose (stat : Nat) (id : BitVec 6)
deriving DecidableEq, Repr

/-- Where a command stands. -/
inductive Phase where
  | waiting      -- not finished, free to proceed
  | faulted      -- a part waits for its fault reply (07 R204)
  | assist       -- all rows committed, subnormal marks outstanding (05 R140)
  | reqSent      -- an ATOM at its home or a sweep command at its engine
  | stopped      -- stopped and unretired (09 R236)
  | done         -- complete, waiting for lower numbers
deriving DecidableEq, Repr

/-- What a SCHECK or SFIX has found so far (06 R179): tiles examined, clean, single, failed; the first tile not clean with
its kind, row, column and delta. -/
structure Tally where
  tiles  : Nat
  clean  : Nat
  single : Nat
  failed : Nat
  first  : Nat
  kind   : Nat
  row    : Nat
  col    : Nat
  delta  : W32
deriving DecidableEq, Repr

/-- A part of an engine request that has faulted (07 R204, R205): its cause, its address, whether it writes, and the fault
id whose reply it waits for; none once that reply has resolved it. -/
structure Stuck where
  cause : Nat
  addr  : Word
  write : Bool
  fid   : Option W32
deriving DecidableEq, Repr

/-- One issued command (01 R28, R29): its number, the core-wide issue order, its captured FMT (03 R97), its progress (the
offset of its first unfinished unit, or its first uncommitted row), the incoming rows of its tile for the compute check,
its assist marks (row, column), the flags it will report, the fault it waits on, the stage of its work, the cause with
which it is to stop once that work is done (05 R142), and the pieces of its next row, by physical address, that are still to be
written (07 R191). -/
structure Pending where
  seq    : Word
  order  : Nat
  cmd    : Cmd
  fmt    : BitVec 6
  phase  : Phase
  prog   : Nat
  tileIn : List VReg
  marks  : List (Nat × Nat)
  flush  : List (Nat × Nat)
  cki    : BitVec 11
  fid    : W32
  faddr  : Word
  fcause : Nat
  sends  : Nat
  reqId  : BitVec 16
  reply  : Option (Nat × Word)
  crc    : W32
  stage  : Nat
  failed : Option Nat
  tally  : Tally
  parts  : List Stuck
  opA    : List (List Nat)
  opB    : List (List Nat)
  ahead  : List (Nat × List (Byte × Bool))
deriving DecidableEq, Repr

/-- A timeline of a context (01 R28, 09 R236, R247): last number issued, counter, the stopped command if any, the
commands not yet counted, and for cpy the last CRC with its command's number. -/
structure Timeline where
  issued : Word
  count  : Word
  cmds   : List Pending
  crc    : Word
deriving DecidableEq, Repr

def Timeline.zero : Timeline := ⟨0, 0, [], 0⟩

/-- The five timelines in the order of SYS.TCAUSE.ENGINE (15 R404). -/
inductive Tl where
  | cpy | mtx | fry | swp | atm
deriving DecidableEq, Repr

/-- A locked-in drain stub of the image (02 R64). -/
structure Stub where
  start : BitVec 14
  fin   : BitVec 14
  entry : BitVec 14
deriving DecidableEq, Repr

/-- An LMS declaration of the image (02 R64). -/
structure LmsDecl where
  id   : BitVec 12
  tier : Nat
  sealed : Bool
  base : Word
  size : Word
deriving DecidableEq, Repr

/-- What placement gives a task (01 R14-R16, R26, 02 R64-R67, 11 R286): its launch, group, rank, tile mask, the image's
latency table, drain stubs, ferry templates and LMS declarations; `released` lets a PHASE that has completed issue, and `phases`
counts the phases of the group (08 R214, R216). -/
structure Task where
  lid       : Word
  part      : BitVec 6
  grp       : BitVec 32
  rank      : Nat
  gsize     : Nat
  tier      : Nat
  mask      : BitVec 16
  lat       : List Nat
  stubs     : List Stub
  templates : List (BitVec 768)
  lms       : List LmsDecl
  released  : Bool
  phases    : BitVec 31
deriving DecidableEq, Repr

/-- What trap entry moves aside (15 R405): landing buffer, redirections, loops, fetch position, DRAIN. -/
structure TrapLatch where
  landing : List LandEntry
  redir   : List (Nat × BitVec 14)
  loops   : Vector Loop 4
  ip      : BitVec 14
  drain   : Bool
deriving DecidableEq, Repr

/-- An open containment region (15 R424): handler IP, class mask, s1-s63 and the tail token. -/
structure Region where
  ip    : BitVec 14
  mask  : BitVec 4
  s     : Vector Word 64
  token : Word
deriving DecidableEq, Repr

/-- The states of 01 R20 with the codes of 15 R400; Service is a Ready, Issuing or Blocked context with `svc` set. -/
inductive CtxState where
  | free | ready | issuing | blocked | halted
deriving DecidableEq, Repr

/-- An ENGINE_FAULT waiting for the context's next boundary (09 R236, 15 R404). -/
structure EngineFault where
  tl    : Tl
  cause : Nat
  addr  : Word
  seq   : Word
deriving DecidableEq, Repr

/-- What a CTXRSTR writes at the end of its bundle (15 R433): the groups, register values, and the region and the staging
buffer when their groups are restored. -/
structure Restore where
  groups  : BitVec 10
  regs    : List LandEntry
  region  : Option (Option Region)
  staging : Option (Option Ferry)
deriving DecidableEq, Repr

/-- A context (01 R24 and the registers of 15 R407). `mnext` and `mseq` are the RO fields of m7 (05 R134); `tpend` is a
pending timer trap (17 R456); `preqLeft` counts the bundles a pre-emption may still wait, and `diverted` says that it has
sent the context into the stub that runs, which a stub come back with a restore is not (15 R418, R420). `skip`, `ckiClr`,
`ckiSet` (check bits that others raise while the bundle runs or its context stands saved, ORed in behind the next landings,
15 R411), `restore`, `loopOp` (the loop that a LOOP or LBRK pops from, and what a LOOP makes of it) and `regionOp` (what a CRGN.OPEN or
CRGN.CLOSE makes of the region) live within one bundle only. `kept` is the landing buffer as the last record of the context
holds it: the flags that land with its entries have no place in the record. DESIGN CHOICE, log entry 64. -/
structure Context where
  s        : Vector Word 64
  v        : Vector VReg 32
  vchk     : Vector W32 32
  p        : Vector Word 24
  b        : Vector (BitVec 14) 8
  loops    : Vector Loop 4
  m        : Vector Word 8
  k        : Vector W32 8
  fmt      : BitVec 6
  streams  : Vector StreamReg 16
  landing  : List LandEntry
  kept     : List LandEntry
  ip       : BitVec 14
  ic       : Word
  redir    : List (Nat × BitVec 14)
  fpf      : BitVec 5
  cki      : BitVec 11
  pmk      : BitVec 16
  scr      : Vector Word 4
  tcause   : Word
  tip      : BitVec 14
  taddr    : Word
  tseq     : Word
  tval     : BitVec 16
  dip      : BitVec 14
  crs      : Word
  st       : CtxState
  svc      : Bool
  shchk    : Bool
  drain    : Bool
  stubLen  : Nat
  diverted : Bool
  preq     : Bool
  bcause   : BitVec 4
  bslot    : Nat
  resid    : BitVec 17
  latch    : Option TrapLatch
  region   : Option Region
  cpy      : Timeline
  mtx      : Timeline
  fry      : Timeline
  swp      : Timeline
  atm      : Timeline
  staging  : Option Ferry
  efaults  : List EngineFault
  task     : Option Task
  tmr      : Word
  exiting  : Bool
  trapped  : Bool
  killed   : Bool
  saved    : Bool
  frozen   : Bool
  nested   : Bool
  mnext    : BitVec 7
  mseq     : W32
  tpend    : Bool
  preqLeft : Nat
  skip     : Option (BitVec 14)
  ckiClr   : BitVec 11
  ckiSet   : BitVec 11
  restore  : Option Restore
  loopOp   : Option (Nat × Option Loop)
  regionOp : Option (Option Region)
deriving DecidableEq, Repr

/-- A saved context that has left its core (15 R422, 11 R289): its number, what stays with its suspended commands and its
task, its entries of the locked table, whether it may be restored, and whether it held the transposer when it left. -/
structure Parked where
  num   : Nat
  ctx   : Context
  ltt   : List (BitVec 128)
  ready : Bool
  grant : Bool
deriving DecidableEq, Repr

/-- A log entry (08 R210): its SEQ is its place in the list; `born` is the core's bundle count when it was formed and
`bad` marks an entry whose three fetches fail their CRC. -/
structure LogEntry where
  op   : BitVec 5
  sz   : BitVec 3
  lms  : BitVec 12
  ctx  : BitVec 2
  off  : Nat
  data : BitVec 128
  born : Nat
  bad  : Bool
deriving DecidableEq, Repr

/-- A view entry: one 16-byte granule of an LMS's overlay (08 R208); `bad` marks its poisoned bytes (08 R225),
and `delta` holds by how much each of its four containers, read with the overlay, differs from the base (06 R169). -/
structure ViewEntry where
  lms  : BitVec 12
  gran : Nat
  data : BitVec 128
  mask : BitVec 16
  shared : Bool
  bad  : BitVec 16
  delta : BitVec 128
deriving DecidableEq, Repr

/-- A core's store log and view (08 R207-R231). `group` and `members` name the group whose LMSs the core holds (launch,
group; node × 512 + core number of each member core in member order); `decls` are its LMS declarations; `gone` lists the
members on other nodes whose tasks have all exited. `closed` holds the ends of closed segments with the NTDRAIN marks they
wait for; `cursors` holds the replay cursor of each member index. -/
structure Log where
  entries   : List LogEntry
  floor     : Nat
  published : Nat
  closed    : List (Nat × Nat)
  phase     : BitVec 31
  cursors   : List Nat
  view      : List ViewEntry
  rebuilt   : Nat
  unsound   : Bool
  group     : Option (Word × BitVec 32)
  members   : List Nat
  decls     : List LmsDecl
  gone      : List Nat
  logc      : Word
  logx      : Word
  logRej    : Bool
deriving DecidableEq, Repr

/-- A non-temporal store handed to the copy engine (08 R223): its slice words (offset, byte mask, data). -/
structure NtStore where
  num   : Nat
  ctx   : BitVec 2
  words : List (Nat × BitVec 4 × W32)
deriving DecidableEq, Repr

/-- An entry of a delivery queue (12 R335). -/
structure Delivery where
  cargo : BitVec 2048
  desc0 : Word
  desc1 : Word
deriving DecidableEq, Repr

structure DeliveryQueue where
  items : List Delivery
  count : Word
  cons  : Word
deriving DecidableEq, Repr

def DeliveryQueue.empty : DeliveryQueue := ⟨[], 0, 0⟩

/-- A FENCE.I being validated (10 R272): its context, status predicate, bank and whether a write has hit the bank. -/
structure Fence where
  ctx  : BitVec 2
  pd   : BitVec 5
  bank : BitVec 2
  hit  : Bool
  issue : Word
deriving DecidableEq, Repr

/-- A reply kept by a home for retransmissions (09 R250). -/
structure CachedReply where
  id  : BitVec 16
  val : Word
deriving DecidableEq, Repr

/-- The image whose banks a core holds: partition, virtual address, bytes (11 R286). -/
structure Loaded where
  part  : Nat
  va    : Word
  bytes : List Byte
deriving DecidableEq, Repr

/-- A slot-2 or slot-4 store performed while commands of its core are incomplete (09 R235): the number of commands issued
before it, the container and what it held. -/
structure LateStore where
  stamp : Nat
  addr  : Nat
  old   : W32
deriving DecidableEq, Repr

/-- A compute core, or a control core pair as the one core its two halves are (01 R10, R11, R26).
DESIGN CHOICE, log entry 64. -/
structure Core where
  ctxs    : Vector Context 4
  holder  : BitVec 2
  fis     : BitVec 24
  fences  : List Fence
  tiles   : Vector Tile 16
  xpose   : Tile
  xf      : BitVec 7
  xg      : BitVec 7
  xowner  : Option (BitVec 2)
  ltt     : Vector (BitVec 128) 128
  ltti    : BitVec 7
  lttRej  : Bool
  lttaNew : Word
  tvec    : BitVec 12
  scorr   : W32
  ccorr   : W32
  log     : Log
  nt      : List NtStore
  ntNum   : Nat
  late    : List LateStore
  dqs     : Vector DeliveryQueue 8
  csp     : BitVec 9
  order   : Nat
  bundles : Nat
  reqId   : BitVec 16
  stopped : Bool
  ccyc    : Word
  smpc    : BitVec 24
  smph    : Word
  smpt    : Word
  smpd    : Word
  image   : Option Loaded
  stopAt  : Option Word
deriving DecidableEq, Repr

/-- The slot number that stands while no bundle runs. DESIGN CHOICE, log entry 90. -/
def noSlot : Nat := 8

/-- Which slot of which context of which core is executing; core numbers from 512 on are the control pairs of the
clusters (01 R10, R11). PRESUMED, log entry 12. `cmd` is the issue order of the command for which an engine acts.
DESIGN CHOICE, log entry 90. -/
structure Cursor where
  core : Nat
  ctx  : BitVec 2
  slot : Nat
  cmd  : Option Nat
deriving DecidableEq, Repr

/-- Why a slot did not do what it names (10 R251): a block cause of 15 R401, an interlock or data stall, a trap with
its code, cause and address (15 R403, R404), or a TWAIT's ENGINE_FAULT for a stopped command (09 R236). -/
inductive Stop where
  | block (bcause : Nat)
  | stall
  | trap (code cause slot : Nat) (addr : Word)
  | engine (tl : Tl) (cause : Nat) (addr seq : Word)
deriving DecidableEq, Repr

/-- One agent's move: a step of the device, the host or the fabric, or one bundle attempt of a core.
DESIGN CHOICE, log entry 1. -/
inductive Move where
  | event (i : Instr)
  | issue (core : Nat)
deriving DecidableEq, Repr

/-- Signals of a link beside its frames: retry request, acknowledgement, verdict mark, start of a key update, and a failure at
this end (14 R387, R388, 16 R438, R443); and a port's weight in quarters, by which the hold level of the adaptive lanes that
feed it is scaled (16 R444). DESIGN CHOICE, log entry 42. -/
inductive Signal where
  | retry | ack | mark | keyUpdate | linkDown | weight
deriving DecidableEq, Repr

/-- What the node sends out: fault records and their homes (07 R202, R203), mailbox messages and completion records
(11 R283), fabric and management traffic, each as plain data. DESIGN CHOICE, log entry 1. -/
inductive Out where
  | faultRecord (home : Nat) (node : BitVec 15) (mbox : BitVec 12) (record : BitVec 256)
  | completion (mbox : BitVec 12) (record : BitVec 512)
  | ferry (port : Nat) (f : Ferry)
  | host (addr : Nat) (bytes : List Byte)
  | peerWrite (node : BitVec 15) (pa : Nat) (bytes : List Byte)
  | mgmt (port : Bool) (response : List Byte)
  | cxl (data : List Byte) (poison : Bool)
  | spdm (code : Nat) (body : List Byte)
  | debug (ctx : Nat) (record : List Byte)
  | doe (vendor : BitVec 16) (kind : Byte) (body : List Byte)
  | assist (cluster : BitVec 6) (core : BitVec 9) (seq : Word)
  | signal (what : Signal) (port link n : Nat)
  | frame (port link counter : Nat) (body : List Byte)
  | notice (node : BitVec 15) (record : BitVec 512)
  | forward (node : BitVec 15) (lid : Word) (record : BitVec 512)
  | endLaunch (node : BitVec 15) (lid : Word)
  | unreachable (node : BitVec 15) (queue : BitVec 12) (item : Delivery)
  | atom (home core : Nat) (id : BitVec 16) (again : Bool) (code pa : Nat) (v expected : Word)
  | peerReply (node : BitVec 15) (bytes : List Byte)
  | peerRefused (node : BitVec 15)
  | atomReply (node : BitVec 15) (core : BitVec 9) (id : BitVec 16) (status : Nat) (v : Word)
  | memberReport (node : BitVec 15) (lid : Word) (report : MemberReport)
  | portChange (node : BitVec 15) (at' : FarPort) (live : Bool)
deriving DecidableEq, Repr

/-! The fabric. -/

/-- A combine slot (12 R316-R319, R345); a slot that no entry lists is FREE and holds zeros. `st` is 1 ARMED, 2 DONE,
3 TIMEOUT; `tpl` is the timeout template. -/
structure CSlot where
  st       : Nat
  value    : W32
  count    : W32
  expect   : W32
  flags    : Byte
  code     : Nat
  tnum     : Byte
  tpl      : BitVec 768
  tenant   : BitVec 12
  deadline : Word
  late     : W32
deriving DecidableEq, Repr

/-- A ferry that has arrived and waits for a landing engine (12 R302, R303): the router cycle and the source of its
arrival (0-5 ports, 6 local injection, 7 re-landing), and the context and command (by its core's issue order) that its
landing completes. -/
structure Arrival where
  ferry : Ferry
  cycle : Nat
  src   : Nat
  fsend : Option (Nat × Nat)
deriving DecidableEq, Repr

/-- The landing in progress (12 R304): position, recorded copies. -/
structure Landing where
  ferry  : Ferry
  pos    : Nat
  clones : List Ferry
  fsend  : Option (Nat × Nat)
deriving DecidableEq, Repr

/-- A mooring entry (12 R326, R327): entry number, code, position, the slot of PARKED or the queue of QFULL (core × 8 +
queue) with its value, whether it came from the escape lanes, its place in mooring order, and what it carries when it is a
system ferry of this node (12 R323). -/
structure Moored where
  num   : Nat
  ferry : Ferry
  code  : Nat
  pos   : Nat
  arg   : Nat
  val   : W32
  esc   : Bool
  stamp : Nat
  sys   : Option Out
deriving DecidableEq, Repr

/-- A delivery without a ferry that waits in its queue's QFULL order: a completion record (11 R283) or an UNREACHABLE
delivery (12 R323). -/
structure HeldRecord where
  queue  : Nat
  item   : Delivery
  stamp  : Nat
  launch : Option (Nat × Word)
deriving DecidableEq, Repr

/-- A ferry that a port in skid mode has taken and whose verdict mark is outstanding (14 R388), as it came; `via` is the port
it was forwarded through, with the link once it has left, and none while it waits here for its mark. -/
structure Unmarked where
  port  : Nat
  ferry : Ferry
  via   : Option (Nat × Option Nat)
deriving DecidableEq, Repr

/-- The router, the landing store and the lanes of the node (12 R302-R335). `stuck` holds ferries whose mooring has no entry
free yet, `copies` those that wait while injection is stopped (12 R326, R330), `win` the non-zero words of the window region, `ctrs` the node counters by tenant × 16 + k, `lanes` the output lanes by port × 3 + lane, `held` the lanes that the
receiver holds, `deadPorts` the ports of other nodes known dead (16 R445), `drops` the drop counters by tenant. -/
structure Router where
  cycle   : Nat
  pool    : List Arrival
  landing : Option Landing
  moor    : List Moored
  stuck   : List Moored
  copies  : List Ferry
  stamp   : Nat
  full    : Bool
  records : List HeldRecord
  slots   : List (Nat × CSlot)
  win     : List (Nat × W32)
  ctrs    : List (Nat × W32)
  lanes   : List (Nat × List Ferry)
  held    : List Nat
  deadPorts : List (BitVec 15 × Nat)
  drops   : List (Nat × Nat)
  marks   : List Unmarked
deriving DecidableEq, Repr

def Router.reset : Router where
  cycle := 0
  pool := []
  landing := none
  moor := []
  stuck := []
  copies := []
  stamp := 0
  full := false
  records := []
  slots := []
  win := []
  ctrs := []
  lanes := []
  held := []
  deadPorts := []
  drops := []
  marks := []

/-! Links (14 R385-R389, 16 R438-R445). -/

inductive LinkState where
  | down | training | keying | up | degraded | failed
deriving DecidableEq, Repr

/-- A frame in the retry buffer: its counter, its bytes as they travel, and the ferries whose last flit it carries. -/
structure Frame where
  counter : Nat
  body    : List Byte
  ferries : List Ferry
deriving DecidableEq, Repr

/-- A link of a port (16 R443): state, live lanes, width, training attempts, whether it holds keys, the keys of the two
directions, the key that follows when an update has finished, whether one runs, next counters, the retry buffer, the ferry
being sent with its flits still to send, counters of tag failures, whether the receiver waits for a resend, and whether a full
mooring keeps the frame that it expects from coming in (12 R330). -/
structure Link where
  st       : LinkState
  lanes    : BitVec 4
  width    : Nat
  attempts : Nat
  keyed    : Bool
  txKey    : BitVec 256
  rxKey    : BitVec 256
  nextTx   : Option (BitVec 256)
  rekeying : Bool
  txNext   : Nat
  rxNext   : Nat
  retry    : List Frame
  current  : Option (Ferry × List (BitVec 256))
  fails    : List Nat
  waiting  : Bool
  outside  : Bool
deriving DecidableEq, Repr

def Link.reset : Link where
  st := .down
  lanes := 15
  width := 4
  attempts := 0
  keyed := false
  txKey := 0
  rxKey := 0
  nextTx := none
  rekeying := false
  txNext := 0
  rxNext := 0
  retry := []
  current := none
  fails := []
  waiting := false
  outside := false

/-- The ports of the node: links by port × 4 + link, the ports in skid mode (14 R388), by link the ferries that it has taken
over from a failed one, by port the link whose turn it is (16 R444), and by port the ferries of which a flit came in a failed
frame (14 R389). -/
structure Fabric where
  links  : List (Nat × Link)
  skid   : BitVec 6
  resend : List (Nat × List Ferry)
  turn   : List (Nat × Nat)
  barred : List (Nat × List Ferry)
deriving DecidableEq, Repr

def Fabric.reset : Fabric := ⟨[], 0, [], [], []⟩

/-! Sweeps (13 R346-R367). -/

inductive QueryState where
  | active | delivered | merged
deriving DecidableEq, Repr

/-- A query (13 R350-R358): its context, task (group and launch) and SWSUB number, stream, listed pages, those not yet delivered whole,
those owed, those admitted and unmerged; the pages whose descriptor has entered the stream, each with the descriptor's
place in the stream; how many of them have a partial; the partials that wait, each with its SWMERGE's number; how many
pages are applied; and the accumulator. -/
structure Query where
  ctxn     : Nat
  task     : BitVec 96
  seq      : Word
  q        : BitVec 4
  pages    : List Nat
  left     : List Nat
  owed     : List Nat
  admitted : List Nat
  entered  : List (Nat × Nat)
  supplied : Nat
  window   : List (Nat × Word × Partial)
  applied  : Nat
  acc      : Partial
  nan      : Bool
  st       : QueryState
deriving DecidableEq, Repr

inductive SweepState where
  | opened | main | tail | closing
deriving DecidableEq, Repr

/-- An engine's place in a sweep (13 R352, R355): the cursor of its main pass, the next page of the catch-up pass that
runs, whether that pass has admitted a page or seen admission change, and whether the engine waits until admission can
have changed. -/
structure Pass where
  cursor : Nat
  walk   : Option Nat
  hit    : Bool
  idle   : Bool
deriving DecidableEq, Repr

/-- A partial in the intake of a merge buffer (13 R365): the sweep, the query's context and task, its page, the number of
its SWMERGE and the partial. -/
structure Intake where
  id   : Nat
  ctxn : Nat
  task : BitVec 96
  page : Nat
  seq  : Word
  part : Partial
deriving DecidableEq, Repr

/-- A sweep that is not Free (13 R349): its partition, page directory as physical addresses, EXPECT, the subscriptions that
have become ACTIVE, whether a close is recorded, the SWCLOSE that waits until it is Free, its eight engines, its queries. -/
structure Sweep where
  st      : SweepState
  part    : Nat
  pages   : List Nat
  expect  : Nat
  subs    : Nat
  close   : Bool
  closer  : Option (Nat × BitVec 96 × Word)
  engines : Vector Pass 8
  queries : List Query
deriving DecidableEq, Repr

/-- A page buffer of a sweep engine (13 R356): sweep, page, pass, its 128 rows, and for each admitted query, by its context
and task, how many of the 129 elements it has taken. -/
structure PageBuf where
  dom   : Nat
  id    : Nat
  page  : Nat
  late  : Bool
  rows  : List Elem
  takes : List ((Nat × BitVec 96) × Nat)
deriving DecidableEq, Repr

/-! Launches (11 R277-R296). -/

/-- A registered mailbox: its descriptor, control line, the posts that await acceptance (11 R277, R278, R296, 16 R449), and the
launch slots that hold a record sent before the registration (16 R450). -/
structure Mbox where
  desc  : BitVec 256
  nextl : W32
  lastc : W32
  cack  : W32
  llid  : Word
  tacc  : Word
  tcmp  : Word
  rgen  : W32
  sgen  : Word
  posts : Nat
  void  : BitVec 64
deriving DecidableEq, Repr

/-- A record that waits to be written to a completion channel, and the launch that waits with it (11 R283). -/
structure Compl where
  mbox   : BitVec 12
  record : BitVec 512
  launch : Option (Nat × Word)
deriving DecidableEq, Repr

inductive LaunchState where
  | queued | running | draining | completing
deriving DecidableEq, Repr

inductive GroupState where
  | unplaced | placed | saving | saved | ended
deriving DecidableEq, Repr

/-- A group of a launch: its context numbers by rank and the order of its placement. -/
structure Group where
  st    : GroupState
  ctxs  : List Nat
  stamp : Nat
deriving DecidableEq, Repr

/-- An accepted launch that has not retired (11 R284): id and partition, record, mailbox, image and its bytes, class, its
place at the front of its class after a pre-emption, parent, pool entries and where they came from, entries its children use,
groups, tasks that have ended, energy and waiting (`tick` is 1 more than the microsecond of the last charge, 0 before the first), times, completion fields, and for a torus launch the members that have
still to report; `reserved` tells that its entries came from its parent's reservation, and `home` names the arrival node of
a forwarded torus launch and its id there (11 R288). -/
structure Launch where
  lid      : Word
  part     : Nat
  record   : BitVec 512
  mbox     : Option (BitVec 12)
  lseq     : W32
  image    : Word
  bytes    : List Byte
  st       : LaunchState
  cls      : Nat
  front    : Nat
  parent   : Option Word
  entries  : Nat
  resUsed  : Nat
  groups   : List Group
  ended    : Nat
  hbmDone  : Bool
  charge   : Nat
  used     : Nat
  waited   : Nat
  since    : Word
  tstart   : Word
  nexit    : Nat
  ntrap    : Nat
  cki      : BitVec 11
  status   : Nat
  members  : List (BitVec 15)
  reserved : Bool
  tick     : Nat
  home     : Option (BitVec 15 × Word)
deriving DecidableEq, Repr

/-! The device (14 R390-R396, 16 R440-R448, 18 R466-R469). -/

/-- An error log ring: its entries, oldest first, LOST, and how many have ever been written (16 R440). -/
structure ErrorRing where
  entries : List (BitVec 256)
  lost    : Nat
  written : Nat
deriving DecidableEq, Repr

def ErrorRing.empty : ErrorRing := ⟨[], 0, 0⟩

/-- An SPDM session (14 R387, R392, R393): its keys, whether FINISH has completed it, whether it is mutually authenticated, and the
key of the requester's leaf certificate. -/
structure Session where
  id     : BitVec 32
  key    : BitVec 256
  done   : Bool
  authed : Bool
  leaf   : Option (BitVec 768)
deriving DecidableEq, Repr

/-- A management command that runs until its partition has come to rest (18 R466). -/
structure Running where
  port : Bool
  tag  : Word
  opc  : Nat
  part : Nat
deriving DecidableEq, Repr

/-- The security processor, the start sequence, memory repair and the management mailbox. `slots` are the measurement slots,
`owner` the owner's key, `keys` the key store, `staged` the firmware loaded for the next start and `firmware` that of this
one, `lcs` and `fuses` the lifecycle state and the unlock fuses burnt, `scope` that of an open debug port, `pageTime` TIME of
the status page, `corrected` the times of the corrections of a word or row, `spares` the spare words used of a slice, `remaps`
the remapped words, `due` the HBM rows to be replaced, `halts` the clusters whose pair has halted, `held` the fault replies
that their pairs have yet to handle (16 R436), `retired` the retired clusters, `ctl` the CTL word of the management mailbox and `mail` its bytes from byte 8 on, zero behind the list (18 R463). -/
structure Device where
  stage     : Nat
  reason    : Nat
  fails     : Nat
  minimal   : Bool
  gen       : Word
  stopped   : Bool
  throttle  : Nat
  slots     : Vector (BitVec 384) 8
  owner     : Option (BitVec 768)
  keys      : List (Nat × BitVec 768)
  staged    : List (Nat × List Byte)
  firmware  : List (Nat × List Byte)
  lcs       : Nat
  fuses     : Nat
  nonce     : Option (BitVec 384)
  scope     : Option (BitVec 16)
  algorithms : Bool
  sessions  : List Session
  pageTime  : Word
  rings     : List (Nat × ErrorRing)
  corrected : List (Nat × List Nat)
  spares    : List (Nat × Nat)
  remaps    : List Nat
  due       : List Nat
  halts     : List Nat
  held      : List Word
  retired   : List Nat
  running   : List Running
  ctl       : W32
  mail      : List Byte
  doeError  : Bool
  tripped   : Bool
deriving DecidableEq, Repr

/-- DESIGN CHOICE, log entry 9. -/
def Device.reset : Device where
  stage := 0
  reason := 0
  fails := 0
  minimal := false
  gen := 0
  stopped := false
  throttle := 0
  slots := Vector.replicate 8 0
  owner := none
  keys := []
  staged := []
  firmware := []
  lcs := 1
  fuses := 0
  nonce := none
  scope := none
  algorithms := false
  sessions := []
  pageTime := 0
  rings := []
  corrected := []
  spares := []
  remaps := []
  due := []
  halts := []
  held := []
  retired := []
  running := []
  ctl := 0
  mail := []
  doeError := false
  tripped := false

/-- A partition's counter windows (17 R459, R460). -/
structure Counters where
  sel : Vector Byte 16
  val : Vector Word 16
  ns  : Vector Word 16
  en  : Word
  gen : Word
  at' : BitVec 4
deriving DecidableEq, Repr

def Counters.zero : Counters :=
  ⟨Vector.replicate 16 0, Vector.replicate 16 0, Vector.replicate 16 0, 0, 0, 0⟩

/-- A cached translation (07 R201): the TLB that holds it (a core or control pair by its number, a domain from 1,024 on), the
partition, the page's first address, and the leaf with its level. -/
structure TlbEntry where
  unit  : Nat
  part  : Nat
  page  : Nat
  level : Nat
  leaf  : Nat
deriving DecidableEq, Repr

/-- A frozen pair of origin node and tenant, or a tenant frozen for every origin (14 R380, R382). -/
structure PairFreeze where
  orig   : Option (BitVec 15)
  tenant : BitVec 12
  count  : Nat
deriving DecidableEq, Repr

/-- The node. `events` counts, by partition × 16 + code, what the counter windows count, since their last rotation (17 R459).
`touched` lists mailboxes whose next launch slot a write has reached since it was examined (11 R279).
DESIGN CHOICE, log entry 64. -/
structure State where
  cores   : List (Nat × Core)
  mem     : List Host.Cell
  poison  : List (Nat × Nat)
  lat     : List (Nat × LatRec)
  cur     : Cursor
  last    : Option Stop
  ended   : Bool
  turn    : Nat
  agenda  : List Move
  out     : List Out
  draws   : Nat
  raised  : BitVec 11
  faultId : Word
  node    : BitVec 15
  parts   : List (Nat × BitVec 2048)
  owners  : List (Nat × BitVec 128)
  tlbi    : List (Nat × Word)
  tlb     : List TlbEntry
  time    : Word
  tstat   : Word
  pc      : List (Nat × Counters)
  events  : List (Nat × Nat)
  compl   : List Compl
  freezes : List (Nat × Nat)
  pairs   : List (Nat × PairFreeze)
  replies : List (Nat × List CachedReply)
  remote  : List (Nat × List LogEntry)
  parked  : List Parked
  router  : Router
  fabric  : Fabric
  sweeps  : List (Nat × Sweep)
  bufs    : List PageBuf
  intake  : List (Nat × List Intake)
  mboxes  : List (Nat × Mbox)
  touched : List Nat
  launches : List Launch
  lids    : List (Nat × Word)
  device  : Device
deriving DecidableEq, Repr

/-- No step of this model ends in a fault today: an engine access to an address that does not exist is the spec's own
ENGINE_FAULT (07 R198, R203), which a next state holds. DESIGN CHOICE, log entry 63. -/
inductive Fault where
  /-- Never raised; safe. -/
  | none
deriving DecidableEq, Repr

/-- Why an instruction was not run. DESIGN CHOICE, log entry 63. -/
inductive Refusal where
  /-- Raised by an arm of `exec` whose meaning is not written; safe. -/
  | notModelled (mnemonic : String)
deriving DecidableEq, Repr

/-- A context that holds no task: every register zero, every k register 1.0 (03 R91), state Free (15 R400, R401).
DESIGN CHOICE, log entry 6. -/
def Context.reset : Context where
  s := Vector.replicate 64 0
  v := Vector.replicate 32 0
  vchk := Vector.replicate 32 0
  p := Vector.replicate 24 0
  b := Vector.replicate 8 0
  loops := Vector.replicate 4 Loop.idle
  m := Vector.replicate 8 0
  k := Vector.replicate 8 0x3F800000
  fmt := 0
  streams := Vector.replicate 16 StreamReg.idle
  landing := []
  kept := []
  ip := 0
  ic := 0
  redir := []
  fpf := 0
  cki := 0
  pmk := 0
  scr := Vector.replicate 4 0
  tcause := 0
  tip := 0
  taddr := 0
  tseq := 0
  tval := 0
  dip := 0
  crs := 0
  st := .free
  svc := false
  shchk := false
  drain := false
  stubLen := 0
  diverted := false
  preq := false
  bcause := 0
  bslot := 0
  resid := 0
  latch := none
  region := none
  cpy := Timeline.zero
  mtx := Timeline.zero
  fry := Timeline.zero
  swp := Timeline.zero
  atm := Timeline.zero
  staging := none
  efaults := []
  task := none
  tmr := 0
  exiting := false
  trapped := false
  killed := false
  saved := false
  frozen := false
  nested := false
  mnext := 0
  mseq := 0
  tpend := false
  preqLeft := 0
  skip := none
  ckiClr := 0
  ckiSet := 0
  restore := none
  loopOp := none
  regionOp := none

/-- SYS.LOGC and SYS.LOGX at reset: LOGOFF 0xE0, LOGSZ 20, VIEWOFF 0x1B, no extension (08 R211). DEDUCED, log entry 7. -/
def Log.reset : Log where
  entries := []
  floor := 0
  published := 0
  closed := []
  phase := 0
  cursors := []
  view := []
  rebuilt := 0
  unsound := false
  group := none
  members := []
  decls := []
  gone := []
  logRej := false
  logc := 0x1B14E0
  logx := 0

/-- A core after reset: every bank unarmed (02 R58, R60), the translation table invalid (07 R182).
DESIGN CHOICE, log entry 6. DEDUCED, log entry 8. -/
def Core.reset : Core where
  ctxs := Vector.replicate 4 Context.reset
  holder := 0
  fis := 0
  fences := []
  tiles := Vector.replicate 16 Tile.zero
  xpose := Tile.zero
  xf := 0
  xg := 0
  xowner := none
  ltt := Vector.replicate 128 0
  ltti := 0
  lttRej := false
  lttaNew := 0
  tvec := 0
  scorr := 0
  ccorr := 0
  log := Log.reset
  nt := []
  ntNum := 0
  late := []
  dqs := Vector.replicate 8 DeliveryQueue.empty
  csp := 0
  order := 0
  bundles := 0
  reqId := 0
  stopped := false
  ccyc := 0
  smpc := 0x810
  smph := 0
  smpt := 0
  smpd := 0
  image := none
  stopAt := none

/-- The node right after reset. DESIGN CHOICE, log entry 5. DESIGN CHOICE, log entry 6. -/
def State.reset : State where
  cores := []
  mem := []
  poison := []
  lat := []
  cur := ⟨0, 0, noSlot, none⟩
  last := none
  ended := false
  turn := 0
  agenda := []
  out := []
  draws := 0
  raised := 0
  faultId := 0
  node := 0
  parts := []
  owners := []
  tlbi := []
  tlb := []
  time := 0
  tstat := 0
  pc := []
  events := []
  compl := []
  freezes := []
  pairs := []
  replies := []
  remote := []
  parked := []
  router := Router.reset
  fabric := Fabric.reset
  sweeps := []
  bufs := []
  intake := []
  mboxes := []
  touched := []
  launches := []
  lids := []
  device := Device.reset

end Sys2Proof.Machine
end

