-- ==== Sys2Proof/Machine/Mem.lean ====
section
/-! DEFINITION. Tables keyed by a number, byte memory in its canonical form, and the accessors that reach a core, a
context and a partition entry. -/

namespace Sys2Proof.Machine

/-- The value a sparse table holds for a key. -/
def look {α : Type} (l : List (Nat × α)) (k : Nat) : Option α :=
  match l with
  | [] => none
  | (j, x) :: rest => if j = k then some x else look rest k

/-- A sparse table with one key set; keys stay in rising order. -/
def put {α : Type} (l : List (Nat × α)) (k : Nat) (x : α) : List (Nat × α) :=
  match l with
  | [] => [(k, x)]
  | (j, y) :: rest =>
    if k < j then (k, x) :: (j, y) :: rest
    else if j = k then (k, x) :: rest
    else (j, y) :: put rest k x

/-- A sparse table without one key. -/
def del {α : Type} (l : List (Nat × α)) (k : Nat) : List (Nat × α) :=
  match l with
  | [] => []
  | (j, y) :: rest => if j = k then del rest k else (j, y) :: del rest k

/-- A vector with one element changed; no change past its end. -/
def vmod {α : Type} {n : Nat} (v : Vector α n) (i : Nat) (f : α → α) : Vector α n :=
  if h : i < n then v.set i (f v[i]) h else v

/-! Memory: a byte that no cell lists reads 0 (14 R378 zeroes every resource before a partition owns it). -/

abbrev Mem := List Host.Cell

/-- DESIGN CHOICE, log entry 5. -/
def Mem.read (m : Mem) (a : Nat) : Byte := (look m a).getD 0

/-- A byte write keeps the canonical form: a zero byte is not listed. -/
def Mem.write (m : Mem) (a : Nat) (b : Byte) : Mem := if b = 0 then del m a else put m a b

/-- Keys strictly above `lo`, strictly rising, and no byte listed that an unlisted address would read. -/
def Mem.wfFrom (m : Mem) (lo : Nat) : Bool :=
  match m with
  | [] => true
  | (a, b) :: rest => decide (lo ≤ a) && b != 0 && Mem.wfFrom rest (a + 1)

/-- The canonical form of memory. DESIGN CHOICE, log entry 5. -/
def Mem.wf (m : Mem) : Bool := m.wfFrom 0

/-- `n` bytes from `a`, little-endian (00 R4). -/
def Mem.readLE (m : Mem) (a : Nat) : Nat → Nat
  | 0 => 0
  | n + 1 => (m.read a).toNat + 256 * Mem.readLE m (a + 1) n

/-- The bytes from `a`, in ascending address. -/
def Mem.bytes (m : Mem) (a : Nat) : Nat → List Byte
  | 0 => []
  | n + 1 => m.read a :: Mem.bytes m (a + 1) n

def Mem.writeBytes (m : Mem) (a : Nat) : List Byte → Mem
  | [] => m
  | b :: rest => Mem.writeBytes (m.write a b) (a + 1) rest

/-- The `n` bytes of a number, least significant first. -/
def leBytes (v : Nat) : Nat → List Byte
  | 0 => []
  | n + 1 => BitVec.ofNat 8 v :: leBytes (v / 256) n

/-- The number that a list of bytes spells, least significant first. -/
def ofLE : List Byte → Nat
  | [] => 0
  | b :: rest => b.toNat + 256 * ofLE rest

/-! The node's physical map (07 R198). -/

def sliceBase (core : Nat) : Nat := 0x010000000000 + core * 0x1000000
/-- PRESUMED, log entry 12. -/
def istoreBase (core : Nat) : Nat := 0x012000000000 + core * 0x40000
def isHbm (a : Nat) : Bool := decide (a < 0x8000000000)
def isSlice (a : Nat) : Bool := decide (0x010000000000 ≤ a) && decide (a < 0x010200000000)
def isIstore (a : Nat) : Bool := decide (0x012000000000 ≤ a) && decide (a < 0x012008000000)
def isHostWin (a : Nat) : Bool := decide (0x800000000000 ≤ a) && decide (a < 0x1000000000000)
def sliceCore (a : Nat) : Nat := (a - 0x010000000000) / 0x1000000
def sliceOff (a : Nat) : Nat := (a - 0x010000000000) % 0x1000000
def istoreCore (a : Nat) : Nat := (a - 0x012000000000) / 0x40000
def istoreOff (a : Nat) : Nat := (a - 0x012000000000) % 0x40000

/-! Cores, contexts, timelines. -/

/-- PRESUMED, log entry 12. -/
def State.core (s : State) (n : Nat) : Core := (look s.cores n).getD Core.reset
def State.setCore (s : State) (n : Nat) (c : Core) : State := { s with cores := put s.cores n c }
def State.ctxAt (s : State) (n : Nat) (i : BitVec 2) : Context := (s.core n).ctxs.get i.toFin
def Core.setCtx (c : Core) (i : BitVec 2) (x : Context) : Core := { c with ctxs := c.ctxs.set i.toNat x i.isLt }
def State.setCtxAt (s : State) (n : Nat) (i : BitVec 2) (x : Context) : State :=
  s.setCore n ((s.core n).setCtx i x)

/-- The core and the context of the bundle now issuing. -/
def State.co (s : State) : Core := s.core s.cur.core
def State.setCo (s : State) (c : Core) : State := s.setCore s.cur.core c
def State.cx (s : State) : Context := s.ctxAt s.cur.core s.cur.ctx
def State.setCx (s : State) (x : Context) : State := s.setCtxAt s.cur.core s.cur.ctx x

/-- The core number of an agent that acts for no core. DESIGN CHOICE, log entry 90. -/
def noCore : Nat := 1024

/-- An event that acts for no core: what it corrects counts nowhere (06 R175). -/
def State.actAlone (s : State) : State := { s with cur := ⟨noCore, 0, s.cur.slot, none⟩, raised := 0 }

/-- The cluster of a core: a control pair is core 512 + cluster, and in split mode its trailing core 576 + cluster (01 R10, R11,
16 R437). PRESUMED, log entry 12. -/
def clusterOf (core : Nat) : Nat := if core < 512 then core / 8 else (core - 512) % 64

/-- A core number from 512 on is a control core pair (01 R11). -/
def State.onControl (s : State) : Bool := decide (512 ≤ s.cur.core)

def Context.tl (c : Context) (t : Tl) : Timeline :=
  match t with
  | .cpy => c.cpy
  | .mtx => c.mtx
  | .fry => c.fry
  | .swp => c.swp
  | .atm => c.atm

def Context.setTl (c : Context) (t : Tl) (x : Timeline) : Context :=
  match t with
  | .cpy => { c with cpy := x }
  | .mtx => { c with mtx := x }
  | .fry => { c with fry := x }
  | .swp => { c with swp := x }
  | .atm => { c with atm := x }

/-- The timeline that FN bits 2:0 of TWAIT and TREAD select (09 R246). -/
def tlOf (n : Nat) : Tl :=
  match n with
  | 0 => .cpy
  | 1 => .mtx
  | 2 => .fry
  | 3 => .swp
  | _ => .atm

def Tl.num : Tl → Nat
  | .cpy => 0
  | .mtx => 1
  | .fry => 2
  | .swp => 3
  | .atm => 4

/-! Partition entries (14 R375): a 256-byte record, bit 0 of byte 0 its bit 0. -/

abbrev Part := BitVec 2048

def State.part (s : State) (n : Nat) : Part := (look s.parts n).getD 0
def Part.f (p : Part) (lo n : Nat) : Nat := fld p.toNat lo n
def Part.state (p : Part) : Nat := p.f 0 2
def Part.swap (p : Part) : Bool := p.getLsbD 2
def Part.signReq (p : Part) : Bool := p.getLsbD 3
def Part.split (p : Part) : Bool := p.getLsbD 4
def Part.tenant (p : Part) : Nat := p.f 16 12
def Part.lemin (p : Part) : Nat := p.f 32 5
def Part.ptroot (p : Part) : Nat := p.f 76 36 * 4096
def Part.extent (p : Part) (axis : Nat) : Nat := p.f (128 + 6 * axis) 6
def Part.fmbox (p : Part) : BitVec 12 := BitVec.ofNat 12 (p.f 146 12)
def Part.wbase (p : Part) : Nat := p.f 192 23
def Part.wsize (p : Part) : Nat := p.f 215 21
def Part.lmask (p : Part) : Nat := p.f 256 16
def Part.poolMax (p : Part) : Nat := p.f 272 15
def Part.swmask (p : Part) : BitVec 64 := BitVec.ofNat 64 (p.f 320 64)
def Part.lpool (p : Part) (d : Nat) : Nat := p.f (384 + 8 * d) 8
def Part.spool (p : Part) (d : Nat) : Nat := p.f (448 + 16 * d) 16
def Part.ikey (p : Part) (i : Nat) : Nat := p.f (576 + 8 * i) 8
def Part.ownsCore (p : Part) (c : Nat) : Bool := p.getLsbD (1024 + c) && decide (c < 512)
def Part.ownsHbm (p : Part) (a : Nat) : Bool := p.getLsbD (1536 + a / 0x40000000) && decide (a < 0x8000000000)

/-- The partition that owns a core: the lowest entry that is not FREE and holds its bit (14 R375). -/
def partOfCoreIn (l : List (Nat × Part)) (c : Nat) : Option (Nat × Part) :=
  match l with
  | [] => none
  | (n, p) :: rest => if p.state ≠ 0 ∧ p.ownsCore c then some (n, p) else partOfCoreIn rest c

def State.partOfCore (s : State) (c : Nat) : Option (Nat × Part) := partOfCoreIn s.parts c

/-- The partition of a tenant id (14 R379): an ACTIVE entry that names it. -/
def partOfTenantIn (l : List (Nat × Part)) (t : Nat) : Option (Nat × Part) :=
  match l with
  | [] => none
  | (n, p) :: rest => if p.state = 1 ∧ p.tenant = t then some (n, p) else partOfTenantIn rest t

def State.partOfTenant (s : State) (t : Nat) : Option (Nat × Part) := partOfTenantIn s.parts t

/-- The entry that names a tenant, in any state but FREE: its fault mailbox takes the tenant's notices (12 R328). -/
def State.entryOf (s : State) (t : Nat) : Option (Nat × Part) :=
  s.parts.find? fun x => Part.state x.2 ≠ 0 ∧ Part.tenant x.2 = t

/-! What the counter windows count (14 R398, 17 R459). -/

/-- `n` more events of a code for a partition. -/
def State.countEvents (s : State) (part code n : Nat) : State :=
  { s with events := put s.events (part * 16 + code) ((look s.events (part * 16 + code)).getD 0 + n) }

/-- For the partition of a core. -/
def State.countFor (s : State) (core code n : Nat) : State :=
  match s.partOfCore core with
  | some (k, _) => s.countEvents k code n
  | none => s

/-- For the partition of a tenant. -/
def State.countTenant (s : State) (t code n : Nat) : State :=
  match s.entryOf t with
  | some (k, _) => s.countEvents k code n
  | none => s

/-- A notice to the fault mailbox of a tenant's partition; nothing where no entry names the tenant. -/
def State.postTenant (s : State) (t : Nat) (r : BitVec 512) : State :=
  match s.entryOf t with
  | some (_, p) => { s with compl := s.compl ++ [⟨Part.fmbox p, r, none⟩] }
  | none => s

/-! Notices (11 R282, 14 R380, 15 R406): TYPE 2 records for a partition's fault mailbox. -/

/-- Bytes 8 to 61 of a TYPE 2 record; SEQ and CRC are formed when it is written. DEDUCED, log entry 34. -/
def noticeRec (code b9 : Nat) (node : BitVec 15) (who : Nat) (body : BitVec 256) : BitVec 512 :=
  BitVec.ofNat 512 (2 * 2 ^ 32 + code * 2 ^ 64 + b9 * 2 ^ 72 + node.toNat * 2 ^ 80 + who * 2 ^ 96 + body.toNat * 2 ^ 128)

def State.post (s : State) (mbox : BitVec 12) (r : BitVec 512) : State := { s with compl := s.compl ++ [⟨mbox, r, none⟩] }

/-- A notice about a core to its partition's fault mailbox; nothing where no partition owns the core.
PRESUMED, log entry 32. DEDUCED, log entry 34. -/
def State.noticeFor (s : State) (core code b9 who : Nat) (body : BitVec 256) : State :=
  match s.partOfCore core with
  | some (_, p) => s.post (Part.fmbox p) (noticeRec code b9 s.node who body)
  | none => s

/-! Mailboxes (11 R277-R279). -/

def Mbox.f (x : Mbox) (lo n : Nat) : Nat := fld x.desc.toNat lo n
def Mbox.v (x : Mbox) : Bool := x.desc.getLsbD 0
def Mbox.prod (x : Mbox) : Bool := x.desc.getLsbD 1
def Mbox.anyimg (x : Mbox) : Bool := x.desc.getLsbD 2
def Mbox.base (x : Mbox) : Nat := x.f 12 36 * 4096
def Mbox.handler (x : Mbox) : Word := BitVec.ofNat 64 (x.f 64 48)
def Mbox.part (x : Mbox) : Nat := x.f 128 6

/-- The launch slot that is examined next. -/
def Mbox.slotAt (x : Mbox) : Nat := x.base + 64 * (x.nextl.toNat % 64)

def rangesMeet (a n b m : Nat) : Bool := decide (a < b + m) && decide (b < a + n)

/-- A mailbox whose launch slots a write has reached: what stands in them is void no more (16 R450). -/
def Mbox.reach (x : Mbox) (a n : Nat) : Mbox :=
  if x.void = 0 then x
  else { x with void := (List.range 64).foldl (fun m k => if rangesMeet a n (x.base + 64 * k) 64 then m &&& ~~~(1#64 <<< k) else m) x.void }

/-- A write performed at its home: mailboxes whose next slot it touches are to be examined. -/
def State.touch (s : State) (a n : Nat) : State :=
  if isHbm a then
    let hit := s.mboxes.filter fun x => x.2.v && !x.2.prod && rangesMeet a n x.2.slotAt 64 && !s.touched.contains x.1
    { s with touched := s.touched ++ hit.map (·.1), mboxes := s.mboxes.map fun x => (x.1, x.2.reach a n) }
  else s

/-! The error log (16 R440). -/

/-- The partition that owns an address of slices or HBM. -/
def State.ownerOf (s : State) (pa : Nat) : Option (Nat × Part) :=
  if isSlice pa then s.partOfCore (sliceCore pa)
  else if isHbm pa then s.parts.find? fun x => Part.state x.2 ≠ 0 ∧ Part.ownsHbm x.2 pa
  else none

def dieOf (pa : Nat) : Nat := if isSlice pa then sliceCore pa / 64 else if isHbm pa then 8 + pa / 0x1000000000 else 16
def unitOf (pa : Nat) : Nat := if isSlice pa then sliceCore pa else if isHbm pa then pa / 0x1000000000 else 0

def logEntry (time : Word) (kind die unit count addr : Nat) : BitVec 256 :=
  BitVec.ofNat 256 (time.toNat + kind * 2 ^ 64 + die * 2 ^ 72 + unit * 2 ^ 80 + count * 2 ^ 96 + addr * 2 ^ 128)

/-- A full ring loses its oldest entry. -/
def ErrorRing.add (r : ErrorRing) (e : BitVec 256) : ErrorRing :=
  if r.entries.length < 1024 then { r with entries := r.entries ++ [e], written := r.written + 1 }
  else { entries := r.entries.drop 1 ++ [e], lost := r.lost + 1, written := r.written + 1 }

def State.ring (s : State) (n : Nat) : ErrorRing := (look s.device.rings n).getD ErrorRing.empty

/-- An entry written to a ring: a partition's, or 64 for the device. -/
def State.logTo (s : State) (ring kind die unit count addr : Nat) : State :=
  { s with device := { s.device with
      rings := put s.device.rings ring ((s.ring ring).add (logEntry s.time kind die unit count addr)) } }

/-- Whether a kind also posts a record to the partition's fault mailbox. -/
def kindPosts (k : Nat) : Bool := [2, 4, 7, 10, 11, 13, 14].contains k

/-- An event at an address, logged for its owner. -/
def State.logMem (s : State) (kind count pa : Nat) : State :=
  match s.ownerOf pa with
  | none => s.logTo 64 kind (dieOf pa) (unitOf pa) count pa
  | some (n, p) =>
    let s' := s.logTo n kind (dieOf pa) (unitOf pa) count pa
    if kindPosts kind then
      s'.post (Part.fmbox p) (noticeRec 36 0 s.node 0 (logEntry s.time kind (dieOf pa) (unitOf pa) count pa))
    else s'

/-- An event that belongs to no partition: its ring entry, and for a kind that posts a record to every partition that there is,
since any of them may be concerned (16 R440). DESIGN CHOICE, log entry 58. -/
def State.logDevice (s : State) (kind die unit count addr : Nat) : State :=
  let r := noticeRec 36 0 s.node 0 (logEntry s.time kind die unit count addr)
  let s := s.logTo 64 kind die unit count addr
  if kindPosts kind then (s.parts.filter fun x => Part.state x.2 ≠ 0).foldl (fun s x => s.post (Part.fmbox x.2) r) s else s

/-- An event of an accumulator store, which has no physical address, logged for the partition of its core. -/
def State.logAcc (s : State) (kind core : Nat) : State :=
  let a := sliceBase core
  let e := logEntry s.time kind (dieOf a) (unitOf a) 1 0
  match s.partOfCore core with
  | none => s.logTo 64 kind (dieOf a) (unitOf a) 1 0
  | some (n, p) =>
    let s := s.logTo n kind (dieOf a) (unitOf a) 1 0
    if kindPosts kind then s.post (Part.fmbox p) (noticeRec 36 0 s.node 0 e) else s

/-- 16 R442: a row is due when it shows a poisoned granule, or 16 corrections within 24 hours. -/
def State.rowDue (s : State) (a : Nat) : State :=
  let row := Config.hbmRow a
  let d := s.device
  { s with device := { d with due := if d.due.contains row then d.due else d.due ++ [row] } }

/-- A fresh open value and the state that has drawn it. DESIGN CHOICE, log entry 3. -/
def State.draw (s : State) : BitVec 2048 × State := (Config.freeWord s.draws, { s with draws := s.draws + 1 })

/-- A free number, and the state that has drawn it. DESIGN CHOICE, log entry 3. -/
def State.pick (s : State) : Nat × State := (Config.freeChoice s.draws, { s with draws := s.draws + 1 })

/-- One of the candidates, freely; the only candidate when there is one. -/
def State.choose {α : Type} (s : State) (l : List α) : Option α × State :=
  match l with
  | [] => (none, s)
  | [x] => (some x, s)
  | x :: rest => (((x :: rest)[Config.freeChoice s.draws % (rest.length + 1)]?), { s with draws := s.draws + 1 })

end Sys2Proof.Machine
end

