-- ==== Sys2Proof/Machine/Fabric.lean ====
section
/-! DEFINITION. The fabric as every part of the node needs it: a ferry's fields, routes and reachability, the mooring's
entries, and system ferries (12 R298-R303, R309, R321-R326, 16 R445). -/

namespace Sys2Proof.Machine

/-- Flits of a ferry in their order on the wire (12 R297). -/
def ferryFlits (f : Ferry) : List (BitVec 256) := [f.header, f.manifest, f.program] ++ f.cargo

/-! The ferry (12 R298, R299). -/

/-- A word with bits `lo + n - 1 : lo` replaced. -/
def setFld {w : Nat} (x : BitVec w) (lo n v : Nat) : BitVec w :=
  BitVec.ofNat w (x.toNat - fld x.toNat lo n * 2 ^ lo + v % 2 ^ n * 2 ^ lo)

def hdr (f : Ferry) (lo n : Nat) : Nat := fld f.header.toNat lo n
def setHdr (f : Ferry) (lo n v : Nat) : Ferry := { f with header := setFld f.header lo n v }

def ferryOrig (f : Ferry) : BitVec 15 := BitVec.ofNat 15 (hdr f 0 15)
def ferryDest (f : Ferry) : BitVec 15 := BitVec.ofNat 15 (hdr f 16 15)
def ferryFall (f : Ferry) : BitVec 15 := BitVec.ofNat 15 (hdr f 32 15)
def ferryTenant (f : Ferry) : Nat := hdr f 48 12
def ferryHops (f : Ferry) : Nat := hdr f 64 8
def ferryBudget (f : Ferry) : Nat := hdr f 72 8
def ferryRqv (f : Ferry) : Bool := f.header.getLsbD 80
def ferryEsc (f : Ferry) : Bool := f.header.getLsbD 81
def ferryVlh (f : Ferry) : Bool := f.header.getLsbD 82
def ferryFback (f : Ferry) : Bool := f.header.getLsbD 83
def ferryPoison (f : Ferry) : Bool := f.header.getLsbD 85
def ferrySys (f : Ferry) : Bool := f.header.getLsbD 86
def ferrySp (f : Ferry) : Nat := hdr f 96 3
def ferryClen (f : Ferry) : Nat := hdr f 112 9
def ferryTag (f : Ferry) : Nat := hdr f 128 32
def ferryRq (f : Ferry) : Nat := hdr f 160 12
def ferrySctx (f : Ferry) : Nat := hdr f 176 11
def ferryLid (f : Ferry) : Nat := hdr f 192 16

/-- The node a ferry travels to: FALL while FBACK = 1, DEST otherwise (12 R313). -/
def ferryTarget (f : Ferry) : BitVec 15 := if ferryFback f then ferryFall f else ferryDest f

def ferryH (f : Ferry) (k : Nat) : W32 := BitVec.ofNat 32 (fld f.manifest.toNat (32 * k) 32)
def setH (f : Ferry) (k : Nat) (x : W32) : Ferry := { f with manifest := setFld f.manifest (32 * k) 32 x.toNat }
def ferryE (f : Ferry) (k : Nat) : W32 := BitVec.ofNat 32 (fld f.manifest.toNat (128 + 32 * k) 32)
def setE (f : Ferry) (k : Nat) (x : W32) : Ferry := { f with manifest := setFld f.manifest (128 + 32 * k) 32 x.toNat }
def ferryOp (f : Ferry) (p : Nat) : Nat := fld f.program.toNat (16 * p) 16

/-- The cargo as one value; flit j in bits 256j+255:256j. -/
def cargoNat : List (BitVec 256) → Nat
  | [] => 0
  | x :: rest => x.toNat + 2 ^ 256 * cargoNat rest

/-- Cargo bytes with those beyond CLEN zero (12 R336). -/
def ferryCargo (f : Ferry) : BitVec 2048 := BitVec.ofNat 2048 (cargoNat f.cargo % 2 ^ (8 * ferryClen f))

def cargoFlits (x : Nat) : Nat → List (BitVec 256)
  | 0 => []
  | n + 1 => BitVec.ofNat 256 x :: cargoFlits (x / 2 ^ 256) n

/-- 12 R301: the zero fields, SP, CLEN and the number of cargo flits. -/
def ferryHeaderOk (f : Ferry) : Bool :=
  [(15, 1), (31, 1), (47, 1), (60, 4), (87, 9), (99, 13), (121, 7), (172, 4), (187, 5), (208, 48)].all
    (fun (lo, n) => hdr f lo n == 0) &&
  decide (ferrySp f ≤ 4) && decide (ferryClen f ≤ 256) && decide (ferryClen f % 4 = 0) &&
  decide (f.cargo.length = (ferryClen f + 31) / 32)

/-! Routes (12 R309, R321, R323). -/

def axisOf (node : BitVec 15) (axis : Nat) : Nat := fld node.toNat (5 * axis) 5

/-- The entry whose fabric domain governs a ferry: its tenant's, else the first that is not FREE. -/
def State.entryOfTenant (s : State) (t : Nat) : Option Part :=
  match s.parts.find? fun x => Part.state x.2 ≠ 0 ∧ Part.tenant x.2 = t with
  | some x => some x.2
  | none => (s.parts.find? fun x => Part.state x.2 ≠ 0).map (·.2)

/-- The extent of the fabric domain on an axis. DEDUCED, log entry 38. -/
def State.extent (s : State) (t axis : Nat) : Nat :=
  match s.entryOfTenant t with
  | some p => Part.extent p axis
  | none => 32

/-- A coordinate that names a node of the fabric domain (12 R309). DEDUCED, log entry 38. -/
def State.coordOk (s : State) (t : Nat) (x : W32) : Bool :=
  decide (x.toNat < 2 ^ 15) &&
    [0, 1, 2].all fun a => decide (axisOf (x.setWidth 15) a < s.extent t a)

/-- The port that dimension order takes: X, then Y, then Z, the shorter way, + when both are equally short. -/
def dimPort (ext : Nat → Nat) (here dst : BitVec 15) : Option Nat :=
  ([0, 1, 2].find? fun a => axisOf here a ≠ axisOf dst a).map fun a =>
    let n := ext a
    let up := (axisOf dst a + n - axisOf here a) % n
    let down := (axisOf here a + n - axisOf dst a) % n
    if up ≤ down then 2 * a else 2 * a + 1

/-- Every port that leads the shortest way on some axis (12 R312). -/
def minimalPorts (ext : Nat → Nat) (here dst : BitVec 15) : List Nat :=
  [0, 1, 2].flatMap fun a =>
    if axisOf here a = axisOf dst a then []
    else
      let n := ext a
      let up := (axisOf dst a + n - axisOf here a) % n
      let down := (axisOf here a + n - axisOf dst a) % n
      (if up ≤ down then [2 * a] else []) ++ (if down ≤ up then [2 * a + 1] else [])

def Fabric.link (f : Fabric) (port l : Nat) : Link := (look f.links (4 * port + l)).getD Link.reset

/-- A link that carries flits (16 R443). -/
def Link.live (l : Link) : Bool := l.st == .up || l.st == .degraded

/-- A link that carries flits or is retraining with the keys it holds. -/
def Link.alive (l : Link) : Bool := l.live || (l.keyed && (l.st == .training || l.st == .keying))

/-- A port with no such link takes no ferry (16 R445, R446). -/
def State.deadPort (s : State) (port : Nat) : Bool := !([0, 1, 2, 3].any fun l => (s.fabric.link port l).alive)

/-- The neighbour behind a port. -/
def nextNode (ext : Nat → Nat) (here : BitVec 15) (port : Nat) : BitVec 15 :=
  let a := port / 2
  let n := ext a
  setFld here (5 * a) 5 ((axisOf here a + (if port % 2 = 0 then 1 else n - 1)) % n)

/-- Whether the way that dimension order takes to a node passes no dead port (12 R323, 16 R445). -/
def wayOpen (ext : Nat → Nat) (dead : BitVec 15 → Nat → Bool) (dst : BitVec 15) : Nat → BitVec 15 → Bool
  | 0, _ => false
  | n + 1, here =>
    match dimPort ext here dst with
    | none => true
    | some p => !dead here p && wayOpen ext dead dst n (nextNode ext here p)

/-- A dead port as this router knows it: its own at once, another node's from the notices that have landed here (16 R445). -/
def State.knownDead (s : State) (node : BitVec 15) (port : Nat) : Bool :=
  if node = s.node then s.deadPort port else s.router.deadPorts.contains (node, port)

/-- Whether this router can route a ferry to a node: by dimension order over live links (12 R323). -/
def State.reaches (s : State) (t : Nat) (dst : BitVec 15) : Bool := wayOpen (s.extent t) s.knownDead dst 96 s.node

def State.setRouter (s : State) (r : Router) : State := { s with router := r }

/-! The mooring (12 R326-R330). -/

/-- The lowest entry number not in use: below 16,384 while an entry is free. DESIGN CHOICE, log entry 88. -/
def freeEntry (l : List Moored) : Nat → Nat → Nat
  | 0, k => k
  | n + 1, k => if l.any (fun m => m.num == k) then freeEntry l n (k + 1) else k

/-- Of the 16,384 entries the last 1,024 stay in reserve for ferries from the escape lanes (12 R326, R330). -/
def Router.roomFor (r : Router) (esc : Bool) : Bool := decide (r.moor.length < if esc then 16384 else 15360)

/-- Tenants with entries in the mooring, each with its count. -/
def tenantCounts : List Moored → List (Nat × Nat)
  | [] => []
  | m :: rest =>
    let l := tenantCounts rest
    let t := ferryTenant m.ferry
    put l t ((look l t).getD 0 + 1)

/-- DEDUCED, log entry 34. -/
def State.postFull (s : State) : List (Nat × Nat) → State
  | [] => s
  | (t, n) :: rest =>
    State.postFull (s.postTenant t (noticeRec 37 0 s.node n 0)) rest

/-- 12 R330: injection stops and adaptive lanes are held when the mooring becomes full but for its reserve, until 1,024
entries beside the reserve are free. DESIGN CHOICE, log entry 88. -/
def State.judgeFull (s : State) : State :=
  let r := s.router
  if r.full then (if r.moor.length ≤ 14336 then s.setRouter { r with full := false } else s)
  else if 15360 ≤ r.moor.length then (s.setRouter { r with full := true }).postFull (tenantCounts r.moor)
  else s

/-- A ferry enters the mooring at the lowest free entry. -/
def State.enter (s : State) (m : Moored) : State :=
  let s := s.countTenant (ferryTenant m.ferry) 9 1
  let r := s.router
  (s.setRouter { r with moor := r.moor ++ [{ m with num := freeEntry r.moor r.moor.length 0 }] }).judgeFull

def State.tenantOfCore (s : State) (core : Nat) : Nat :=
  match s.partOfCore core with
  | some (_, p) => Part.tenant p
  | none => 0

/-! System ferries (12 R298, R323). -/

/-- The ferry of an IOD management core, as far as the router reads it: FALL equals DEST, and RQV is 0. -/
def sysFerry (node dst : BitVec 15) (t : Nat) : Ferry :=
  ⟨BitVec.ofNat 256 (node.toNat + dst.toNat * 2 ^ 16 + dst.toNat * 2 ^ 32 + t % 2 ^ 12 * 2 ^ 48 + 2 ^ 86), 0, 0, []⟩

/-- What a system ferry carries to another node leaves, or, while the node is not reachable, stands in the mooring as
UNREACHABLE, without a notice (12 R323, R328). DEDUCED, log entry 38. -/
def State.sendSys (s : State) (t : Nat) (dst : BitVec 15) (o : Out) : State :=
  if s.reaches t dst then { s with out := s.out ++ [o] }
  else
    let r := s.router
    let m : Moored := ⟨0, sysFerry s.node dst t, 20, 0, 0, 0, false, r.stamp, some o⟩
    let r := { r with stamp := r.stamp + 1 }
    if r.roomFor false then (s.setRouter r).enter m else s.setRouter { r with stuck := r.stuck ++ [m] }

/-- One system ferry to each of a list of nodes. -/
def State.sendEach (s : State) (t : Nat) (o : BitVec 15 → Out) : List (BitVec 15) → State
  | [] => s
  | n :: rest => State.sendEach (s.sendSys t n (o n)) t o rest

end Sys2Proof.Machine
end

