-- ==== Sys2Proof/Machine/Lattice.lean ====
section
/-! DEFINITION. Lattice records: lanes and sums, storage checks, erasure repair, and the write that keeps a record exact
(06 R156-R169), with the poison rules of the error correction below it (07 R195-R197). -/

namespace Sys2Proof.Machine

/-! Lanes of a 2,048-bit row (01 R24). -/

def lane (v : VReg) (i : Nat) : W32 := v.extractLsb' (32 * i) 32

/-- The lanes `i`, `i + 1`, …, as one number. -/
def lanesNat (f : Nat → W32) (i : Nat) : Nat → Nat
  | 0 => 0
  | n + 1 => (f i).toNat + 2 ^ 32 * lanesNat f (i + 1) n

/-- The row whose lane i is `f i`. -/
def ofLanes (f : Nat → W32) : VReg := BitVec.ofNat 2048 (lanesNat f 0 64)

def setLane (v : VReg) (i : Nat) (x : W32) : VReg :=
  (v &&& ~~~(BitVec.ofNat 2048 0xFFFFFFFF <<< (32 * i))) ||| (BitVec.setWidth 2048 x <<< (32 * i))

def sumFrom (f : Nat → W32) (i : Nat) : Nat → W32
  | 0 => 0
  | n + 1 => f i + sumFrom f (i + 1) n

/-- The lane sum of a register (04 R115). -/
def laneSum (v : VReg) : W32 := sumFrom (lane v) 0 64

/-! SYS.CKI bits (15 R410). -/

def ckiPOISON : BitVec 11 := 1
def ckiLCORR : BitVec 11 := 2
def ckiLFAULT : BitVec 11 := 4
def ckiSUBNF : BitVec 11 := 8
def ckiSUBNA : BitVec 11 := 16
def ckiIOVF : BitVec 11 := 32
def ckiWCOLL : BitVec 11 := 64
def ckiPRACE : BitVec 11 := 128
def ckiCNAN : BitVec 11 := 256
def ckiT2RSV : BitVec 11 := 512
def ckiMOORED : BitVec 11 := 1024

/-- A check bit raised by the memory operation now running; its context receives it as 15 R411 says. -/
def State.raise (s : State) (b : BitVec 11) : State := { s with raised := s.raised ||| b }

/-- One more in SYS.LCNT.SCORR of a core, which holds at its maximum (06 R175). -/
def State.countScorr (s : State) (core : Nat) : State :=
  let c := s.core core
  s.setCore core { c with scorr := if c.scorr = 0xFFFFFFFF then c.scorr else c.scorr + 1 }

/-- A storage correction: LCORR, and SYS.LCNT.SCORR of the requesting core, when a core requests (06 R175), whose partition's
window counts it (17 R459). -/
def State.scorrect (s : State) : State :=
  (if s.cur.core = noCore then s else (s.countScorr s.cur.core).countFor s.cur.core 10 1).raise ckiLCORR

/-! Entries of the locked translation table (07 R181). -/

abbrev Ltt := BitVec 128

def Ltt.vbase (e : Ltt) : Nat := fld e.toNat 0 48
def Ltt.size (e : Ltt) : Nat := fld e.toNat 48 5
def Ltt.kind (e : Ltt) : Nat := fld e.toNat 53 3
def Ltt.sealed (e : Ltt) : Bool := e.getLsbD 56
def Ltt.wr (e : Ltt) : Bool := e.getLsbD 57
def Ltt.v (e : Ltt) : Bool := e.getLsbD 58
def Ltt.soff (e : Ltt) : Nat := fld e.toNat 64 24
def Ltt.ctxm (e : Ltt) : BitVec 4 := BitVec.ofNat 4 (fld e.toNat 88 4)
def Ltt.lmsid (e : Ltt) : BitVec 12 := BitVec.ofNat 12 (fld e.toNat 92 12)
def Ltt.coversOff (e : Ltt) (off : Nat) : Bool :=
  e.v && decide (e.soff ≤ off) && decide (off < e.soff + 2 ^ e.size)
def Ltt.coversVa (e : Ltt) (a : Nat) : Bool :=
  e.v && decide (e.vbase ≤ a) && decide (a < e.vbase + 2 ^ e.size)

/-- The tile that holds a sealed address: a slice range whose entry has SEAL, or an HBM tile with a record (06 R158).
DEDUCED, log entry 31. -/
def State.sealedTile (s : State) (a : Nat) : Option Nat :=
  let t := a / 16384 * 16384
  if isSlice a then
    if (s.core (sliceCore a)).ltt.toList.any (fun e => Ltt.sealed e && Ltt.coversOff e (sliceOff a)) then some t else none
  else if isHbm a then (look s.lat t).map fun _ => t
  else none

def State.latOf (s : State) (t : Nat) : LatRec := (look s.lat t).getD ⟨0, 0, false, []⟩
def State.setLat (s : State) (t : Nat) (r : LatRec) : State := { s with lat := put s.lat t r }

/-- Container (i, j) of a memory tile (06 R156). -/
def State.cell (s : State) (t i j : Nat) : W32 := BitVec.ofNat 32 (Mem.readLE s.mem (t + 256 * i + 4 * j) 4)

/-! Poison (07 R195-R197): a mark on a slice word or an HBM granule, with the mask of its good bytes. -/

/-- The word or granule that carries a byte's mark, and its size. -/
def poisonUnit (a : Nat) : Nat × Nat := if isHbm a then (a / 32 * 32, 32) else (a / 4 * 4, 4)

/-- Whether a byte lies outside the good-byte mask of a poisoned word or granule. -/
def State.badByte (s : State) (a : Nat) : Bool :=
  match look s.poison (poisonUnit a).1 with
  | none => false
  | some g => !(g.testBit (a - (poisonUnit a).1))

def State.badBytes (s : State) (a : Nat) : Nat → Bool
  | 0 => false
  | n + 1 => s.badByte a || State.badBytes s (a + 1) n

/-- Bytes written become good; a unit whose every byte is good carries no mark. -/
def State.goodByte (s : State) (a : Nat) : State :=
  let (u, n) := poisonUnit a
  match look s.poison u with
  | none => s
  | some g =>
    let g' := g ||| 2 ^ (a - u)
    { s with poison := if g' = 2 ^ n - 1 then del s.poison u else put s.poison u g' }

def State.goodBytes (s : State) (a : Nat) : Nat → State
  | 0 => s
  | n + 1 => State.goodBytes (s.goodByte a) (a + 1) n

/-- A word or granule marked poisoned, none of its bytes good (07 R195). -/
def State.mark (s : State) (a : Nat) : State := { s with poison := put s.poison (poisonUnit a).1 0 }

def State.badCell (s : State) (t i j : Nat) : Bool := s.badBytes (t + 256 * i + 4 * j) 4

/-! Classification (06 R161). Containers left out of the sums are those still poisoned. -/

inductive Verdict where
  | clean
  | single (i j : Nat) (d : W32)
  | multi (i j : Nat)
  | broken
deriving DecidableEq, Repr

def upTo64 : List Nat := List.range 64

/-- Row and column differences of 64 × 64 containers against a record. -/
def rowDiff (cell : Nat → Nat → W32) (r : LatRec) (i : Nat) : W32 := sumFrom (cell i) 0 64 - lane r.rsum i
def colDiff (cell : Nat → Nat → W32) (r : LatRec) (j : Nat) : W32 := sumFrom (fun i => cell i j) 0 64 - lane r.csum j

/-- `classify` over the rows and columns that hold no unrepaired erasure (06 R161, R165). -/
def classify (cell : Nat → Nat → W32) (r : LatRec) (skipRow skipCol : Nat → Bool) : Verdict :=
  if r.broken then .broken
  else
    let rows := upTo64.filter fun i => !skipRow i && rowDiff cell r i != 0
    let cols := upTo64.filter fun j => !skipCol j && colDiff cell r j != 0
    match rows, cols with
    | [], [] => .clean
    | [i], [j] =>
      if rowDiff cell r i = colDiff cell r j then .single i j (rowDiff cell r i) else .multi i j
    | i :: _, j :: _ => .multi i j
    | i :: _, [] => .multi i 0
    | [], j :: _ => .multi 0 j

/-- A row or a column whose sum is poisoned (07 R195). DESIGN CHOICE, log entry 74. -/
def LatRec.badRow (r : LatRec) (i : Nat) : Bool := r.bad.contains i
def LatRec.badCol (r : LatRec) (j : Nat) : Bool := r.bad.contains (64 + j)

/-- The value that `erasure_repair` restores, when row and column agree and hold no other poison (06 R165). -/
def State.erasure (s : State) (t i j : Nat) : Option W32 :=
  let r := s.latOf t
  if upTo64.any (fun c => c != j && s.badCell t i c) || upTo64.any (fun r => r != i && s.badCell t r j) || r.badRow i || r.badCol j
  then none
  else
    let x := lane r.rsum i - (sumFrom (s.cell t i) 0 64 - s.cell t i j)
    let y := lane r.csum j - (sumFrom (fun k => s.cell t k j) 0 64 - s.cell t i j)
    if x = y then some x else none

/-- The poisoned containers of a tile, by row first and column second. -/
def State.badCells (s : State) (t : Nat) : List (Nat × Nat) :=
  if s.poison = [] then []
  else (List.range 4096).filterMap fun n =>
    if s.badCell t (n / 64) (n % 64) then some (n / 64, n % 64) else none

def State.putCell (s : State) (t i j : Nat) (x : W32) : State :=
  { s with mem := Mem.writeBytes s.mem (t + 256 * i + 4 * j) (leBytes x.toNat 4) }

/-- Every erasure of a list that can be repaired is written with its mark cleared; each counts as a correction. -/
def State.repairAll (s : State) (t : Nat) : List (Nat × Nat) → State
  | [] => s
  | (i, j) :: rest =>
    match s.erasure t i j with
    | some x => State.repairAll (((s.putCell t i j x).goodBytes (t + 256 * i + 4 * j) 4).scorrect) t rest
    | none => State.repairAll s t rest

/-- The verdict on a memory tile, its unrepaired erasures left out, and the lines whose sums are poisoned. -/
def State.verdict (s : State) (t : Nat) : Verdict :=
  let bad := s.badCells t
  let r := s.latOf t
  classify (s.cell t) r (fun i => r.badRow i || bad.any fun c => c.1 == i) (fun j => r.badCol j || bad.any fun c => c.2 == j)

/-- A check that reads poisoned sums consumes their poison (07 R195, R196). -/
def State.tasteSums (s : State) (yes : Bool) : State := if yes then s.raise ckiPOISON else s

/-- A storage check of a memory tile: erasures repaired, a SINGLE corrected in place (06 R161, R165). -/
def State.checkTile (s : State) (t : Nat) : State × Verdict :=
  if (s.latOf t).broken then (s, .broken)
  else
    let s := (s.tasteSums ((s.latOf t).bad != [])).repairAll t (s.badCells t)
    match s.verdict t with
    | .single i j d => ((s.putCell t i j (s.cell t i j - d)).scorrect, .single i j d)
    | v => (s, v)

/-- Row i of a sealed tile compared with its sum; the tile is checked when they differ or the row holds poison. The
answer is false when the tile classifies MULTI (06 R162). -/
def State.checkRow (s : State) (t i : Nat) : State × Bool :=
  if (s.latOf t).broken then (s, true)
  else if (s.latOf t).badRow i then (s.raise ckiPOISON, true)
  else if rowDiff (s.cell t) (s.latOf t) i = 0 ∧ !(upTo64.any (s.badCell t i)) then (s, true)
  else
    match s.checkTile t with
    | (s', .multi _ _) => (s'.raise ckiLFAULT, false)
    | (s', _) => (s', true)

/-- Every sealed row that an engine read of `n` bytes from `a` touches is verified whole (06 R162). -/
def State.verifyFrom (s : State) (row last : Nat) : Nat → State × Bool
  | 0 => (s, true)
  | f + 1 =>
    if last < row then (s, true)
    else
      let (s', ok) : State × Bool :=
        match s.sealedTile row with
        | some t => s.checkRow t ((row - t) / 256)
        | none => (s, true)
      if ok then State.verifyFrom s' (row + 256) last f else (s', false)

def State.verifyRead (s : State) (a n : Nat) : State × Bool :=
  if n = 0 then (s, true) else s.verifyFrom (a / 256 * 256) (a + n - 1) (n / 256 + 2)

/-- An engine write into any byte of an instruction store unarms its bank and fails a validation in flight: that of the
first FENCE.I of the core, since they are performed one at a time (02 R58, 10 R272). -/
def State.unarm (s : State) (a : Nat) : State :=
  if isIstore a then
    let n := istoreCore a
    let o := istoreOff a
    let b := if o < 0x1C000 then 0 else if o < 0x38000 then 1 else 2
    let c := s.core n
    s.setCore n { c with
      fis := c.fis &&& ~~~(1#24 <<< b),
      fences := match c.fences with
        | [] => []
        | f :: rest => (if f.bank.toNat = b then { f with hit := true } else f) :: rest }
  else s

/-- A write that meets a poisoned container of a VALID sealed tile repairs it first, or breaks the record (06 R165). -/
def State.mendCell (s : State) (t i j : Nat) : State :=
  if s.badCell t i j && !(s.latOf t).broken then
    match s.erasure t i j with
    | some x => ((s.putCell t i j x).goodBytes (t + 256 * i + 4 * j) 4).scorrect
    | none => (s.setLat t { s.latOf t with broken := true }).logMem 11 1 t
  else s

/-- The containers that a write touches, from an aligned address on. -/
def State.mendFrom (s : State) (a last : Nat) : Nat → State
  | 0 => s
  | f + 1 =>
    if last < a then s
    else
      let s' := match s.sealedTile a with
        | some t => s.mendCell t ((a - t) / 256) ((a - t) % 256 / 4)
        | none => s
      State.mendFrom s' (a + 4) last f

/-- Nothing is mended where nothing is poisoned. -/
def State.mend (s : State) (a n : Nat) : State :=
  if s.poison = [] ∨ n = 0 then s else s.mendFrom (a / 4 * 4) (a + n - 1) (n / 4 + 2)

/-- Bytes written inside one aligned container, with the record of a VALID sealed tile kept exact in the same step
(06 R166). DEDUCED, log entry 31. -/
def State.writePart (s : State) (a : Nat) (bs : List Byte) : State :=
  match s.sealedTile a with
  | none => { s.goodBytes a bs.length with mem := Mem.writeBytes s.mem a bs }
  | some t =>
    let i := (a - t) / 256
    let j := (a - t) % 256 / 4
    let old := s.cell t i j
    let s := { s.goodBytes a bs.length with mem := Mem.writeBytes s.mem a bs }
    let d := s.cell t i j - old
    let r := s.latOf t
    if r.broken then s
    else s.setLat t { r with
      rsum := setLane r.rsum i (lane r.rsum i + d), csum := setLane r.csum j (lane r.csum j + d) }

/-- A write of any bytes at a physical address, container by container. -/
def State.writeFrom (s : State) (a : Nat) : Nat → List Byte → State
  | 0, _ => s
  | f + 1, bs =>
    if bs = [] then s
    else
      let n := 4 - a % 4
      State.writeFrom (s.writePart a (bs.take n)) (a + (bs.take n).length) f (bs.drop n)

/-- A write that covers a poisoned word or granule only in part is logged (07 R196, R197). -/
def State.logPartial (s : State) (a n : Nat) : State :=
  let partly (x : Nat) : Bool :=
    let (u, m) := poisonUnit x
    (look s.poison u).isSome && (decide (u < a) || decide (a + n < u + m))
  let s' := if 0 < n ∧ partly a then s.logMem 5 1 (poisonUnit a).1 else s
  let z := a + n - 1
  if 0 < n ∧ (poisonUnit z).1 ≠ (poisonUnit a).1 ∧ partly z then s'.logMem 5 1 (poisonUnit z).1 else s'

/-- Repair comes before the rules of partly written words (07 R196). DEDUCED, log entry 31. -/
def State.writePhys (s : State) (a : Nat) (bs : List Byte) : State :=
  ((((s.mend a bs.length).logPartial a bs.length).writeFrom a (bs.length + 1) bs).unarm a).touch a bs.length

/-- A write that no context asked for: what it raises and corrects is no program's (06 R175). -/
def State.writeAlone (s : State) (a : Nat) (bs : List Byte) : State :=
  { s.actAlone.writePhys a bs with cur := s.cur, raised := s.raised }

/-- The record computed from a tile's data; a poisoned container leaves it BROKEN and sets POISON (06 R165, R180). -/
def State.sealTile (s : State) (t : Nat) : State :=
  let rec' : LatRec :=
    ⟨ofLanes fun i => sumFrom (s.cell t i) 0 64, ofLanes fun j => sumFrom (fun i => s.cell t i j) 0 64, false, []⟩
  if s.badCells t = [] then s.setLat t rec' else ((s.setLat t { rec' with broken := true }).logMem 11 1 t).raise ckiPOISON

/-! Tiles of the accumulator store and the transposer (06 R158): always VALID. -/

def Tile.cell (x : Tile) (i j : Nat) : W32 := lane (x.rows[i]?.getD 0) j
def Tile.record (x : Tile) : LatRec := ⟨x.rsum, x.csum, false, []⟩
def Tile.badCell (x : Tile) (i j : Nat) : Bool := x.bad.contains (64 * i + j)
def Tile.badRow (x : Tile) (i : Nat) : Bool := x.bad.any fun n => n / 64 == i

/-- The tile's verdict, its unrepaired erasures left out (06 R161, R165). -/
def Tile.classify (x : Tile) : Verdict :=
  Machine.classify x.cell x.record x.badRow fun j => x.bad.any fun n => n % 64 == j

/-- The value that `erasure_repair` restores in an accumulator container (06 R165, 07 R195). -/
def Tile.erasure (x : Tile) (i j : Nat) : Option W32 :=
  if x.bad.any fun n => n != 64 * i + j && (n / 64 == i || n % 64 == j) then none
  else
    let a := lane x.rsum i - (sumFrom (x.cell i) 0 64 - x.cell i j)
    let b := lane x.csum j - (sumFrom (fun k => x.cell k j) 0 64 - x.cell i j)
    if a = b then some a else none

/-- Every erasure of a list that can be repaired, and how many were (06 R165). -/
def Tile.repairAll (x : Tile) : List Nat → Tile × Nat
  | [] => (x, 0)
  | n :: rest =>
    match x.erasure (n / 64) (n % 64) with
    | some v =>
      let y := { x with rows := vmod x.rows (n / 64) fun r => setLane r (n % 64) v, bad := x.bad.filter (· ≠ n), good := del x.good n }
      let (z, k) := Tile.repairAll y rest
      (z, k + 1)
    | none => Tile.repairAll x rest

def Tile.repair (x : Tile) : Tile × Nat := x.repairAll x.bad

/-- One container written, the sums changed by the same delta (06 R166); a container written whole carries no mark. Where a
container was poisoned with no repair, the delta is taken against the bits found in it, so that the record, which stays VALID,
is off by them. DESIGN CHOICE, log entry 92. -/
def Tile.set (x : Tile) (i j : Nat) (v : W32) : Tile :=
  let d := v - x.cell i j
  { rows := vmod x.rows i fun r => setLane r j v
    rsum := setLane x.rsum i (lane x.rsum i + d)
    csum := setLane x.csum j (lane x.csum j + d)
    bad := x.bad.filter (· ≠ 64 * i + j)
    good := del x.good (64 * i + j) }

/-- A container corrected; the record stands (06 R161). -/
def Tile.correct (x : Tile) (i j : Nat) (d : W32) : Tile :=
  { x with rows := vmod x.rows i fun r => setLane r j (lane r j - d) }

/-- The lanes of a row that a mask names written into row i. -/
def Tile.setRow (x : Tile) (i : Nat) (v : VReg) (m : Nat → Bool) : Tile :=
  let old := x.rows[i]?.getD 0
  let new := ofLanes fun j => if m j then lane v j else lane old j
  { rows := vmod x.rows i fun _ => new
    rsum := setLane x.rsum i (lane x.rsum i + (laneSum new - laneSum old))
    csum := ofLanes fun j => lane x.csum j + (lane new j - lane old j)
    bad := x.bad.filter fun n => !(n / 64 == i && m (n % 64))
    good := x.good.filter fun g => !(g.1 / 64 == i && m (g.1 % 64)) }

/-- Whether a byte of the tile lies outside the good-byte mask of a poisoned container (07 R196). -/
def Tile.badByte (x : Tile) (off : Nat) : Bool := x.bad.contains (off / 4) && !(((look x.good (off / 4)).getD 0).testBit (off % 4))

def Tile.badBytes (x : Tile) (off : Nat) : Nat → Bool
  | 0 => false
  | n + 1 => x.badByte off || Tile.badBytes x (off + 1) n

/-- A byte merged into its container: in a poisoned one its bit of the mask is set, and the mark goes with the last (07 R196). -/
def Tile.writeByte (x : Tile) (off : Nat) (b : Byte) : Tile :=
  let old := x.cell (off / 256) (off % 256 / 4)
  let sh := 8 * (off % 4)
  let y := x.set (off / 256) (off % 256 / 4) ((old &&& ~~~(0xFF#32 <<< sh)) ||| (b.setWidth 32 <<< sh))
  let g := (look x.good (off / 4)).getD 0 ||| 2 ^ (off % 4)
  if x.bad.contains (off / 4) ∧ g ≠ 15 then { y with bad := x.bad, good := put x.good (off / 4) g } else y

/-- Bytes written into a tile as a sealed write (06 R166). -/
def Tile.writeBytes (x : Tile) (off : Nat) : List Byte → Tile
  | [] => x
  | b :: rest => Tile.writeBytes (x.writeByte off b) (off + 1) rest

/-- A tile with its record computed from its rows. -/
def Tile.ofRows (rows : Vector VReg 64) : Tile :=
  { rows := rows
    rsum := ofLanes fun i => laneSum (rows[i]?.getD 0)
    csum := ofLanes fun j => sumFrom (fun i => lane (rows[i]?.getD 0) j) 0 64
    bad := []
    good := [] }

def State.scorrects (s : State) : Nat → State
  | 0 => s
  | n + 1 => State.scorrects s.scorrect n

/-- The erasures of an accumulator tile that can be repaired are, before anything reads or writes it (06 R165). -/
def State.mendTile (s : State) (core t : Nat) : State :=
  let k := s.core core
  let x := k.tiles[t]?.getD Tile.zero
  if x.bad = [] then s
  else (s.setCore core { k with tiles := vmod k.tiles t fun x => x.repair.1 }).scorrects x.repair.2

end Sys2Proof.Machine
end

