-- ==== Sys2Proof/Machine/Log.lean ====
section
/-! DEFINITION. Store logs and views: combining, overlay reads and writes, forming, coalescing and appending entries,
publication, replay and rollback (08 R206-R231). -/

namespace Sys2Proof.Machine

/-- `combine(c, old, v)` of 08 R218. -/
def combine (code old v : Nat) : Nat :=
  let s32 (x : Nat) : Int := valT 4 x
  match code with
  | 0 => (old + v) % 2 ^ 32
  | 1 => (old + v) % 2 ^ 64
  | 2 => (fAdd fp32 0 old v).1
  | 3 => if s32 old < s32 v then v % 2 ^ 32 else old % 2 ^ 32
  | 4 => if s32 v < s32 old then v % 2 ^ 32 else old % 2 ^ 32
  | 5 => fMinMax fp32 false true old v
  | 6 => fMinMax fp32 false false old v
  | 7 =>
    if fp32.read old = .nan ∨ fp32.read v = .nan then fp32.nan
    else max (old % 2 ^ 31) (v % 2 ^ 31)
  | 8 => (old % 2 ^ 32) ||| (v % 2 ^ 32)
  | 9 => (old % 2 ^ 32) &&& (v % 2 ^ 32)
  | _ => v

/-- Bytes that one element of a combining code covers (08 R218). -/
def codeBytes (code : Nat) : Nat := if code = 1 ∨ code = 11 then 8 else 4

/-- The data size of an entry in bytes (08 R210). -/
def LogEntry.bytes (e : LogEntry) : Nat := 2 ^ e.sz.toNat

/-- CRC-16 with polynomial 0x1021, one bit at a time, most significant first (08 R210). -/
def crc16Bits (crc byte : Nat) : Nat → Nat
  | 0 => crc
  | n + 1 =>
    let b := (byte / 2 ^ n % 2) ^^^ (crc / 2 ^ 15 % 2)
    crc16Bits ((crc * 2 % 2 ^ 16) ^^^ (if b = 1 then 0x1021 else 0)) byte n

def crc16 (bs : List Byte) : Nat := bs.foldl (fun c b => crc16Bits c b.toNat 8) 0xFFFF

/-- The 32-byte image of an entry at position `seq` (08 R210). -/
def LogEntry.image (e : LogEntry) (seq : Nat) : List Byte :=
  let w0 := seq % 2 ^ 32 + e.op.toNat * 2 ^ 32 + e.sz.toNat * 2 ^ 37 + e.lms.toNat * 2 ^ 40 + e.ctx.toNat * 2 ^ 52
  let body (crc : Nat) := leBytes w0 8 ++ leBytes (e.off % 2 ^ 40 + crc * 2 ^ 40) 8 ++ leBytes e.data.toNat 16
  body (crc16 (body 0))

/-- The entry that 32 bytes spell; `bad` when its CRC or a reserved value is wrong (08 R210). -/
def LogEntry.read (bs : List Byte) (born : Nat) : LogEntry :=
  let x := ofLE bs
  let e : LogEntry :=
    ⟨BitVec.ofNat 5 (fld x 32 5), BitVec.ofNat 3 (fld x 37 3), BitVec.ofNat 12 (fld x 40 12), BitVec.ofNat 2 (fld x 52 2), fld x 64 40,
      BitVec.ofNat 128 (fld x 128 128), born, false⟩
  let zeroed := bs.take 13 ++ leBytes 0 2 ++ bs.drop 15
  let op := e.op.toNat
  { e with bad := decide (crc16 zeroed ≠ fld x 104 16) || decide (fld x 54 10 ≠ 0) || decide (fld x 120 8 ≠ 0) || decide (4 < e.sz.toNat) ||
      !(op == 1 || (decide (16 ≤ op) && decide (op ≤ 26))) }

/-! Tokens (08 R214). -/

def token (phase : BitVec 31) (tail : Nat) : Word := BitVec.ofNat 64 (phase.toNat * 2 ^ 32 + tail % 2 ^ 32)
def tokenTail (t : Word) : Nat := fld t.toNat 0 32
def tokenPhase (t : Word) : Nat := fld t.toNat 32 31

/-! SYS.LOGC and SYS.LOGX (08 R211). -/

def Log.logOff (l : Log) : Nat := fld l.logc.toNat 0 8 * 0x10000
/-- DEDUCED, log entry 7. -/
def Log.logSize (l : Log) : Nat := 2 ^ fld l.logc.toNat 8 5
def Log.viewOff (l : Log) : Nat := fld l.logc.toNat 16 5 * 0x80000
def Log.xsize (l : Log) : Nat := fld l.logc.toNat 32 9 * 0x100000
def Log.xbase (l : Log) : Nat := fld l.logx.toNat 20 28 * 0x100000

/-- Entries that the slice log and the extension hold together. -/
def Log.capacity (l : Log) : Nat := (l.logSize + l.xsize) / 32

def Log.tail (l : Log) : Nat := l.entries.length

/-- Where the entry at a position lies: the slice log first, then the extension (08 R211). -/
def Log.placeOf (l : Log) (core seq : Nat) : Nat :=
  if 32 * seq < l.logSize then sliceBase core + l.logOff + 32 * seq else l.xbase + (32 * seq - l.logSize)

/-- An entry as its bytes give it to a reader: three fetches in one step read the same bytes (08 R210). -/
def State.fetchEntry (s : State) (core : Nat) (l : Log) (seq : Nat) (e : LogEntry) : LogEntry :=
  let bs := Mem.bytes s.mem (l.placeOf core seq) 32
  if bs = e.image seq then e else LogEntry.read bs e.born

def State.fetchEntries (s : State) (core : Nat) (l : Log) : List LogEntry := l.entries.mapIdx fun i e => s.fetchEntry core l i e

/-- The images of entries that are new or changed written at their places. -/
def State.putImages (s : State) (core : Nat) (l : Log) (old : List LogEntry) : List (Nat × LogEntry) → State
  | [] => s
  | (i, e) :: rest =>
    State.putImages (if old[i]? = some e then s else s.writePhys (l.placeOf core i) (e.image i)) core l old rest

/-- A core's log changed, and the bytes of its entries with it (08 R210, R211). -/
def State.putLog (s : State) (core : Nat) (l : Log) : State :=
  let k := s.core core
  (s.setCore core { k with log := l }).putImages core l k.log.entries (l.entries.mapIdx fun i e => (i, e))

/-! The overlay (08 R208, R209). -/

def viewSetOf (lms : BitVec 12) (gran : Nat) : Nat := (lms.toNat * 40503 + gran) % 1920

def viewFind (v : List ViewEntry) (lms : BitVec 12) (gran : Nat) : Option ViewEntry :=
  v.find? fun e => e.lms = lms && e.gran = gran

/-- Where a new granule goes: a free entry of its set, or of the shared area; none when neither has room. -/
def viewPlace (v : List ViewEntry) (lms : BitVec 12) (gran : Nat) : Option ViewEntry :=
  let set := viewSetOf lms gran
  if (v.filter fun e => !e.shared && viewSetOf e.lms e.gran == set).length < 8 then some ⟨lms, gran, 0, 0, false, 0, 0⟩
  else if (v.filter fun e => e.shared).length < 1024 then some ⟨lms, gran, 0, 0, true, 0, 0⟩
  else none

def granByte (d : BitVec 128) (k : Nat) : Byte := d.extractLsb' (8 * k) 8
def setGranByte (d : BitVec 128) (k : Nat) (b : Byte) : BitVec 128 :=
  (d &&& ~~~(0xFF#128 <<< (8 * k))) ||| (BitVec.setWidth 128 b <<< (8 * k))

/-- A byte of the core's view of an LMS: the overlay where valid, the base elsewhere. -/
def viewByte (v : List ViewEntry) (base : BitVec 12 → Nat → Byte) (lms : BitVec 12) (off : Nat) : Byte :=
  match viewFind v lms (off / 16) with
  | some e => if e.mask.getLsbD (off % 16) then granByte e.data (off % 16) else base lms off
  | none => base lms off

def viewLE (v : List ViewEntry) (base : BitVec 12 → Nat → Byte) (lms : BitVec 12) (off : Nat) : Nat → Nat
  | 0 => 0
  | n + 1 => (viewByte v base lms off).toNat + 256 * viewLE v base lms (off + 1) n

/-- Bytes written into one view entry become valid. -/
def granWrite (e : ViewEntry) (k : Nat) : List Byte → ViewEntry
  | [] => e
  | b :: rest =>
    granWrite { e with data := setGranByte e.data k b, mask := e.mask ||| (1#16 <<< k), bad := e.bad &&& ~~~(1#16 <<< k) } (k + 1) rest

/-- Whether any of `n` bytes of a view lies in a valid, poisoned byte of its overlay (08 R225). -/
def viewBad (v : List ViewEntry) (lms : BitVec 12) (off : Nat) : Nat → Bool
  | 0 => false
  | n + 1 =>
    (match viewFind v lms (off / 16) with
      | some e => e.mask.getLsbD (off % 16) && e.bad.getLsbD (off % 16)
      | none => false) || viewBad v lms (off + 1) n

/-- Whether a byte of a view stands in the overlay. -/
def viewHas (v : List ViewEntry) (lms : BitVec 12) (off : Nat) : Bool :=
  match viewFind v lms (off / 16) with
  | some e => e.mask.getLsbD (off % 16)
  | none => false

/-- Bytes of one granule written into the overlay; none when no view entry can be placed. -/
def viewWrite (v : List ViewEntry) (lms : BitVec 12) (off : Nat) (bs : List Byte) : Option (List ViewEntry) :=
  match viewFind v lms (off / 16) with
  | some e => some (v.map fun x => if x.lms = lms ∧ x.gran = off / 16 then granWrite e (off % 16) bs else x)
  | none => (viewPlace v lms (off / 16)).map fun e => granWrite e (off % 16) bs :: v

/-- The bytes that applying an entry to a part gives, where `rd` reads that part (08 R217). -/
def entryBytes (e : LogEntry) (rd : Nat → Nat → Nat) : List Byte :=
  if e.op = 1 then leBytes e.data.toNat e.bytes
  else
    let code := e.op.toNat - 16
    let w := codeBytes code
    (List.range (e.bytes / w)).flatMap fun k =>
      leBytes (combine code (rd (e.off + w * k) w) (fld e.data.toNat (8 * w * k) (8 * w))) w

/-- Container k of a granule as a view reads it. -/
def viewCell (v : List ViewEntry) (base : BitVec 12 → Nat → Byte) (lms : BitVec 12) (gran k : Nat) : W32 :=
  BitVec.ofNat 32 (viewLE v base lms (16 * gran + 4 * k) 4)

/-- The deltas of a view entry after its four containers have changed by `f` (06 R169). -/
def ViewEntry.shift (e : ViewEntry) (f : Nat → W32) : ViewEntry :=
  { e with delta := BitVec.ofNat 128 (lanesNat (fun k => e.delta.extractLsb' (32 * k) 32 + f k) 0 4) }

/-- One entry applied to an overlay as one step (08 R217), the deltas of its granule with it (06 R169). -/
def applyOverlay (base : BitVec 12 → Nat → Byte) (v : List ViewEntry) (e : LogEntry) : Option (List ViewEntry) :=
  let g := e.off / 16
  (viewWrite v e.lms e.off (entryBytes e fun off n => viewLE v base e.lms off n)).map fun w =>
    w.map fun x =>
      if x.lms = e.lms ∧ x.gran = g then x.shift fun k => viewCell w base e.lms g k - viewCell v base e.lms g k else x

/-! Where an LMS lies on a core (08 R207). -/

def Core.lmsEntry (c : Core) (lms : BitVec 12) (va : Nat) : Option Ltt :=
  c.ltt.toList.find? fun e => Ltt.kind e == 2 && Ltt.lmsid e == lms && Ltt.coversVa e va

def Log.declOf (l : Log) (lms : BitVec 12) : Option LmsDecl := l.decls.find? fun d => d.id == lms

/-- The slice address of a byte of an LMS's base on a core. -/
def State.lmsPhys (s : State) (core : Nat) (lms : BitVec 12) (off : Nat) : Option Nat :=
  let c := s.core core
  match c.log.declOf lms with
  | none => none
  | some d =>
    let va := d.base.toNat + off
    (c.lmsEntry lms va).map fun e => sliceBase core + Ltt.soff e + (va - Ltt.vbase e)

def State.lmsBase (s : State) (core : Nat) (lms : BitVec 12) (off : Nat) : Byte :=
  match s.lmsPhys core lms off with
  | some a => Mem.read s.mem a
  | none => 0

/-! Appending (08 R212, R213, R221). -/

def overlaps (a n b m : Nat) : Bool := decide (a < b + m) && decide (b < a + n)

/-- The place of the entry that a new one coalesces into: the last entry that touches its bytes, at or above the floor,
of the same context, LMS, offset, size and code, and formed by an earlier bundle. DEDUCED, log entry 68. -/
def coalesceAt (es : List LogEntry) (floor : Nat) (e : LogEntry) : Option Nat :=
  let touching := (List.range es.length).filter fun i =>
    match es[i]? with
    | some x => x.lms == e.lms && overlaps x.off x.bytes e.off e.bytes
    | none => false
  match touching.getLast? with
  | none => none
  | some i =>
    match es[i]? with
    | none => none
    | some x =>
      if floor ≤ i ∧ x.ctx = e.ctx ∧ x.off = e.off ∧ x.sz = e.sz ∧ x.op = e.op ∧ e.op ≠ 18 ∧ x.born ≠ e.born
      then some i else none

/-- The data of an entry after a later one coalesces into it. -/
def coalesceData (x e : LogEntry) : LogEntry :=
  if e.op = 1 then { x with data := e.data }
  else
    let code := e.op.toNat - 16
    let w := codeBytes code
    let parts := (List.range (e.bytes / w)).map fun k =>
      combine code (fld x.data.toNat (8 * w * k) (8 * w)) (fld e.data.toNat (8 * w * k) (8 * w)) * 2 ^ (8 * w * k)
    { x with data := BitVec.ofNat 128 (parts.foldl (· + ·) 0) }

/-- New entries appended or coalesced and applied to the own overlay; the answer is block cause 8 when the log lacks
room and 9 when a view entry cannot be placed (08 R212, R213, R221). DEDUCED, log entry 68. -/
def Log.store (l : Log) (base : BitVec 12 → Nat → Byte) (floor : Nat) : List LogEntry → Except Nat Log
  | [] => .ok l
  | e :: rest =>
    let next : Except Nat Log :=
      match coalesceAt l.entries floor e with
      | some i => .ok { l with entries := (l.entries.mapIdx fun j x => if j = i then coalesceData x e else x) }
      | none => if l.tail < l.capacity then .ok { l with entries := l.entries ++ [e] } else .error 8
    match next, applyOverlay base l.view e with
    | .error b, _ => .error b
    | .ok l', none =>
      match Log.store l' base floor rest with
      | .error 8 => .error 8
      | _ => .error 9
    | .ok l', some v => Log.store { l' with view := v } base floor rest

/-! Publication (08 R215). -/

/-- Numbers of the NTDRAIN commands of a context that are not complete, by issue order. -/
def Context.openDrains (x : Context) : List Nat :=
  x.cpy.cmds.filterMap fun p => match p.cmd with
    | .ntdrain _ => if p.phase = .done then none else some p.order
    | _ => none

/-- Those of a core: of its contexts, and of contexts that were saved away from it with the command suspended. -/
def State.openDrains (s : State) (core : Nat) : List Nat :=
  (s.core core).ctxs.toList.flatMap Context.openDrains ++
    (s.parked.filter fun x => x.num / 4 == core).flatMap fun x => x.ctx.openDrains

/-- Closed segments published in log order while their NTDRAINs are complete. -/
def publishClosed (drains : List Nat) (l : Log) : List (Nat × Nat) → Log
  | [] => { l with closed := [] }
  | (fin, bound) :: rest =>
    if drains.any (fun d => decide (d < bound)) then { l with closed := (fin, bound) :: rest }
    else publishClosed drains { l with published := max l.published fin } rest

def State.publish (s : State) (core : Nat) : State :=
  let c := s.core core
  s.setCore core { c with log := publishClosed (s.openDrains core) c.log c.log.closed }

/-- The open segment closed, then published as far as 08 R215 allows. -/
def State.closeSegment (s : State) (core : Nat) : State :=
  let c := s.core core
  (s.setCore core { c with log := { c.log with closed := c.log.closed ++ [(c.log.tail, c.order)], floor := c.log.tail } }).publish core

/-! Members and rollback (08 R206, R224, R225). -/

def indexIn (l : List Nat) (x : Nat) : Nat :=
  match l with
  | [] => 0
  | y :: rest => if y = x then 0 else 1 + indexIn rest x

/-- The member index of a core of this node in its own group. -/
def State.selfIndex (s : State) (core : Nat) : Nat :=
  indexIn (s.core core).log.members (s.node.toNat * 512 + core)

/-- The log entries of a member core: a core of this node holds them while it belongs to the group; what a member on
another node has published stands in `remote` (08 R216). -/
def State.memberEntries (s : State) (group : Option (Word × BitVec 32)) (m : Nat) : List LogEntry :=
  if m / 512 = s.node.toNat then
    let l := (s.core (m % 512)).log
    if l.group = group then s.fetchEntries (m % 512) l else []
  else (look s.remote m).getD []

def State.memberPublished (s : State) (group : Option (Word × BitVec 32)) (m : Nat) : Nat :=
  if m / 512 = s.node.toNat then
    let l := (s.core (m % 512)).log
    if l.group = group then l.published else 0
  else ((look s.remote m).getD []).length

/-- An overlay after the entries of a list that lie in one granule. -/
def replayGranule (base : BitVec 12 → Nat → Byte) (lms : BitVec 12) (gran : Nat) (v : List ViewEntry)
    (es : List LogEntry) : List ViewEntry :=
  es.foldl (fun v e =>
    if e.lms = lms ∧ e.off / 16 = gran ∧ !e.bad then (applyOverlay base v e).getD v else v) v

/-- Where a writer's entry lies; of a writer on another node, where this core's own SYS.LOGC would place it.
DESIGN CHOICE, log entry 77. -/
def State.entryPlace (s : State) (core m seq : Nat) : Nat :=
  (if m / 512 = s.node.toNat then (s.core (m % 512)).log else (s.core core).log).placeOf (m % 512) seq

/-- An entry that three fetches find wrong: the replica is unsound and kind 2 is logged with the entry's address
(08 R210). -/
def State.failEntry (s : State) (core m seq : Nat) : State :=
  let k := s.core core
  (s.setCore core { k with log := { k.log with unsound := true } }).logMem 2 1 (s.entryPlace core m seq)

/-- The entries that a core has acquired, with their members and places, in member order. -/
def State.acquired (s : State) (core : Nat) (l : Log) : List (Nat × Nat × LogEntry) :=
  (List.range l.members.length).flatMap fun i =>
    if i = s.selfIndex core then []
    else ((s.memberEntries l.group (l.members.getD i 0)).take (l.cursors.getD i 0)).mapIdx fun n e => (l.members.getD i 0, n, e)

/-- What a recomputation fetches and cannot check leaves the replica unsound (08 R210, R224). -/
def State.failFetched (s : State) (core : Nat) (own : List (Nat × LogEntry)) : State :=
  let met : List (Nat × Nat × LogEntry) := s.acquired core (s.core core).log ++ own.map fun x => (s.node.toNat * 512 + core, x)
  met.foldl (fun s x => if x.2.2.bad then s.failEntry core x.1 x.2.1 else s) s

/-- A granule recomputed in its place: first the other members' entries below the cursors in member order, then the own
entries; one whose mask ends at 0 frees its view entry. -/
def State.recompute (s : State) (core : Nat) (l : Log) (own : List LogEntry) (lms : BitVec 12) (gran : Nat) : Log :=
  let here (e : ViewEntry) : Bool := e.lms == lms && e.gran == gran
  let v0 := l.view.map fun e => if here e then { e with data := 0, mask := 0, bad := 0, delta := 0 } else e
  let others := (s.acquired core l).map fun x => x.2.2
  { l with view := (replayGranule (s.lmsBase core) lms gran v0 (others ++ own)).filter fun e => !(here e && e.mask == 0) }

def State.recomputeAll (s : State) (core : Nat) (l : Log) (own : List LogEntry) : List (BitVec 12 × Nat) → Log
  | [] => l
  | (lms, gran) :: rest => State.recomputeAll s core (s.recompute core l own lms gran) own rest

/-- Every granule whose view entry is poisoned recomputed, after a rebuild (08 R225). -/
def State.recomputeBad (s : State) (core : Nat) : State :=
  let k := s.core core
  match k.log.view.filter fun e => e.bad != 0 with
  | [] => s
  | es =>
    let own := s.fetchEntries core k.log
    let s := s.failFetched core (own.mapIdx fun i e => (i, e))
    let k := s.core core
    s.setCore core { k with log := s.recomputeAll core k.log own (es.map fun e => (e.lms, e.gran)) }

/-- The entries that a rollback of a region of context `c` to the recorded token removes, and those that remain, each with its
place (08 R224). -/
def State.rollbackParts (s : State) (core : Nat) (c : BitVec 2) (tok : Word) : List (Nat × LogEntry) × List (Nat × LogEntry) :=
  let l := (s.core core).log
  let rec' := if tokenPhase tok = l.phase.toNat then tokenTail tok else l.published
  let f := max rec' l.published
  let tagged := l.entries.mapIdx fun i e => (i, e)
  let gone := tagged.filter fun (i, e) => decide (f ≤ i) && e.ctx == c
  (gone, tagged.filter fun (i, e) => !(decide (f ≤ i) && e.ctx == c))

/-- The log of a core after that rollback: what remains closes up, and every granule that a removed entry touched is recomputed
from entries as they are fetched (08 R210, R224). -/
def State.rollbackLog (s : State) (core : Nat) (c : BitVec 2) (tok : Word) : Log :=
  let l := (s.core core).log
  let (gone, kept) := s.rollbackParts core c tok
  let shift (n : Nat) : Nat := n - (gone.filter fun (i, _) => decide (i < n)).length
  let l' := { l with
    entries := kept.map (·.2), floor := shift l.floor, closed := l.closed.map fun (e, b) => (shift e, b) }
  s.recomputeAll core l' (kept.map fun (i, e) => s.fetchEntry core l i e) (gone.map fun (_, e) => (e.lms, e.off / 16))

/-- The rollback of the log, with what its fetches could not check (08 R210). -/
def State.rollLog (s : State) (core : Nat) (c : BitVec 2) (tok : Word) : State :=
  let l := (s.core core).log
  let (gone, kept) := s.rollbackParts core c tok
  let s := if gone = [] then s else s.failFetched core (kept.map fun (i, e) => (i, s.fetchEntry core l i e))
  s.putLog core (s.rollbackLog core c tok)

end Sys2Proof.Machine
end

