-- ==== Sys2Proof/Machine/Translate.lean ====
section
/-! DEFINITION. The two translations: a core's locked table (07 R181-R186) and the engines' page walk with its owner,
range and reservation checks (07 R198-R205, 14 R380). -/

namespace Sys2Proof.Machine

/-- The LMS declarations of the tasks that a core holds. -/
def Core.lmsDecls (k : Core) : List LmsDecl :=
  k.ctxs.toList.flatMap fun c => match c.task with
    | some t => t.lms
    | none => []

/-- Slice ranges that no locked entry and no engine request reaches, as (offset, size): store log and view index while the
core holds a task of a launch that declares an LMS (07 R184). -/
def State.reserved (s : State) (core : Nat) : List (Nat × Nat) :=
  let save := match s.partOfCore core with
    | some (_, p) => if Part.swap p then [(0xF80000, 0x80000)] else []
    | none => []
  let l := (s.core core).log
  let log := if (s.core core).lmsDecls ≠ [] then [(l.logOff, l.logSize), (l.viewOff, 0x80000)] else []
  save ++ log

def State.hitsReserved (s : State) (core off n : Nat) : Bool :=
  (s.reserved core).any fun (b, m) => overlaps off n b m

/-! The locked table. -/

/-- The result of a local translation: slice offset, kind, SEAL and the entry's LMS id. -/
structure Local where
  off    : Nat
  kind   : Nat
  sealed : Bool
  lms    : BitVec 12
deriving DecidableEq, Repr

/-- `local_translate` of 07 R185; the error is the CAUSE of XLATE_MISS.
DESIGN CHOICE, log entry 22. DEDUCED, log entry 66. -/
def State.xlate (s : State) (a size align : Nat) (write : Bool) : Except Nat Local :=
  if 2 ^ 48 ≤ a ∨ 2 ^ 48 ≤ a + size - 1 then .error 4
  else if a % align ≠ 0 then .error 5
  else
    let c := s.co
    let svc := s.cx.svc
    let own := c.ltt.toList.find? fun e => Ltt.coversVa e a && (Ltt.ctxm e).getLsbD s.cur.ctx.toNat
    let e := match own with
      | some e => some e
      | none => if svc then c.ltt.toList.find? fun e => Ltt.coversVa e a else none
    match e with
    | none => .error 1
    | some e =>
      if Ltt.vbase e + 2 ^ Ltt.size e ≤ a + size - 1 then .error 2
      else if write ∧ !Ltt.wr e ∧ !svc then .error 3
      else .ok ⟨Ltt.soff e + (a - Ltt.vbase e), Ltt.kind e, Ltt.sealed e, Ltt.lmsid e⟩

/-- The rules of 07 R182 that a valid entry must meet on its own. -/
def Ltt.formOk (e : Ltt) : Bool :=
  decide (fld e.toNat 59 5 = 0) && decide (fld e.toNat 104 24 = 0) && decide (Ltt.kind e ≤ 3) &&
  decide (12 ≤ Ltt.size e) && decide (Ltt.size e ≤ 24) &&
  decide (Ltt.vbase e % 2 ^ Ltt.size e = 0) && decide (Ltt.soff e % 2 ^ Ltt.size e = 0) &&
  !(Ltt.sealed e && decide (Ltt.size e < 14)) && (Ltt.ctxm e != 0) &&
  (Ltt.kind e != 0 || (Ltt.ctxm e == 1 || Ltt.ctxm e == 2 || Ltt.ctxm e == 4 || Ltt.ctxm e == 8)) &&
  (Ltt.kind e == 2 || Ltt.lmsid e == 0)

/-- Two entries whose virtual ranges overlap with a shared context bit (07 R182). -/
def Ltt.clash (e f : Ltt) : Bool :=
  Ltt.v f && ((Ltt.ctxm e &&& Ltt.ctxm f) != 0) &&
  overlaps (Ltt.vbase e) (2 ^ Ltt.size e) (Ltt.vbase f) (2 ^ Ltt.size f)

/-- Whether entry `i` of a core's table may become `e` (07 R182). -/
def State.lttAccepts (s : State) (core i : Nat) (e : Ltt) : Bool :=
  !Ltt.v e ||
    (Ltt.formOk e &&
     (Ltt.kind e != 2 || (s.core core).lmsDecls.any (fun d => d.id == Ltt.lmsid e)) &&
     ((s.core core).ltt.toList.mapIdx fun j f => decide (j ≠ i) && Ltt.clash e f).all (fun b => !b) &&
     !s.hitsReserved core (Ltt.soff e) (2 ^ Ltt.size e))

/-! Engine translation. -/

/-- What a walk gives: physical address, SEAL of the leaf, the node of a PEER page, and the page size. -/
structure Xlat where
  pa     : Nat
  sealed : Bool
  peer   : Option (BitVec 15)
  page   : Nat
deriving DecidableEq, Repr

/-- The checks of an entry with V = 1 (07 R200): true when the walk must stop with cause FORMAT. -/
def badTable (e : Nat) (level : Nat) : Bool :=
  decide (fld e 2 10 ≠ 0) || decide (fld e 48 16 ≠ 0) || !isHbm (fld e 12 36 * 4096) ||
  (level == 1 && decide (fld e 12 36 * 4096 % 0x20000 ≠ 0)) || decide (level = 3)

def badLeaf (e : Nat) (level : Nat) : Bool :=
  let pa := fld e 16 32 * 65536
  let peer := fld e 4 1
  decide (level = 1) || decide (fld e 5 11 ≠ 0) || decide (fld e 63 1 ≠ 0) ||
  (peer == 0 && decide (fld e 48 15 ≠ 0)) || (level == 2 && decide (pa % 0x2000000 ≠ 0)) ||
  (fld e 3 1 == 1 && !isHbm pa)

/-- The last step of a walk at a leaf. -/
def leafXlat (e : Nat) (va : Nat) (write : Bool) (level : Nat) : Except Nat Xlat :=
  if badLeaf e level then .error 3
  else if write ∧ fld e 2 1 = 0 then .error 2
  else
    let page := if level = 2 then 0x2000000 else 0x10000
    .ok ⟨fld e 16 32 * 65536 + va % page, fld e 3 1 = 1,
      if fld e 4 1 = 1 then some (BitVec.ofNat 15 (fld e 48 15)) else none, page⟩

/-- The walk of a partition's page table down to a leaf and its level (07 R199, R200); the error is the CAUSE of 07 R203. -/
def State.walkLeaf (s : State) (p : Part) (va : Nat) : Except Nat (Nat × Nat) :=
  let e1 := Mem.readLE s.mem (Part.ptroot p + 8 * fld va 39 9) 8
  if fld e1 0 1 = 0 then .error 1
  else if fld e1 1 1 = 1 then .error 3
  else if badTable e1 1 then .error 3
  else
    let e2 := Mem.readLE s.mem (fld e1 12 36 * 4096 + 8 * fld va 25 14) 8
    if fld e2 0 1 = 0 then .error 1
    else if fld e2 1 1 = 1 then .ok (2, e2)
    else if badTable e2 2 then .error 3
    else
      let e3 := Mem.readLE s.mem (fld e2 12 36 * 4096 + 8 * fld va 16 9) 8
      if fld e3 0 1 = 0 then .error 1
      else if fld e3 1 1 = 0 then .error 3
      else .ok (3, e3)

/-- A fresh walk and its result. -/
def State.walk (s : State) (p : Part) (va : Nat) (write : Bool) : Except Nat Xlat :=
  match s.walkLeaf p va with
  | .error c => .error c
  | .ok (level, e) => leafXlat e va write level

/-! The TLBs (07 R201): one of 128 entries per core or control pair, one of 8,192 per domain. -/

def pageSize (level : Nat) : Nat := if level = 2 then 0x2000000 else 0x10000

/-- The domain of a core, and of a control pair (01 R10, R11). -/
def domainOf (core : Nat) : Nat := if core < 512 then core / 64 else (core - 512) / 8

def TlbEntry.covers (e : TlbEntry) (part va : Nat) : Bool :=
  e.part == part && decide (e.page ≤ va) && decide (va < e.page + pageSize e.level)

/-- The leaves that a core's two TLBs hold for an address. -/
def State.cached (s : State) (core part va : Nat) : List (Nat × Nat) :=
  (s.tlb.filter fun e => (e.unit == core || e.unit == 1024 + domainOf core) && e.covers part va).map fun e => (e.level, e.leaf)

/-- A translation taken into one TLB; a full one loses an entry freely. -/
def State.fillOne (s : State) (unit cap : Nat) (e : TlbEntry) : State :=
  let e := { e with unit := unit }
  if s.tlb.contains e then s
  else
    let mine := s.tlb.filter fun x => x.unit == unit
    if mine.length < cap then { s with tlb := s.tlb ++ [e] }
    else
      let (x, s) := s.choose mine
      { s with tlb := s.tlb.filter (fun y => some y != x) ++ [e] }

def State.fillTlb (s : State) (core part va level leaf : Nat) : State :=
  let e : TlbEntry := ⟨core, part, va / pageSize level * pageSize level, level, leaf⟩
  (s.fillOne core 128 e).fillOne (1024 + domainOf core) 8192 e

/-- The leaf for an address: the table's, or one that a TLB still holds; which of them a request uses is open while they
differ, since entries may be displaced at any time. DESIGN CHOICE, log entry 22. -/
def State.leafFor (s : State) (core part : Nat) (p : Part) (va : Nat) : Except Nat (Nat × Nat) × State :=
  let new := s.walkLeaf p va
  let old := (s.cached core part va).eraseDups.filter fun x => match new with
    | .ok y => x != y
    | .error _ => true
  match s.choose ((none : Option (Nat × Nat)) :: old.map some) with
  | (some (some x), s) => (.ok x, s)
  | (_, s) =>
    match new with
    | .ok (level, leaf) => (.ok (level, leaf), s.fillTlb core part va level leaf)
    | .error c => (.error c, s)

/-- An address translated through the TLBs of a core. -/
def State.translate (s : State) (core part : Nat) (p : Part) (va : Nat) (write : Bool) : Except Nat Xlat × State :=
  match s.leafFor core part p va with
  | (.ok (level, e), s) => (leafXlat e va write level, s)
  | (.error c, s) => (.error c, s)

/-- Entries of a partition for a page dropped, or all of a partition's (07 R201, R204). -/
def State.dropPage (s : State) (part va : Nat) : State := { s with tlb := s.tlb.filter fun e => !e.covers part va }
def State.dropPart (s : State) (part : Nat) : State := { s with tlb := s.tlb.filter fun e => e.part ≠ part }

/-- The end of the invalidation that SYS.TLBI holds: its entries are gone and BUSY is 0 (07 R201). -/
def State.tlbiDone (s : State) (part : Nat) : State :=
  let v := ((look s.tlbi part).getD 0).toNat
  if fld v 63 1 = 0 then s
  else
    let s := if fld v 48 2 = 1 then s.dropPart part else s.dropPage part (fld v 16 32 * 65536)
    { s with tlbi := put s.tlbi part (BitVec.ofNat 64 (v % 2 ^ 63)) }

/-- Whether a core's locked table maps a slice offset as LMS. -/
def State.lmsAt (s : State) (core off n : Nat) : Bool :=
  (s.core core).ltt.toList.any fun e =>
    Ltt.v e && Ltt.kind e == 2 && overlaps (Ltt.soff e) (2 ^ Ltt.size e) off n

/-- Cause of a request part at a physical address of this node, 0 when it may proceed: PHYS 4, LMS_WRITE 6,
ISOLATION 7 (07 R198, 14 R380), SVCBANK 12 (02 R58). An address of HBM inside a lattice pool proceeds as plain memory, apart from
the records, which State.lat holds (06 R158). DESIGN CHOICE, log entry 92. -/
def State.physCause (s : State) (p : Part) (pa n : Nat) (write : Bool) : Nat :=
  if isHostWin pa then 0
  else if isHbm pa then (if Part.ownsHbm p pa then 0 else 7)
  else if isSlice pa then
    if !Part.ownsCore p (sliceCore pa) then 7
    else if s.hitsReserved (sliceCore pa) (sliceOff pa) n then 4
    else if write ∧ s.lmsAt (sliceCore pa) (sliceOff pa) n then 6
    else 0
  else if isIstore pa then
    if !Part.ownsCore p (istoreCore pa) then 7
    else if write ∧ 0x38000 ≤ istoreOff pa ∧ (s.core (istoreCore pa)).ctxs.toList.any (·.svc) then 12
    else 0
  else 4

/-- What the owner checks make of a translated part (07 R198, R203, 14 R380): a request on a peer is checked there, and a
refusal there freezes the requesting context as well. DESIGN CHOICE, log entry 75. -/
def State.checkPart (s : State) (p : Part) (x : Xlat) (n : Nat) (write : Bool) : Except Nat Xlat × State :=
  match x.peer with
  | some _ =>
    match s.choose [false, true] with
    | (some true, s) => (.error 7, s)
    | (_, s) => (.ok x, s)
  | none =>
    match s.physCause p x.pa n write with
    | 0 => (.ok x, s)
    | c => (.error c, s)

/-- One request part translated and checked for the partition of a core (07 R199, R201, R203, R205).
DESIGN CHOICE, log entry 22. -/
def State.engXlate (s : State) (core : Nat) (va n : Nat) (write : Bool) : Except Nat Xlat × State :=
  if 2 ^ 48 ≤ va then (.error 1, s)
  else match s.partOfCore core with
    | none => (.error 7, s)
    | some (k, p) =>
      match s.translate core k p va write with
      | (.error c, s) => (.error c, s)
      | (.ok x, s) => s.checkPart p x n write

/-- The lattice pool of a stack lies in the highest granules its partition owns there (06 R160, 14 R376). A sealed page
of HBM takes its 4 (or 2,048) record slots on its first access; the answer is false when the pool is full. -/
def State.poolUsed (s : State) (d : Nat) (p : Part) : Nat :=
  (s.lat.filter fun (t, _) => isHbm t && decide (t / 0x1000000000 = d) && Part.ownsHbm p t).length

/-- Records of the tiles of a page, computed from what the page holds: the spec does not say what they hold when they are
assigned. DESIGN CHOICE, log entry 76. -/
def State.assignRecords (s : State) (t : Nat) : Nat → State
  | 0 => s
  | n + 1 =>
    let s' := if (look s.lat t).isSome then s else s.sealTile t
    State.assignRecords s' (t + 16384) n

def State.reachSealed (s : State) (p : Part) (x : Xlat) : State × Bool :=
  if x.sealed ∧ x.peer.isNone ∧ isHbm x.pa then
    let base := x.pa / x.page * x.page
    if (look s.lat base).isSome then (s, true)
    else
      let d := x.pa / 0x1000000000
      let tiles := x.page / 16384
      if s.poolUsed d p + tiles ≤ Part.lpool p d * 131072 then (s.assignRecords base tiles, true)
      else (s, false)
  else (s, true)

/-- The home of a virtual address (07 R202): HOME, peer node and reply mailbox; 0 when no entry covers it. -/
def homeIn (l : List (Nat × BitVec 128)) (part va : Nat) : Nat × BitVec 15 × BitVec 12 :=
  match l with
  | [] => (0, 0, 0)
  | (k, e) :: rest =>
    let base := fld e.toNat 16 32 * 65536
    let size := 2 ^ fld e.toNat 48 6
    if k / 256 = part ∧ fld e.toNat 56 1 = 1 ∧ base ≤ va ∧ va < base + size then
      (fld e.toNat 54 2, BitVec.ofNat 15 (fld e.toNat 64 15), BitVec.ofNat 12 (fld e.toNat 80 12))
    else homeIn rest part va

/-- The 32-byte fault record (07 R203). -/
def faultRecord (va cause ctxn eng : Nat) (write : Bool) (tenant : Nat) (seq fid : Word) : BitVec 256 :=
  BitVec.ofNat 256 (va % 2 ^ 48 + cause * 2 ^ 56 + ctxn * 2 ^ 64 + eng * 2 ^ 80 + (if write then 2 ^ 88 else 0) +
    tenant * 2 ^ 96 + seq.toNat * 2 ^ 128 + fid.toNat * 2 ^ 192)

/-- A fault record sent to the home of its address, or to the completion channel of a host's mailbox (11 R282). -/
def State.sendFault (s : State) (core : Nat) (ctx : BitVec 2) (tl : Tl) (seq : Word) (va cause : Nat) (write : Bool) :
    State :=
  let (pn, tenant) : Nat × Nat := match s.partOfCore core with
    | some (n, p) => (n, Part.tenant p)
    | none => (64, 0)
  let (home, node, mbox) := homeIn s.owners pn va
  let fid := s.faultId + 1
  let r := faultRecord va cause (core * 4 + ctx.toNat) tl.num write tenant seq fid
  let s := { s with faultId := fid }
  if home = 2 then s.post mbox (BitVec.ofNat 512 (2 ^ 32 + r.toNat * 2 ^ 128))
  else if home = 1 then s.sendSys tenant node (.faultRecord home node mbox r)
  else { s with out := s.out ++ [.faultRecord home node mbox r] }

/-! Bytes at a physical address. Memory beyond the node, in the host window or on a peer, holds what others keep there:
its reads are open values. -/

def drawBytes (w : BitVec 2048) (i : Nat) : Nat → List Byte
  | 0 => []
  | n + 1 => w.extractLsb' (8 * i) 8 :: drawBytes w (i + 1) n

def State.openBytes (s : State) : Nat → Nat → List Byte × State
  | 0, _ => ([], s)
  | f + 1, n =>
    if n = 0 then ([], s)
    else
      let (w, s') := s.draw
      let k := min n 256
      let (rest, s'') := State.openBytes s' f (n - k)
      (drawBytes w 0 k ++ rest, s'')

/-- An engine read of `n` bytes. DESIGN CHOICE, log entry 1. -/
def State.engRead (s : State) (x : Xlat) (n : Nat) : List Byte × State :=
  if x.peer.isSome ∨ isHostWin x.pa then s.openBytes (n / 256 + 1) n
  else (Mem.bytes s.mem x.pa n, s)

/-- An engine write; what goes to the host or to a peer leaves the node. -/
def State.engWrite (s : State) (x : Xlat) (bs : List Byte) : State :=
  match x.peer with
  | some n => s.sendSys (s.tenantOfCore s.cur.core) n (.peerWrite n x.pa bs)
  | none => if isHostWin x.pa then { s with out := s.out ++ [.host x.pa bs] } else s.writePhys x.pa bs

end Sys2Proof.Machine
end

