-- ==== Sys2Proof/Machine/Sysregs.lean ====
section
/-! DEFINITION. System registers by number: who may read and write each, what it reads, and what a write does
(15 R401-R411, 07 R183, R201, 08 R211, 17 R451-R460, 01 R12). -/

namespace Sys2Proof.Machine

/-- Access to a register (15 R407). -/
inductive Acc where
  | ro | any | service
deriving DecidableEq, Repr

structure SysInfo where
  readSvc : Bool
  write   : Acc
deriving DecidableEq, Repr

/-- The registers that 15 R407 and the measurement chapter list; none for an unknown number. SYS.CSP exists on control
cores alone (01 R12). -/
def sysInfo (control : Bool) (n : Nat) : Option SysInfo :=
  if n = 0x038 then (if control then some ⟨false, .any⟩ else none)
  else if n = 0x000 ∨ n = 0x003 ∨ n = 0x005 ∨ n = 0x006 ∨ (0x010 ≤ n ∧ n ≤ 0x013) ∨ n = 0x020 ∨
      (0x022 ≤ n ∧ n ≤ 0x024) ∨ n = 0x026 ∨ n = 0x027 then some ⟨false, .ro⟩
  else if n = 0x001 ∨ n = 0x007 ∨ n = 0x021 ∨ n = 0x034 ∨ n = 0x035 then some ⟨false, .service⟩
  else if n = 0x002 ∨ n = 0x004 then some ⟨false, .any⟩
  else if n = 0x025 ∨ (0x028 ≤ n ∧ n ≤ 0x02B) ∨ (0x030 ≤ n ∧ n ≤ 0x032) ∨ n = 0x036 then some ⟨true, .service⟩
  else if 0x100 ≤ n ∧ n < 0x120 then (if n % 8 < 6 then some ⟨false, .ro⟩ else none)
  else if n = 0x120 ∨ n = 0x121 ∨ n = 0x122 ∨ n = 0x129 ∨ n = 0x12B then some ⟨false, .ro⟩
  else if n = 0x128 ∨ n = 0x130 then some ⟨false, .service⟩
  else if n = 0x12A then some ⟨false, .any⟩
  else if n = 0x131 then some ⟨true, .ro⟩
  else if 0x140 ≤ n ∧ n < 0x150 then some ⟨false, .service⟩
  else if 0x150 ≤ n ∧ n < 0x172 then some ⟨false, .ro⟩
  else none

/-- SYS.CTX.STATE (15 R400, R401). -/
def Context.stateCode (c : Context) : Nat :=
  match c.st with
  | .free => 0
  | .halted => 5
  | .ready => if c.svc then 4 else 1
  | .issuing => if c.svc then 4 else 2
  | .blocked => if c.svc then 4 else 3

/-- SYS.CTX (15 R401). -/
def sysCtx (c : Context) (ctxn : Nat) : Word :=
  BitVec.ofNat 64 (c.stateCode + c.svc.toNat * 2 ^ 3 + c.shchk.toNat * 2 ^ 4 + c.region.isSome.toNat * 2 ^ 5 +
    c.drain.toNat * 2 ^ 6 + c.preq.toNat * 2 ^ 7 + c.bcause.toNat * 2 ^ 8 + ctxn * 2 ^ 12 + c.resid.toNat * 2 ^ 32)

/-- A loop register (10 R262). -/
def Loop.word (l : Loop) : Word :=
  BitVec.ofNat 64 (l.start.toNat + l.fin.toNat * 2 ^ 14 + l.act.toNat * 2 ^ 28 + l.depth.toNat * 2 ^ 29 +
    l.rem.toNat * 2 ^ 32)

/-- A loop's slot counter (17 R451). -/
def Loop.fillWord (l : Loop) (j : Nat) : Word :=
  BitVec.ofNat 64 ((l.fills[j]?.getD 0).toNat + (l.nops[j]?.getD 0).toNat * 2 ^ 32)

/-- SYS.LOGC with REJ (08 R211). -/
def Log.logcWord (l : Log) : Word := l.logc ||| (if l.logRej then 0x8000000000000000 else 0)

def State.counters (s : State) (part : Nat) : Counters := (look s.pc part).getD Counters.zero

/-- The partition number of the issuing core; 64 when no entry owns it. -/
def State.myPart (s : State) : Nat :=
  match s.partOfCore s.cur.core with
  | some (n, _) => n
  | none => 64

/-- What MOVSYS reads from a register that exists, as it stands for the issuing bundle (04 R112). -/
def State.sysRead (s : State) (n : Nat) : Word :=
  let c := s.cx
  let k := s.co
  let w := s.counters s.myPart
  if n = 0x000 then c.ic
  else if n = 0x001 then sysCtx c (s.cur.core * 4 + s.cur.ctx.toNat)
  else if n = 0x002 then c.fpf.setWidth 64
  else if n = 0x003 then c.fmt.setWidth 64
  else if n = 0x004 then c.cki.setWidth 64
  else if n = 0x005 then c.pmk.setWidth 64
  else if n = 0x006 then k.fis.setWidth 64
  else if n = 0x007 then k.ccorr ++ k.scorr
  else if 0x010 ≤ n ∧ n ≤ 0x013 then (c.loops[n - 0x010]?.getD Loop.idle).word
  else if n = 0x020 then c.tcause
  else if n = 0x021 then c.tip.setWidth 64
  else if n = 0x022 then c.taddr
  else if n = 0x023 then c.tseq
  else if n = 0x024 then c.tval.setWidth 64
  else if n = 0x025 then k.tvec.setWidth 64
  else if n = 0x026 then c.dip.setWidth 64
  else if n = 0x027 then c.crs
  else if 0x028 ≤ n ∧ n ≤ 0x02B then c.scr[n - 0x028]?.getD 0
  else if n = 0x030 then BitVec.ofNat 64 (k.ltti.toNat + k.lttRej.toNat * 2 ^ 63)
  else if n = 0x031 then (k.ltt[k.ltti.toNat]?.getD 0).setWidth 64
  else if n = 0x032 then ((k.ltt[k.ltti.toNat]?.getD 0) >>> 64).setWidth 64
  else if n = 0x034 then k.log.logcWord
  else if n = 0x035 then k.log.logx
  else if n = 0x036 then (look s.tlbi s.myPart).getD 0
  else if n = 0x038 then k.csp.setWidth 64
  else if 0x100 ≤ n ∧ n < 0x120 then (c.loops[(n - 0x100) / 8]?.getD Loop.idle).fillWord (n % 8)
  else if n = 0x120 then k.ccyc
  else if n = 0x121 then s.time
  else if n = 0x122 then s.tstat
  else if n = 0x128 then k.smpc.setWidth 64
  else if n = 0x129 then k.smph
  else if n = 0x12A then k.smpt
  else if n = 0x12B then k.smpd
  else if n = 0x130 then c.tmr
  else if n = 0x131 then
    BitVec.ofNat 64 ((k.ctxs.toList.mapIdx fun i x =>
      (x.stateCode + x.bcause.toNat * 16) * 2 ^ (8 * i)).foldl (· + ·) 0)
  else if 0x140 ≤ n ∧ n < 0x150 then (w.sel[n - 0x140]?.getD 0).setWidth 64
  else if 0x150 ≤ n ∧ n < 0x160 then w.val[n - 0x150]?.getD 0
  else if 0x160 ≤ n ∧ n < 0x170 then w.ns[n - 0x160]?.getD 0
  else if n = 0x170 then w.en
  else if n = 0x171 then w.gen
  else 0

def Core.samplesOn (k : Core) : Bool := k.smpc.getLsbD 0

/-- The next multiple of the sampling interval (17 R454). -/
def Core.nextSample (k : Core) : Nat :=
  let step := 2 ^ fld k.smpc.toNat 1 5
  (k.ccyc.toNat / step + 1) * step

/-- What CCYC may come to between two attempts: while samples are taken it stays below the next one's, and below that of a stop
that waits (17 R454, R461). -/
def Core.ccycTop (k : Core) : Nat :=
  min (if k.samplesOn then k.nextSample - 1 else 2 ^ 64 - 1) (match k.stopAt with
    | some v => v.toNat - 1
    | none => 2 ^ 64 - 1)

/-- Cycles in which a core tried to issue nothing have passed as well: how many is open, but CCYC never falls (17 R452).
DESIGN CHOICE, log entry 21. -/
def State.tickCcyc (s : State) (core : Nat) : State :=
  let (d, s') := s.draw
  let c := s'.core core
  s'.setCore core { c with ccyc := BitVec.ofNat 64 (max c.ccyc.toNat (min (c.ccyc.toNat + (d.setWidth 64).toNat) c.ccycTop)) }

/-! Writes. -/

/-- SYS.LTTB: the staged entry is committed to the entry that SYS.LTTI names, or refused (07 R183). -/
def State.lttCommit (s : State) (core : Nat) (hi : Word) : State :=
  let c := s.core core
  let e : Ltt := hi ++ c.lttaNew
  if s.lttAccepts core c.ltti.toNat e then
    s.setCore core { c with ltt := c.ltt.set c.ltti.toNat e (by omega), lttRej := false }
  else s.setCore core { c with lttRej := true }

/-- A log range that 08 R211 accepts: inside the slice and clear of the save region. -/
def State.logRangeOk (s : State) (core off n : Nat) : Bool :=
  decide (off + n ≤ 0x1000000) &&
    !(match s.partOfCore core with
      | some (_, p) => Part.swap p && overlaps off n 0xF80000 0x80000
      | none => false)

/-- An extension that lies wholly in the partition's granules of the core's own stack (08 R211). -/
def State.extOk (s : State) (core base n : Nat) : Bool :=
  n == 0 ||
    (match s.partOfCore core with
     | some (_, p) =>
       decide (base / 0x1000000000 = core / 64) && decide ((base + n - 1) / 0x1000000000 = core / 64) &&
         Part.ownsHbm p base && Part.ownsHbm p (base + n - 1)
     | none => false)

def Log.extHolds (l : Log) : Bool := decide (l.logSize / 32 < l.tail)

/-- A write of SYS.LOGC (08 R211): accepted whole, or refused with REJ set. DEDUCED, log entry 7. -/
def State.logcWrite (s : State) (core : Nat) (v : Word) : State :=
  let c := s.core core
  let l := c.log
  let new : Log := { l with logc := v &&& 0x1FF001F1FFF, logRej := false }
  let sz := fld v.toNat 8 5
  let ok := decide (16 ≤ sz) && decide (sz ≤ 23) && decide (fld v.toNat 32 9 ≤ 256) &&
    (v &&& 0x7FFFFE00FFE0E000 == 0) &&
    s.logRangeOk core new.logOff new.logSize && s.logRangeOk core new.viewOff 0x80000 &&
    !(decide (l.tail ≠ 0) && (decide (new.logOff ≠ l.logOff) || decide (new.logSize ≠ l.logSize) ||
      decide (new.viewOff ≠ l.viewOff))) &&
    !(l.extHolds && decide (new.xsize < l.xsize)) && s.extOk core l.xbase new.xsize
  s.setCore core { c with log := if ok then new else { l with logRej := true } }

/-- A write of SYS.LOGX (08 R211). -/
def State.logxWrite (s : State) (core : Nat) (v : Word) : State :=
  let c := s.core core
  let l := c.log
  let new : Log := { l with logx := v &&& 0xFFFFFFF00000, logRej := false }
  let ok := (v &&& 0xFFFF0000000FFFFF == 0) && !(l.extHolds && decide (new.xbase ≠ l.xbase)) &&
    s.extOk core new.xbase l.xsize
  s.setCore core { c with log := if ok then new else { l with logRej := true } }

/-- A write of SYS.TLBI (07 R201): scopes 2 and 3 are refused; an invalidation still running ends first, and BUSY reads 1
until this one has. DESIGN CHOICE, log entry 22. -/
def State.tlbiWrite (s : State) (part : Nat) (v : Word) : State :=
  if 2 ≤ fld v.toNat 48 2 then s
  else
    let s := s.tlbiDone part
    { s with tlbi := put s.tlbi part ((v &&& 0x3FFFFFFFF0000) ||| 0x8000000000000000) }

/-- Time passes before SYS.TLBI is read: the invalidation it holds may have ended. DESIGN CHOICE, log entry 22. -/
def State.pollTlbi (s : State) (part : Nat) : State :=
  match s.choose [true, false] with
  | (some true, s) => s.tlbiDone part
  | (_, s) => s

/-- A write of SYS.SMPC (17 R453). DEDUCED, log entry 8. -/
def State.smpcWrite (s : State) (core : Nat) (v : Word) : State :=
  let c := s.core core
  let int := fld v.toNat 1 5
  let rsz := fld v.toNat 8 4
  let base := fld v.toNat 12 12 * 4096
  let n := 16 * 2 ^ rsz
  if 8 ≤ int ∧ int ≤ 20 ∧ 8 ≤ rsz ∧ rsz ≤ 16 ∧ base + n ≤ 0x1000000 ∧ !s.hitsReserved core base n then
    s.setCore core { c with smpc := v.setWidth 24 &&& 0xFFFF3F, smph := 0, smpt := 0, smpd := 0 }
  else s

/-- A write of SYS.SMPT: a value above SMPH is discarded (17 R454). -/
def State.smptWrite (s : State) (core : Nat) (v : Word) : State :=
  let c := s.core core
  if c.smph < v then s else s.setCore core { c with smpt := v }

/-- A write of SYS.PCSELk: a change of a selection clears every count and time (17 R459, R460). -/
def State.pcselWrite (s : State) (part : Nat) (k : BitVec 4) (v : Word) : State :=
  if 11 ≤ v.toNat then s
  else
    let w := s.counters part
    let old := w.sel[k.toNat]?.getD 0
    if old = v.setWidth 8 then s
    else
      let w' : Counters := { Counters.zero with sel := vmod w.sel k.toNat (fun _ => v.setWidth 8), gen := w.gen }
      { s with pc := put s.pc part w', events := s.events.filter fun x => x.1 / 16 ≠ part }

/-- The write that lands when a SETSYS, a flag or PMARK reaches its count, in context `i` of a core (15 R401-R411). -/
def State.sysWrite (s : State) (core : Nat) (i : BitVec 2) (n : Nat) (v : Word) : State :=
  let c := s.ctxAt core i
  let k := s.core core
  if n = 0x001 then s.setCtxAt core i { c with shchk := v.getLsbD 4 }
  else if n = 0x002 then s.setCtxAt core i { c with fpf := v.setWidth 5 }
  else if n = 0x004 then s.setCtxAt core i { c with cki := v.setWidth 11 }
  else if n = 0x005 then s.setCtxAt core i { c with pmk := v.setWidth 16 }
  else if n = 0x007 then s.setCore core { k with scorr := v.setWidth 32, ccorr := (v >>> 32).setWidth 32 }
  else if n = 0x021 then s.setCtxAt core i { c with tip := v.setWidth 14 }
  else if n = 0x025 then s.setCore core { k with tvec := v.setWidth 12 }
  else if 0x028 ≤ n ∧ n ≤ 0x02B then s.setCtxAt core i { c with scr := vmod c.scr (n - 0x028) (fun _ => v) }
  else if n = 0x030 then s.setCore core { k with ltti := v.setWidth 7 }
  else if n = 0x031 then s.setCore core { k with lttaNew := v }
  else if n = 0x032 then s.lttCommit core v
  else if n = 0x034 then s.logcWrite core v
  else if n = 0x035 then s.logxWrite core v
  else if n = 0x036 then
    match s.partOfCore core with
    | some (p, _) => s.tlbiWrite p v
    | none => s
  else if n = 0x038 then s.setCore core { k with csp := v.setWidth 9 &&& 0x13F }
  else if n = 0x128 then s.smpcWrite core v
  else if n = 0x12A then s.smptWrite core v
  else if n = 0x130 then s.setCtxAt core i { c with tmr := v, tpend := false }
  else if 0x140 ≤ n ∧ n < 0x150 then
    match s.partOfCore core with
    | some (p, _) => s.pcselWrite p (BitVec.ofNat 4 (n - 0x140)) v
    | none => s
  else s

end Sys2Proof.Machine
end

