-- ==== Sys2Proof/Machine/Ops.lean ====
section
/-! DEFINITION. The operations every meaning is built from: latencies, the landing buffer, the reads of a slot and what
stops them, timelines, trap entry, rollback and the return from service mode (01 R21-R23, 10 R251-R257, 15 R402-R429). -/

namespace Sys2Proof.Machine

/-! Latencies (02 R66, R67). -/

def LatClass.num : LatClass → Nat
  | .salu => 0
  | .pred => 1
  | .smul => 2
  | .sdiv => 3
  | .sld => 4
  | .valu => 5
  | .vfma => 6
  | .vtrans => 7
  | .vld => 8
  | .vacc => 9
  | .xpose => 10
  | .movx => 11
  | .sysrd => 12
  | .brdelay => 13
  | .setfmt => 14
  | .seqret => 15

/-- The latency of a class for the issuing bundle: the image's entry, or the native value in service mode, on a control
core and where no task stands (02 R67). DEDUCED, log entry 19. DEDUCED, log entry 71. -/
def State.latency (s : State) (c : LatClass) : Nat :=
  if s.cx.svc || s.onControl then Config.native c.num
  else match s.cx.task with
    | some t => t.lat.getD c.num (Config.native c.num)
    | none => Config.native c.num

/-! The landing buffer. -/

/-- The place of a new entry in landing order: after every entry of the same count but those that higher slots of the
same bundle wrote (10 R254). -/
def insertLand (e : LandEntry) : List LandEntry → List LandEntry
  | [] => [e]
  | x :: rest =>
    if x.left < e.left ∨ (x.left = e.left ∧ ¬(x.issue = e.issue ∧ e.slot < x.slot)) then x :: insertLand e rest
    else e :: x :: rest

/-- A write of the issuing bundle with latency `lat`; it is not ready when the image's table promises it before the
device has it (02 R67, 10 R256). -/
def State.landLat (s : State) (lat : Nat) (ready : Bool) (r : Reg) (val : BitVec 2048) (chk : W32) (fpf : BitVec 5)
    (cki : BitVec 11) : State :=
  let c := s.cx
  if r = .s 0 ∧ fpf = 0 ∧ cki = 0 then s
  else s.setCx { c with landing := insertLand ⟨r, val, chk, lat, c.ic, s.cur.slot, ready, fpf, cki⟩ c.landing }

/-- A write with the latency of its class and the flags that land with it. -/
def State.landF (s : State) (cls : LatClass) (r : Reg) (val : BitVec 2048) (chk : W32) (fpf : BitVec 5)
    (cki : BitVec 11) : State :=
  s.landLat (s.latency cls) (decide (Config.native cls.num ≤ s.latency cls)) r val chk fpf cki

/-- A flag that an operation with no result raises: it lands with the bundle (15 R411). -/
def State.landFlag (s : State) (cki : BitVec 11) : State :=
  if cki = 0 then s else s.landLat 1 true (.s 0) 0 0 0 cki

/-- What a store's repairs have raised is its context's, and lands with the bundle (06 R165, R174). -/
def State.landRaised (s : State) : State := { s with raised := 0 }.landFlag s.raised

/-- A scalar result (04 R99). -/
def State.landS (s : State) (cls : LatClass) (d : BitVec 6) (x : Word) : State :=
  s.landF cls (.s d) (x.setWidth 2048) 0 0 0

/-- All ones for true and 0 for false (04 R101). -/
def boolWord (b : Bool) : Word := if b then 0xFFFFFFFFFFFFFFFF else 0

/-- A predicate result. -/
def State.landP (s : State) (cls : LatClass) (d : BitVec 5) (x : Word) : State :=
  s.landF cls (.p d) (x.setWidth 2048) 0 0 0

/-- What occupies the landing buffer (10 R255): a write to s0 is discarded (01 R24), so that only its flags wait.
DEDUCED, log entry 65. -/
def entriesOf (l : List LandEntry) : List LandEntry := l.filter fun e => e.reg != .s 0
def flagsOnly (l : List LandEntry) : List LandEntry := l.filter fun e => e.reg == .s 0

/-! Reads of a slot. -/

/-- What a bundle sees in a scalar register: s0 reads 0 (01 R24). -/
def Context.rs (c : Context) (a : BitVec 6) : Word := if a = 0 then 0 else c.s.get a.toFin

def Context.rp (c : Context) (a : BitVec 5) : Word := c.p[a.toNat]?.getD 0
def Context.rb (c : Context) (a : BitVec 3) : BitVec 14 := c.b.get a.toFin
def Context.rm (c : Context) (a : BitVec 3) : Word := c.m.get a.toFin
def Context.rk (c : Context) (a : BitVec 3) : W32 := c.k.get a.toFin
def Context.rv (c : Context) (a : BitVec 5) : VReg := c.v.get a.toFin

/-- A write of an earlier bundle still pending for a register (01 R23). -/
def Context.pending (c : Context) (r : Reg) : Bool :=
  c.landing.any fun e => e.reg == r && e.issue != c.ic && r != .s 0

/-- A pending write whose landing count has been reached and whose result does not exist (10 R256). -/
def Context.overdue (c : Context) (r : Reg) : Bool :=
  c.landing.any fun e => e.reg == r && e.left == 0 && !e.ready && r != .s 0

/-- The reads of a slot: an overdue register stalls the bundle, a pending one raises SHADOW_READ under SHCHK
(10 R251, R256, 01 R23). -/
def checkReads (s : State) (rs : List Reg) : Except Stop Unit :=
  if rs.any s.cx.overdue then .error .stall
  else if s.cx.shchk ∧ rs.any s.cx.pending then .error (.trap 4 0 s.cur.slot 0)
  else .ok ()

/-- The old value that a masked write keeps is a read for the overdue rule alone (04 R113, 10 R256). -/
def checkKept (s : State) (rs : List Reg) : Except Stop Unit :=
  if rs.any s.cx.overdue then .error .stall else .ok ()

/-- The register that a header's predicate names, if any (02 R39). -/
def predReads (p : Pred) : List Reg := if p.pi = 31 then [] else [.p p.pi]

/-- The scalar test of a header: bit 0 of the predicate, inverted by PN (02 R40). -/
def State.test (s : State) (p : Pred) : Bool :=
  if p.pi = 31 then true else (s.cx.rp p.pi).getLsbD 0 != p.pn

/-- The lane mask of a header in slots 3 and 4 (04 R113). -/
def State.mask (s : State) (p : Pred) : Word :=
  if p.pi = 31 then 0xFFFFFFFFFFFFFFFF else if p.pn then ~~~(s.cx.rp p.pi) else s.cx.rp p.pi

/-- A trap of the executing slot. -/
def State.trapHere (s : State) (code cause : Nat) (addr : Word) : Stop := .trap code cause s.cur.slot addr

/-- A slot of slots 0, 1, 2 and 5: its predicate is read; when the test is true, first its block cause, then its reads,
then its act (10 R251, R256). While its predicate is overdue, whether it blocks is judged by the predicate's old value.
DESIGN CHOICE, log entry 91. -/
def runSlot (p : Pred) (reads : List Reg) (block : State → Option Nat) (act : State → Except Stop State) (s : State) :
    Except Stop State :=
  if s.test p then
    match block s with
    | some b => .error (.block b)
    | none =>
      match checkReads s (predReads p ++ reads) with
      | .error e => .error e
      | .ok _ => act s
  else
    match checkReads s (predReads p) with
    | .error e => .error e
    | .ok _ => .ok s

def noBlock (_ : State) : Option Nat := none

/-! Timelines (01 R28, R29, 09 R232, R236). -/

/-- The counter passes every leading command that is done. -/
def advance (count : Word) : List Pending → Word × List Pending
  | [] => (count, [])
  | p :: rest => if p.phase = .done then advance p.seq rest else (count, p :: rest)

def Timeline.advance (t : Timeline) : Timeline :=
  let (n, l) := Machine.advance t.count t.cmds
  { t with count := n, cmds := l }

def Timeline.stopped (t : Timeline) : Option Pending := t.cmds.find? fun p => p.phase = .stopped

/-- The number of the stopped, unretired command; 0 if there is none (09 R247). -/
def Timeline.stopNum (t : Timeline) : Word :=
  match t.stopped with
  | some p => p.seq
  | none => 0

/-- The first stopped command counts as done. -/
def doneFirst : List Pending → List Pending
  | [] => []
  | p :: rest => if p.phase = .stopped then { p with phase := .done } :: rest else p :: doneFirst rest

/-- Retiring: the counter treats the stopped command as complete (09 R236). -/
def Timeline.retire (t : Timeline) : Timeline := Timeline.advance { t with cmds := doneFirst t.cmds }

/-- A stream register after command `seq` has given up its binding (09 R242): the shadow binding moves up. -/
def StreamReg.unbind (q : StreamReg) (swp : Bool) (seq : Word) : StreamReg :=
  let mine (b : Binding) : Bool := b.seq == seq && (if swp then b.kind == .swsub else b.kind == .cpyqIn || b.kind == .cpyqOut)
  if mine q.active then { q with active := q.shadow, shadow := Binding.none }
  else if mine q.shadow then { q with shadow := Binding.none }
  else q

def Context.unbind (c : Context) (tl : Tl) (seq : Word) : Context :=
  match tl with
  | .cpy => { c with streams := c.streams.map fun q => q.unbind false seq }
  | .swp => { c with streams := c.streams.map fun q => q.unbind true seq }
  | _ => c

/-- TREAD.RETIRE on a timeline: the stopped command is counted and holds its stream no longer (09 R236). -/
def Context.retire (c : Context) (tl : Tl) : Context :=
  match (c.tl tl).stopped with
  | none => c
  | some p => (c.unbind tl p.seq).setTl tl (c.tl tl).retire

/-! Traps. -/

/-- What a trap is: its code, cause, slot (7 for none), engine, address, sequence number and value (15 R403, R404). -/
structure TrapInfo where
  code   : Nat
  cause  : Nat
  slot   : Nat
  engine : Nat
  addr   : Word
  seq    : Word
  val    : BitVec 16
deriving DecidableEq, Repr

/-- The error class of a trap code, 0 for none (15 R403). -/
def trapClass (code : Nat) : Nat :=
  match code with
  | 32 => 1
  | 33 => 2
  | 34 => 3
  | 21 => 4
  | 22 => 4
  | _ => 0

/-- Whether an open region of the context catches the class: CROPEN, not in service mode, the bit set (15 R425). A task
past its EXIT takes no error (10 R275). -/
def Context.catches (c : Context) (code : Nat) : Bool :=
  match c.region with
  | some r => !c.svc && !c.exiting && decide (trapClass code ≠ 0) && r.mask.getLsbD (trapClass code - 1)
  | none => false

/-- The rollback of 15 R426 at the boundary where the context stands; a Halted context stays so (15 R381). -/
def State.rollback (s : State) (core : Nat) (i : BitVec 2) (t : TrapInfo) : State :=
  let c := s.ctxAt core i
  match c.region with
  | none => s
  | some r =>
    let s := s.rollLog core i r.token
    let c := { c with
      landing := [], s := r.s, redir := [], skip := none, ckiClr := 0, ckiSet := 0, restore := none, loopOp := none, regionOp := none
      loops := c.loops.map fun l => { l with act := false, rem := 0 }
      cki := c.cki ||| c.ckiSet ||| (if t.code = 32 then ckiLFAULT else if t.code = 34 then ckiPOISON else 0)
      crs := BitVec.ofNat 64 (t.code + t.cause * 2 ^ 8 + c.ip.toNat * 2 ^ 16)
      region := none, ip := r.ip, st := if c.st = .halted then .halted else .ready, bcause := 0 }
    let c := if t.code = 33 then c.retire (tlOf t.engine) else c
    s.setCtxAt core i c

/-- The trap record (15 R404). -/
def Context.record (c : Context) (t : TrapInfo) : Context :=
  { c with
    tcause := BitVec.ofNat 64 (t.code + t.cause * 2 ^ 8 + t.slot * 2 ^ 16 + t.engine * 2 ^ 24)
    tip := c.ip, taddr := t.addr, tseq := t.seq, tval := t.val, tmr := if t.code = 49 then 0 else c.tmr, tpend := c.tpend && t.code != 49 }

/-- Steps 2 and 3 of 15 R405: the program's landing buffer, redirections, loops and fetch position into the latch. -/
def Context.enterService (c : Context) : Context :=
  { c with
    latch := some ⟨c.landing, c.redir, c.loops, c.ip, c.drain⟩
    landing := [], redir := [], loops := Vector.replicate 4 Loop.idle, drain := false
    svc := true, skip := none, ckiClr := 0, restore := none, loopOp := none, regionOp := none, bcause := 0 }

/-- Taking a trap in a context whose IP stands at the resume point (15 R405, R406, R426). A trap in service mode, or to
an unarmed service bank, halts the context and posts a SERVICE notice. DEDUCED, log entry 18. -/
def State.takeTrap (s : State) (core : Nat) (i : BitVec 2) (t : TrapInfo) : State :=
  let c := s.ctxAt core i
  let c := if t.code = 32 then { c with cki := c.cki ||| ckiLFAULT } else c
  let s := s.setCtxAt core i c
  if c.catches t.code then s.rollback core i t
  else if c.svc then
    (s.setCtxAt core i { c with
      st := .halted, nested := true, skip := none, ckiClr := 0, restore := none, loopOp := none, regionOp := none }).noticeFor core 34 t.code
      (core * 4 + i.toNat) 0
  else
    let k := s.core core
    let c' := { (c.record t).enterService with ip := k.tvec.setWidth 14 }
    if k.fis.getLsbD 2 then s.setCtxAt core i { c' with st := if c.st = .issuing then .issuing else .ready }
    else (s.setCtxAt core i { c' with st := .halted, nested := true }).noticeFor core 34 t.code (core * 4 + i.toNat) 0

/-- The handler's pending writes land, the latch comes back and SVC clears; fetch continues at SYS.TIP (15 R429). -/
def Context.leaveService (c : Context) : Context :=
  match c.latch with
  | some l =>
    { c with
      landing := l.landing, redir := l.redir, loops := l.loops, drain := l.drain, ip := c.tip
      svc := false, latch := none }
  | none => { c with svc := false, ip := c.tip }

/-! The boundary after a bundle. -/

/-- A context's own register written. -/
def Context.setReg (c : Context) (e : LandEntry) : Context :=
  match e.reg with
  | .s n => if n = 0 then c else { c with s := c.s.set n.toNat (e.val.setWidth 64) n.isLt }
  | .v n => { c with v := c.v.set n.toNat e.val n.isLt, vchk := c.vchk.set n.toNat e.chk n.isLt }
  | .p n => { c with p := vmod c.p n.toNat fun _ => e.val.setWidth 64 }
  | .b n => { c with b := c.b.set n.toNat (e.val.setWidth 14) n.isLt }
  | .m n => { c with m := c.m.set n.toNat (e.val.setWidth 64) n.isLt }
  | .k n => { c with k := c.k.set n.toNat (e.val.setWidth 32) n.isLt }
  | .fmt => { c with fmt := e.val.setWidth 6 }
  | .push n =>
    let q := c.streams.get n.toFin
    { c with streams := c.streams.set n.toNat { q with outq := q.outq ++ [⟨e.val, e.chk⟩] } n.isLt }
  | .sys _ => c

/-- One entry lands in context `i` of a core; a system register may belong to the core or beyond (15 R408). -/
def State.apply (s : State) (core : Nat) (i : BitVec 2) (e : LandEntry) : State :=
  match e.reg with
  | .sys n => s.sysWrite core i n.toNat (e.val.setWidth 64)
  | _ => s.setCtxAt core i ((s.ctxAt core i).setReg e)

def State.applyAll (s : State) (core : Nat) (i : BitVec 2) : List LandEntry → State
  | [] => s
  | e :: rest => State.applyAll (s.apply core i e) core i rest

/-- What a CTXRSTR of the bundle restores lands after every plain write of the boundary (15 R433). -/
def State.applyRestore (s : State) (core : Nat) (i : BitVec 2) : State :=
  let c := s.ctxAt core i
  match c.restore with
  | none => s
  | some r =>
    (s.setCtxAt core i { c with
      restore := none, region := r.region.getD c.region, staging := r.staging.getD c.staging }).applyAll core i r.regs

/-- The entries due now, in order: count reached, result there, and no overdue write of the same register before it
(10 R254, R256); and the entries that stay. -/
def dueSplit (held : List Reg) : List LandEntry → List LandEntry × List LandEntry
  | [] => ([], [])
  | e :: rest =>
    if e.left = 0 then
      if e.ready ∧ ¬ held.contains e.reg then
        let (a, b) := dueSplit held rest
        (e :: a, b)
      else
        let (a, b) := dueSplit (e.reg :: held) rest
        (a, e :: b)
    else
      let (a, b) := dueSplit held rest
      (a, e :: b)

/-- The flags and check bits of landing results are ORed in after every plain write of the boundary (03 R94, 15 R411). -/
def Context.orFlags (c : Context) (es : List LandEntry) : Context :=
  { c with
    fpf := es.foldl (fun a e => a ||| e.fpf) c.fpf
    cki := es.foldl (fun a e => a ||| e.cki) c.cki }

/-- The check bits that outside events have set (15 R411). -/
def Context.orSet (c : Context) : Context := { c with cki := c.cki ||| c.ckiSet, ckiSet := 0 }

/-- Landing at a boundary (10 R254): a poisoned result inside a region that holds class 3 rolls back instead
(15 R412). What outside events have set since the last boundary is ORed in after every write (15 R411). -/
def State.landDue (s : State) (core : Nat) (i : BitVec 2) : State :=
  let c := s.ctxAt core i
  let (due, stay) := dueSplit [] c.landing
  if (due.any (fun e => (e.cki &&& ckiPOISON) != 0) || (c.ckiSet &&& ckiPOISON) != 0) && c.catches 34 then
    s.rollback core i ⟨34, 0, 7, 0, 0, 0, 0⟩
  else
    let s := (s.setCtxAt core i { c with landing := stay, cki := c.cki &&& ~~~c.ckiClr, ckiClr := 0 }).applyAll core i due
    let s := s.applyRestore core i
    s.setCtxAt core i ((s.ctxAt core i).orFlags due).orSet

/-- Remaining counts after one more bundle has issued. -/
def ageLanding (l : List LandEntry) : List LandEntry := l.map fun e => { e with left := e.left - 1 }

/-! Ending a slot. -/

/-- What a stopped slot leaves: the trap taken, the context blocked with its cause, or nothing for a stall, on the state
before the bundle (10 R251). -/
def State.enterStop (s : State) (e : Stop) : State :=
  match e with
  | .trap code cause slot addr => s.takeTrap s.cur.core s.cur.ctx ⟨code, cause, slot, 0, addr, 0, 0⟩
  | .block b => s.setCx { s.cx with st := .blocked, bcause := BitVec.ofNat 4 b }
  | .stall => s
  | .engine tl cause addr seq => s.takeTrap s.cur.core s.cur.ctx ⟨33, cause, 7, tl.num, addr, seq, 0⟩

abbrev Result := Host.Outcome State Fault Refusal

/-- The outcome of a slot's body: its effects on success, the stop taken otherwise; `last` tells the bundle which. -/
def finish (body : State → Except Stop State) (s : State) : Result :=
  match body { s with raised := 0 } with
  | .ok t => .next { t with last := none, raised := 0 }
  | .error e => .next { s.enterStop e with last := some e, raised := 0 }

end Sys2Proof.Machine
end

