-- ==== Sys2Proof/Machine/Operands.lean ====
section
/-! DEFINITION. Operand forms: vector sources and destinations with streams, masks and checksums (01 R25, 04 R113-R116),
elements, and the addresses of format M (07 R187, R188). -/

namespace Sys2Proof.Machine

/-! Vector sources (01 R25): 0-31 a register, 32-47 a pop, 48-63 a peek. -/

/-- The stream registers that the fields pop, each once (04 R114). -/
def popsOf (fs : List (BitVec 6)) : List (BitVec 4) :=
  (fs.filterMap fun f => if 32 ≤ f.toNat ∧ f.toNat < 48 then some (f.setWidth 4) else none).eraseDups

/-- The v registers that the fields read. -/
def vregsOf (fs : List (BitVec 6)) : List Reg :=
  fs.filterMap fun f => if f.toNat < 32 then some (.v (f.setWidth 5)) else none

/-- Whether every element that the fields pop or peek has arrived (04 R114). Elements that a binding has delivered can
still be popped once it has ended. DESIGN CHOICE, log entry 79. -/
def Context.arrived (c : Context) (fs : List (BitVec 6)) : Bool :=
  fs.all fun f =>
    if f.toNat < 32 then true
    else
      let q := c.streams.get (f.setWidth 4).toFin
      if f.toNat < 48 then decide (q.pops < q.inq.length) else decide (0 < q.inq.length)

/-- A source's row and its checksum. -/
def Context.vsrc (c : Context) (f : BitVec 6) : Elem :=
  if f.toNat < 32 then ⟨c.rv (f.setWidth 5), c.vchk.get (f.setWidth 5).toFin⟩
  else
    let q := c.streams.get (f.setWidth 4).toFin
    if f.toNat < 48 then q.inq.getD q.pops ⟨0, 0⟩ else q.inq.getD 0 ⟨0, 0⟩

def Elem.ok (e : Elem) : Bool := laneSum e.val == e.chk

def Context.popOne (c : Context) (n : BitVec 4) : Context :=
  let q := c.streams.get n.toFin
  { c with streams := c.streams.set n.toNat { q with pops := q.pops + 1 } n.isLt }

/-- The stream that a destination field pushes to (01 R25). -/
def pushOf (d : BitVec 6) : Option (BitVec 4) :=
  if 32 ≤ d.toNat ∧ d.toNat < 48 then some (d.setWidth 4) else none

/-- Room for one more push when it lands, and a binding that takes it (04 R114, 09 R242). -/
def Context.pushRoom (c : Context) (n : BitVec 4) : Bool :=
  let q := c.streams.get n.toFin
  (q.active.kind == .cpyqOut || q.shadow.kind == .cpyqOut) &&
    decide (q.outq.length + (c.landing.filter fun e => e.reg == .push n).length < 4)

/-- Old lanes are kept where the mask is not full; always; never. -/
def maskKeeps (m : Word) : Bool := m != 0xFFFFFFFFFFFFFFFF
def alwaysKeeps (_ : Word) : Bool := true
def neverKeeps (_ : Word) : Bool := false

/-- The registers whose old lanes or bits a vector slot may keep. -/
def keptRegs (dst : Option (BitVec 6)) (keptP : Option (BitVec 5)) : List Reg :=
  (match dst with
    | some d => vregsOf [d]
    | none => []) ++
  (match keptP with
    | some d => [.p d]
    | none => [])

/-- A vector slot: mask, block causes, stalls, SHADOW_READ, checksums, pops, then the act (04 R113-R116, 10 R251).
`srcs` are vector source fields, `regs` other registers read, `dst` the destination field whose old lanes are kept or
whose stream is pushed; `keeps` tells whether any old lane or bit is kept under the mask. Containers that a masked write keeps
are no read for the checksum check. DESIGN CHOICE, log entry 91. -/
def runVec (p : Pred) (srcs : List (BitVec 6)) (regs : List Reg) (dst : Option (BitVec 6)) (keptP : Option (BitVec 5))
    (keeps : Word → Bool) (block : State → Option Nat) (act : Word → List VReg → State → Except Stop State) (s : State) :
    Except Stop State :=
  let c := s.cx
  let m := s.mask p
  if m = 0 then
    match checkReads s (predReads p) with
    | .error e => .error e
    | .ok _ => .ok s
  else if !c.arrived srcs then .error (.block 1)
  else if (dst.bind pushOf).any (fun n => !c.pushRoom n) then .error (.block 2)
  else
    match block s with
    | some b => .error (.block b)
    | none =>
      match checkKept s (if keeps m then keptRegs dst keptP else []) with
      | .error e => .error e
      | .ok _ =>
        match checkReads s (predReads p ++ vregsOf srcs ++ regs) with
        | .error e => .error e
        | .ok _ =>
          let es := srcs.map c.vsrc
          if es.all Elem.ok then act m (es.map (·.val)) (s.setCx ((popsOf srcs).foldl Context.popOne c))
          else .error (s.trapHere 32 0 0)

/-! Elements (03 R79). -/

/-- Element j of a row under element width w. -/
def elem (v : VReg) (w j : Nat) : Nat := fld v.toNat (w * j) w

/-- Elements j, j + 1, … of a result: `f` where active, the old element elsewhere; and the flags of the active ones. -/
def elemsFrom (w : Nat) (active : Nat → Bool) (f : Nat → Nat × Flag5) (old : VReg) (j : Nat) : Nat → Nat × Flag5
  | 0 => (0, 0)
  | n + 1 =>
    let (hi, fl) := elemsFrom w active f old (j + 1) n
    if active j then
      let (x, fx) := f j
      (x % 2 ^ w + 2 ^ w * hi, fx ||| fl)
    else (elem old w j + 2 ^ w * hi, fl)

/-- Whether a lane is active in a mask. -/
def laneOn (m : Word) (i : Nat) : Bool := m.getLsbD i

/-- Whether element j's lane is active (04 R113). -/
def elemOn (m : Word) (w j : Nat) : Bool := m.getLsbD (j / (32 / w))

/-- The old lanes that a destination keeps: those of the register, or zeros for a push (04 R113). -/
def Context.oldDst (c : Context) (d : BitVec 6) : VReg := if d.toNat < 32 then c.rv (d.setWidth 5) else 0

/-- The register or stream that a destination field writes. -/
def dstReg (d : BitVec 6) : Reg := if d.toNat < 32 then .v (d.setWidth 5) else .push (d.setWidth 4)

/-- A whole row written to a vector destination with its lane sum (04 R115). -/
def State.landRow (s : State) (cls : LatClass) (d : BitVec 6) (v : VReg) (fpf : Flag5) (cki : BitVec 11) : State :=
  s.landF cls (dstReg d) v (laneSum v) fpf cki

/-- The elements `f j` written where active, the others kept (04 R113). -/
def State.landElems (s : State) (cls : LatClass) (d : BitVec 6) (w : Nat) (active : Nat → Bool)
    (f : Nat → Nat × Flag5) (cki : BitVec 11) : State :=
  let (x, fl) := elemsFrom w active f (s.cx.oldDst d) 0 (2048 / w)
  s.landRow cls d (BitVec.ofNat 2048 x) fl cki

/-- The lanes `f i` written where the mask is set, the others kept. -/
def State.landLanes (s : State) (cls : LatClass) (d : BitVec 6) (m : Word) (f : Nat → W32) : State :=
  s.landElems cls d 32 (laneOn m) (fun i => ((f i).toNat, 0)) 0

/-- A predicate whose inactive bits keep their old value (04 R118). -/
def State.landBits (s : State) (cls : LatClass) (d : BitVec 5) (m : Word) (f : Nat → Bool) : State :=
  let bits := BitVec.ofNat 64 ((List.range 64).foldl (fun a i => if f i then a + 2 ^ i else a) 0)
  s.landP cls d ((bits &&& m) ||| (s.cx.rp d &&& ~~~m))

/-! Addresses of format M (07 R187, R188). -/

/-- s[A] + (s[X] << SC) + sext(OFF24), modulo 2^64. -/
def Context.addrM (c : Context) (a x : BitVec 6) (sc : BitVec 3) (off : BitVec 24) : Word :=
  c.rs a + (c.rs x <<< sc.toNat) + off.signExtend 64

/-- The base of the strided and indexed forms: s[A] + sext(OFF24). -/
def Context.baseM (c : Context) (a : BitVec 6) (off : BitVec 24) : Word := c.rs a + off.signExtend 64

/-- Access size in bytes of a scalar memory type (07 R187). -/
def memSize (t : Nat) : Nat := typeWidth t / 8

end Sys2Proof.Machine
end

