-- ==== Sys2Proof/Machine/Fetch.lean ====
section
/-! DEFINITION. The instruction store and fetch (02 R53-R58), the choice of the next bundle with loop-back and pending
redirections (10 R259-R265), and the end of a bundle (10 R251, R254, R255). -/

namespace Sys2Proof.Machine

/-! The instruction store (02 R54). -/

/-- Where in the store the bank lies that an IP names: its dictionary, its index stream, its positions and its bit in
SYS.FIS. -/
structure Bank where
  dict   : Nat
  stream : Nat
  len    : Nat
  bit    : Nat
deriving DecidableEq, Repr

def bankNum (b : Nat) : Bank :=
  match b with
  | 0 => ⟨0, 0x18000, 8192, 0⟩
  | 1 => ⟨0x1C000, 0x34000, 8192, 1⟩
  | _ => ⟨0x38000, 0x3E000, 4096, 2⟩

/-- The bank of an IP: the service bank in service mode (02 R56). -/
def Context.bankOf (c : Context) (ip : BitVec 14) : Bank :=
  if c.svc then bankNum 2 else bankNum (ip.toNat / 8192)

def ipPos (ip : BitVec 14) : Nat := ip.toNat % 8192

def State.halfword (s : State) (core : Nat) (b : Bank) (pos : Nat) : Nat :=
  Mem.readLE s.mem (istoreBase core + b.stream + 2 * pos) 2

/-- Positions that the bundle at an IP takes: 25 for a literal, 1 otherwise (02 R55). -/
def State.positions (s : State) (core : Nat) (c : Context) (ip : BitVec 14) : Nat :=
  if s.halfword core (c.bankOf ip) (ipPos ip) = 0xFFFF then 25 else 1

/-- Sequential fetch: it wraps past the last position of the bank (02 R56). -/
def State.seqAfter (s : State) (core : Nat) (c : Context) (ip : BitVec 14) : BitVec 14 :=
  let p := (ipPos ip + s.positions core c ip) % (c.bankOf ip).len
  BitVec.ofNat 14 (ip.toNat / 8192 * 8192 + p)

/-! Loops (10 R260, R262, R263). -/

/-- The innermost active loop: the one with the highest DEPTH. -/
def innermost (ls : Vector Loop 4) : Option Nat :=
  ([0, 1, 2, 3].filter fun t => (ls[t]?.getD Loop.idle).act).foldl
    (fun best t =>
      match best with
      | none => some t
      | some u => if (ls[u]?.getD Loop.idle).depth < (ls[t]?.getD Loop.idle).depth then some t else some u) none

def Loop.pop (l : Loop) : Loop := { l with act := false, rem := 0 }
def Loop.holds (l : Loop) (ip : BitVec 14) : Bool := decide (l.start ≤ ip) && decide (ip ≤ l.fin)

/-- Popping at a taken branch's target: every loop, from the innermost, that does not contain it (10 R260). -/
def popTo (target : BitVec 14) (ls : Vector Loop 4) : Nat → Vector Loop 4
  | 0 => ls
  | n + 1 =>
    match innermost ls with
    | none => ls
    | some t => if (ls[t]?.getD Loop.idle).holds target then ls else popTo target (vmod ls t Loop.pop) n

/-- l[t] and every deeper loop popped, when l[t] is active (10 R264, R265). -/
def popFrom' (ls : Vector Loop 4) (t : Nat) : Vector Loop 4 :=
  let l := ls[t]?.getD Loop.idle
  if l.act then ls.map fun x => if x.act && decide (l.depth ≤ x.depth) then x.pop else x else ls

/-- The loops once the bundle's LOOP or LBRK has acted: until then its slots read them as they stood (10 R252, R264, R265). -/
def Context.loopsDone (c : Context) : Vector Loop 4 :=
  match c.loopOp with
  | none => c.loops
  | some (t, l) =>
    let nest := popFrom' c.loops t
    match l with
    | none => nest
    | some x => vmod nest t fun _ => x

/-- Whether a pending write is to a register of a restored group. -/
def Reg.inGroups (g : BitVec 10) (r : Reg) : Bool :=
  match r with
  | .s _ => g.getLsbD 0
  | .v _ => g.getLsbD 1
  | .p _ => g.getLsbD 2
  | .b _ => g.getLsbD 3
  | .m _ => g.getLsbD 5
  | .k _ => g.getLsbD 6
  | .fmt => g.getLsbD 9
  | .push _ => false
  | .sys n => g.getLsbD 9 && (n == 0x001 || n == 0x002 || n == 0x004 || n == 0x005 || (decide (0x028 ≤ n.toNat) && decide (n.toNat ≤ 0x02B)))

/-- The loops and the containment region as the bundle leaves them (10 R252); under DRAIN the loop state is frozen
(15 R419). -/
def Context.actDone (c : Context) : Context :=
  { c with
    loops := if c.drain then c.loops else c.loopsDone, region := c.regionOp.getD c.region, loopOp := none, regionOp := none
    landing := c.landing.filter fun e => !(e.issue != c.ic && c.restore.any fun r => e.reg.inGroups r.groups) }

/-- Loop-back after the bundle at `ip`: the loops as they then stand, and the start of the body when one turns back
(10 R263). -/
def loopBack (ip : BitVec 14) (ls : Vector Loop 4) : Nat → Vector Loop 4 × Option (BitVec 14)
  | 0 => (ls, none)
  | n + 1 =>
    match innermost ls with
    | none => (ls, none)
    | some t =>
      let l := ls[t]?.getD Loop.idle
      if ip ≠ l.fin then (ls, none)
      else if 1 < l.rem then (vmod ls t fun l => { l with rem := l.rem - 1 }, some l.start)
      else loopBack ip (vmod ls t Loop.pop) n

/-- The state of fetch after the bundle at `c.ip`: a redirection whose count has run out, the target of a LOOP with count
0, or the sequential rule with loop-back (10 R259-R264). Under DRAIN the loop state is frozen (15 R419). -/
def State.nextFetch (s : State) (core : Nat) (c : Context) : Context :=
  let redir := c.redir.map fun (k, t) => (k - 1, t)
  let rest := redir.filter fun (k, _) => k ≠ 0
  match redir.find? fun (k, _) => k = 0 with
  | some (_, t) => { c with redir := rest, skip := none, ip := t, loops := if c.drain then c.loops else popTo t c.loops 4 }
  | none =>
    match c.skip with
    | some e => { c with redir := rest, skip := none, ip := s.seqAfter core c e }
    | none =>
      if c.drain then { c with redir := rest, ip := s.seqAfter core c c.ip }
      else
        let (ls, back) := loopBack c.ip c.loops 4
        { c with redir := rest, loops := ls, ip := back.getD (s.seqAfter core c c.ip) }

/-- BRL's link: the IP that sequentially follows bundle n + 2, found by the fetch of bundles n + 1 and n + 2
(10 R269). DEDUCED, log entry 17. -/
def State.linkIp (s : State) (core : Nat) (c : Context) : BitVec 14 :=
  let c2 := s.nextFetch core (s.nextFetch core c)
  s.seqAfter core c2 c2.ip

/-! Fetch (10 R251 step 1). -/

/-- A fetched bundle: its six slot words and whether it is a literal. -/
structure Fetched where
  slots : List Nat
  lit   : Bool
deriving DecidableEq, Repr

def slotsOf (bundle : Nat) : List Nat := [0, 1, 2, 3, 4, 5].map fun k => fld bundle (64 * k) 64

/-- The slot words at the IP, or the code of the trap: BANK_UNARMED 3, ILLEGAL_INDEX 1 (02 R53, R55, R56, R58).
DEDUCED, log entry 16. -/
def State.fetch (s : State) (core : Nat) (c : Context) : Except Nat Fetched :=
  let b := c.bankOf c.ip
  let pos := ipPos c.ip
  if !(s.core core).fis.getLsbD b.bit then .error 3
  else if b.len ≤ pos ∨ (c.svc ∧ 8192 ≤ c.ip.toNat) then .error 1
  else
    let h := s.halfword core b pos
    let top := if c.svc then 512 else 2048
    if h < top then .ok ⟨slotsOf (Mem.readLE s.mem (istoreBase core + b.dict + 48 * h) 48), false⟩
    else if h ≠ 0xFFFF then .error 1
    else if b.len < pos + 25 then .error 1
    else .ok ⟨slotsOf (Mem.readLE s.mem (istoreBase core + b.stream + 2 * (pos + 1)) 48), true⟩

/-- A control core takes slots 0, 1 and 2 alone, and neither STNT nor STCMB (01 R11). -/
def controlSlot (slot : Nat) (i : Instr) : Bool :=
  match i with
  | .nop => true
  | .stnt .. => false
  | .stcmb .. => false
  | _ => decide (slot < 3)

def decodeSlots (control : Bool) (k : Nat) : List Nat → Option (List (Nat × Instr))
  | [] => some []
  | w :: rest =>
    match decodeSlot k w, decodeSlots control (k + 1) rest with
    | .ok i, some l => if control && !controlSlot k i then none else some ((k, i) :: l)
    | _, _ => none

/-- The instructions of the bundle at the IP, or the code of the fetch trap (02 R53). DEDUCED, log entry 16. -/
def State.fetchBundle (s : State) (core : Nat) (c : Context) : Except Nat (Fetched × List (Nat × Instr)) :=
  match s.fetch core c with
  | .error e => .error e
  | .ok f =>
    match decodeSlots (decide (512 ≤ core)) 0 f.slots with
    | some l => .ok (f, l)
    | none => .error 2

def sat32 (x : W32) : W32 := if x = 0xFFFFFFFF then x else x + 1

/-- The slot counters of the innermost active loop after one more bundle (17 R451). -/
def Context.countFills (c : Context) (slots : List Nat) : Context :=
  match innermost c.loops with
  | none => c
  | some t =>
    { c with loops := vmod c.loops t fun l => { l with
        fills := l.fills.mapIdx fun j x => if slots.getD j 0 ≠ 0 then sat32 x else x
        nops := l.nops.mapIdx fun j x => if slots.getD j 0 = 0 then sat32 x else x } }

/-! The end of a bundle. -/

/-- Registers that the double-write rule compares (02 R61). -/
def Reg.compared : Reg → Bool
  | .s n => n != 0
  | .v _ => true
  | .p _ => true
  | .b _ => true
  | .m _ => true
  | .k _ => true
  | _ => false

/-- Of two writes of one register by a literal with one landing count the higher slot's lands, and WCOLL with it
(02 R62). The flags and check bits of the discarded write are dropped with it. DESIGN CHOICE, log entry 78. -/
def collide (ic : Word) (all : List LandEntry) : List LandEntry → List LandEntry
  | [] => []
  | e :: rest =>
    let same (x : LandEntry) : Bool := x.issue == ic && e.issue == ic && x.reg == e.reg && x.left == e.left && x.reg.compared
    if all.any (fun x => same x && decide (e.slot < x.slot)) then collide ic all rest
    else if all.any (fun x => same x && decide (x.slot < e.slot)) then
      { e with cki := e.cki ||| ckiWCOLL } :: collide ic all rest
    else e :: collide ic all rest

/-- Stream elements that the bundle has popped leave their queue, a shadow binding moving up when the active one has
delivered its last is the engine's business (04 R114). -/
def StreamReg.settle (q : StreamReg) : StreamReg := 
  { q with inq := q.inq.drop q.pops, taken := q.taken + q.pops, pops := 0 }

def Context.readyNow (c : Context) : Bool := decide (c.st = .ready)

def State.otherReady (s : State) (core : Nat) (i : BitVec 2) : Bool :=
  ((s.core core).ctxs.toList.mapIdx fun j x => decide (j ≠ i.toNat) && x.readyNow).any (fun b => b)

/-- The slot counters with the bundle at the IP counted in the loop that was innermost when it issued (17 R451); they are
frozen with the loop state (15 R419). -/
def State.counted (s : State) (core : Nat) (c : Context) : Context :=
  match s.fetch core c with
  | .ok f => if c.drain then c else c.countFills f.slots
  | .error _ => c

/-- What a context holds once its bundle has issued: IC and the residency count have risen, the landing buffer has aged,
and fetch has moved on (01 R19, R21, 10 R253, R263). -/
def State.afterIssue (s : State) (core : Nat) (i : BitVec 2) (literal : Bool) : Context :=
  let c := (s.counted core (s.ctxAt core i)).actDone
  let landing := if literal then collide c.ic c.landing c.landing else c.landing
  s.nextFetch core { c with
    landing := ageLanding landing
    streams := c.streams.map StreamReg.settle
    ic := c.ic + 1
    resid := if s.otherReady core i then c.resid + 1 else c.resid
    stubLen := if c.drain then c.stubLen + 1 else if c.svc then c.stubLen else 0 }

/-- Whether the bundle now issuing stands as a literal. -/
def State.isLiteral (s : State) : Bool := decide (s.positions s.cur.core s.cx s.cx.ip = 25)

/-- The end of the bundle now issuing: LANDING_FULL, or the boundary with what lands there (10 R251, R254, R255). -/
def State.endBundle (s : State) : Except Stop State :=
  let n := s.cur.core
  let i := s.cur.ctx
  let c := s.afterIssue n i s.isLiteral
  if 64 < ((entriesOf c.landing).filter fun e => decide (0 < e.left)).length then .error (.trap 5 0 7 0)
  else
    let k := s.core n
    .ok ((s.setCore n ({ k with bundles := k.bundles + 1 }.setCtx i c)).landDue n i)

end Sys2Proof.Machine
end

