-- ==== Sys2Proof/Machine/Control.lean ====
section
/-! DEFINITION. Control-slot instructions: branches, loops, votes, FMT, fences, YIELD and EXIT (10 R258-R276), TRAP, ERET,
containment regions and CHKERR (15 R424-R430). -/

namespace Sys2Proof.Machine

/-- The empty slot (02 R41). -/
def execNop (s : State) : Result := finish .ok s

def State.landB (s : State) (n : BitVec 3) (x : BitVec 14) : State := s.landF .salu (.b n) (x.setWidth 2048) 0 0 0

/-- b[BT] := IMM32 bits 13:0 (10 R268). -/
def execBprep (p : Pred) (bt : BitVec 4) (target : BitVec 14) (s : State) : Result :=
  finish (runSlot p [] noBlock fun s => .ok (s.landB (bt.setWidth 3) target)) s

/-- b[BT] := bits 13:0 of s[A] (10 R268). -/
def execBpreps (p : Pred) (bt : BitVec 4) (a : BitVec 6) (s : State) : Result :=
  finish (runSlot p [.s a] noBlock fun s => .ok (s.landB (bt.setWidth 3) ((s.cx.rs a).setWidth 14))) s

/-- A taken branch: it redirects fetch for the third bundle from here (10 R259, R261). -/
def Context.branch (c : Context) (target : BitVec 14) : Context := { c with redir := c.redir ++ [(3, target)] }

/-- 10 R269. -/
def execBr (p : Pred) (bt : BitVec 4) (s : State) : Result :=
  finish (runSlot p [.b (bt.setWidth 3)] noBlock fun s => .ok (s.setCx (s.cx.branch (s.cx.rb (bt.setWidth 3))))) s

/-- 10 R269: the branch, and the return point into b[L]. DEDUCED, log entry 17. -/
def execBrl (p : Pred) (bt : BitVec 4) (link : BitVec 3) (s : State) : Result :=
  finish (runSlot p [.b (bt.setWidth 3)] noBlock fun s =>
    let s' := s.landB link (s.linkIp s.cur.core s.cx)
    .ok (s'.setCx (s'.cx.branch (s.cx.rb (bt.setWidth 3))))) s

/-- The other code bank than the one an IP names. -/
def otherBank (ip : BitVec 14) : Nat := 1 - ip.toNat / 8192

/-- 10 R270. -/
def execBanksw (p : Pred) (pd : BitVec 5) (bt : BitVec 4) (s : State) : Result :=
  finish (runSlot p [.b (bt.setWidth 3)] noBlock fun s =>
    if s.cx.svc then .error (s.trapHere 19 0 0)
    else
      let k := otherBank s.cx.ip
      if s.co.fis.getLsbD k then
        let t := BitVec.ofNat 14 (k * 8192 + ipPos (s.cx.rb (bt.setWidth 3)))
        let s' := s.landP .pred pd (boolWord true)
        .ok (s'.setCx (s'.cx.branch t))
      else .ok (s.landP .pred pd (boolWord false))) s

/-! Loops. -/

/-- `loop_setup` of 10 R264; none where it raises LOOP_PARAM. DEDUCED, log entry 17. -/
def State.loopSetup (s : State) (t : Nat) (count : Word) (endpos : BitVec 13) : Option Context :=
  let c := s.cx
  let start := s.seqAfter s.cur.core c c.ip
  let fin := BitVec.ofNat 14 (c.ip.toNat / 8192 * 8192 + endpos.toNat)
  let nest := popFrom' c.loops t
  if 2 ^ 32 ≤ count.toNat then none
  else if ipPos fin < ipPos start then none
  else if c.redir ≠ [] then none
  else
    let inside := match innermost nest with
      | none => true
      | some e => (nest[e]?.getD Loop.idle).holds start && (nest[e]?.getD Loop.idle).holds fin
    if !inside then none
    else if count = 0 then some { c with loopOp := some (t, none), skip := some fin }
    else
      let depth := (nest.toList.filter (·.act)).length
      some { c with loopOp := some (t, some
        ⟨start, fin, true, BitVec.ofNat 2 depth, count.setWidth 32, Vector.replicate 6 0, Vector.replicate 6 0⟩) }

/-- 10 R264. -/
def execLoop (p : Pred) (lx : BitVec 4) (a : BitVec 6) (endp : BitVec 13) (s : State) : Result :=
  finish (runSlot p [.s a] noBlock fun s =>
    match s.loopSetup lx.toNat (s.cx.rs a) endp with
    | none => .error (s.trapHere 6 0 0)
    | some c => .ok (s.setCx c)) s

/-- 10 R265. -/
def execLbrk (p : Pred) (lx : BitVec 4) (s : State) : Result :=
  finish (runSlot p [] noBlock fun s => .ok (s.setCx { s.cx with loopOp := some (lx.toNat, none) })) s

/-! Votes and FMT. -/

/-- 10 R271. -/
def execVany (p : Pred) (pd ps : BitVec 5) (s : State) : Result :=
  finish (runSlot p [.p ps] noBlock fun s => .ok (s.landP .pred pd (boolWord (s.cx.rp ps != 0)))) s

/-- 10 R271. -/
def execVall (p : Pred) (pd ps : BitVec 5) (s : State) : Result :=
  finish (runSlot p [.p ps] noBlock fun s => .ok (s.landP .pred pd (boolWord (s.cx.rp ps == 0xFFFFFFFFFFFFFFFF)))) s

/-- FMT as it will stand once every pending write of it has landed (10 R273). -/
def Context.fmtLast (c : Context) : BitVec 6 :=
  c.landing.foldl (fun f e => if e.reg = .fmt then e.val.setWidth 6 else f) c.fmt

/-- FMT := (F AND NOT MASK) OR (V AND MASK) at n + 4 (03 R96, 10 R273). -/
def State.setFmt (s : State) (v mask : BitVec 6) : State :=
  s.landF .setfmt .fmt (((s.cx.fmtLast &&& ~~~mask) ||| (v &&& mask)).setWidth 2048) 0 0 0

/-- DEDUCED, log entry 19. -/
def execSetfmt (p : Pred) (val mask : BitVec 6) (s : State) : Result :=
  finish (runSlot p [] noBlock fun s => .ok (s.setFmt val mask)) s

def execSetfmtScalar (p : Pred) (a mask : BitVec 6) (s : State) : Result :=
  finish (runSlot p [.s a] noBlock fun s => .ok (s.setFmt ((s.cx.rs a).setWidth 6) mask)) s

/-! FENCE.I, PMARK. -/

/-- 10 R272: the validation is queued, and p[PD] stays overdue until it ends. -/
def execFenceI (p : Pred) (pd : BitVec 5) (bank : BitVec 2) (s : State) : Result :=
  finish (runSlot p [] noBlock fun s =>
    if bank = 2 ∧ !s.cx.svc then .error (s.trapHere 19 0 0)
    else
      let s' := s.landLat (s.latency .pred) false (.p pd) 0 0 0 0
      .ok (s'.setCo { s'.co with fences := s'.co.fences ++ [⟨s.cur.ctx, pd, bank, false, s.cx.ic⟩] })) s

/-- 10 R276. DEDUCED, log entry 19. -/
def execPmark (p : Pred) (marker : BitVec 16) (s : State) : Result :=
  finish (runSlot p [] noBlock fun s => .ok (s.landF .salu (.sys 0x005) (marker.setWidth 2048) 0 0 0)) s

/-! Instructions that end their bundle themselves. -/

/-- Whether the boundary after this bundle rolls the context's region back (15 R412). -/
def State.rollsBack (s : State) : Bool :=
  let c := s.afterIssue s.cur.core s.cur.ctx s.isLiteral
  c.catches 34 && ((dueSplit [] c.landing).1.any (fun e => (e.cki &&& ckiPOISON) != 0) || (c.ckiSet &&& ckiPOISON) != 0)

/-- The state after the bundle of a YIELD: the end of a drain stub (15 R419), or a context passed over once
(10 R274). -/
def Context.afterYield (c : Context) : Context :=
  if c.drain then
    if c.preq then { c with st := .halted, saved := true, preq := false }
    else { c with ip := c.dip, drain := false, stubLen := 0, diverted := false }
  else { c with st := .blocked, bcause := 11 }

/-- Where the boundary after the bundle rolls back, fetch goes on at the handler, whatever the YIELD names (15 R426).
DEDUCED, log entry 18. -/
def execYield (p : Pred) (s : State) : Result :=
  finish (runSlot p [] noBlock fun s =>
    match s.endBundle with
    | .error e => .error e
    | .ok s' =>
      let y := s'.cx.afterYield
      .ok { s'.setCx (if s.rollsBack then { y with ip := s'.cx.ip } else y) with ended := true }) s

/-- The task has ended: nothing pending lands any more (10 R275). `trapped` marks an end by the handler (15 R429). -/
def Context.afterExit (c : Context) : Context :=
  { c with
    landing := [], redir := [], skip := none, region := none, exiting := true, trapped := c.svc, st := .blocked, bcause := 12 }

def execExit (p : Pred) (s : State) : Result :=
  finish (runSlot p [] noBlock fun s =>
    match s.endBundle with
    | .error e => .error e
    | .ok s' => .ok { s'.setCx s'.cx.afterExit with ended := true }) s

/-- A stub that may not go on: its trap while PREQ is set (15 R420). -/
def Context.stubEnds (c : Context) : Bool := c.drain && c.preq && !c.svc

/-- 15 R428: the bundle issues, then code 48 is taken; in service mode the context halts and IP stays at the TRAP (15 R406).
In a stub that a pre-emption waits for, the trap is cut off at the bundle, which is attempted again after the restore
(15 R420). Where the boundary after the bundle rolls back, the trap is taken behind the rollback. DEDUCED, log entry 18. -/
def execTrap (p : Pred) (val : BitVec 16) (s : State) : Result :=
  finish (runSlot p [] noBlock fun s =>
    if s.cx.stubEnds then .error (s.trapHere 48 0 0)
    else match s.endBundle with
    | .error e => .error e
    | .ok s' =>
      let t := s'.takeTrap s.cur.core s.cur.ctx ⟨48, 0, 7, 0, 0, 0, val⟩
      .ok { (if s.cx.svc then t.setCx { t.cx with ip := s.cx.ip } else t) with ended := true }) s

/-- Every write still pending from the handler lands at once, in landing order (15 R429); those due at this boundary land
before what a CTXRSTR of the bundle restores (15 R433). -/
def State.landAll (s : State) (core : Nat) (i : BitVec 2) : State :=
  let c := s.ctxAt core i
  let now := c.landing.filter fun e => e.left = 0
  let later := c.landing.filter fun e => e.left ≠ 0
  let s' := (s.setCtxAt core i { c with landing := [], cki := c.cki &&& ~~~c.ckiClr, ckiClr := 0 }).applyAll core i now
  let s' := (s'.applyRestore core i).applyAll core i later
  s'.setCtxAt core i ((s'.ctxAt core i).orFlags c.landing).orSet

/-- 15 R429. -/
def execEret (p : Pred) (s : State) : Result :=
  finish (runSlot p [] noBlock fun s =>
    if !s.cx.svc then .error (s.trapHere 19 0 0)
    else
      let n := s.cur.core
      let c := s.afterIssue n s.cur.ctx s.isLiteral
      if c.landing.any (fun e => !e.ready) then .error .stall
      else
        let k := s.core n
        let s' := (s.setCore n ({ k with bundles := k.bundles + 1 }.setCtx s.cur.ctx c)).landAll n s.cur.ctx
        .ok { s'.setCx s'.cx.leaveService with ended := true }) s

/-! Containment regions and CHKERR. -/

/-- 15 R424. -/
def execCrgnOpen (p : Pred) (bt mask : BitVec 4) (s : State) : Result :=
  finish (runSlot p [.b (bt.setWidth 3)] noBlock fun s =>
    let c := s.cx
    .ok (s.setCx { c with
      regionOp := some (some ⟨c.rb (bt.setWidth 3), mask, c.s, token s.co.log.phase s.co.log.tail⟩) })) s

/-- 15 R427. -/
def execCrgnClose (p : Pred) (s : State) : Result :=
  finish (runSlot p [] noBlock fun s => .ok (s.setCx { s.cx with regionOp := some none })) s

/-- 15 R430. -/
def execChkerr (p : Pred) (a : BitVec 6) (pd : BitVec 5) (mask : BitVec 11) (s : State) : Result :=
  finish (runSlot p [] noBlock fun s =>
    let v := s.cx.cki
    let s' := (s.landS .salu a (v.setWidth 64)).landP .pred pd (boolWord ((v &&& mask) != 0))
    .ok (s'.setCx { s'.cx with ckiClr := v &&& mask })) s

end Sys2Proof.Machine
end

