-- ==== Sys2Proof/Machine/Scalar.lean ====
section
/-! DEFINITION. Scalar integer, floating-point, predicate and system instructions of slots 1 and 2 (04 R98-R112). -/

namespace Sys2Proof.Machine

/-! Shared shapes. -/

/-- One scalar source: s[D] := put(T, f T s[A]) (04 R100). -/
def scalar1 (cls : LatClass) (f : Nat → Word → Int) (p : Pred) (d a : BitVec 6) (t : BitVec 4) : State → Result :=
  finish (runSlot p [.s a] noBlock fun s =>
    .ok (s.landS cls d (putT t.toNat (f t.toNat (s.cx.rs a)))))

/-- Two scalar sources: s[D] := put(T, f T s[A] s[B]). -/
def scalar2 (cls : LatClass) (f : Nat → Word → Word → Int) (p : Pred) (d a b : BitVec 6) (t : BitVec 4) :
    State → Result :=
  finish (runSlot p [.s a, .s b] noBlock fun s =>
    .ok (s.landS cls d (putT t.toNat (f t.toNat (s.cx.rs a) (s.cx.rs b)))))

/-- A scalar source and the sign-extended IMM32 (04 R105). -/
def scalarImm (f : Nat → Word → Word → Int) (p : Pred) (d a : BitVec 6) (t : BitVec 4) (imm : BitVec 32) :
    State → Result :=
  finish (runSlot p [.s a] noBlock fun s =>
    .ok (s.landS .salu d (putT t.toNat (f t.toNat (s.cx.rs a) (imm.signExtend 64)))))

/-- A predicate written all ones or all zeros (04 R101). -/
def scalarPred (f : Word → Word → Bool) (p : Pred) (d : BitVec 6) (a b : BitVec 6) : State → Result :=
  finish (runSlot p [.s a, .s b] noBlock fun s =>
    .ok (s.landP .pred (d.setWidth 5) (boolWord (f (s.cx.rs a) (s.cx.rs b)))))

/-! Values of 04 R102, R103. -/

def opAdd (t : Nat) (a b : Word) : Int := valT t a.toNat + valT t b.toNat
def opSub (t : Nat) (a b : Word) : Int := valT t a.toNat - valT t b.toNat
def opAnd (_ : Nat) (a b : Word) : Int := ((a &&& b).toNat : Int)
def opOr (_ : Nat) (a b : Word) : Int := ((a ||| b).toNat : Int)
def opXor (_ : Nat) (a b : Word) : Int := ((a ^^^ b).toNat : Int)
def opAndn (_ : Nat) (a b : Word) : Int := ((a &&& ~~~b).toNat : Int)

/-- The w(T)-bit pattern of a register. -/
def pat (t : Nat) (a : Word) : Nat := a.toNat % 2 ^ typeWidth t

/-- The shift count b mod w(T). -/
def shCount (t : Nat) (b : Word) : Nat := b.toNat % typeWidth t

def opShl (t : Nat) (a b : Word) : Int := valT t a.toNat * (2 ^ shCount t b : Nat)
def opShr (t : Nat) (a b : Word) : Int := (pat t a / 2 ^ shCount t b : Nat)
def opShra (t : Nat) (a b : Word) : Int := valT t a.toNat / (2 ^ shCount t b : Nat)
def opRotl (t : Nat) (a b : Word) : Int :=
  let n := shCount t b
  (pat t a * 2 ^ n % 2 ^ typeWidth t + pat t a / 2 ^ (typeWidth t - n) : Nat)
def opMin (t : Nat) (a b : Word) : Int := min (valT t a.toNat) (valT t b.toNat)
def opMax (t : Nat) (a b : Word) : Int := max (valT t a.toNat) (valT t b.toNat)
def opMul (t : Nat) (a b : Word) : Int := valT t a.toNat * valT t b.toNat
def opMulh (t : Nat) (a b : Word) : Int := valT t a.toNat * valT t b.toNat / (2 ^ typeWidth t : Nat)

/-- Quotient and remainder toward zero; no divisor traps (04 R103). -/
def divRem (t : Nat) (a b : Int) : Int × Int :=
  if b = 0 then (if signedT t then -1 else (2 ^ typeWidth t : Nat) - 1, a)
  else if signedT t ∧ a = -(2 ^ (typeWidth t - 1) : Nat) ∧ b = -1 then (-(2 ^ (typeWidth t - 1) : Nat), 0)
  else (Int.tdiv a b, a - Int.tdiv a b * b)

def opDiv (t : Nat) (a b : Word) : Int := (divRem t (valT t a.toNat) (valT t b.toNat)).1
def opRem (t : Nat) (a b : Word) : Int := (divRem t (valT t a.toNat) (valT t b.toNat)).2

/-- Leading zero bits of the low w bits, from the top down. -/
def clzFrom (x : Nat) : Nat → Nat
  | 0 => 0
  | n + 1 => if x.testBit n then 0 else 1 + clzFrom x n

/-- Trailing zero bits among n bits. -/
def ctzFrom (x : Nat) : Nat → Nat
  | 0 => 0
  | n + 1 => if x % 2 = 1 then 0 else 1 + ctzFrom (x / 2) n

/-- Set bits among the low n. -/
def popFrom (x : Nat) : Nat → Nat
  | 0 => 0
  | n + 1 => x % 2 + popFrom (x / 2) n

def opClz (t : Nat) (a : Word) : Int := (clzFrom (pat t a) (typeWidth t) : Nat)
def opCtz (t : Nat) (a : Word) : Int := (ctzFrom (pat t a) (typeWidth t) : Nat)
def opPopc (t : Nat) (a : Word) : Int := (popFrom (pat t a) (typeWidth t) : Nat)
def opVal (t : Nat) (a : Word) : Int := valT t a.toNat

/-! Instructions in format A (04 R102-R104). -/

def execAdd (p : Pred) (d a b : BitVec 6) (t : BitVec 4) (s : State) : Result := scalar2 .salu opAdd p d a b t s
def execSub (p : Pred) (d a b : BitVec 6) (t : BitVec 4) (s : State) : Result := scalar2 .salu opSub p d a b t s
def execAnd (p : Pred) (d a b : BitVec 6) (t : BitVec 4) (s : State) : Result := scalar2 .salu opAnd p d a b t s
def execOr (p : Pred) (d a b : BitVec 6) (t : BitVec 4) (s : State) : Result := scalar2 .salu opOr p d a b t s
def execXor (p : Pred) (d a b : BitVec 6) (t : BitVec 4) (s : State) : Result := scalar2 .salu opXor p d a b t s
def execAndn (p : Pred) (d a b : BitVec 6) (t : BitVec 4) (s : State) : Result := scalar2 .salu opAndn p d a b t s
def execShl (p : Pred) (d a b : BitVec 6) (t : BitVec 4) (s : State) : Result := scalar2 .salu opShl p d a b t s
def execShr (p : Pred) (d a b : BitVec 6) (t : BitVec 4) (s : State) : Result := scalar2 .salu opShr p d a b t s
def execShra (p : Pred) (d a b : BitVec 6) (t : BitVec 4) (s : State) : Result := scalar2 .salu opShra p d a b t s
def execRotl (p : Pred) (d a b : BitVec 6) (t : BitVec 4) (s : State) : Result := scalar2 .salu opRotl p d a b t s
def execMin (p : Pred) (d a b : BitVec 6) (t : BitVec 4) (s : State) : Result := scalar2 .salu opMin p d a b t s
def execMax (p : Pred) (d a b : BitVec 6) (t : BitVec 4) (s : State) : Result := scalar2 .salu opMax p d a b t s
def execMul (p : Pred) (d a b : BitVec 6) (t : BitVec 4) (s : State) : Result := scalar2 .smul opMul p d a b t s
def execMulh (p : Pred) (d a b : BitVec 6) (t : BitVec 4) (s : State) : Result := scalar2 .smul opMulh p d a b t s
def execDiv (p : Pred) (d a b : BitVec 6) (t : BitVec 4) (s : State) : Result := scalar2 .sdiv opDiv p d a b t s
def execRem (p : Pred) (d a b : BitVec 6) (t : BitVec 4) (s : State) : Result := scalar2 .sdiv opRem p d a b t s
def execClz (p : Pred) (d a : BitVec 6) (t : BitVec 4) (s : State) : Result := scalar1 .salu opClz p d a t s
def execCtz (p : Pred) (d a : BitVec 6) (t : BitVec 4) (s : State) : Result := scalar1 .salu opCtz p d a t s
def execPopc (p : Pred) (d a : BitVec 6) (t : BitVec 4) (s : State) : Result := scalar1 .salu opPopc p d a t s
def execSext (p : Pred) (d a : BitVec 6) (t : BitVec 4) (s : State) : Result := scalar1 .salu opVal p d a t s
def execZext (p : Pred) (d a : BitVec 6) (t : BitVec 4) (s : State) : Result := scalar1 .salu opVal p d a t s

/-- a + b × 2^k (04 R102). -/
def execAddsh (p : Pred) (d a b : BitVec 6) (k : BitVec 8) (t : BitVec 4) (s : State) : Result :=
  scalar2 .salu (fun t x y => valT t x.toNat + valT t y.toNat * (2 ^ k.toNat : Nat)) p d a b t s

/-- s[A] if bit 0 of p[C] is 1, else s[B] (04 R102). -/
def execSel (p : Pred) (d a b c : BitVec 6) (s : State) : Result :=
  finish (runSlot p [.s a, .s b, .p (c.setWidth 5)] noBlock fun s =>
    .ok (s.landS .salu d (if (s.cx.rp (c.setWidth 5)).getLsbD 0 then s.cx.rs a else s.cx.rs b))) s

/-- Predicate D := a cond b (04 R104). -/
def execCmp (p : Pred) (d a b : BitVec 6) (cond : BitVec 8) (t : BitVec 4) (s : State) : Result :=
  scalarPred (fun x y => condInt cond.toNat (valT t.toNat x.toNat) (valT t.toNat y.toNat)) p d a b s

/-! Immediate forms (04 R105). -/

def execAddi (p : Pred) (d a : BitVec 6) (t : BitVec 4) (imm : BitVec 32) (s : State) : Result :=
  scalarImm opAdd p d a t imm s
def execAndi (p : Pred) (d a : BitVec 6) (t : BitVec 4) (imm : BitVec 32) (s : State) : Result :=
  scalarImm opAnd p d a t imm s
def execOri (p : Pred) (d a : BitVec 6) (t : BitVec 4) (imm : BitVec 32) (s : State) : Result :=
  scalarImm opOr p d a t imm s
def execXori (p : Pred) (d a : BitVec 6) (t : BitVec 4) (imm : BitVec 32) (s : State) : Result :=
  scalarImm opXor p d a t imm s
def execShli (p : Pred) (d a : BitVec 6) (t : BitVec 4) (imm : BitVec 32) (s : State) : Result :=
  scalarImm (fun t x _ => opShl t x (imm.setWidth 64)) p d a t imm s
def execShri (p : Pred) (d a : BitVec 6) (t : BitVec 4) (imm : BitVec 32) (s : State) : Result :=
  scalarImm (fun t x _ => opShr t x (imm.setWidth 64)) p d a t imm s
def execShrai (p : Pred) (d a : BitVec 6) (t : BitVec 4) (imm : BitVec 32) (s : State) : Result :=
  scalarImm (fun t x _ => opShra t x (imm.setWidth 64)) p d a t imm s

/-- y := val(sext(IMM32), T) (04 R105). -/
def execMovi (p : Pred) (d : BitVec 6) (t : BitVec 4) (imm : BitVec 32) (s : State) : Result :=
  finish (runSlot p [] noBlock fun s =>
    .ok (s.landS .salu d (putT t.toNat (valT t.toNat (imm.signExtend 64).toNat)))) s

/-- The low half of s[A] under IMM32 × 2^32 (04 R105). -/
def execMovhi (p : Pred) (d a : BitVec 6) (imm : BitVec 32) (s : State) : Result :=
  finish (runSlot p [.s a] noBlock fun s =>
    .ok (s.landS .salu d ((s.cx.rs a &&& 0xFFFFFFFF) ||| (imm.setWidth 64 <<< 32)))) s

def execCmpi (p : Pred) (d a : BitVec 6) (cond : BitVec 4) (t : BitVec 4) (imm : BitVec 32) (s : State) : Result :=
  finish (runSlot p [.s a] noBlock fun s =>
    .ok (s.landP .pred (d.setWidth 5) (boolWord
      (condInt cond.toNat (valT t.toNat (s.cx.rs a).toNat) (valT t.toNat (imm.signExtend 64).toNat))))) s

/-! Floating point (04 R106-R110). -/

/-- A floating-point result in the low bits, higher bits 0, its flags landing with it (03 R80, R94). -/
def State.landFp (s : State) (cls : LatClass) (d : BitVec 6) (r : Nat × Flag5) : State :=
  s.landF cls (.s d) (BitVec.ofNat 2048 r.1) 0 r.2 0

def scalarFp (f : Fmt → BitVec 6 → Nat → Nat → Nat × Flag5) (p : Pred) (d a b : BitVec 6) (t : BitVec 4) :
    State → Result :=
  finish (runSlot p [.s a, .s b] noBlock fun s =>
    .ok (s.landFp .smul d (f (fmtOf t.toNat) s.cx.fmt (s.cx.rs a).toNat (s.cx.rs b).toNat)))

def execFadd (p : Pred) (d a b : BitVec 6) (t : BitVec 4) (s : State) : Result := scalarFp fAdd p d a b t s
def execFsub (p : Pred) (d a b : BitVec 6) (t : BitVec 4) (s : State) : Result := scalarFp fSub p d a b t s
def execFmul (p : Pred) (d a b : BitVec 6) (t : BitVec 4) (s : State) : Result := scalarFp fMul p d a b t s

def execFfma (p : Pred) (d a b c : BitVec 6) (t : BitVec 4) (s : State) : Result :=
  finish (runSlot p [.s a, .s b, .s c] noBlock fun s =>
    .ok (s.landFp .smul d (fFma (fmtOf t.toNat) s.cx.fmt (s.cx.rs a).toNat (s.cx.rs b).toNat (s.cx.rs c).toNat))) s

/-- 04 R107: no rounding, no flag. -/
def scalarMinMax (wantMax : Bool) (p : Pred) (d a b : BitVec 6) (num : BitVec 8) (t : BitVec 4) : State → Result :=
  finish (runSlot p [.s a, .s b] noBlock fun s =>
    .ok (s.landFp .salu d
      (fMinMax (fmtOf t.toNat) (num == 1) wantMax (s.cx.rs a).toNat (s.cx.rs b).toNat, 0)))

def execFmin (p : Pred) (d a b : BitVec 6) (num : BitVec 8) (t : BitVec 4) (s : State) : Result :=
  scalarMinMax false p d a b num t s
def execFmax (p : Pred) (d a b : BitVec 6) (num : BitVec 8) (t : BitVec 4) (s : State) : Result :=
  scalarMinMax true p d a b num t s

def execFcmp (p : Pred) (d a b : BitVec 6) (cond : BitVec 8) (t : BitVec 4) (s : State) : Result :=
  scalarPred (fun x y => condFloat (fmtOf t.toNat) cond.toNat x.toNat y.toNat) p d a b s

/-- The scalar that a conversion writes (04 R109, 03 R80). -/
def fcvtWord (td : Nat) (r : Nat) : Word :=
  if td = 13 ∨ isFloatT td then BitVec.ofNat 64 r else putT td (valT td r)

def execFcvt (p : Pred) (d a : BitVec 6) (ts : BitVec 4) (td : BitVec 4) (s : State) : Result :=
  finish (runSlot p [.s a] noBlock fun s =>
    let (r, fl, rsv) := convert ts.toNat td.toNat s.cx.fmt (s.cx.rs a).toNat
    .ok (s.landF .smul (.s d) ((fcvtWord td.toNat r).setWidth 2048) 0 fl (if rsv then ckiT2RSV else 0))) s

def execFclass (p : Pred) (d a : BitVec 6) (t : BitVec 4) (s : State) : Result :=
  finish (runSlot p [.s a] noBlock fun s =>
    .ok (s.landS .salu d (BitVec.ofNat 64 (fClass (fmtOf t.toNat) (s.cx.rs a).toNat)))) s

/-! Predicates (04 R111). -/

def pred2 (f : Word → Word → Word) (p : Pred) (d a b : BitVec 6) : State → Result :=
  finish (runSlot p [.p (a.setWidth 5), .p (b.setWidth 5)] noBlock fun s =>
    .ok (s.landP .pred (d.setWidth 5) (f (s.cx.rp (a.setWidth 5)) (s.cx.rp (b.setWidth 5)))))

def execPand (p : Pred) (d a b : BitVec 6) (s : State) : Result := pred2 (fun x y => x &&& y) p d a b s
def execPor (p : Pred) (d a b : BitVec 6) (s : State) : Result := pred2 (fun x y => x ||| y) p d a b s
def execPxor (p : Pred) (d a b : BitVec 6) (s : State) : Result := pred2 (fun x y => x ^^^ y) p d a b s
def execPandn (p : Pred) (d a b : BitVec 6) (s : State) : Result := pred2 (fun x y => x &&& ~~~y) p d a b s

def predToScalar (f : Word → Word) (p : Pred) (d a : BitVec 6) : State → Result :=
  finish (runSlot p [.p (a.setWidth 5)] noBlock fun s =>
    .ok (s.landS .salu d (f (s.cx.rp (a.setWidth 5)))))

def execPcnt (p : Pred) (d a : BitVec 6) (s : State) : Result :=
  predToScalar (fun x => BitVec.ofNat 64 (popFrom x.toNat 64)) p d a s
def execPfirst (p : Pred) (d a : BitVec 6) (s : State) : Result :=
  predToScalar (fun x => BitVec.ofNat 64 (ctzFrom x.toNat 64)) p d a s
def execMovsp (p : Pred) (d a : BitVec 6) (s : State) : Result := predToScalar (fun x => x) p d a s

def execMovps (p : Pred) (d a : BitVec 6) (s : State) : Result :=
  finish (runSlot p [.s a] noBlock fun s => .ok (s.landP .pred (d.setWidth 5) (s.cx.rs a))) s

/-! System moves (04 R112, 15 R407, R408). -/

/-- DESIGN CHOICE, log entry 21. -/
def execMovsys (p : Pred) (d : BitVec 6) (num : BitVec 32) (s : State) : Result :=
  finish (runSlot p [] noBlock fun s =>
    match sysInfo s.onControl num.toNat with
    | none => .error (s.trapHere 20 0 0)
    | some i =>
      if i.readSvc ∧ !s.cx.svc then .error (s.trapHere 19 0 0)
      else
        let s := if num = 0x120 then s.tickCcyc s.cur.core else if num = 0x036 then s.pollTlbi s.myPart else s
        .ok (s.landS .sysrd d (s.sysRead num.toNat))) s

def execSetsys (p : Pred) (a : BitVec 6) (num : BitVec 32) (s : State) : Result :=
  finish (runSlot p [.s a] noBlock fun s =>
    match sysInfo s.onControl num.toNat with
    | none => .error (s.trapHere 20 0 0)
    | some i =>
      match i.write with
      | .ro => .error (s.trapHere 20 0 0)
      | .service =>
        if s.cx.svc then .ok (s.landF .salu (.sys (num.setWidth 12)) ((s.cx.rs a).setWidth 2048) 0 0 0)
        else .error (s.trapHere 19 0 0)
      | .any => .ok (s.landF .salu (.sys (num.setWidth 12)) ((s.cx.rs a).setWidth 2048) 0 0 0)) s

end Sys2Proof.Machine
end

