-- ==== Sys2Proof/Machine/Vector.lean ====
section
/-! DEFINITION. Vector instructions of slots 3 and 4 that touch registers and streams alone (04 R113-R133). -/

namespace Sys2Proof.Machine

/-! Shared shapes: one, two or three row sources, an element function that gives a value and its flags. -/

def vec1 (cls : LatClass) (w : Nat) (f : BitVec 6 → Nat → Nat × Flag5) (p : Pred) (d a : BitVec 6) : State → Result :=
  finish (runVec p [a] [] (some d) none maskKeeps noBlock fun m vs s =>
    .ok (s.landElems cls d w (elemOn m w) (fun j => f s.cx.fmt (elem (vs.getD 0 0) w j)) 0))

def vec2 (cls : LatClass) (w : Nat) (f : BitVec 6 → Nat → Nat → Nat × Flag5) (p : Pred) (d a b : BitVec 6) :
    State → Result :=
  finish (runVec p [a, b] [] (some d) none maskKeeps noBlock fun m vs s =>
    .ok (s.landElems cls d w (elemOn m w)
      (fun j => f s.cx.fmt (elem (vs.getD 0 0) w j) (elem (vs.getD 1 0) w j)) 0))

def vec3 (cls : LatClass) (w : Nat) (f : BitVec 6 → Nat → Nat → Nat → Nat × Flag5) (p : Pred) (d a b c : BitVec 6) :
    State → Result :=
  finish (runVec p [a, b, c] [] (some d) none maskKeeps noBlock fun m vs s =>
    .ok (s.landElems cls d w (elemOn m w)
      (fun j => f s.cx.fmt (elem (vs.getD 0 0) w j) (elem (vs.getD 1 0) w j) (elem (vs.getD 2 0) w j)) 0))

/-- An integer element function of type T: operands read as T, the exact result wrapped (04 R118). -/
def vint (t : Nat) (f : Int → Int → Int) (_ : BitVec 6) (x y : Nat) : Nat × Flag5 :=
  (lowBits (typeWidth t) (f (valT t x) (valT t y)), 0)

/-- The same with the result saturated to the range of T (04 R119). -/
def vintSat (t : Nat) (sat : Bool) (f : Int → Int → Int) (_ : BitVec 6) (x y : Nat) : Nat × Flag5 :=
  let y := f (valT t x) (valT t y)
  (lowBits (typeWidth t) (if sat then (saturate t y).1 else y), 0)

/-! Integer arithmetic (04 R118). -/

def execVadd (p : Pred) (d a b : BitVec 6) (sat : BitVec 8) (t : BitVec 4) (s : State) : Result :=
  vec2 .valu (typeWidth t.toNat) (vintSat t.toNat (sat == 1) (· + ·)) p d a b s
def execVsub (p : Pred) (d a b : BitVec 6) (sat : BitVec 8) (t : BitVec 4) (s : State) : Result :=
  vec2 .valu (typeWidth t.toNat) (vintSat t.toNat (sat == 1) (· - ·)) p d a b s
def execVmul (p : Pred) (d a b : BitVec 6) (t : BitVec 4) (s : State) : Result :=
  vec2 .vfma (typeWidth t.toNat) (vint t.toNat (· * ·)) p d a b s
def execVmulh (p : Pred) (d a b : BitVec 6) (t : BitVec 4) (s : State) : Result :=
  vec2 .vfma (typeWidth t.toNat) (vint t.toNat fun x y => x * y / (2 ^ typeWidth t.toNat : Nat)) p d a b s
def execVand (p : Pred) (d a b : BitVec 6) (s : State) : Result := vec2 .valu 32 (fun _ x y => (x &&& y, 0)) p d a b s
def execVor (p : Pred) (d a b : BitVec 6) (s : State) : Result := vec2 .valu 32 (fun _ x y => (x ||| y, 0)) p d a b s
def execVxor (p : Pred) (d a b : BitVec 6) (s : State) : Result := vec2 .valu 32 (fun _ x y => (x ^^^ y, 0)) p d a b s
def execVshl (p : Pred) (d a b : BitVec 6) (t : BitVec 4) (s : State) : Result :=
  vec2 .valu (typeWidth t.toNat) (fun _ x y => (x * 2 ^ (y % typeWidth t.toNat) % 2 ^ typeWidth t.toNat, 0)) p d a b s
def execVshr (p : Pred) (d a b : BitVec 6) (t : BitVec 4) (s : State) : Result :=
  vec2 .valu (typeWidth t.toNat) (fun _ x y => (x / 2 ^ (y % typeWidth t.toNat), 0)) p d a b s
def execVshra (p : Pred) (d a b : BitVec 6) (t : BitVec 4) (s : State) : Result :=
  vec2 .valu (typeWidth t.toNat) (fun _ x y =>
    (lowBits (typeWidth t.toNat) (valT t.toNat x / (2 ^ (y % typeWidth t.toNat) : Nat)), 0)) p d a b s
def execVmin (p : Pred) (d a b : BitVec 6) (t : BitVec 4) (s : State) : Result :=
  vec2 .valu (typeWidth t.toNat) (vint t.toNat min) p d a b s
def execVmax (p : Pred) (d a b : BitVec 6) (t : BitVec 4) (s : State) : Result :=
  vec2 .valu (typeWidth t.toNat) (vint t.toNat max) p d a b s
def execVabs (p : Pred) (d a : BitVec 6) (sat : BitVec 8) (t : BitVec 4) (s : State) : Result :=
  vec1 .valu (typeWidth t.toNat) (fun fm x =>
    vintSat t.toNat (sat == 1) (fun u _ => if u < 0 then -u else u) fm x x) p d a s

/-- Bit j of p[D] := truth in lane j; inactive bits keep their old value (04 R118). -/
def vecBits (f : Nat → Nat → Bool) (p : Pred) (d a b : BitVec 6) : State → Result :=
  finish (runVec p [a, b] [] none (some (d.setWidth 5)) maskKeeps noBlock fun m vs s =>
    .ok (s.landBits .valu (d.setWidth 5) m fun j => f (elem (vs.getD 0 0) 32 j) (elem (vs.getD 1 0) 32 j)))

def execVcmp (p : Pred) (d a b : BitVec 6) (cond : BitVec 8) (t : BitVec 4) (s : State) : Result :=
  vecBits (fun x y => condInt cond.toNat (valT t.toNat x) (valT t.toNat y)) p d a b s
def execVfcmp (p : Pred) (d a b : BitVec 6) (cond : BitVec 8) (s : State) : Result :=
  vecBits (fun x y => condFloat fp32 cond.toNat x y) p d a b s

/-- Lane j of A where bit j of p[C] is 1, else of B (04 R118). -/
def execVsel (p : Pred) (d a b c : BitVec 6) (s : State) : Result :=
  finish (runVec p [a, b] [.p (c.setWidth 5)] (some d) none maskKeeps noBlock fun m vs s =>
    .ok (s.landLanes .valu d m fun i =>
      if laneOn (s.cx.rp (c.setWidth 5)) i then lane (vs.getD 0 0) i else lane (vs.getD 1 0) i)) s

/-- Four products of 8-bit elements added to a lane (04 R120). -/
def dot4 (t : Nat) (sat : Bool) (x y z : Nat) : Nat :=
  let tw := if t = 0 then 4 else 5
  let pr (k : Nat) : Int := valT t (fld x (8 * k) 8) * valT t (fld y (8 * k) 8)
  let sum := valT tw z + pr 0 + pr 1 + pr 2 + pr 3
  lowBits 32 (if sat then (saturate tw sum).1 else sum)

def execVdot4 (p : Pred) (d a b c : BitVec 6) (sat : BitVec 8) (t : BitVec 4) (s : State) : Result :=
  vec3 .vfma 32 (fun _ x y z => (dot4 t.toNat (sat == 1) x y z, 0)) p d a b c s

/-! Width changes (04 R121, R122). -/

/-- The wide element that narrow element j of a pack comes from: A first, then B. -/
def wideElem (w : Nat) (va vb : VReg) (j : Nat) : Nat :=
  let n := 2048 / (2 * w)
  if j < n then elem va (2 * w) j else elem vb (2 * w) (j - n)

def execVsatn (p : Pred) (d a b : BitVec 6) (uns : BitVec 8) (t : BitVec 4) (s : State) : Result :=
  let w := typeWidth t.toNat
  let wide (x : Nat) : Int := if uns = 1 then (x : Int) else valT (if w = 8 then 2 else 4) x
  finish (runVec p [a, b] [] (some d) none maskKeeps noBlock fun m vs s =>
    .ok (s.landElems .valu d w (elemOn m w) (fun j =>
      (lowBits w (saturate t.toNat (wide (wideElem w (vs.getD 0 0) (vs.getD 1 0) j))).1, 0)) 0)) s

def execVpack (p : Pred) (d a b : BitVec 6) (t : BitVec 4) (s : State) : Result :=
  let w := typeWidth t.toNat
  finish (runVec p [a, b] [] (some d) none maskKeeps noBlock fun m vs s =>
    .ok (s.landElems .valu d w (elemOn m w) (fun j => (wideElem w (vs.getD 0 0) (vs.getD 1 0) j, 0)) 0)) s

def execVwiden (p : Pred) (d a : BitVec 6) (part : BitVec 8) (t : BitVec 4) (s : State) : Result :=
  let w := typeWidth t.toNat
  let n := 2048 / (2 * w)
  finish (runVec p [a] [] (some d) none maskKeeps noBlock fun m vs s =>
    .ok (s.landElems .valu d (2 * w) (elemOn m (2 * w)) (fun j =>
      (lowBits (2 * w) (valT t.toNat (elem (vs.getD 0 0) w (part.toNat * n + j))), 0)) 0)) s

/-- A quarter of T2 elements from bytes, clamped; the other quarters keep their containers (04 R122). -/
def execVpackT2 (p : Pred) (d a : BitVec 6) (part : BitVec 8) (s : State) : Result :=
  finish (runVec p [a] [] (some d) none alwaysKeeps noBlock fun m vs s =>
    .ok (s.landElems .valu d 2
      (fun j => elemOn m 2 j && decide (j / 256 = part.toNat))
      (fun j => clampT2 (valT 0 (elem (vs.getD 0 0) 8 (j % 256)))) 0)) s

/-- Bytes from a quarter of T2 elements; a reserved one gives 0 and sets T2RSV (04 R122). -/
def execVunpack (p : Pred) (d a : BitVec 6) (part : BitVec 8) (s : State) : Result :=
  finish (runVec p [a] [] (some d) none maskKeeps noBlock fun m vs s =>
    let src (j : Nat) : Nat := elem (vs.getD 0 0) 2 (256 * part.toNat + j)
    let rsv := (List.range 256).any fun j => elemOn m 8 j && src j == 2
    .ok (s.landElems .valu d 8 (elemOn m 8) (fun j => (lowBits 8 (t2Val (src j)).1, 0))
      (if rsv then ckiT2RSV else 0))) s

/-! Floating-point arithmetic (04 R123, R124). -/

def vfp2 (f : Fmt → BitVec 6 → Nat → Nat → Nat × Flag5) (p : Pred) (d a b : BitVec 6) (t : BitVec 4) :
    State → Result :=
  vec2 .vfma (typeWidth t.toNat) (fun fm x y => f (fmtOf t.toNat) fm x y) p d a b

def execVfadd (p : Pred) (d a b : BitVec 6) (t : BitVec 4) (s : State) : Result := vfp2 fAdd p d a b t s
def execVfsub (p : Pred) (d a b : BitVec 6) (t : BitVec 4) (s : State) : Result := vfp2 fSub p d a b t s
def execVfmul (p : Pred) (d a b : BitVec 6) (t : BitVec 4) (s : State) : Result := vfp2 fMul p d a b t s
def execVffma (p : Pred) (d a b c : BitVec 6) (t : BitVec 4) (s : State) : Result :=
  vec3 .vfma (typeWidth t.toNat) (fun fm x y z => fFma (fmtOf t.toNat) fm x y z) p d a b c s
def execVfmin (p : Pred) (d a b : BitVec 6) (num : BitVec 8) (t : BitVec 4) (s : State) : Result :=
  vec2 .valu (typeWidth t.toNat) (fun _ x y => (fMinMax (fmtOf t.toNat) (num == 1) false x y, 0)) p d a b s
def execVfmax (p : Pred) (d a b : BitVec 6) (num : BitVec 8) (t : BitVec 4) (s : State) : Result :=
  vec2 .valu (typeWidth t.toNat) (fun _ x y => (fMinMax (fmtOf t.toNat) (num == 1) true x y, 0)) p d a b s

def execVfrcp (p : Pred) (d a : BitVec 6) (s : State) : Result := vec1 .vtrans 32 fRcp p d a s
def execVfrsq (p : Pred) (d a : BitVec 6) (s : State) : Result := vec1 .vtrans 32 fRsq p d a s
def execVfexp2 (p : Pred) (d a : BitVec 6) (s : State) : Result := vec1 .vtrans 32 fExp2 p d a s
def execVflog2 (p : Pred) (d a : BitVec 6) (s : State) : Result := vec1 .vtrans 32 fLog2 p d a s
def execVfclass (p : Pred) (d a : BitVec 6) (s : State) : Result :=
  vec1 .valu 32 (fun _ x => (fClass fp32 x, 0)) p d a s

/-! Conversions (04 R125, R126). -/

/-- Which elements of D a conversion writes, and from which element of A: equal widths all, narrowing the part's share,
widening from the part's share (04 R125). -/
def cvtWrites (ws wd part j : Nat) : Bool :=
  if wd < ws then decide (j / (2048 / ws) = part) else true
def cvtSource (ws wd part j : Nat) : Nat :=
  if wd < ws then j - part * (2048 / ws) else if ws < wd then part * (2048 / wd) + j else j

def vecCvt (ts td part : Nat) (f : State → Nat → Nat × Flag5) (regs : List Reg) (p : Pred) (d a : BitVec 6) :
    State → Result :=
  let ws := typeWidth ts
  let wd := typeWidth td
  finish (runVec p [a] regs (some d) none (if wd < ws then alwaysKeeps else maskKeeps) noBlock fun m vs s =>
    .ok (s.landElems .vfma d wd (fun j => elemOn m wd j && cvtWrites ws wd part j)
      (fun j => f s (elem (vs.getD 0 0) ws (cvtSource ws wd part j))) 0))

def execVfcvt (p : Pred) (d a : BitVec 6) (ts : BitVec 4) (part : BitVec 2) (td : BitVec 4) (s : State) : Result :=
  vecCvt ts.toNat td.toNat part.toNat (fun s x =>
    let (r, fl, _) := convert ts.toNat td.toNat s.cx.fmt x
    (r, fl)) [] p d a s

def execVquant (p : Pred) (d a k : BitVec 6) (part : BitVec 2) (td : BitVec 4) (s : State) : Result :=
  vecCvt 8 td.toNat part.toNat (fun s x => convertScaled 8 td.toNat s.cx.fmt x (s.cx.rk (k.setWidth 3)).toNat)
    [.k (k.setWidth 3)] p d a s

def execVdeq (p : Pred) (d a k : BitVec 6) (ts : BitVec 4) (part : BitVec 2) (s : State) : Result :=
  vecCvt ts.toNat 8 part.toNat (fun s x => convertScaled ts.toNat 8 s.cx.fmt x (s.cx.rk (k.setWidth 3)).toNat)
    [.k (k.setWidth 3)] p d a s

/-! Lane operations (04 R128-R133). -/

/-- The active lanes of a row, in ascending order. -/
def activeLanes (m : Word) (v : VReg) : List Nat :=
  (List.range 64).filterMap fun i => if laneOn m i then some (lane v i).toNat else none

def foldList (f : Nat → Nat → Nat) : List Nat → Nat
  | [] => 0
  | x :: rest => rest.foldl f x

/-- An FP32 encoding with every NaN canonical (03 R76, R85). -/
def canonNaN (x : Nat) : Nat := if fp32.read x = .nan then fp32.nan else x

/-- The value of a reduction over the active lanes (04 R128). -/
def reduceOf (op t : Nat) (fm : BitVec 6) (xs : List Nat) : Nat × Flag5 :=
  let mx (wantMax : Bool) : Nat :=
    if t = 8 then foldList (fMinMax fp32 false wantMax) (xs.map canonNaN)
    else foldList (fun x y => if (decide (valT t x < valT t y)) == wantMax then y else x) xs
  match op with
  | 0 => if t = 8 then fSum fm xs else (xs.foldl (· + ·) 0 % 2 ^ 32, 0)
  | 1 => (mx true, 0)
  | 2 => (mx false, 0)
  | 3 => (foldList (fMinMax fp32 false true) (xs.map fun x => canonNaN (x % 2 ^ 31)), 0)
  | 4 => (xs.foldl (· ||| ·) 0, 0)
  | _ => (xs.foldl (· &&& ·) 0xFFFFFFFF, 0)

/-- Every lane of D takes the value, whatever the mask holds (04 R128). -/
def execVred (p : Pred) (d a : BitVec 6) (op : BitVec 8) (t : BitVec 4) (s : State) : Result :=
  finish (runVec p [a] [] (some d) none neverKeeps noBlock fun m vs s =>
    let (x, fl) := reduceOf op.toNat t.toNat s.cx.fmt (activeLanes m (vs.getD 0 0))
    .ok (s.landRow .vtrans d (ofLanes fun _ => BitVec.ofNat 32 x) fl 0)) s

/-- Lane n of the 128-lane window formed by two rows (04 R129). -/
def window (x y : VReg) (n : Nat) : W32 := if n % 128 < 64 then lane x (n % 128) else lane y (n % 128 - 64)

def execVperm (p : Pred) (d a b c : BitVec 6) (s : State) : Result :=
  finish (runVec p [a, b, c] [] (some d) none maskKeeps noBlock fun m vs s =>
    .ok (s.landLanes .valu d m fun i => window (vs.getD 0 0) (vs.getD 2 0) ((lane (vs.getD 1 0) i).toNat % 128))) s

def execVslide (p : Pred) (d a b : BitVec 6) (n : BitVec 8) (s : State) : Result :=
  finish (runVec p [a, b] [] (some d) none maskKeeps noBlock fun m vs s =>
    .ok (s.landLanes .valu d m fun i =>
      window (vs.getD 0 0) (vs.getD 1 0) (((i : Int) + n.toInt) % 128).toNat)) s

def execVbcast (p : Pred) (d a : BitVec 6) (s : State) : Result :=
  finish (runVec p [] [.s a] (some d) none maskKeeps noBlock fun m _ s =>
    .ok (s.landLanes .movx d m fun _ => (s.cx.rs a).setWidth 32)) s

def execVbcastLane (p : Pred) (d a : BitVec 6) (n : BitVec 6) (s : State) : Result :=
  finish (runVec p [a] [] (some d) none maskKeeps noBlock fun m vs s =>
    .ok (s.landLanes .movx d m fun _ => lane (vs.getD 0 0) n.toNat)) s

def execViota (p : Pred) (d a b : BitVec 6) (s : State) : Result :=
  finish (runVec p [] [.s a, .s b] (some d) none maskKeeps noBlock fun m _ s =>
    .ok (s.landLanes .movx d m fun i => (s.cx.rs a + BitVec.ofNat 64 i * s.cx.rs b).setWidth 32)) s

/-- Whether a lane counts against the threshold (04 R131). -/
def countsGe (t : Nat) (x th : Nat) : Bool :=
  if t = 8 then condFloat fp32 5 x th else decide (valT t th ≤ valT t x)

def execVcountge (p : Pred) (d a b : BitVec 6) (t : BitVec 4) (s : State) : Result :=
  finish (runVec p [a] [.s b] none none maskKeeps noBlock fun m vs s =>
    .ok (s.landS .valu d (BitVec.ofNat 64
      ((activeLanes m (vs.getD 0 0)).filter fun x => countsGe t.toNat x (s.cx.rs b).toNat).length))) s

/-- Active lanes packed to the bottom, zeros above (04 R132). -/
def execVcompress (p : Pred) (d a : BitVec 6) (s : State) : Result :=
  finish (runVec p [a] [] (some d) none neverKeeps noBlock fun m vs s =>
    let xs := activeLanes m (vs.getD 0 0)
    .ok (s.landRow .valu d (ofLanes fun i => BitVec.ofNat 32 (xs.getD i 0)) 0 0)) s

/-- How many lanes below i are active. -/
def activeBelow (m : Word) (i : Nat) : Nat := popFrom (m.toNat % 2 ^ i) 64

def execVexpand (p : Pred) (d a : BitVec 6) (s : State) : Result :=
  finish (runVec p [a] [] (some d) none maskKeeps noBlock fun m vs s =>
    .ok (s.landLanes .valu d m fun i => lane (vs.getD 0 0) (activeBelow m i))) s

/-- One lane into a scalar; no effect when that lane is masked off (04 R133). -/
def execMovvs (p : Pred) (d a : BitVec 6) (n : BitVec 6) (t : BitVec 4) (s : State) : Result :=
  if laneOn (s.mask p) n.toNat then
    finish (runVec p [a] [] none none maskKeeps noBlock fun _ vs s =>
      .ok (s.landS .movx d (if t = 4 then (lane (vs.getD 0 0) n.toNat).signExtend 64
        else (lane (vs.getD 0 0) n.toNat).setWidth 64))) s
  else finish (fun s => (checkReads s (predReads p)).map fun _ => s) s

/-- A scalar into one lane; the other lanes are kept (04 R133). -/
def execMovsv (p : Pred) (d a : BitVec 6) (n : BitVec 6) (s : State) : Result :=
  if laneOn (s.mask p) n.toNat then
    finish (runVec p [] [.s a] (some d) none alwaysKeeps noBlock fun _ _ s =>
      .ok (s.landLanes .movx d (1#64 <<< n.toNat) fun _ => (s.cx.rs a).setWidth 32)) s
  else finish (fun s => (checkReads s (predReads p)).map fun _ => s) s

end Sys2Proof.Machine
end

