-- ==== Sys2Proof/Machine/Memory.lean ====
section
/-! DEFINITION. Loads and stores of slots 2 and 4: local accesses through the locked table, LMS accesses through the log
and the overlay, non-temporal and combining stores (07 R185-R196, 08 R207-R227, 06 R163, R169), and the loads and stores
of a control core (01 R12). -/

namespace Sys2Proof.Machine

/-- The block cause that an act would meet, when no register that decides it is overdue: a stall does not hide a block
(10 R251, R266). -/
def actBlock (reads : List Reg) (act : State → Except Stop State) (s : State) : Option Nat :=
  if reads.any s.cx.overdue then none
  else match act s with
    | .error (.block b) => some b
    | _ => none

/-- `runSlot` for an act that can block. -/
def runAct (p : Pred) (reads : List Reg) (act : State → Except Stop State) : State → Except Stop State :=
  runSlot p reads (actBlock reads act) act

/-- The act of a store, with what its repairs raise. -/
def stored (e : Except Stop State) : Except Stop State :=
  match e with
  | .ok s => .ok s.landRaised
  | .error x => .error x

/-- `runSlot` for a store: its data decides no block. -/
def runStore (p : Pred) (data addr : List Reg) (act : State → Except Stop State) : State → Except Stop State :=
  runSlot p (data ++ addr) (actBlock addr act) fun s => stored (act s)

/-- `runVec` for a store: `idx` are the sources that form addresses; the data decides no block. -/
def runVecStore (p : Pred) (srcs idx : List (BitVec 6)) (regs : List Reg)
    (act : Word → List VReg → State → Except Stop State) (s : State) : Except Stop State :=
  let vals := srcs.map fun f => (s.cx.vsrc f).val
  runVec p srcs regs none none neverKeeps (actBlock (vregsOf idx ++ regs) (act (s.mask p) vals))
    (fun m vs s => stored (act m vs s)) s

/-! One access. -/

/-- A translated access: its virtual address and where it goes. -/
structure Access where
  va  : Word
  loc : Local
deriving DecidableEq, Repr

def xlateMiss (s : State) (cause : Nat) (va : Word) : Stop := s.trapHere 7 cause va
def kindFault (s : State) (va : Word) : Stop := s.trapHere 8 0 va

/-- A scalar or whole-row access translated, or its trap (07 R185). -/
def State.access (s : State) (va : Word) (size align : Nat) (write : Bool) : Except Stop Access :=
  match s.xlate va.toNat size align write with
  | .ok l => .ok ⟨va, l⟩
  | .error c => .error (xlateMiss s c va)

/-- The slice address of an access on the core that makes it. -/
def State.accessPa (s : State) (a : Access) : Nat := sliceBase s.cur.core + a.loc.off

/-- The byte offset of an access within its LMS. -/
def State.accessLms (s : State) (a : Access) : Nat :=
  match s.co.log.declOf a.loc.lms with
  | some d => a.va.toNat - d.base.toNat
  | none => 0

/-! LMS reads and replica rebuild. -/

/-- The word at an LMS offset as some member core of this node holds it unpoisoned: bases are identical (08 R207). -/
def State.localWord (s : State) (core : Nat) (lms : BitVec 12) (off : Nat) (l : List Nat) : Option (List Byte) :=
  l.findSome? fun m =>
    if m = s.node.toNat * 512 + core ∨ m / 512 ≠ s.node.toNat then none
    else match s.lmsPhys (m % 512) lms off with
      | some a => if s.badBytes a 4 then none else some (Mem.bytes s.mem a 4)
      | none => none

/-- The word at an LMS offset from the lowest-indexed other member whose base holds it unpoisoned (08 R225). Whether a
member on another node holds it so is open here, and so is what it then holds where no member of this node tells it.
DESIGN CHOICE, log entry 77. -/
def State.cleanSource (s : State) (core : Nat) (lms : BitVec 12) (off : Nat) : List Nat → Option (List Byte) × State
  | [] => (none, s)
  | m :: rest =>
    if m = s.node.toNat * 512 + core then State.cleanSource s core lms off rest
    else if m / 512 = s.node.toNat then
      match s.lmsPhys (m % 512) lms off with
      | some a => if s.badBytes a 4 then State.cleanSource s core lms off rest else (some (Mem.bytes s.mem a 4), s)
      | none => State.cleanSource s core lms off rest
    else
      match s.choose [true, false] with
      | (some true, s) =>
        match s.localWord core lms off rest with
        | some w => (some w, s)
        | none =>
          let (w, s) := s.draw
          (some (leBytes w.toNat 4), s)
      | (_, s) => State.cleanSource s core lms off rest

/-- A poisoned word of an LMS base rewritten from another member's base (08 R225). -/
def State.rebuildWord (s : State) (core : Nat) (lms : BitVec 12) (off : Nat) : State :=
  match s.lmsPhys core lms off with
  | none => s
  | some a =>
    if !s.badBytes a 4 then s
    else match s.cleanSource core lms off (s.core core).log.members with
      | (none, s) => s
      | (some w, s) =>
        let s' := (s.writePhys a w).logMem 9 1 a
        let k := s'.core core
        s'.setCore core { k with log := { k.log with rebuilt := k.log.rebuilt + 1 } }

/-- Whether base bytes that the overlay does not cover lie outside their good mask (07 R196). -/
def State.baseBad (s : State) (core : Nat) (lms : BitVec 12) (off : Nat) : Nat → Bool
  | 0 => false
  | n + 1 =>
    (!viewHas (s.core core).log.view lms off && (match s.lmsPhys core lms off with
      | some a => s.badByte a
      | none => false)) || State.baseBad s core lms (off + 1) n

/-- Whether a load of LMS bytes consumes poison, of the base or of a view entry (07 R196, 08 R225). -/
def State.lmsBad (s : State) (core : Nat) (lms : BitVec 12) (off n : Nat) : Bool :=
  s.baseBad core lms off n || viewBad (s.core core).log.view lms off n

def State.rebuildEach (s : State) (core : Nat) (lms : BitVec 12) : List Nat → State
  | [] => s
  | w :: rest => State.rebuildEach (s.rebuildWord core lms (4 * w)) core lms rest

/-- Base words rebuilt, and then the granules whose view entry was poisoned (08 R225). -/
def State.rebuildWords (s : State) (core : Nat) (lms : BitVec 12) (ws : List Nat) : State :=
  (s.rebuildEach core lms ws).recomputeBad core

/-- The words that `n` bytes at an offset touch. -/
def wordsOf (off n : Nat) : List Nat := (List.range (n / 4 + 2)).map fun k => off / 4 + k

/-- An entry that combines reads the base where the overlay has nothing: a poisoned word is rebuilt first, and its poison
consumed (08 R225). -/
def State.meetBase (s : State) (core : Nat) (e : LogEntry) : State × Bool :=
  if e.op ≠ 1 ∧ s.lmsBad core e.lms e.off e.bytes then (s.rebuildWords core e.lms (wordsOf e.off e.bytes), true)
  else (s, false)

def State.meetBases (s : State) (core : Nat) : List LogEntry → State × Bool
  | [] => (s, false)
  | e :: rest =>
    let (s, bad) := s.meetBase core e
    let (s, bad') := State.meetBases s core rest
    (s, bad || bad')

/-- The bytes an access reads, whether it consumes poison, and the state after (a rebuild may follow). -/
def State.localRead (s : State) (a : Access) (n : Nat) : Nat × Bool × State :=
  if a.loc.kind = 2 then
    let core := s.cur.core
    let off := s.accessLms a
    let v := viewLE s.co.log.view (s.lmsBase core) a.loc.lms off n
    let bad := s.lmsBad core a.loc.lms off n
    let s' := if bad then s.rebuildWords core a.loc.lms (wordsOf off n) else s
    (v, bad || s.co.log.unsound, s')
  else (Mem.readLE s.mem (s.accessPa a) n, s.badBytes (s.accessPa a) n, s)

/-! Stores. -/

/-- The coalescing floor of a context: the larger of the core's last REL or PHASE and an open region's tail, a CRGN.OPEN or
CRGN.CLOSE of the bundle counted (08 R213). -/
def State.floorOf (s : State) : Nat :=
  match s.cx.regionOp.getD s.cx.region with
  | some r => if tokenPhase r.token = s.co.log.phase.toNat then max s.co.log.floor (tokenTail r.token) else s.co.log.floor
  | none => s.co.log.floor

/-- New log entries appended and applied to the own overlay; block 8 or 9 when they do not fit (08 R212, R221). -/
def State.logStore (s : State) (es : List LogEntry) : Except Stop State :=
  let (s, bad) := s.meetBases s.cur.core es
  match Log.store s.co.log (s.lmsBase s.cur.core) s.floorOf es with
  | .error b => .error (.block b)
  | .ok l => .ok ((s.putLog s.cur.core l).landFlag (if bad then ckiPOISON else 0))

/-- An entry of 2^sz bytes at an offset of an LMS (08 R210). -/
def State.entry (s : State) (op sz : Nat) (lms : BitVec 12) (off data : Nat) : LogEntry :=
  ⟨BitVec.ofNat 5 op, BitVec.ofNat 3 sz, lms, s.cur.ctx, off, BitVec.ofNat 128 (data % 2 ^ (8 * 2 ^ sz)), s.co.bundles, false⟩

def sizeLog (n : Nat) : Nat := match n with
  | 1 => 0
  | 2 => 1
  | 4 => 2
  | 8 => 3
  | _ => 4

/-- Whether every command of the core's contexts is complete. -/
def Core.quiet (k : Core) : Bool :=
  k.ctxs.toList.all fun c => [Tl.cpy, .mtx, .fry, .swp, .atm].all fun t => (c.tl t).cmds.all fun p => p.phase == .done

def State.lateFrom (s : State) (stamp a last : Nat) : Nat → List LateStore
  | 0 => []
  | f + 1 =>
    if last < a then [] else ⟨stamp, a, BitVec.ofNat 32 (Mem.readLE s.mem a 4)⟩ :: State.lateFrom s stamp (a + 4) last f

/-- What the containers of a store held, for the commands that may not observe it (09 R235). DESIGN CHOICE, log entry 84. -/
def State.noteLate (s : State) (a n : Nat) : State :=
  let k := s.co
  if k.quiet then (if k.late = [] then s else s.setCo { k with late := [] })
  else s.setCo { k with late := k.late ++ s.lateFrom k.order (a / 4 * 4) (a + n - 1) (n / 4 + 2) }

/-- A store of the core's own slots at a slice address (07 R190). -/
def State.storeAt (s : State) (a : Nat) (bs : List Byte) : State := (s.noteLate a bs.length).writePhys a bs

/-- A scalar store of n bytes (07 R186). -/
def State.localStore (s : State) (a : Access) (n : Nat) (v : Word) : Except Stop State :=
  if a.loc.kind = 3 then .error (kindFault s a.va)
  else if a.loc.kind = 2 then s.logStore [s.entry 1 (sizeLog n) a.loc.lms (s.accessLms a) v.toNat]
  else .ok (s.storeAt (s.accessPa a) (leBytes v.toNat n))

/-! A control core's accesses (01 R12). -/

/-- A place in the cluster window: a core's tile with the byte offset in it, or in its record. DEDUCED, log entry 67. -/
inductive Window where
  | tile (core t off : Nat)
  | record (core t off : Nat)
deriving DecidableEq, Repr

def clusterWindow (cluster a : Nat) : Option Window :=
  if 0x014000000000 ≤ a ∧ a < 0x014000200000 then
    let o := a - 0x014000000000
    some (.tile (cluster * 8 + o / 0x40000) (o % 0x40000 / 0x4000) (o % 0x4000))
  else if 0x014000200000 ≤ a ∧ a < 0x014000210000 then
    let o := a - 0x014000200000
    some (.record (cluster * 8 + o / 0x2000) (o % 0x2000 / 0x200) (o % 0x200))
  else none

def Tile.readLE (x : Tile) (off : Nat) : Nat → Nat
  | 0 => 0
  | n + 1 => fld (x.cell (off / 256) (off % 256 / 4)).toNat (8 * (off % 4)) 8 + 256 * Tile.readLE x (off + 1) n

/-- The 512 bytes of a record, read as a number from a byte offset (06 R156). -/
def recordLE (x : Tile) (off n : Nat) : Nat := fld (x.rsum.toNat + 2 ^ 2048 * x.csum.toNat) (8 * off) (8 * n)

/-- What a control core's address reaches; the error is the CAUSE of XLATE_MISS. -/
inductive Reach where
  | win (w : Window)
  | mem (x : Xlat)
deriving DecidableEq, Repr

/-- Whether a control core's access may proceed at a physical address: not where the address is reserved or its granule or
core is another partition's (01 R12); what stops an engine's write into an LMS range or a service bank does not stop a store of
the pair. DEDUCED, log entry 67. -/
def State.controlMay (s : State) (p : Part) (pa n : Nat) (write : Bool) : Bool := [0, 6, 12].contains (s.physCause p pa n write)

/-- A virtual address goes through the pair's TLB and the domain's (07 R201). DEDUCED, log entry 67. -/
def State.reachControl (s : State) (va : Word) (n : Nat) (write : Bool) : Except Nat Reach × State :=
  let num := fld s.co.csp.toNat 0 6
  let part := s.part num
  let a := va.toNat
  if 2 ^ 48 ≤ a ∨ 2 ^ 48 ≤ a + n - 1 then (.error 4, s)
  else if a % n ≠ 0 then (.error 5, s)
  else if s.co.csp.getLsbD 8 then
    match clusterWindow (clusterOf s.cur.core) a with
    | some (.tile c t o) => (if Part.ownsCore part c then .ok (.win (.tile c t o)) else .error 1, s)
    | some (.record c t o) =>
      (if !Part.ownsCore part c then .error 1 else if write then .error 3 else .ok (.win (.record c t o)), s)
    | none => (if s.controlMay part a n write then .ok (.mem ⟨a, false, none, 0x10000⟩) else .error 1, s)
  else match s.translate s.cur.core num part a write with
    | (.error 2, s) => (.error 3, s)
    | (.error _, s) => (.error 1, s)
    | (.ok x, s) =>
      match x.peer with
      | some _ => (.ok (.mem x), s)
      | none => (if s.controlMay part x.pa n write then .ok (.mem x) else .error 1, s)

/-- The tile that a control core names, checked as it is read: an erasure that can be repaired is (06 R165). -/
def State.loadControl (s : State) (va : Word) (n : Nat) : Except Stop (Nat × Bool × State) :=
  match s.reachControl va n false with
  | (.error c, _) => .error (xlateMiss s c va)
  | (.ok (.win (.tile c t o)), s) =>
    let s := s.mendTile c t
    let x := (s.core c).tiles[t]?.getD Tile.zero
    .ok (x.readLE o n, x.badBytes o n, s)
  | (.ok (.win (.record c t o)), s) => .ok (recordLE ((s.core c).tiles[t]?.getD Tile.zero) o n, false, s)
  | (.ok (.mem x), s) =>
    let (bs, s') := s.engRead x n
    .ok (ofLE bs, x.peer.isNone && s.badBytes x.pa n, s')

/-- A store of the pair into an accumulator tile: erasures repaired first, and a container that stays poisoned logged where the
store covers it in part (06 R165, R166, 07 R196). -/
def State.storeTile (s : State) (core t off : Nat) (bs : List Byte) : State :=
  let s := s.mendTile core t
  let partly (o : Nat) : Bool :=
    (((s.core core).tiles[t]?.getD Tile.zero).bad.contains (o / 4)) &&
      (decide (o / 4 * 4 < off) || decide (off + bs.length < o / 4 * 4 + 4))
  let z := off + bs.length - 1
  let s := if partly off || (decide (z / 4 ≠ off / 4) && partly z) then s.logAcc 5 core else s
  let k := s.core core
  s.setCore core { k with tiles := vmod k.tiles t fun x => x.writeBytes off bs }

/-- The deltas of a core's view after its base has changed from what it was in `s` (06 R169). -/
def State.rebase (t s : State) (core : Nat) : State :=
  let k := t.core core
  let v := k.log.view
  let step (w : List ViewEntry) (e : ViewEntry) (j : Nat) : W32 :=
    viewCell w (t.lmsBase core) e.lms e.gran j - viewCell w (s.lmsBase core) e.lms e.gran j
  let moved (e : ViewEntry) : ViewEntry := e.shift (fun j => step v e j - step [] e j)
  t.setCore core { k with log := { k.log with view := v.map moved } }

/-- A store that finds the lattice pool full has no effect on the page (06 R160); that it raises XLATE_MISS with cause 1 is
the model's. DESIGN CHOICE, log entry 67. -/
def State.storeControl (s : State) (va : Word) (n : Nat) (v : Word) : Except Stop State :=
  match s.reachControl va n true with
  | (.error c, _) => .error (xlateMiss s c va)
  | (.ok (.win (.tile c t o)), s) =>
    .ok (s.storeTile c t o (leBytes v.toNat n))
  | (.ok (.win (.record _ _ _)), _) => .error (xlateMiss s 3 va)
  | (.ok (.mem x), s) =>
    match s.reachSealed (s.part (fld s.co.csp.toNat 0 6)) x with
    | (t, true) =>
      let u := t.engWrite x (leBytes v.toNat n)
      .ok (if x.peer.isNone ∧ isSlice x.pa then u.rebase t (sliceCore x.pa) else u)
    | (_, false) => .error (xlateMiss s 1 va)

/-! Slot 2. -/

/-- The scalar that a load writes (07 R187, 03 R80, 04 R100). -/
def loadWord (t : Nat) (x : Nat) : Word := fcvtWord t x

/-- 07 R187. -/
def execLd (p : Pred) (d a x : BitVec 6) (t : BitVec 4) (sc : BitVec 3) (off : BitVec 24) (s : State) : Result :=
  finish (runSlot p [.s a, .s x] noBlock fun s =>
    let va := s.cx.addrM a x sc off
    let n := memSize t.toNat
    let r : Except Stop (Nat × Bool × State) :=
      if s.onControl then s.loadControl va n
      else match s.access va n n false with
        | .error e => .error e
        | .ok acc => .ok (s.localRead acc n)
    match r with
    | .error e => .error e
    | .ok (v, bad, s') =>
      .ok (s'.landF .sld (.s d) ((loadWord t.toNat v).setWidth 2048) 0 0 (if bad then ckiPOISON else 0))) s

/-- 07 R187. -/
def execSt (p : Pred) (d a x : BitVec 6) (t : BitVec 4) (sc : BitVec 3) (off : BitVec 24) (s : State) : Result :=
  finish (runStore p [.s d] [.s a, .s x] fun s =>
    let va := s.cx.addrM a x sc off
    let n := memSize t.toNat
    if s.onControl then s.storeControl va n (s.cx.rs d)
    else match s.access va n n true with
      | .error e => .error e
      | .ok acc => s.localStore acc n (s.cx.rs d)) s

/-! Non-temporal stores (08 R223, R226). -/

/-- The slice words that n bytes at an offset make up: offset, byte mask, data. -/
def ntWords (off n : Nat) (v : Nat) : List (Nat × BitVec 4 × W32) :=
  if n ≤ 4 then
    [(off / 4 * 4, BitVec.ofNat 4 ((2 ^ n - 1) * 2 ^ (off % 4)), BitVec.ofNat 32 (v % 2 ^ (8 * n) * 2 ^ (8 * (off % 4))))]
  else [(off, 15, BitVec.ofNat 32 v), (off + 4, 15, BitVec.ofNat 32 (v / 2 ^ 32))]

/-- One queue entry handed to the copy engine; block 3 when the 32 entries are taken. DESIGN CHOICE, log entry 25. -/
def State.handOver (s : State) (ws : List (Nat × BitVec 4 × W32)) : Except Stop State :=
  let c := s.co
  if 32 ≤ c.nt.length then .error (.block 3)
  else .ok (s.setCo { c with nt := c.nt ++ [⟨c.ntNum, s.cur.ctx, ws⟩], ntNum := c.ntNum + 1 })

def execStnt (p : Pred) (d a x : BitVec 6) (t : BitVec 4) (sc : BitVec 3) (off : BitVec 24) (s : State) : Result :=
  finish (runStore p [.s d] [.s a, .s x] fun s =>
    let va := s.cx.addrM a x sc off
    let n := memSize t.toNat
    match s.access va n n true with
    | .error e => .error e
    | .ok acc =>
      if acc.loc.kind ≠ 3 then .error (kindFault s va) else s.handOver (ntWords acc.loc.off n (s.cx.rs d).toNat)) s

/-! Combining stores (08 R218, R227). -/

/-- The combining code that MS and T name. -/
def combineCode (ms t : Nat) : Nat :=
  match ms with
  | 0 => if t = 6 then 1 else if t = 8 then 2 else 0
  | 1 => if t = 8 then 5 else 3
  | 2 => if t = 8 then 6 else 4
  | 3 => 7
  | 4 => 8
  | 5 => 9
  | _ => 10

/-- One element combined in place (08 R227); the old bytes are read, poison and all, once an erasure has been repaired. -/
def State.combineAt (s : State) (pa code v : Nat) : State × Bool :=
  let n := codeBytes code
  let s := s.mend pa n
  let old := Mem.readLE s.mem pa n
  (s.storeAt pa (leBytes (combine code old v) n), s.badBytes pa n)

def execStcmb (p : Pred) (d a x : BitVec 6) (t : BitVec 4) (sc : BitVec 3) (ms : BitVec 3) (off : BitVec 24)
    (s : State) : Result :=
  finish (runStore p [.s d] [.s a, .s x] fun s =>
    let va := s.cx.addrM a x sc off
    let code := combineCode ms.toNat t.toNat
    let n := codeBytes code
    match s.access va n n true with
    | .error e => .error e
    | .ok acc =>
      if acc.loc.kind = 3 then .error (kindFault s va)
      else if acc.loc.kind = 2 then
        s.logStore [s.entry (16 + code) (sizeLog n) acc.loc.lms (s.accessLms acc) (s.cx.rs d).toNat]
      else
        let (s', bad) := s.combineAt (s.accessPa acc) code ((s.cx.rs d).toNat % 2 ^ (8 * n))
        .ok (s'.landFlag (if bad then ckiPOISON else 0))) s

/-! Lanes of slot 4 (07 R188, R189). -/

def activeList (m : Word) : List Nat := upTo64.filter fun i => m.getLsbD i

/-- The accesses of the active lanes of a row at one address, or of separate lanes. -/
def laneOfRow (acc : Access) (i : Nat) : Access :=
  ⟨acc.va + BitVec.ofNat 64 (4 * i), { acc.loc with off := acc.loc.off + 4 * i }⟩

/-- Lanes translated one by one, in ascending order. -/
def State.laneAccesses (s : State) (addr : Nat → Word) (write : Bool) : List Nat → Except Stop (List (Nat × Access))
  | [] => .ok []
  | i :: rest =>
    match s.access (addr i) 4 4 write with
    | .error e => .error e
    | .ok a =>
      match s.laneAccesses addr write rest with
      | .error e => .error e
      | .ok l => .ok ((i, a) :: l)

/-- All entries that the active lanes reach have one KIND, or KIND_FAULT at the first lane that differs (07 R188). -/
def State.oneKind (s : State) (l : List (Nat × Access)) : Except Stop (List (Nat × Access)) :=
  match l with
  | [] => .ok l
  | (_, a) :: rest =>
    match rest.find? fun (_, b) => b.loc.kind ≠ a.loc.kind with
    | some (_, b) => .error (kindFault s b.va)
    | none => .ok l

def State.rowAccesses (s : State) (va : Word) (write : Bool) (m : Word) : Except Stop (List (Nat × Access)) :=
  match s.access va 256 4 write with
  | .error e => .error e
  | .ok acc => .ok ((activeList m).map fun i => (i, laneOfRow acc i))

def State.sepAccesses (s : State) (addr : Nat → Word) (write : Bool) (m : Word) : Except Stop (List (Nat × Access)) :=
  match s.laneAccesses addr write (activeList m) with
  | .error e => .error e
  | .ok l => s.oneKind l

/-- The lanes of a load, read in order: their containers, whether poison was consumed, and the state after. -/
def State.readLanes (s : State) : List (Nat × Access) → List (Nat × W32) × Bool × State
  | [] => ([], false, s)
  | (i, a) :: rest =>
    let (v, bad, s1) := s.localRead a 4
    let (l, bad', s2) := State.readLanes s1 rest
    ((i, BitVec.ofNat 32 v) :: l, bad || bad', s2)

def mergeLanes (old : VReg) (l : List (Nat × W32)) : VReg :=
  ofLanes fun i => (look l i).getD (lane old i)

/-- The lanes that a load delivers, with the checksum they carry. -/
def State.landLoad (s : State) (d : BitVec 6) (v : VReg) (chk : W32) (bad : Bool) : State :=
  let s' := { s with raised := 0 }
  s'.landF .vld (.v (d.setWidth 5)) v chk 0 (s.raised ||| (if bad then ckiPOISON else 0))

/-- The tile row that a whole-row load checks: the access is one row of a VALID sealed tile (06 R163). -/
def State.wholeRow (s : State) (acc : Access) : Option (Nat × Nat) :=
  let pa := s.accessPa acc
  if acc.loc.sealed && pa % 256 == 0 then
    match s.sealedTile pa with
    | some t => if (s.latOf t).broken then none else some (t, (pa - t) / 256)
    | none => none
  else none

/-- A view entry's bytes and deltas put over the base: the tile as the core reads it, with its combined lattice. -/
def State.putView (s : State) (core t : Nat) (e : ViewEntry) : State :=
  match s.lmsPhys core e.lms (16 * e.gran) with
  | none => s
  | some a =>
    if a / 16384 * 16384 ≠ t then s
    else
      let bytes := (List.range 16).filter fun k => e.mask.getLsbD k
      let s := bytes.foldl (fun (s : State) k => { s.goodByte (a + k) with mem := Mem.write s.mem (a + k) (granByte e.data k) }) s
      (List.range 4).foldl (fun (s : State) k =>
        let i := (a - t) / 256
        let j := (a - t) % 256 / 4 + k
        let d : W32 := e.delta.extractLsb' (32 * k) 32
        let r := s.latOf t
        s.setLat t { r with rsum := setLane r.rsum i (lane r.rsum i + d), csum := setLane r.csum j (lane r.csum j + d) }) s

/-- The state in which a tile stands as the core reads it, base with overlay applied (06 R169). -/
def State.combined (s : State) (core t : Nat) : State := (s.core core).log.view.foldl (fun s e => s.putView core t e) s

/-- What a check has changed in the combined tile carried into the base: the record stands, and a container takes the same
correction. -/
def State.carry (s o o' : State) (t : Nat) : State :=
  if o'.mem = o.mem ∧ o'.poison = o.poison then { o' with mem := s.mem, poison := s.poison, lat := s.lat }
  else
    (List.range 4096).foldl (fun (u : State) n =>
      let i := n / 64
      let j := n % 64
      let u := if o'.cell t i j = o.cell t i j then u else u.putCell t i j (u.cell t i j + (o'.cell t i j - o.cell t i j))
      if o.badCell t i j && !o'.badCell t i j then u.goodBytes (t + 256 * i + 4 * j) 4 else u)
      { o' with mem := s.mem, poison := s.poison, lat := s.lat }

/-- Row i of a tile checked as a core reads it (06 R163, R169). -/
def State.checkRead (s : State) (acc : Access) (t i : Nat) : State :=
  if acc.loc.kind = 2 then
    let o := s.combined s.cur.core t
    s.carry o (o.checkRow t i).1 t
  else (s.checkRow t i).1

/-- The stored sum of a row as a core reads it: that of the combined lattice (06 R169). -/
def State.storedSum (s : State) (acc : Access) (t i : Nat) : W32 :=
  lane (((if acc.loc.kind = 2 then s.combined s.cur.core t else s).latOf t).rsum) i

/-- VLD (07 R188, 06 R163). -/
def State.loadRow (s : State) (d : BitVec 6) (m : Word) (acc : Access) : State :=
  let old := s.cx.oldDst d
  let lanes := (activeList m).map fun i => (i, laneOfRow acc i)
  match s.wholeRow acc with
  | none =>
    let (l, bad, s') := s.readLanes lanes
    let v := mergeLanes old l
    s'.landLoad d v (laneSum v) bad
  | some (t, i) =>
    let s1 := s.checkRead acc t i
    let (l, bad, s2) := s1.readLanes lanes
    let v := mergeLanes old l
    let all := (s1.readLanes (upTo64.map fun j => (j, laneOfRow acc j))).1
    let kept := sumFrom (fun j => if m.getLsbD j then 0 else lane old j - (look all j).getD 0) 0 64
    s2.landLoad d v (s1.storedSum acc t i + kept) bad

def State.loadLanes (s : State) (d : BitVec 6) (l : List (Nat × Access)) : State :=
  let (ls, bad, s') := s.readLanes l
  let v := mergeLanes (s.cx.oldDst d) ls
  s'.landLoad d v (laneSum v) bad

def execVld (p : Pred) (d a x : BitVec 6) (sc : BitVec 3) (off : BitVec 24) (s : State) : Result :=
  finish (runVec p [] [.s a, .s x] (some d) none maskKeeps noBlock fun m _ s =>
    match s.access (s.cx.addrM a x sc off) 256 4 false with
    | .error e => .error e
    | .ok acc => .ok (s.loadRow d m acc)) s

/-- Address of lane i of a strided access (07 R188). -/
def Context.strided (c : Context) (a x : BitVec 6) (sc : BitVec 3) (off : BitVec 24) (i : Nat) : Word :=
  c.baseM a off + BitVec.ofNat 64 i * (c.rs x <<< sc.toNat)

/-- Address of lane i of an indexed access. -/
def Context.indexed (c : Context) (a : BitVec 6) (idx : VReg) (sc : BitVec 3) (off : BitVec 24) (i : Nat) : Word :=
  c.baseM a off + ((lane idx i).setWidth 64 <<< sc.toNat)

def execVlds (p : Pred) (d a x : BitVec 6) (sc : BitVec 3) (off : BitVec 24) (s : State) : Result :=
  finish (runVec p [] [.s a, .s x] (some d) none maskKeeps noBlock fun m _ s =>
    match s.sepAccesses (s.cx.strided a x sc off) false m with
    | .error e => .error e
    | .ok l => .ok (s.loadLanes d l)) s

def execVldx (p : Pred) (d a x : BitVec 6) (sc : BitVec 3) (off : BitVec 24) (s : State) : Result :=
  finish (runVec p [x] [.s a] (some d) none maskKeeps noBlock fun m vs s =>
    match s.sepAccesses (s.cx.indexed a (vs.headD 0) sc off) false m with
    | .error e => .error e
    | .ok l => .ok (s.loadLanes d l)) s

/-! Vector stores. -/

/-- The naturally aligned pieces of the active words of one granule: first word and length in bytes (08 R212). -/
def piecesOf (on : Nat → Bool) : List (Nat × Nat) :=
  if on 0 && on 1 && on 2 && on 3 then [(0, 16)]
  else
    (if on 0 && on 1 then [(0, 8)] else (if on 0 then [(0, 4)] else []) ++ (if on 1 then [(1, 4)] else [])) ++
    (if on 2 && on 3 then [(2, 8)] else (if on 2 then [(2, 4)] else []) ++ (if on 3 then [(3, 4)] else []))

/-- The entries of a row store at LMS offset `off` (08 R212). -/
def State.rowEntries (s : State) (op : Nat) (lms : BitVec 12) (off : Nat) (m : Word) (v : VReg) : List LogEntry :=
  let laneAt (w : Nat) : Option Nat :=
    if off / 4 ≤ w ∧ w < off / 4 + 64 ∧ m.getLsbD (w - off / 4) then some (w - off / 4) else none
  (List.range 17).flatMap fun g =>
    let w0 := (off / 16 + g) * 4
    (piecesOf fun k => (laneAt (w0 + k)).isSome).map fun (k, n) =>
      let data := ((List.range (n / 4)).map fun j =>
        (match laneAt (w0 + k + j) with
          | some i => (lane v i).toNat
          | none => 0) * 2 ^ (32 * j)).foldl (· + ·) 0
      s.entry op (sizeLog n) lms (4 * (w0 + k)) data

def State.writeLanes (s : State) (v : VReg) : List (Nat × Access) → State
  | [] => s
  | (i, a) :: rest => State.writeLanes (s.storeAt (s.accessPa a) (leBytes (lane v i).toNat 4)) v rest

/-- VST (07 R188, 08 R212). -/
def State.storeRow (s : State) (m : Word) (v : VReg) (acc : Access) : Except Stop State :=
  if acc.loc.kind = 3 then .error (kindFault s acc.va)
  else if acc.loc.kind = 2 then s.logStore (s.rowEntries 1 acc.loc.lms (s.accessLms acc) m v)
  else .ok (s.writeLanes v ((activeList m).map fun i => (i, laneOfRow acc i)))

/-- VSTS and VSTX. -/
def State.storeLanes (s : State) (v : VReg) (l : List (Nat × Access)) : Except Stop State :=
  match l with
  | [] => .ok s
  | (_, a0) :: _ =>
    if a0.loc.kind = 3 then .error (kindFault s a0.va)
    else if a0.loc.kind = 2 then
      s.logStore (l.map fun (i, a) => s.entry 1 2 a.loc.lms (s.accessLms a) (lane v i).toNat)
    else .ok (s.writeLanes v l)

def execVst (p : Pred) (d a x : BitVec 6) (sc : BitVec 3) (off : BitVec 24) (s : State) : Result :=
  finish (runVecStore p [d] [] [.s a, .s x] fun m vs s =>
    match s.access (s.cx.addrM a x sc off) 256 4 true with
    | .error e => .error e
    | .ok acc => s.storeRow m (vs.headD 0) acc) s

def execVsts (p : Pred) (d a x : BitVec 6) (sc : BitVec 3) (off : BitVec 24) (s : State) : Result :=
  finish (runVecStore p [d] [] [.s a, .s x] fun m vs s =>
    match s.sepAccesses (s.cx.strided a x sc off) true m with
    | .error e => .error e
    | .ok l => s.storeLanes (vs.headD 0) l) s

def execVstx (p : Pred) (d a x : BitVec 6) (sc : BitVec 3) (off : BitVec 24) (s : State) : Result :=
  finish (runVecStore p [d, x] [x] [.s a] fun m vs s =>
    match s.sepAccesses (s.cx.indexed a (vs.getD 1 0) sc off) true m with
    | .error e => .error e
    | .ok l => s.storeLanes (vs.headD 0) l) s

def execVstnt (p : Pred) (d a x : BitVec 6) (sc : BitVec 3) (off : BitVec 24) (s : State) : Result :=
  finish (runVecStore p [d] [] [.s a, .s x] fun m vs s =>
    let va := s.cx.addrM a x sc off
    match s.access va 256 4 true with
    | .error e => .error e
    | .ok acc =>
      if acc.loc.kind ≠ 3 then .error (kindFault s va)
      else s.handOver ((activeList m).map fun i => (acc.loc.off + 4 * i, 15, lane (vs.headD 0) i))) s

/-- Lanes combined in place, in ascending order (08 R227). -/
def State.combineLanes (s : State) (code : Nat) (v : VReg) : List (Nat × Access) → State × Bool
  | [] => (s, false)
  | (i, a) :: rest =>
    let (s', bad) := s.combineAt (s.accessPa a) code (lane v i).toNat
    let (s'', bad') := State.combineLanes s' code v rest
    (s'', bad || bad')

def execVstcmb (p : Pred) (d a x : BitVec 6) (t : BitVec 4) (sc : BitVec 3) (ms : BitVec 3) (off : BitVec 24)
    (s : State) : Result :=
  finish (runVecStore p [d] [] [.s a, .s x] fun m vs s =>
    let va := s.cx.addrM a x sc off
    let code := combineCode ms.toNat t.toNat
    match s.access va 256 4 true with
    | .error e => .error e
    | .ok acc =>
      if acc.loc.kind = 3 then .error (kindFault s va)
      else if acc.loc.kind = 2 then s.logStore (s.rowEntries (16 + code) acc.loc.lms (s.accessLms acc) m (vs.headD 0))
      else
        let (s', bad) := s.combineLanes code (vs.headD 0) ((activeList m).map fun i => (i, laneOfRow acc i))
        .ok (s'.landFlag (if bad then ckiPOISON else 0))) s

end Sys2Proof.Machine
end

