-- ==== Sys2Proof/Machine/Engine.lean ====
section
/-! DEFINITION. What every engine shares: issue and numbering of commands (01 R28, R29), reads and writes in parts with
their faults, stops and freezes (07 R203-R205, 09 R236, 14 R380, R381), and completion. -/

namespace Sys2Proof.Machine

/-! Issue. -/

/-- Commands of a timeline that hold an engine slot (01 R29); a CPYQ holds none (09 R242), nor does a command that is
done and waits to be counted. -/
def Pending.holdsSlot (p : Pending) : Bool :=
  match p.cmd with
  | .cpyqIn .. => false
  | .cpyqOut .. => false
  | .swmerge .. => false
  | _ => p.phase != .done

def Timeline.full (t : Timeline) : Bool := decide (2 ≤ (t.cmds.filter Pending.holdsSlot).length)

/-- The block of a command to a full shadow slot. -/
def slotBlock (tl : Tl) (s : State) : Option Nat := if (s.cx.tl tl).full then some 3 else none

def newPending (seq : Word) (order : Nat) (cmd : Cmd) (fmt : BitVec 6) (prog : Nat) : Pending where
  seq := seq
  order := order
  cmd := cmd
  fmt := fmt
  phase := .waiting
  prog := prog
  tileIn := []
  marks := []
  flush := []
  cki := 0
  fid := 0
  faddr := 0
  fcause := 0
  sends := 0
  reqId := 0
  reply := none
  crc := 0
  stage := 0
  failed := none
  tally := ⟨0, 0, 0, 0, 0, 0, 0, 0, 0⟩
  parts := []
  opA := []
  opB := []
  ahead := []

/-- The number of the next command of a timeline. -/
def State.nextSeq (s : State) (tl : Tl) : Word := (s.cx.tl tl).issued + 1

/-- A command issued: its number into s[D] at n + 1, and the command into its engine (01 R28). -/
def State.issue (s : State) (tl : Tl) (d : BitVec 6) (cmd : Cmd) (prog : Nat) : State :=
  let t := s.cx.tl tl
  let n := t.issued + 1
  let k := s.co
  let s' := (s.landS .seqret d n).setCo { (s.landS .seqret d n).co with order := k.order + 1 }
  s'.setCx (s'.cx.setTl tl { t with issued := n, cmds := t.cmds ++ [newPending n k.order cmd s.cx.fmt prog] })

/-- The accumulator tiles that the launch granted the issuing task (01 R26). -/
def State.tileMask (s : State) : BitVec 16 :=
  match s.cx.task with
  | some t => t.mask
  | none => 0

/-! Commands in their engines. -/

def State.cmd (s : State) (core : Nat) (i : BitVec 2) (tl : Tl) (seq : Word) : Option Pending :=
  ((s.ctxAt core i).tl tl).cmds.find? fun p => p.seq = seq

def Context.setCmd (c : Context) (tl : Tl) (p : Pending) : Context :=
  let t := c.tl tl
  c.setTl tl { t with cmds := t.cmds.map fun q => if q.seq = p.seq then p else q }

def State.setCmd (s : State) (core : Nat) (i : BitVec 2) (tl : Tl) (p : Pending) : State :=
  s.setCtxAt core i ((s.ctxAt core i).setCmd tl p)

/-- Whether a bundle of the context runs now. -/
def State.inBundle (s : State) (core : Nat) (i : BitVec 2) : Bool :=
  s.cur.core == core && s.cur.ctx == i && decide (s.cur.slot < noSlot)

/-- Check bits from outside the context: ORed in at its next boundary, which is behind the landings of a bundle that runs,
and behind its restore for a context whose record is written; poison consumed under an open region of its class rolls back
there (15 R411, R412). -/
def State.flagCtx (s : State) (core : Nat) (i : BitVec 2) (cki : BitVec 11) : State :=
  let c := s.ctxAt core i
  if s.inBundle core i ∨ c.saved then s.setCtxAt core i { c with ckiSet := c.ckiSet ||| cki }
  else if (cki &&& ckiPOISON) ≠ 0 ∧ c.catches 34 then
    let s' := s.setCtxAt core i { c with cki := c.cki ||| (cki &&& ~~~ckiPOISON) }
    s'.rollback core i ⟨34, 0, 7, 0, 0, 0, 0⟩
  else s.setCtxAt core i { c with cki := c.cki ||| cki }

/-- A command complete: its binding ends, its flags reach its context and the counter passes what it can (01 R28,
09 R242). -/
def State.complete (s : State) (core : Nat) (i : BitVec 2) (tl : Tl) (p : Pending) : State :=
  let s := s.setCmd core i tl { p with phase := .done }
  let c := (s.ctxAt core i).unbind tl p.seq
  (s.setCtxAt core i (c.setTl tl (c.tl tl).advance)).flagCtx core i p.cki

/-- A command stopped with a cause of SYS.TCAUSE: ENGINE_FAULT waits for the context's next boundary (09 R236). -/
def Context.stopCmd (c : Context) (tl : Tl) (p : Pending) (cause : Nat) (addr : Word) : Context :=
  let c := c.setCmd tl { p with phase := .stopped, failed := none, fcause := cause, faddr := addr, parts := [] }
  { c with efaults := c.efaults ++ [⟨tl, cause, addr, p.seq⟩] }

def State.stopCmd (s : State) (core : Nat) (i : BitVec 2) (tl : Tl) (p : Pending) (cause : Nat) (addr : Word) : State :=
  (s.setCtxAt core i ((s.ctxAt core i).stopCmd tl p cause addr)).flagCtx core i p.cki

/-- A record for each part that faults, to the home of its address (07 R203, R205); the parts with their fault ids. -/
def State.sendFaults (s : State) (core : Nat) (i : BitVec 2) (tl : Tl) (seq : Word) : List Stuck → State × List Stuck
  | [] => (s, [])
  | x :: rest =>
    let s := s.sendFault core i tl seq x.addr.toNat x.cause x.write
    let x := { x with fid := some (s.faultId.setWidth 32) }
    let (s, l) := State.sendFaults s core i tl seq rest
    (s, x :: l)

/-- The command waits for the replies to its faulted parts (07 R204). -/
def State.faultCmd (s : State) (core : Nat) (i : BitVec 2) (tl : Tl) (p : Pending) (fs : List Stuck) : State :=
  let (s, l) := s.sendFaults core i tl p.seq fs
  let x := l.headD ⟨0, 0, false, none⟩
  s.setCmd core i tl { p with
    phase := .faulted, fid := x.fid.getD 0, parts := l
    faddr := if p.failed.isSome then p.faddr else x.addr, fcause := if p.failed.isSome then p.fcause else x.cause }

/-- The command and the part that a fault id names. -/
def waitingIn (fid : W32) (c : Context) : Option (Tl × Pending × Stuck) :=
  [Tl.cpy, Tl.mtx, Tl.fry, Tl.swp, Tl.atm].findSome? fun tl =>
    (c.tl tl).cmds.findSome? fun p =>
      if p.phase = .faulted then (p.parts.find? fun x => x.fid = some fid).map fun x => (tl, p, x) else none

/-- A refused request freezes its context: the command stops, the context is Halted at its next boundary, and a notice
with the fault record goes to the partition's fault mailbox (14 R380, R381). -/
def State.freezeCtx (s : State) (core : Nat) (i : BitVec 2) (tl : Tl) (p : Pending) (va : Word) (write : Bool) : State :=
  let s := s.stopCmd core i tl p 7 va
  let c := s.ctxAt core i
  let n := core * 4 + i.toNat
  if c.frozen then { s with freezes := put s.freezes n ((look s.freezes n).getD 0 + 1) }
  else
    let tenant := match s.partOfCore core with
      | some (_, q) => Part.tenant q
      | none => 0
    let s := s.setCtxAt core i { c with frozen := true, st := .halted }
    { s with freezes := put s.freezes n 1 }.noticeFor core 32 0 n
      (faultRecord va.toNat 7 n tl.num write tenant p.seq 0)

/-! Requests in parts. -/

/-- The outcome of an engine request: done, parts that fault to their homes, a stop at once, or a violation. -/
inductive Eng (α : Type) where
  | ok (x : α) (s : State)
  | fault (fs : List Stuck) (s : State)
  | stop (cause : Nat) (va : Word) (s : State)
  | freeze (va : Word) (write : Bool) (s : State)

def Eng.bind {α β : Type} (e : Eng α) (f : α → State → Eng β) : Eng β :=
  match e with
  | .ok x s => f x s
  | .fault fs s => .fault fs s
  | .stop c va s => .stop c va s
  | .freeze va w s => .freeze va w s

/-- The state that an outcome leaves. -/
def Eng.state {α : Type} (e : Eng α) : State :=
  match e with
  | .ok _ s => s
  | .fault _ s => s
  | .stop _ _ s => s
  | .freeze _ _ s => s

/-- One part after another: what stops one does not hold back the other, and the faults of both count (07 R205). -/
def Eng.also {α : Type} (e : Eng (List α)) (f : State → Eng (List α)) : Eng (List α) :=
  match e with
  | .ok x s => (f s).bind fun y s => .ok (x ++ y) s
  | .fault fs s =>
    match f s with
    | .ok _ s => .fault fs s
    | .fault gs s => .fault (fs ++ gs) s
    | .stop c va s => .stop c va s
    | .freeze va w s => .freeze va w s
  | .stop c va s => .stop c va (f s).state
  | .freeze va w s => .freeze va w (f s).state

/-- What a command does with an outcome that is not `ok`. -/
def engineEnd (core : Nat) (i : BitVec 2) (tl : Tl) (p : Pending) (e : Eng Unit) : State :=
  match e with
  | .ok _ s' => s'
  | .fault fs s' => s'.faultCmd core i tl { p with cki := p.cki ||| s'.raised } fs
  | .stop c va s' => s'.stopCmd core i tl { p with cki := p.cki ||| s'.raised } c va
  | .freeze va w s' => s'.freezeCtx core i tl { p with cki := p.cki ||| s'.raised } va w

/-- A translation for a part, with the faults that end it (07 R199, R203, 02 R58, 14 R380). -/
def State.engPart (s : State) (core : Nat) (va : Word) (n : Nat) (write : Bool) : Eng Xlat :=
  if 2 ^ 48 ≤ va.toNat then .stop 1 va s
  else match s.engXlate core va.toNat n write with
    | (.ok x, s) => .ok x s
    | (.error 7, s) => .freeze va write s
    | (.error 12, s) => .stop 12 va s
    | (.error c, s) => .fault [⟨c, va, write, none⟩] s

/-- A sealed HBM page reached by a write, a copy or a SEAL takes its records, or the lattice pool faults (06 R160). -/
def State.engSeal (s : State) (core : Nat) (va : Word) (write : Bool) (x : Xlat) : Eng Xlat :=
  match s.partOfCore core with
  | none => .ok x s
  | some (_, p) =>
    let (s', ok) := s.reachSealed p x
    if ok then .ok x s' else .fault [⟨5, va, write, none⟩] s

/-- Bytes with their poison. -/
abbrev Marked := List (Byte × Bool)

def State.marked (s : State) (a : Nat) : Nat → Marked
  | 0 => []
  | n + 1 => (Mem.read s.mem a, s.badByte a) :: State.marked s (a + 1) n

/-- What a container held before stores that the acting command may not observe (09 R235). -/
def State.lateAt (s : State) (a : Nat) : List W32 :=
  match s.cur.cmd with
  | none => []
  | some o => ((s.core s.cur.core).late.filter fun e => e.addr == a && decide (o < e.stamp)).map (·.old)

/-- Bytes of an engine's read: a container that the core has stored to since the command's issue is read as it stands or as
it stood before any of those stores, freely (09 R235). DESIGN CHOICE, log entry 84. -/
def State.observe (s : State) (a : Nat) : Nat → Marked → Marked × State
  | 0, m => (m, s)
  | f + 1, m =>
    if m = [] then ([], s)
    else
      let n := 4 - a % 4
      let (x, s) : Marked × State := match s.lateAt (a / 4 * 4) with
        | [] => (m.take n, s)
        | olds =>
          match s.choose ((none : Option W32) :: olds.map some) with
          | (some (some w), s) =>
            ((m.take n).mapIdx fun i (b : Byte × Bool) => ((leBytes w.toNat 4).getD (a % 4 + i) 0, b.2), s)
          | (_, s) => (m.take n, s)
      let (rest, s) := State.observe s (a + n) f (m.drop n)
      (x ++ rest, s)

/-- Whether the acting command's core has stored since into any container of a range. -/
def State.lateIn (s : State) (a n : Nat) : Bool :=
  s.cur.cmd.isSome && (s.core s.cur.core).late.any fun e => decide (a < e.addr + 4) && decide (e.addr < a + n)

/-- HBM bytes that an engine reads or writes, in its partition's window (17 R459). DESIGN CHOICE, log entry 60. -/
def State.countHbm (s : State) (x : Xlat) (n : Nat) : State :=
  if x.peer.isNone ∧ isHbm x.pa then s.countFor s.cur.core 7 n else s

/-- One part read at its home, its sealed rows verified (06 R162). -/
def State.readPart (s : State) (x : Xlat) (va : Word) (n : Nat) : Eng Marked :=
  let s := s.countHbm x n
  if x.peer.isSome ∨ isHostWin x.pa then
    let (bs, s') := s.engRead x n
    .ok (bs.map fun b => (b, false)) s'
  else
    let (s', ok) := s.verifyRead x.pa n
    if !ok then .stop 9 va s'
    else if s'.lateIn x.pa n then
      let (m, s') := s'.observe x.pa (n + 1) (s'.marked x.pa n)
      .ok m s'
    else .ok (s'.marked x.pa n) s'

/-- A byte at its home marked outside the good mask (07 R196); a word or granule that was not poisoned before is logged
(07 R195), and its HBM row becomes due (16 R442). -/
def State.spoilByte (s : State) (a : Nat) : State :=
  let (u, n) := poisonUnit a
  let g := (look s.poison u).getD (2 ^ n - 1)
  let s := if (look s.poison u).isSome then s else if isHbm u then (s.logMem 4 1 u).rowDue u else s.logMem 2 1 u
  { s with poison := put s.poison u (if g.testBit (a - u) then g - 2 ^ (a - u) else g) }

def State.spoilBytes (s : State) (a : Nat) : Marked → State
  | [] => s
  | (_, bad) :: rest => State.spoilBytes (if bad then s.spoilByte a else s) (a + 1) rest

/-- One part written at its home, counted as moved (17 R459); poison carried with the bytes (07 R196). -/
def State.putPart (s : State) (x : Xlat) (bs : Marked) : State :=
  let s' := ((s.countHbm x bs.length).countFor s.cur.core 6 bs.length).engWrite x (bs.map (·.1))
  if x.peer.isSome ∨ isHostWin x.pa then s' else s'.spoilBytes x.pa bs

/-- A container that the core has stored to since the command's issue keeps that value or takes the engine's, freely
(09 R235). DESIGN CHOICE, log entry 84. -/
def State.putLate (s : State) (x : Xlat) : Nat → Marked → State
  | 0, _ => s
  | f + 1, m =>
    if m = [] then s
    else
      let n := 4 - x.pa % 4
      let (skip, s) : Bool × State := match s.lateAt (x.pa / 4 * 4) with
        | [] => (false, s)
        | _ =>
          let (b, s) := s.choose [false, true]
          (b == some true, s)
      State.putLate (if skip then s else s.putPart x (m.take n)) { x with pa := x.pa + n } f (m.drop n)

def State.writePart' (s : State) (x : Xlat) (bs : Marked) : State :=
  if x.peer.isNone ∧ s.lateIn x.pa bs.length then s.putLate x (bs.length + 1) bs else s.putPart x bs

/-- Bytes up to the next split point of a range (07 R205, 09 R237); an unresolved range splits as HBM does. -/
def State.span (s : State) (core : Nat) (va : Word) : Nat :=
  let hbm := 2048 - va.toNat % 2048
  if 2 ^ 48 ≤ va.toNat then hbm
  else match s.partOfCore core with
    | none => hbm
    | some (_, p) =>
      match s.walk p va.toNat false with
      | .error _ => hbm
      | .ok x =>
        let pg := x.page - va.toNat % x.page
        if isHbm x.pa then min pg hbm
        else if x.peer.isSome then pg
        else if isSlice x.pa then min pg (0x1000000 - sliceOff x.pa)
        else if isIstore x.pa then min pg (0x40000 - istoreOff x.pa)
        else pg

/-- A length that no part of a read exceeds. -/
def partLen (va : Word) (n : Nat) : Nat := min n (2048 - va.toNat % 2048)

/-- An engine read of a range, part by part; a copy's read reaches a sealed page as its writes do (06 R160). -/
def State.readRange (s : State) (core : Nat) (copy : Bool) (va : Word) : Nat → Nat → Eng Marked
  | 0, _ => .ok [] s
  | f + 1, n =>
    if n = 0 then .ok [] s
    else
      let k := min n (s.span core va)
      ((s.engPart core va k false).bind fun x s =>
        (if copy then s.engSeal core va false x else .ok x s).bind fun x s => s.readPart x va k).also fun s =>
        State.readRange s core copy (va + BitVec.ofNat 64 k) f (n - k)

def State.engGet (s : State) (core : Nat) (va : Word) (n : Nat) : Eng Marked := s.readRange core false va (n / 2048 + 2) n

/-- An engine write of a range, part by part; a retry performs the parts that are still to be done (07 R205). -/
def State.writeRange (s : State) (core : Nat) (only : List Stuck) (va : Word) : Nat → Marked → Eng Marked
  | 0, _ => .ok [] s
  | f + 1, bs =>
    if bs = [] then .ok [] s
    else
      let k := min bs.length (s.span core va)
      let here : Eng Marked :=
        if only = [] ∨ only.any (fun x => x.addr = va) then
          (s.engPart core va k true).bind fun x s =>
            (s.engSeal core va true x).bind fun x s => .ok [] (s.writePart' x (bs.take k))
        else .ok [] s
      here.also fun s => State.writeRange s core only (va + BitVec.ofNat 64 k) f (bs.drop k)

/-- `only` names the parts left of an earlier attempt; all when none of them writes. -/
def State.engPut (s : State) (core : Nat) (only : List Stuck) (va : Word) (bs : Marked) : Eng Unit :=
  (s.writeRange core (only.filter (·.write)) va (bs.length / 2048 + 2) bs).bind fun _ s => .ok () s

/-- What a request that ends in no write leaves: the choices and the translations that it took. -/
def State.unwritten (s t : State) : State := { s with draws := t.draws, tlb := t.tlb }

/-- A write that is made whole or not at all. -/
def State.whole (s : State) (e : Eng Unit) : Eng Unit :=
  match e with
  | .ok x t => .ok x t
  | .fault fs t => .fault fs (s.unwritten t)
  | .stop c va t => .stop c va (s.unwritten t)
  | .freeze va w t => .freeze va w (s.unwritten t)

/-- A range that an engine is about to write, translated whole: the pieces of it in aligned 256-byte rows, each with its place
(07 R191, R205). -/
def State.piecesFrom (s : State) (core : Nat) (va : Word) : Nat → Marked → Eng (List (Xlat × Marked))
  | 0, _ => .ok [] s
  | f + 1, bs =>
    if bs = [] then .ok [] s
    else
      let k := min (min bs.length (s.span core va)) (256 - va.toNat % 256)
      ((s.engPart core va k true).bind fun x s =>
        (s.engSeal core va true x).bind fun x s => .ok [(x, bs.take k)] s).also fun s =>
          State.piecesFrom s core (va + BitVec.ofNat 64 k) f (bs.drop k)

def State.putPieces (s : State) : List (Xlat × Marked) → State
  | [] => s
  | (x, bs) :: rest => State.putPieces (s.writePart' x bs) rest

/-- A write longer than one aligned row is performed row by row (07 R191): whether others look in between, with some of its
rows performed, is open, and the write goes on later. DEDUCED, log entry 24. -/
def State.someRows (s : State) (core : Nat) (va : Word) (bs : Marked) : Option State × State :=
  if va.toNat % 256 + bs.length ≤ 256 then (none, s)
  else
    match s.choose [false, true] with
    | (some true, s) =>
      match s.piecesFrom core va (bs.length + 1) bs with
      | .ok l s =>
        let (k, s) := s.pick
        (some (s.putPieces ((l.rotateLeft (k / 256)).take (k % 256))), s)
      | _ => (none, s)
    | (_, s) => (none, s)

def clean (bs : List Byte) : Marked := bs.map fun b => (b, false)
def Marked.bytes (m : Marked) : List Byte := m.map (·.1)
def Marked.bad (m : Marked) : Bool := m.any (·.2)
def Marked.nat (m : Marked) : Nat := ofLE (Marked.bytes m)

/-- A read by an engine that computes: consumed poison is the context's (07 R196). -/
def State.engCompute (s : State) (core : Nat) (va : Word) (n : Nat) : Eng Nat :=
  (s.engGet core va n).bind fun m s => .ok (Marked.nat m) (if Marked.bad m then s.raise ckiPOISON else s)

/-- An event that acts for a core and a context: later operations count there. -/
def State.actFor (s : State) (core : Nat) (i : BitVec 2) : State := { s with cur := ⟨core, i, s.cur.slot, none⟩, raised := 0 }

/-- As `actFor`, for a command. -/
def State.actCmd (s : State) (core : Nat) (i : BitVec 2) (p : Pending) : State :=
  { s with cur := ⟨core, i, s.cur.slot, some p.order⟩, raised := 0 }

/-- The flags raised since `actFor`, taken over by a command. -/
def Pending.take (p : Pending) (s : State) : Pending := { p with cki := p.cki ||| s.raised }

/-- An event's outcome: the transient fields of a bundle cleared. -/
def settle (s : State) : Result := .next { s with last := none, ended := false, raised := 0, cur := { s.cur with slot := noSlot, cmd := none } }

end Sys2Proof.Machine
end

