-- ==== Sys2Proof/Machine/Accum.lean ====
section
/-! DEFINITION. Slot-4 access to the accumulator tiles and the transposer (05 R144, R152-R154). -/

namespace Sys2Proof.Machine

/-- The tiles that a matrix command names (05 R144). -/
def Cmd.tiles (c : Cmd) : BitVec 16 :=
  match c with
  | .mma _ _ par _ => 1 <<< fld (par.get 5).toNat 0 4
  | .mzero m => m
  | .mload t .. => 1 <<< t.toNat
  | .mstore t .. => 1 <<< t.toNat
  | .sealAcc t => 1 <<< t.toNat
  | .scheckAcc t .. => 1 <<< t.toNat
  | .squeryAcc t _ => 1 <<< t.toNat
  | _ => 0

/-- Whether an incomplete or stopped matrix command of the core names a tile (05 R144). -/
def Core.tileBusy (k : Core) (t : BitVec 4) : Bool :=
  k.ctxs.toList.any fun c => c.mtx.cmds.any fun p => p.phase != .done && (Cmd.tiles p.cmd).getLsbD t.toNat

/-- The access checks of a slot-4 instruction that names a tile. DEDUCED, log entry 28. -/
def State.tileCheck (s : State) (t : BitVec 4) : Except Stop Unit :=
  if !s.tileMask.getLsbD t.toNat then .error (s.trapHere 9 0 0)
  else if s.co.tileBusy t then .error (s.trapHere 10 0 0)
  else .ok ()

def State.tile (s : State) (t : BitVec 4) : Tile := s.co.tiles.get t.toFin
def State.setTile (s : State) (t : BitVec 4) (x : Tile) : State :=
  s.setCo { s.co with tiles := s.co.tiles.set t.toNat x t.isLt }

/-- Row or column `r` of a tile as a row of lanes. -/
def Tile.line (x : Tile) (col : Bool) (r : Nat) : VReg :=
  if col then ofLanes fun i => x.cell i r else x.rows[r]?.getD 0

/-- The stored sum of a line. -/
def Tile.lineSum (x : Tile) (col : Bool) (r : Nat) : W32 := if col then lane x.csum r else lane x.rsum r

/-- Whether a line holds a poisoned container (07 R195). -/
def Tile.badLine (x : Tile) (col : Bool) (r : Nat) : Bool := x.bad.any fun n => (if col then n % 64 else n / 64) == r

/-- Whether any of the first containers of a row is poisoned. -/
def Tile.badTo (x : Tile) (i n : Nat) : Bool := x.bad.any fun c => c / 64 == i && decide (c % 64 < n)

/-- A line checked before it is delivered: the tile as it stands after a correction, and whether one was made; none when
the mismatch is not one container's (05 R152, 06 R162). A line with an erasure that stays is not compared (06 R165). -/
def Tile.checkLine (x : Tile) (col : Bool) (r : Nat) : Option (Tile × Bool) :=
  if x.badLine col r then some (x, false)
  else if laneSum (x.line col r) = x.lineSum col r then some (x, false)
  else match x.classify with
    | .single i j d => some (x.correct i j d, true)
    | _ => none

/-- A correction made for the issuing context: SCORR, and LCORR for the result that carries it (06 R174, R175). -/
def State.corrected (s : State) (yes : Bool) : State × BitVec 11 :=
  if yes then ({ s.scorrect with raised := s.raised }, ckiLCORR) else (s, 0)

/-- 05 R152. -/
def execVaccrd (p : Pred) (d c a : BitVec 6) (col : BitVec 8) (s : State) : Result :=
  finish (runVec p [] [.s a] (some d) none maskKeeps noBlock fun m _ s =>
    let t : BitVec 4 := c.setWidth 4
    match s.tileCheck t with
    | .error e => .error e
    | .ok _ =>
      let r := (s.cx.rs a).toNat % 64
      let s := s.mendTile s.cur.core t.toNat
      let more := s.raised ||| (if (s.tile t).badLine (col == 1) r then ckiPOISON else 0)
      match (s.tile t).checkLine (col == 1) r with
      | none => .error (s.trapHere 32 0 0)
      | some (x, fixed) =>
        let (s', cki) := { s with raised := 0 }.corrected fixed
        .ok ((s'.setTile t x).landElems .vacc d 32 (laneOn m)
          (fun i => ((lane (x.line (col == 1) r) i).toNat, 0)) (cki ||| more))) s

/-- 05 R152. -/
def execVaccwr (p : Pred) (d b a : BitVec 6) (col : BitVec 8) (s : State) : Result :=
  finish (runVec p [b] [.s a] none none neverKeeps noBlock fun m vs s =>
    let t : BitVec 4 := d.setWidth 4
    match s.tileCheck t with
    | .error e => .error e
    | .ok _ =>
      let r := (s.cx.rs a).toNat % 64
      let v := vs.headD 0
      let s := s.mendTile s.cur.core t.toNat
      let x := s.tile t
      let x' :=
        if col = 1 then (activeList m).foldl (fun (x : Tile) i => x.set i r (lane v i)) x
        else x.setRow r v fun i => m.getLsbD i
      .ok (s.setTile t x').landRaised) s

/-! Spill images (05 R153). -/

def Tile.image (x : Tile) : List Byte :=
  x.rows.toList.flatMap (fun r => leBytes r.toNat 256) ++ leBytes x.rsum.toNat 256 ++ leBytes x.csum.toNat 256

/-- The tile that an image at a physical address spells, with its poisoned containers. -/
def State.imageAt (s : State) (a : Nat) : Tile :=
  { bad := if s.poison = [] then [] else (List.range 4096).filter fun n => s.badBytes (a + 4 * n) 4
    good := []
    rows := Vector.ofFn fun i => BitVec.ofNat 2048 (Mem.readLE s.mem (a + 256 * i.val) 256)
    rsum := BitVec.ofNat 2048 (Mem.readLE s.mem (a + 16384) 256)
    csum := BitVec.ofNat 2048 (Mem.readLE s.mem (a + 16640) 256) }

/-- The whole image in one PRIVATE or CORE entry outside any SEAL range. -/
def State.spillAccess (s : State) (va : Word) (write : Bool) : Except Stop Access :=
  match s.access va 16896 256 write with
  | .error e => .error e
  | .ok acc => if 2 ≤ acc.loc.kind ∨ acc.loc.sealed then .error (kindFault s va) else .ok acc

def execVspill (p : Pred) (d a x : BitVec 6) (sc : BitVec 3) (off : BitVec 24) (s : State) : Result :=
  finish (runVec p [] [.s a, .s x] none none neverKeeps noBlock fun _ _ s =>
    let t : BitVec 4 := d.setWidth 4
    match s.tileCheck t, s.spillAccess (s.cx.addrM a x sc off) true with
    | .error e, _ => .error e
    | _, .error e => .error e
    | .ok _, .ok acc =>
      let s := s.mendTile s.cur.core t.toNat
      let bad := if (s.tile t).bad = [] then 0 else ckiPOISON
      .ok (((s.storeAt (s.accessPa acc) (s.tile t).image).landRaised).landFlag bad)) s

/-- An image checked against its sums: the tile to load, and whether a container was corrected. -/
def Tile.checkImage (x : Tile) : Option (Tile × Bool) :=
  match x.classify with
  | .clean => some (x, false)
  | .single i j d => some (x.correct i j d, true)
  | _ => none

def execVfill (p : Pred) (d a x : BitVec 6) (sc : BitVec 3) (off : BitVec 24) (s : State) : Result :=
  finish (runVec p [] [.s a, .s x] none none neverKeeps noBlock fun _ _ s =>
    let t : BitVec 4 := d.setWidth 4
    match s.tileCheck t, s.spillAccess (s.cx.addrM a x sc off) false with
    | .error e, _ => .error e
    | _, .error e => .error e
    | .ok _, .ok acc =>
      match (s.imageAt (s.accessPa acc)).checkImage with
      | none => .error (s.trapHere 32 0 0)
      | some (x, fixed) =>
        let bad := s.badBytes (s.accessPa acc) 16896
        let (s', cki) := s.corrected fixed
        .ok ((s'.setTile t { x with bad := [], good := [] }).landFlag (cki ||| (if bad then ckiPOISON else 0)))) s

/-! The transposer (05 R154). -/

/-- The transposer is used with its grant (01 R26). -/
def State.xposeCheck (s : State) : Except Stop Unit :=
  if s.co.xowner = some s.cur.ctx then .ok () else .error (s.trapHere 9 0 0)

def execTxin (p : Pred) (a : BitVec 6) (s : State) : Result :=
  finish (runVec p [a] [] none none neverKeeps noBlock fun m vs s =>
    match s.xposeCheck with
    | .error e => .error e
    | .ok _ =>
      let k := s.co
      if 64 ≤ k.xf.toNat then .error (s.trapHere 12 0 0)
      else .ok (s.setCo { k with
        xpose := k.xpose.setRow k.xf.toNat (vs.headD 0) fun i => m.getLsbD i, xf := k.xf + 1 })) s

def execTxout (p : Pred) (d : BitVec 6) (s : State) : Result :=
  finish (runVec p [] [] (some d) none maskKeeps noBlock fun m _ s =>
    match s.xposeCheck with
    | .error e => .error e
    | .ok _ =>
      let k := s.co
      if k.xf ≠ 64 then .error (s.trapHere 12 0 0)
      else match k.xpose.checkLine true k.xg.toNat with
        | none => .error (s.trapHere 32 0 0)
        | some (x, fixed) =>
          let (s', cki) := s.corrected fixed
          let done := decide (k.xg.toNat = 63)
          let s' := s'.setCo { s'.co with
            xpose := x, xf := if done then 0 else k.xf, xg := if done then 0 else k.xg + 1 }
          .ok (s'.landElems .xpose d 32 (laneOn m) (fun i => ((lane (x.line true k.xg.toNat) i).toNat, 0)) cki)) s

def execTxclr (p : Pred) (s : State) : Result :=
  finish (runVec p [] [] none none neverKeeps noBlock fun _ _ s =>
    match s.xposeCheck with
    | .error e => .error e
    | .ok _ => .ok (s.setCo { s.co with xpose := Tile.zero, xf := 0, xg := 0 })) s

end Sys2Proof.Machine
end

