-- ==== Sys2Proof/Machine/Matrix.lean ====
section
/-! DEFINITION. The matrix engine: parameters, issue checks, accumulation order, rows, the compute check, stores and the
lattice commands (05 R134-R151, 06 R170-R180). -/

namespace Sys2Proof.Machine

/-! Parameters (05 R134). -/

structure MmaPar where
  abase : Word
  astr  : Word
  bbase : Word
  bstr  : Word
  m     : Nat
  n     : Nat
  k     : Nat
  tile  : Nat
  acc   : Bool
  lat   : Nat
  outa  : Word
  ksel  : Nat
  rowsc : Bool
  otype : Nat
  chain : Bool
  start : Nat
deriving DecidableEq, Repr

def bits (w : Word) (lo n : Nat) : Word := BitVec.ofNat 64 (fld w.toNat lo n)

/-- DEDUCED, log entry 28. -/
def mmaPar (r : Vector Word 8) : MmaPar where
  abase := bits (r.get 0) 0 48
  astr := bits (r.get 1) 0 32
  bbase := bits (r.get 2) 0 48
  bstr := bits (r.get 3) 0 32
  m := fld (r.get 4).toNat 0 7
  n := fld (r.get 4).toNat 7 7
  k := fld (r.get 4).toNat 14 16
  tile := fld (r.get 5).toNat 0 4
  acc := (r.get 5).getLsbD 4
  lat := fld (r.get 5).toNat 5 2
  outa := bits (r.get 6) 0 48
  ksel := fld (r.get 6).toNat 48 3
  rowsc := (r.get 6).getLsbD 51
  otype := fld (r.get 6).toNat 52 4
  chain := (r.get 6).getLsbD 56
  start := fld (r.get 7).toNat 0 7

/-- Bits of a parameter register that MSETP writes (05 R151). -/
def mWritable (n : Nat) : Word :=
  match n with
  | 0 => 0xFFFFFFFFFFFF
  | 1 => 0xFFFFFFFF
  | 2 => 0xFFFFFFFFFFFF
  | 3 => 0xFFFFFFFF
  | 4 => 0x3FFFFFFF
  | 5 => 0x7F
  | 6 => 0x1FFFFFFFFFFFFFF
  | _ => 0x7F

/-- Output types of MSTORE (05 R150). -/
def storeType (t : Nat) : Bool := decide (t ≤ 5) || (decide (8 ≤ t) && decide (t ≤ 12))

/-- Group length of a floating-point pair (05 R136). -/
def groupLen (ta : Nat) : Nat := if ta = 8 then 8 else if ta = 9 ∨ ta = 10 then 16 else 32

/-! Instructions. -/

def mRegs : List Reg := [.m 0, .m 1, .m 2, .m 3, .m 4, .m 5, .m 6, .m 7]

/-- The scale registers that rows `lo` to `hi - 1` take. -/
def scaleRegs (rowsc : Bool) (ksel lo hi : Nat) : List Reg :=
  if rowsc then ((List.range 8).filter fun r => decide (lo < 8 * r + 8) && decide (8 * r < hi)).map fun r => .k (BitVec.ofNat 3 r)
  else [.k (BitVec.ofNat 3 ksel)]

def execMsetp (p : Pred) (c a : BitVec 6) (s : State) : Result :=
  finish (runSlot p [.s a] noBlock fun s =>
    .ok (s.landLat 1 true (.m (c.setWidth 3)) ((s.cx.rs a &&& mWritable c.toNat).setWidth 2048) 0 0 0)) s

/-- m[C] with the RO fields of m7 as they stand (05 R151). -/
def Context.mword (c : Context) (n : BitVec 3) : Word :=
  if n = 7 then c.rm 7 ||| (c.mnext.setWidth 64 <<< 8) ||| (c.mseq.setWidth 64 <<< 16) else c.rm n

def execMgetp (p : Pred) (d c : BitVec 6) (s : State) : Result :=
  finish (runSlot p [.m (c.setWidth 3)] noBlock fun s => .ok (s.landS .sysrd d (s.cx.mword (c.setWidth 3)))) s

/-- A matrix command with its checks: RESOURCE_DENIED for a tile outside the mask, MATRIX_PARAM (05 R146). A command that
fails both raises RESOURCE_DENIED: the rule names no order. DESIGN CHOICE, log entry 81. -/
def State.issueMatrix (s : State) (d : BitVec 6) (cmd : Cmd) (prog : Nat) (bad : Bool) : Except Stop State :=
  if (Cmd.tiles cmd &&& ~~~s.tileMask) ≠ 0 then .error (s.trapHere 9 0 0)
  else if bad then .error (s.trapHere 11 0 0)
  else .ok (s.issue .mtx d cmd prog)

/-- A row-based command besides resets START at n + 1 and becomes the one that m7 reports (05 R141, R147). -/
def State.rowBased (s : State) (start : Nat) : State :=
  let s' := s.landLat 1 true (.m 7) 0 0 0 0
  s'.setCx { s'.cx with mnext := BitVec.ofNat 7 start, mseq := s.cx.mtx.issued.setWidth 32 }

/-- DEDUCED, log entry 28. -/
def MmaPar.bad (q : MmaPar) : Bool :=
  q.m == 0 || q.n == 0 || q.k == 0 || decide (64 < q.m) || decide (64 < q.n) || decide (q.m ≤ q.start) ||
  decide (2 ≤ q.lat) || decide (q.abase.toNat % 4 ≠ 0) || decide (q.astr.toNat % 4 ≠ 0) ||
  decide (q.bbase.toNat % 4 ≠ 0) || decide (q.bstr.toNat % 4 ≠ 0) ||
  (q.chain && (decide (q.outa.toNat % 4 ≠ 0) || !storeType q.otype))

def execMma (p : Pred) (d : BitVec 6) (ta tb : BitVec 4) (s : State) : Result :=
  let q := mmaPar s.cx.m
  let ks := if q.chain then scaleRegs q.rowsc q.ksel q.start q.m else []
  finish (runSlot p (mRegs ++ ks) (slotBlock .mtx) fun s =>
    match s.issueMatrix d (.mma ta.toNat tb.toNat s.cx.m s.cx.k) q.start q.bad with
    | .error e => .error e
    | .ok s' => .ok (s'.rowBased q.start)) s

def execMzero (p : Pred) (d : BitVec 6) (mask : BitVec 16) (s : State) : Result :=
  finish (runSlot p [] (slotBlock .mtx) fun s => s.issueMatrix d (.mzero mask) 0 false) s

/-- NROW, NCOL, START, address and stride of MLOAD and MSTORE (05 R146). -/
def rowsBad (nrow ncol start : Nat) (addr stride : Word) : Bool :=
  nrow == 0 || decide (64 < nrow) || ncol == 0 || decide (64 < ncol) || decide (nrow ≤ start) ||
  decide (addr.toNat % 4 ≠ 0) || decide (stride.toNat % 4 ≠ 0)

def execMload (p : Pred) (d c a b : BitVec 6) (t : BitVec 4) (nrow ncol : BitVec 7) (s : State) : Result :=
  finish (runSlot p [.s a, .s b, .m 7] (slotBlock .mtx) fun s =>
    let start := fld (s.cx.rm 7).toNat 0 7
    let x := s.cx.rs a
    let st := s.cx.rs b
    match s.issueMatrix d (.mload (c.setWidth 4) x st t.toNat nrow.toNat ncol.toNat start) start
      (rowsBad nrow.toNat ncol.toNat start x st) with
    | .error e => .error e
    | .ok s' => .ok (s'.rowBased start)) s

def execMstore (p : Pred) (d c a b : BitVec 6) (t tt : BitVec 4) (nrow ncol : BitVec 7) (s : State) : Result :=
  let m6 := s.cx.rm 6
  let start := fld (s.cx.rm 7).toNat 0 7
  let ks := scaleRegs (m6.getLsbD 51) (fld m6.toNat 48 3) start nrow.toNat
  finish (runSlot p ([.s a, .s b, .m 6, .m 7] ++ ks) (slotBlock .mtx) fun s =>
    let x := s.cx.rs a
    let st := s.cx.rs b
    match s.issueMatrix d
      (.mstore (c.setWidth 4) x st t.toNat tt.toNat nrow.toNat ncol.toNat start m6 s.cx.k) start
      (rowsBad nrow.toNat ncol.toNat start x st) with
    | .error e => .error e
    | .ok s' => .ok (s'.rowBased start)) s

/-! Accumulation (05 R137-R140). -/

/-- floor(log2 |t|) of a finite non-zero value. -/
def topBit (m : Nat) (e : Int) : Int := (Nat.log2 m : Int) + e

/-- trunc(t / 2^u) for a finite value. -/
def truncAt (u : Int) (neg : Bool) (m : Nat) (e : Int) : Int :=
  let q : Nat := if u ≤ e then m * 2 ^ (e - u).toNat else m / 2 ^ (u - e).toNat
  if neg then -(q : Int) else (q : Int)

def FVal.isZero : FVal → Bool
  | .fin _ m _ => m == 0
  | _ => false

/-- The largest exponent of the non-zero finite terms. -/
def maxTop : List FVal → Option Int
  | [] => none
  | .fin _ m e :: rest =>
    if m = 0 then maxTop rest
    else match maxTop rest with
      | some x => some (max x (topBit m e))
      | none => some (topBit m e)
  | _ :: rest => maxTop rest

/-- `group_sum` of 05 R137 before the subnormal rule. -/
def groupSum (rnd : Nat) (ts : List FVal) : Nat :=
  let pinf := ts.any (· == .inf false)
  let ninf := ts.any (· == .inf true)
  let zr : Nat := if rnd = 2 then 0x80000000 else 0
  if ts.any (· == .nan) ∨ (pinf ∧ ninf) then fp32.nan
  else if pinf then fp32.inf false
  else if ninf then fp32.inf true
  else match maxTop ts with
    | none => if ts.all FVal.isNeg then 0x80000000 else zr
    | some e =>
      let u := e - 47
      let sum : Int := (ts.map fun t => match t with
        | .fin neg m e' => truncAt u neg m e'
        | _ => 0).foldl (· + ·) 0
      if sum = 0 then zr else (roundFin fp32 rnd false (decide (sum < 0)) sum.natAbs u).1

/-- A non-zero FP32 subnormal. -/
def isSubnormal (x : Nat) : Bool := decide (fld x 23 8 = 0) && decide (fld x 0 23 ≠ 0)

/-- `mma_element_fp`: the container and whether any group result was subnormal. Under `keep` (the assist) subnormals
stay; otherwise they give a zero of their sign (05 R140). -/
def elemFp (rnd : Nat) (keep : Bool) (g : Nat) (c : Option Nat) : Nat → List FVal → Nat × Bool
  | 0, _ => (c.getD 0, false)
  | f + 1, ps =>
    if ps = [] then (c.getD 0, false)
    else
      let terms := (match c with
        | some x => [fp32.read x]
        | none => []) ++ ps.take g
      let y := groupSum rnd terms
      let sub := isSubnormal y
      let y' := if sub ∧ !keep then y / 2 ^ 31 * 2 ^ 31 else y
      let (r, sub') := elemFp rnd keep g (some y') f (ps.drop g)
      (r, sub || sub')

/-- The exact product of two operands (05 R137). -/
def product (a b : FVal) : FVal := (mulVal a b).1

/-- An operand's integer value and whether it is the reserved T2 code (05 R139). -/
def intOperand (t x : Nat) : Int × Bool := if t = 13 then t2Val x else (valT t x, false)

/-- What one element becomes: its container, whether a group result was subnormal, and the flags it raises. -/
structure ElemOut where
  val : W32
  sub : Bool
  cki : BitVec 11
deriving DecidableEq, Repr

/-- One element from its row of A and its column of B (05 R137, R139). -/
def mmaElem (ta tb rnd : Nat) (keep : Bool) (c : Option W32) (as bs : List Nat) : ElemOut :=
  if isFloatT ta then
    let ps := List.zipWith (fun x y => product ((fmtOf ta).read x) ((fmtOf tb).read y)) as bs
    let (r, sub) := elemFp rnd keep (groupLen ta) (c.map (·.toNat)) (ps.length + 1) ps
    ⟨BitVec.ofNat 32 r, sub, if fp32.read r = .nan then ckiCNAN else 0⟩
  else
    let xs := as.map (intOperand ta)
    let ys := bs.map (intOperand tb)
    let cin : Int := match c with
      | some x => x.toInt
      | none => 0
    let sum := cin + (List.zipWith (fun (x y : Int × Bool) => x.1 * y.1) xs ys).foldl (· + ·) 0
    let out := decide (sum < -(2 ^ 31)) || decide (2 ^ 31 - 1 < sum)
    ⟨BitVec.ofInt 32 sum, false,
      (if out then ckiIOVF else 0) ||| (if xs.any (·.2) || ys.any (·.2) then ckiT2RSV else 0)⟩

/-! Operands in memory (05 R135). -/

/-- Bytes that n elements of width w take. -/
def packedLen (n w : Nat) : Nat := (n * w + 7) / 8

/-- The elements of a packed row. -/
def unpack (x w n : Nat) : List Nat := (List.range n).map fun j => fld x (j * w) w

/-- A row of `n` elements of type `t`, read by the engine. -/
def State.operandRow (s : State) (core : Nat) (va : Word) (t n : Nat) : Eng (List Nat) :=
  (s.engCompute core va (packedLen n (typeWidth t))).bind fun x s => .ok (unpack x (typeWidth t) n) s

def rowAddr (base str : Word) (i : Nat) : Word := base + BitVec.ofNat 64 i * str

/-- Rows `k`, `k + 1`, … of B. -/
def State.operandRows (s : State) (core : Nat) (base str : Word) (t n k : Nat) : Nat → Eng (List (List Nat))
  | 0 => .ok [] s
  | f + 1 =>
    (s.operandRow core (rowAddr base str k) t n).bind fun r s =>
      (State.operandRows s core base str t n (k + 1) f).bind fun rest s => .ok (r :: rest) s

def column (b : List (List Nat)) (j : Nat) : List Nat := b.map fun r => r.getD j 0

/-! Rows (05 R141). -/

/-- Whether a flagged subnormal of the command is flushed or marked for the assist (05 R140). -/
def Pending.assists (p : Pending) : Bool := subnOf p.fmt

/-- The rows of B, read once for a command and held for its check (05 R135, 06 R170). -/
def State.operandB (s : State) (core : Nat) (p : Pending) (tb : Nat) (q : MmaPar) : Eng (List (List Nat)) :=
  if p.opB = [] then s.operandRows core q.bbase q.bstr tb q.n 0 q.k else .ok p.opB s

/-- One MMA row computed and committed. -/
def State.mmaRow (s : State) (core : Nat) (p : Pending) (ta tb : Nat) (q : MmaPar) : Eng Pending :=
  let i := p.prog
  (s.operandRow core (rowAddr q.abase q.astr i) ta q.k).bind fun as s =>
    (s.operandB core p tb q).bind fun b s =>
      let s := s.mendTile core q.tile
      let k := s.core core
      let x := k.tiles[q.tile]?.getD Tile.zero
      let old := x.rows[i]?.getD 0
      let outs := (List.range q.n).map fun j =>
        mmaElem ta tb (rndOf p.fmt) false (if q.acc then some (lane old j) else none) as (column b j)
      let new := ofLanes fun j => match outs[j]? with
        | some o => o.val
        | none => lane old j
      let subs := (List.range q.n).filter fun j => (outs[j]?.map (·.sub)).getD false
      let cki := outs.foldl (fun a o => a ||| o.cki) 0
      let s := s.setCore core { k with tiles := vmod k.tiles q.tile fun x => x.setRow i new fun j => decide (j < q.n) }
      let here := subs.map fun j => (i, j)
      let s := s.tasteSums (q.acc && x.badTo i q.n)
      .ok { p with
        prog := i + 1
        opA := p.opA ++ [as]
        opB := b
        tileIn := p.tileIn ++ [if q.acc then old else 0]
        marks := if p.assists then p.marks ++ here else p.marks
        flush := if p.assists then p.flush else p.flush ++ here
        cki := p.cki ||| cki ||| s.raised ||| (if subs ≠ [] ∧ !p.assists then ckiSUBNF else 0) } s

/-- The container that MLOAD writes (05 R149). -/
def loadContainer (t x : Nat) : W32 :=
  match t with
  | 0 => BitVec.ofInt 32 (valT 0 x)
  | 2 => BitVec.ofInt 32 (valT 2 x)
  | 9 => BitVec.ofNat 32 (convert 9 8 0 x).1
  | 10 => BitVec.ofNat 32 (convert 10 8 0 x).1
  | _ => BitVec.ofNat 32 x

def State.loadMatRow (s : State) (core : Nat) (p : Pending) (tile : BitVec 4) (addr stride : Word) (t ncol : Nat) :
    Eng Pending :=
  let i := p.prog
  (s.operandRow core (rowAddr addr stride i) t ncol).bind fun xs s =>
    let s := s.mendTile core tile.toNat
    let k := s.core core
    let new := ofLanes fun j => loadContainer t (xs.getD j 0)
    let nan := isFloatT t && (List.range ncol).any fun j => fp32.read (lane new j).toNat == .nan
    let s := s.setCore core { k with
      tiles := vmod k.tiles tile.toNat fun x => x.setRow i new fun j => decide (j < ncol) }
    .ok { p with prog := i + 1, cki := p.cki ||| s.raised ||| (if nan then ckiCNAN else 0) } s

/-- A row's pieces written: all, or freely the first few while the rest stand in the command until its next step (07 R191); what
goes out of the node goes at once. DEDUCED, log entry 24. -/
def State.putRow (s : State) (l : List (Xlat × Marked)) : State × List (Nat × Marked) :=
  let far := l.filter fun x => x.1.peer.isSome || isHostWin x.1.pa
  let near := l.filter fun x => x.1.peer.isNone && !isHostWin x.1.pa
  let s := s.putPieces far
  match s.choose (none :: (List.range near.length).map some) with
  | (some (some k), s) => (s.putPieces (near.take k), (near.drop k).map fun x => (x.1.pa, x.2))
  | (_, s) => (s.putPieces near, [])

/-- One output row: `ncol` elements of type `t` from row i of a tile read as `tt` (05 R150). A row that does not translate whole
is not written (05 R142). -/
def State.storeMatRow (s : State) (core : Nat) (p : Pending) (tile i : Nat) (va : Word) (t tt ncol : Nat) (k : W32) :
    Eng Pending :=
  if p.ahead ≠ [] then
    .ok { p with ahead := [] } (s.putPieces (p.ahead.map fun x => (⟨x.1, false, none, 0⟩, x.2)))
  else
  let s := s.mendTile core tile
  let x := (s.core core).tiles[tile]?.getD Tile.zero
  let s := s.tasteSums (x.badTo i ncol)
  let row := x.rows[i]?.getD 0
  let outs := (List.range ncol).map fun j => (convertScaled tt t p.fmt (lane row j).toNat k.toNat).1
  let nan := isFloatT t && outs.any fun x => (fmtOf t).read x == .nan
  let bytes := outs.flatMap fun x => leBytes x (typeWidth t / 8)
  match s.piecesFrom core va (bytes.length + 1) (clean bytes) with
  | .ok l s =>
    let (s, rest) := if l.length ≤ 1 then (s.putPieces l, []) else s.putRow l
    .ok { p with parts := [], ahead := rest, cki := p.cki ||| s.raised ||| (if nan then ckiCNAN else 0) } s
  | .fault fs t => .fault fs (s.unwritten t)
  | .stop c va t => .stop c va (s.unwritten t)
  | .freeze va w t => .freeze va w (s.unwritten t)

def scaleOf (ks : Vector W32 8) (rowsc : Bool) (ksel i : Nat) : W32 := ks[if rowsc then i / 8 else ksel]?.getD 0

/-- Whether a command still has a row to commit, and the commit of its next one. -/
def Pending.rowLeft (p : Pending) : Bool :=
  match p.cmd with
  | .mma _ _ r _ => decide (p.prog < (mmaPar r).m) && p.failed.isNone
  | .mload _ _ _ _ nrow _ _ => decide (p.prog < nrow)
  | .mstore _ _ _ _ _ nrow _ _ _ _ => decide (p.prog < nrow)
  | _ => false

def State.commitRow (s : State) (core : Nat) (p : Pending) : Eng Pending :=
  match p.cmd with
  | .mma ta tb r _ => s.mmaRow core p ta tb (mmaPar r)
  | .mload tile addr str t _ ncol _ => s.loadMatRow core p tile addr str t ncol
  | .mstore tile addr str t tt _ ncol _ m6 ks =>
    (s.storeMatRow core p tile.toNat p.prog (rowAddr addr str p.prog) t tt ncol
      (scaleOf ks (m6.getLsbD 51) (fld m6.toNat 48 3) p.prog)).bind fun p' s =>
        .ok { p' with prog := if p'.ahead = [] then p.prog + 1 else p.prog } s
  | _ => .ok p s

/-- NEXT of m7 follows the context's most recent row-based command (05 R141). -/
def State.noteNext (s : State) (core : Nat) (i : BitVec 2) (p : Pending) : State :=
  let c := s.ctxAt core i
  if c.mseq = p.seq.setWidth 32 then s.setCtxAt core i { c with mnext := BitVec.ofNat 7 p.prog } else s

/-- One row, or what its fault does. -/
def State.rowStep (s : State) (core : Nat) (i : BitVec 2) (p : Pending) : State :=
  match (s.actCmd core i p).commitRow core p with
  | .ok p' s' => (s'.setCmd core i .mtx p').noteNext core i p'
  | .fault fs s' => engineEnd core i .mtx p (.fault fs s')
  | .stop c va s' =>
    match p.cmd with
    | .mma .. => s'.setCmd core i .mtx { p with failed := some c, faddr := va, cki := p.cki ||| s'.raised }
    | _ => engineEnd core i .mtx p (.stop c va s')
  | .freeze va w s' => engineEnd core i .mtx p (.freeze va w s')

/-! The compute check (06 R170-R173). -/

/-- A finite value counted in units of 2^-u. -/
def scaled (u : Nat) : FVal → Int
  | .fin neg m e => truncAt (-(u : Int)) neg m e
  | _ => 0

def FVal.special : FVal → Bool
  | .nan => true
  | .inf _ => true
  | _ => false

/-- A table of operand values: integers for the integer pairs, units of 2^-300 for the floating-point pairs. -/
def operandInt (t x : Nat) : Int := if isFloatT t then scaled 300 ((fmtOf t).read x) else (intOperand t x).1

def sumInt (l : List Int) : Int := l.foldl (· + ·) 0

/-- One line's values: observed and predicted sums, S, f, and whether it is left out. -/
structure CheckLine where
  obs  : Int
  pred : Int
  size : Int
  fl   : Nat
  skip : Bool
deriving DecidableEq, Repr

/-- Whether a line is out (06 R171, R172). -/
def CheckLine.out (l : CheckLine) (fp : Bool) (tol : Nat) : Bool :=
  if fp then
    let r : Nat := if tol = 0 then 16 else if tol = 1 then 12 else 8
    !l.skip && decide (l.size + (1 + l.fl) * 2 ^ (600 - 126) * 2 ^ r < (l.obs - l.pred).natAbs * 2 ^ r)
  else decide ((l.obs - l.pred) % 2 ^ 32 ≠ 0)

/-- The values that the check compares: the container read as the pair's tile contents, in units of 2^-600. -/
def containerInt (fp : Bool) (x : W32) : Int := if fp then scaled 600 (fp32.read x.toNat) else x.toInt

/-- A row's line from the rows of A and B and the incoming and committed row. -/
def rowLine (ta tb : Nat) (a : List Nat) (b : List (List Nat)) (n : Nat) (cin cout : VReg) (fl : Nat) : CheckLine :=
  let fp := isFloatT ta
  let js := List.range n
  let bsum := b.map fun r => sumInt (js.map fun j => operandInt tb (r.getD j 0))
  { obs := sumInt (js.map fun j => containerInt fp (lane cout j) - containerInt fp (lane cin j))
    pred := sumInt (List.zipWith (fun x y => operandInt ta x * y) a bsum)
    size := sumInt (js.map fun j => (containerInt fp (lane cout j)).natAbs + (containerInt fp (lane cin j)).natAbs)
    fl := fl
    skip := fp && (js.any (fun j => (fp32.read (lane cout j).toNat).special || (fp32.read (lane cin j).toNat).special) ||
      a.any (fun x => ((fmtOf ta).read x).special) || b.any (fun r => r.any fun y => ((fmtOf tb).read y).special)) }

/-- A column's line. -/
def colLine (ta tb : Nat) (as : List (List Nat)) (bcol : List Nat) (cins couts : List W32) (fl : Nat) : CheckLine :=
  let fp := isFloatT ta
  let ks := List.range bcol.length
  let asum := ks.map fun k => sumInt (as.map fun r => operandInt ta (r.getD k 0))
  { obs := sumInt (List.zipWith (fun x y => containerInt fp x - containerInt fp y) couts cins)
    pred := sumInt (List.zipWith (fun x y => x * operandInt tb y) asum bcol)
    size := sumInt (List.zipWith (fun x y => ((containerInt fp x).natAbs + (containerInt fp y).natAbs : Int)) couts cins)
    fl := fl
    skip := fp && (couts.any (fun x => (fp32.read x.toNat).special) || cins.any (fun x => (fp32.read x.toNat).special) ||
      as.any (fun r => r.any fun x => ((fmtOf ta).read x).special) || bcol.any fun y => ((fmtOf tb).read y).special) }

/-- The lines of a command that are out: rows and columns. -/
def State.outLines (s : State) (core : Nat) (p : Pending) (ta tb : Nat) (q : MmaPar) (as b : List (List Nat)) :
    List Nat × List Nat :=
  let x := (s.core core).tiles[q.tile]?.getD Tile.zero
  let is := (List.range (p.prog - q.start)).map (· + q.start)
  let fp := isFloatT ta
  let cin (i : Nat) : VReg := p.tileIn.getD (i - q.start) 0
  let rows := is.filter fun i =>
    (rowLine ta tb (as.getD (i - q.start) []) b q.n (cin i) (x.rows[i]?.getD 0)
      (p.flush.filter fun c => c.1 == i).length).out fp (tolOf p.fmt)
  let cols := (List.range q.n).filter fun j =>
    (colLine ta tb as (column b j) (is.map fun i => lane (cin i) j) (is.map fun i => x.cell i j)
      (p.flush.filter fun c => c.2 == j).length).out fp (tolOf p.fmt)
  (rows, cols)

/-- One element recomputed from operands read again (06 R173, 05 R140): under SUBN = 1 with its subnormals kept, as the
assist keeps them, and otherwise flushed and counted. -/
def State.recomputeElem (s : State) (core : Nat) (p : Pending) (ta tb : Nat) (q : MmaPar) (i j : Nat) : Eng Pending :=
  (s.operandRow core (rowAddr q.abase q.astr i) ta q.k).bind fun a s =>
    (s.operandRows core q.bbase q.bstr tb q.n 0 q.k).bind fun b s =>
      let old := p.tileIn.getD (i - q.start) 0
      let o := mmaElem ta tb (rndOf p.fmt) p.assists (if q.acc then some (lane old j) else none) a (column b j)
      let s := s.mendTile core q.tile
      let k := s.core core
      let rest := p.flush.filter (· ≠ (i, j))
      .ok { p with
        flush := if o.sub ∧ !p.assists then rest ++ [(i, j)] else rest
        cki := p.cki ||| o.cki ||| s.raised ||| (if !o.sub then 0 else if p.assists then ckiSUBNA else ckiSUBNF) }
        (s.setCore core { k with tiles := vmod k.tiles q.tile fun x => x.set i j o.val })

/-- The check of the committed rows against the operands they used; the answer holds the command with its flags and whether
it passed (06 R170, R173). An element that fails the second check keeps its recomputed value. DESIGN CHOICE, log entry 80. -/
def State.computeCheck (s : State) (core : Nat) (p : Pending) (ta tb : Nat) (q : MmaPar) : Eng (Pending × Bool) :=
  match s.outLines core p ta tb q p.opA p.opB with
  | ([], []) => .ok (p, true) s
  | ([i], [j]) =>
    (s.recomputeElem core p ta tb q i j).bind fun p s =>
      let (rows, cols) := s.outLines core p ta tb q p.opA p.opB
      if rows.contains i ∨ cols.contains j then .ok ({ p with cki := p.cki ||| ckiLFAULT }, false) s
      else
        let k := s.core core
        .ok ({ p with cki := p.cki ||| ckiLCORR }, true)
          (s.setCore core { k with ccorr := if k.ccorr = 0xFFFFFFFF then k.ccorr else k.ccorr + 1 })
  | _ => .ok ({ p with cki := p.cki ||| ckiLFAULT }, false) s

/-! Lattice commands (06 R176-R180). -/

def tileAligned (a : Word) (n : Nat) : Bool := decide (a.toNat % n = 0)

def execSeal (p : Pred) (d a b : BitVec 6) (s : State) : Result :=
  finish (runSlot p [.s a, .s b] (slotBlock .mtx) fun s =>
    let x := s.cx.rs a
    let n := (s.cx.rs b).toNat
    s.issueMatrix d (.seal x n) 0 (!tileAligned x 16384 || decide (2 ^ 24 < n))) s

def execSealAcc (p : Pred) (d c : BitVec 6) (s : State) : Result :=
  finish (runSlot p [] (slotBlock .mtx) fun s => s.issueMatrix d (.sealAcc (c.setWidth 4)) 0 false) s

/-- SCHECK and SFIX in memory. -/
def scheckMem (fix : Bool) (p : Pred) (d a b c : BitVec 6) : State → Result :=
  finish (runSlot p [.s a, .s b, .s c] (slotBlock .mtx) fun s =>
    let x := s.cx.rs a
    let n := (s.cx.rs b).toNat
    let r := s.cx.rs c
    s.issueMatrix d (.scheck x n r fix) 0 (!tileAligned x 16384 || decide (2 ^ 24 < n) || !tileAligned r 32))

def scheckTile (fix : Bool) (p : Pred) (d c a : BitVec 6) : State → Result :=
  finish (runSlot p [.s a] (slotBlock .mtx) fun s =>
    let r := s.cx.rs a
    s.issueMatrix d (.scheckAcc (c.setWidth 4) r fix) 0 (!tileAligned r 32))

def execScheck (p : Pred) (d a b c : BitVec 6) (s : State) : Result := scheckMem false p d a b c s
def execScheckAcc (p : Pred) (d c a : BitVec 6) (s : State) : Result := scheckTile false p d c a s
def execSfix (p : Pred) (d a b c : BitVec 6) (s : State) : Result := scheckMem true p d a b c s
def execSfixAcc (p : Pred) (d c a : BitVec 6) (s : State) : Result := scheckTile true p d c a s

def execSquery (p : Pred) (d a b : BitVec 6) (s : State) : Result :=
  finish (runSlot p [.s a, .s b] (slotBlock .mtx) fun s =>
    let x := s.cx.rs a
    let r := s.cx.rs b
    s.issueMatrix d (.squery x r) 0 (!tileAligned x 16384 || !tileAligned r 64)) s

def execSqueryAcc (p : Pred) (d c b : BitVec 6) (s : State) : Result :=
  finish (runSlot p [.s b] (slotBlock .mtx) fun s =>
    let r := s.cx.rs b
    s.issueMatrix d (.squeryAcc (c.setWidth 4) r) 0 (!tileAligned r 64)) s

/-- A sealed tile that a memory form names; KIND_FAULT outside a SEAL range (06 R178), which a page on a peer or in the host
window counts as. A page of HBM that has no records yet is given them, as SEAL gives them. DESIGN CHOICE, log entry 92. -/
def State.tileOf (s : State) (core : Nat) (va : Word) : Eng Nat :=
  (s.engPart core va 16384 false).bind fun x s =>
    if x.peer.isSome ∨ isHostWin x.pa then .stop 11 va s
    else (s.engSeal core va false x).bind fun x s =>
      match s.sealedTile x.pa with
      | some t => .ok t s
      | none => .stop 11 va s

/-- What a tile shows (06 R179): its kind, row, column and delta. -/
structure Finding where
  kind  : Nat
  row   : Nat
  col   : Nat
  delta : W32
deriving DecidableEq, Repr

def Finding.ofVerdict (repaired : Bool) : Verdict → Finding
  | .broken => ⟨4, 0, 0, 0⟩
  | .multi i j => ⟨3, i, j, 0⟩
  | .single i j d => ⟨1, i, j, d⟩
  | .clean => if repaired then ⟨2, 0, 0, 0⟩ else ⟨0, 0, 0, 0⟩

/-- A memory tile examined: its finding, and the state with repairs and a correction made. -/
def State.examine (s : State) (t : Nat) : Finding × State :=
  if (s.latOf t).broken then (⟨4, 0, 0, 0⟩, s)
  else
    let bad := s.badCells t
    let left := (s.repairAll t bad).badCells t
    let (s', v) := s.checkTile t
    match left, bad, v with
    | (i, j) :: _, _, _ => (⟨5, i, j, 0⟩, s')
    | [], (i, j) :: _, .clean => (⟨2, i, j, 0⟩, s')
    | [], _, v => (Finding.ofVerdict false v, s')

/-- A tally with one more tile. -/
def Tally.add (t : Tally) (f : Finding) (addr : Nat) : Tally :=
  let t := if f.kind ≠ 0 ∧ t.kind = 0 then
    { t with first := addr, kind := f.kind, row := f.row, col := f.col, delta := f.delta } else t
  { t with
    tiles := t.tiles + 1
    clean := t.clean + (if f.kind = 0 then 1 else 0)
    single := t.single + (if f.kind = 1 ∨ f.kind = 2 then 1 else 0)
    failed := t.failed + (if 3 ≤ f.kind then 1 else 0) }

/-- The 32-byte result record (06 R179). -/
def Tally.bytes (t : Tally) : List Byte :=
  leBytes t.tiles 4 ++ leBytes t.clean 4 ++ leBytes t.single 4 ++ leBytes t.failed 4 ++
  leBytes (t.first % 2 ^ 48 + t.kind * 2 ^ 48) 8 ++ leBytes t.row 1 ++ leBytes t.col 1 ++ leBytes 0 2 ++
  leBytes t.delta.toNat 4

/-- The 576-byte image of SQUERY (06 R180). -/
def queryImage (r : LatRec) (addr : Nat) : List Byte :=
  leBytes r.rsum.toNat 256 ++ leBytes r.csum.toNat 256 ++ leBytes (if r.broken then 1 else 0) 8 ++ leBytes addr 8 ++
  leBytes 0 48

def tileVa (base : Word) (n : Nat) : Word := base + BitVec.ofNat 64 (16384 * n)

/-- What a walk has raised stands in its command already. -/
def State.walkQuiet (s : State) : State := { s with raised := 0 }

/-- SCHECK, SFIX and SQUERY set LCORR only, and only when SFIX corrects (06 R174). -/
def fixFlags (fix : Bool) (raised : BitVec 11) : BitVec 11 := if fix then raised &&& ckiLCORR else 0

/-- One tile of a SEAL, SCHECK or SFIX walk. -/
def State.walkTile (s : State) (core : Nat) (p : Pending) : Eng Pending :=
  match p.cmd with
  | .seal base _ =>
    (s.tileOf core (tileVa base p.prog)).bind fun t s =>
      let s := s.sealTile t
      .ok { p with prog := p.prog + 1, cki := p.cki ||| s.raised } s
  | .scheck base _ _ fix =>
    let va := tileVa base p.prog
    (s.tileOf core va).bind fun t s =>
      let (f, s') := s.examine t
      let s'' := if fix then s' else s
      .ok { p with prog := p.prog + 1, tally := p.tally.add f va.toNat, cki := p.cki ||| fixFlags fix s''.raised } s''
  | _ => .ok p s

def walkLength (c : Cmd) : Nat :=
  match c with
  | .seal _ n => n
  | .scheck _ n _ _ => n
  | _ => 0

/-- The walk from the first tile not done. -/
def State.walkFrom (s : State) (core : Nat) (p : Pending) : Nat → Eng Pending × Pending
  | 0 => (.ok p s, p)
  | f + 1 =>
    if p.prog < walkLength p.cmd then
      match s.walkTile core p with
      | .ok p' s' => State.walkFrom s' core p' f
      | e => (e, p)
    else (.ok p s, p)

/-- The result record of a walk or of an accumulator check; `none` where the command writes none. -/
def resultAt (c : Cmd) : Option Word :=
  match c with
  | .scheck _ _ r _ => some r
  | .scheckAcc _ r _ => some r
  | _ => none

/-- The record written, then the command complete or stopped with its cause. -/
def State.report (s : State) (core : Nat) (i : BitVec 2) (p : Pending) : State :=
  let close (p : Pending) (s : State) : State :=
    match p.failed with
    | some c => s.stopCmd core i .mtx p c p.faddr
    | none => s.complete core i .mtx p
  match resultAt p.cmd with
  | none => close p s
  | some r =>
    match s.engPut core p.parts r (clean p.tally.bytes) with
    | .ok _ s' => close p s'
    | .fault fs s' => engineEnd core i .mtx { p with stage := 1 } (.fault fs s'.walkQuiet)
    | .stop c va s' => engineEnd core i .mtx p (.stop c va s'.walkQuiet)
    | .freeze va w s' => engineEnd core i .mtx p (.freeze va w s'.walkQuiet)

/-- An accumulator tile examined (06 R180): SFIX corrects a SINGLE pattern of its other lines even where an erasure stays. -/
def State.examineAcc (s : State) (core : Nat) (t : BitVec 4) (fix : Bool) : Finding × State :=
  let left := ((s.mendTile core t.toNat).core core).tiles[t.toNat]?.getD Tile.zero
  let was := (s.core core).tiles.get t.toFin
  let s := if fix then s.mendTile core t.toNat else s
  let k := s.core core
  let x := k.tiles.get t.toFin
  let s := match fix, left.classify with
    | true, .single i j d => (s.setCore core { k with tiles := k.tiles.set t.toNat (x.correct i j d) t.isLt }).scorrect
    | _, _ => s
  match was.bad, left.bad, left.classify with
  | _, n :: rest, _ =>
    let m := rest.foldl min n
    (⟨5, m / 64, m % 64, 0⟩, s)
  | n :: rest, [], .clean =>
    let m := rest.foldl min n
    (⟨2, m / 64, m % 64, 0⟩, s)
  | _, _, v => (Finding.ofVerdict false v, s)

/-- SQUERY: the image of one tile's record. -/
def State.query (s : State) (core : Nat) (i : BitVec 2) (p : Pending) (r : LatRec) (addr : Nat) (image : Word) : State :=
  let bs := clean (queryImage r addr)
  match s.someRows core image bs with
  | (some t, _) => t.setCmd core i .mtx p
  | (none, s) =>
    match s.engPut core p.parts image bs with
    | .ok _ s' => s'.complete core i .mtx p
    | .fault fs s' => engineEnd core i .mtx p (.fault fs s'.walkQuiet)
    | .stop c va s' => engineEnd core i .mtx p (.stop c va s'.walkQuiet)
    | .freeze va w s' => engineEnd core i .mtx p (.freeze va w s'.walkQuiet)

/-- A lattice command brought as far as it goes. -/
def State.runLattice (s : State) (core : Nat) (i : BitVec 2) (p : Pending) : State :=
  match p.cmd with
  | .sealAcc t =>
    let k := s.core core
    let x := k.tiles.get t.toFin
    let s := (s.setCore core { k with tiles := vmod k.tiles t.toNat fun x => { Tile.ofRows x.rows with bad := x.bad, good := x.good } }).tasteSums
      (x.bad != [])
    s.complete core i .mtx (p.take s)
  | .scheckAcc t _ fix =>
    if p.stage = 1 then s.report core i p
    else
      let (f, s') := s.examineAcc core t fix
      s'.report core i { p with tally := p.tally.add f t.toNat, cki := p.cki ||| fixFlags fix s'.raised }
  | .squeryAcc t image => s.query core i p (Tile.record ((s.core core).tiles.get t.toFin)) t.toNat image
  | .squery a image =>
    match s.tileOf core a with
    | .ok t s' => s'.query core i p (s'.latOf t) a.toNat image
    | .fault fs s' => engineEnd core i .mtx p (.fault fs s'.walkQuiet)
    | .stop c va s' => engineEnd core i .mtx p (.stop c va s'.walkQuiet)
    | .freeze va w s' => engineEnd core i .mtx p (.freeze va w s'.walkQuiet)
  | _ =>
    if p.stage = 1 ∨ p.failed.isSome then s.report core i p
    else match s.walkFrom core p (walkLength p.cmd + 1) with
      | (.ok p' s', _) => s'.report core i p'
      | (.fault fs s', p') => engineEnd core i .mtx p' (.fault fs s'.walkQuiet)
      | (.stop c va s', p') => s'.report core i { p' with failed := some c, faddr := va }
      | (.freeze va w s', p') => engineEnd core i .mtx p' (.freeze va w s'.walkQuiet)

/-! Serving order and events (05 R143). -/

/-- The incomplete matrix commands of a core with their contexts. -/
def Core.matrixCmds (k : Core) : List (BitVec 2 × Pending) :=
  [0, 1, 2, 3].flatMap fun i : BitVec 2 =>
    ((k.ctxs.get i.toFin).mtx.cmds.filter fun p => p.phase != .done).map fun p => (i, p)

/-- The command that the engine serves: the first by issue order that waits, past commands of other contexts with other
tiles that wait for a fault reply, await assist or have stopped. -/
def Core.serving (k : Core) : Option (BitVec 2 × Pending) :=
  let l := k.matrixCmds
  let can (i : BitVec 2) (p : Pending) : Bool :=
    p.phase == .waiting && l.all fun (j, q) =>
      decide (p.order ≤ q.order) || (j != i && (Cmd.tiles q.cmd &&& Cmd.tiles p.cmd) == 0 &&
        (q.phase != .waiting || l.any fun (h, r) => decide (r.order < q.order) && r.phase != .waiting &&
          (h == j || (Cmd.tiles r.cmd &&& Cmd.tiles q.cmd) != 0)))
  l.foldl (fun best (i, p) =>
    if can i p then
      match best with
      | some (_, b) => if p.order < b.order then some (i, p) else best
      | none => some (i, p)
    else best) none

/-- One row of the command being served (05 R141). -/
def execMmaRowCommit (core : BitVec 9) (s : State) : Result :=
  let n := core.toNat
  match (s.core n).serving with
  | some (i, p) => settle (if p.rowLeft then s.rowStep n i p else s)
  | none => settle s

/-- Whether a command's row is written in part (07 R191). -/
def State.midRow (s : State) (core : Nat) (i : BitVec 2) (seq : Word) : Bool :=
  match s.cmd core i .mtx seq with
  | some p => p.ahead != []
  | none => false

/-- Every row left, until one faults or others look in between. -/
def State.allRows (s : State) (core : Nat) (i : BitVec 2) (seq : Word) : Nat → State
  | 0 => s
  | f + 1 =>
    match s.cmd core i .mtx seq with
    | some p =>
      if p.phase = .waiting ∧ p.rowLeft then
        let s := s.rowStep core i p
        if s.midRow core i seq then s else State.allRows s core i seq f
      else s
    | none => s

/-- The chained store of an MMA (05 R147): rows from START, the row counted in `stage` − 1. -/
def State.chainRows (s : State) (core : Nat) (i : BitVec 2) (q : MmaPar) (tt : Nat) (ks : Vector W32 8) (p : Pending) :
    Nat → State
  | 0 => s.complete core i .mtx p
  | f + 1 =>
    let r := p.stage - 1
    if q.m ≤ r then s.complete core i .mtx p
    else match s.storeMatRow core p q.tile r (q.outa + BitVec.ofNat 64 (256 * r)) q.otype tt q.n
        (scaleOf ks q.rowsc q.ksel r) with
      | .ok p' s' =>
        if p'.ahead = [] then State.chainRows s' core i q tt ks { p' with stage := p.stage + 1 } f
        else s'.setCmd core i .mtx p'
      | .fault fs s' => engineEnd core i .mtx p (.fault fs s')
      | .stop c va s' => engineEnd core i .mtx p (.stop c va s')
      | .freeze va w s' => engineEnd core i .mtx p (.freeze va w s')

/-- An MMA whose rows are done or that is to stop: assist, check, chained store (05 R140, R142, R147). -/
def State.endMma (s : State) (core : Nat) (i : BitVec 2) (p : Pending) (ta tb : Nat) (r : Vector Word 8)
    (ks : Vector W32 8) : State :=
  let q := mmaPar r
  let tt := if isFloatT ta then 8 else 4
  if p.marks ≠ [] then s.setCmd core i .mtx { p with phase := .assist }
  else
    let last (p : Pending) (s : State) : State :=
      match p.failed with
      | some c => s.stopCmd core i .mtx p c p.faddr
      | none => if q.chain then s.chainRows core i q tt ks p 65 else s.complete core i .mtx p
    if p.stage = 0 then
      let p1 := { p with stage := q.start + 1 }
      if q.lat = 0 ∧ tolOf p.fmt ≠ 3 then
        match s.computeCheck core p ta tb q with
        | .ok (p', true) s' => last { p' with stage := q.start + 1 } s'
        | .ok (p', false) s' =>
          match p.failed with
          | some c => s'.stopCmd core i .mtx p' c p.faddr
          | none => s'.stopCmd core i .mtx p' 9 0
        | .fault fs s' => engineEnd core i .mtx p (.fault fs s')
        | .stop c va s' => engineEnd core i .mtx p (.stop (p.failed.getD c) (if p.failed.isSome then p.faddr else va) s')
        | .freeze va w s' => engineEnd core i .mtx p (.freeze va w s')
      else last p1 s
    else last p s

/-- 05 R147: what is left of the command being served. -/
def execMatrixComplete (core : BitVec 9) (s : State) : Result :=
  let n := core.toNat
  match (s.core n).serving with
  | none => settle s
  | some (i, p) =>
    let s := (s.actFor n i).allRows n i p.seq 65
    match s.cmd n i .mtx p.seq with
    | none => settle s
    | some p =>
      let s := s.actCmd n i p
      if p.phase ≠ .waiting ∨ p.rowLeft then settle s
      else match p.cmd with
        | .mma ta tb r ks => settle (s.endMma n i p ta tb r ks)
        | .mzero m =>
          let k := s.core n
          settle ((s.setCore n { k with
            tiles := k.tiles.mapIdx fun t x => if m.getLsbD t then Tile.zero else x }).complete n i .mtx p)
        | .mload .. => settle (s.complete n i .mtx p)
        | .mstore .. => settle (s.complete n i .mtx p)
        | _ => settle (s.runLattice n i p)

/-! The subnormal assist (05 R140). -/

/-- Whether a cluster's control cores run in split mode (16 R437). -/
def State.splitAt (s : State) (cluster : Nat) : Bool :=
  match s.partOfCore (8 * cluster) with
  | some (_, p) => Part.split p
  | none => false

/-- A value as the control core computes it: in split mode it may be wrong, and is written as computed (16 R437). -/
def State.assistValue (s : State) (core : Nat) (v : W32) : W32 × State :=
  if s.splitAt (core / 8) then
    let (wrong, s) := s.choose [false, true]
    let (w, s) := s.draw
    (if wrong = some true then w.setWidth 32 else v, s)
  else (v, s)

/-- The marked elements recomputed with their subnormals kept; the answer holds the flags of what was written, which stand even
where a later element cannot be computed (05 R138). -/
def State.assistFrom (s : State) (core : Nat) (p : Pending) (ta tb : Nat) (q : MmaPar) : List (Nat × Nat) → Eng (BitVec 11)
  | [] => .ok 0 s
  | (i, j) :: rest =>
    (s.operandRow core (rowAddr q.abase q.astr i) ta q.k).bind fun as s =>
      (s.operandRows core q.bbase q.bstr tb q.n 0 q.k).bind fun b s =>
        let old := p.tileIn.getD (i - q.start) 0
        let o := mmaElem ta tb (rndOf p.fmt) true (if q.acc then some (lane old j) else none) as (column b j)
        let (v, s) := s.assistValue core o.val
        let s := s.mendTile core q.tile
        let k := s.core core
        (State.assistFrom ((s.setCore core { k with tiles := vmod k.tiles q.tile fun x => x.set i j v }).raise o.cki)
          core p ta tb q rest).bind fun fl s => .ok (o.cki ||| fl) s

/-- A failed work item stops its command with NOTVALID for a translation fault and PHYS otherwise (01 R12). -/
def assistCause (c : Nat) : Nat := if c = 1 ∨ c = 2 ∨ c = 3 then 1 else 4

/-! Lockstep (16 R434-R437). -/

/-- Contexts of a core at a mismatch of its cluster's pair: every task that still fetches becomes Halted. -/
def State.haltCtxs (s : State) (core : Nat) : List (BitVec 2) → State
  | [] => s
  | i :: rest =>
    let c := s.ctxAt core i
    State.haltCtxs (if c.st = .free ∨ c.exiting then s else s.setCtxAt core i { c with st := .halted }) core rest

def clusterCores (cluster : Nat) : List Nat := (List.range 8).map fun c => 8 * cluster + c

def State.haltCores (s : State) : List Nat → State
  | [] => s
  | n :: rest => State.haltCores (s.haltCtxs n [0, 1, 2, 3]) rest

/-- The partitions with a task in a cluster. -/
def State.clusterParts (s : State) (cluster : Nat) : List Nat :=
  ((clusterCores cluster).flatMap fun n => (s.core n).ctxs.toList.filterMap fun c => c.task.map fun t => t.part.toNat).eraseDups

def State.noticeParts (s : State) (cluster : Nat) : List Nat → State
  | [] => s
  | n :: rest => State.noticeParts (s.post (Part.fmbox (s.part n)) (noticeRec 35 0 s.node cluster 0)) cluster rest

/-- A signature mismatch (16 R436): the pair and its cluster's tasks halt, their partitions are told, kind 10 is logged.
DEDUCED, log entry 30. -/
def State.lockstepHalt (s : State) (cluster : Nat) : State :=
  let s := { s with device := { s.device with halts := s.device.halts ++ [cluster] } }
  let s := s.haltCores (clusterCores cluster)
  let s := s.noticeParts cluster (s.clusterParts cluster)
  let ring := match s.partOfCore (8 * cluster) with
    | some (n, _) => n
    | none => 64
  s.logTo ring 10 (cluster / 8) cluster 1 0

/-- Whether the two cores of a pair commit one bundle with different signatures: what the trailing core computes is open, so
that any bundle of the pair may mismatch; in split mode nothing compares (16 R434, R437). DEDUCED, log entry 30. -/
def State.disagrees (s : State) (cluster : Nat) : Bool × State :=
  if s.splitAt cluster then (false, s)
  else
    let (x, s) := s.choose [false, true]
    (x == some true, s)

/-- The assist's own work (05 R140); where it fails, a command that was to stop already does so with its own cause (05 R142).
DEDUCED, log entry 30. -/
def State.runAssist (s : State) (n : Nat) (i : BitVec 2) (p : Pending) : Result :=
  let s := s.actCmd n i p
  let fail (s' : State) (c : Nat) (va : Word) : Result :=
    settle (s'.stopCmd n i .mtx { p.take s' with marks := [] } (p.failed.getD c) (if p.failed.isSome then p.faddr else va))
  match p.cmd with
  | .mma ta tb r _ =>
    match s.assistFrom n p ta tb (mmaPar r) p.marks with
    | .ok fl s' =>
      settle (s'.setCmd n i .mtx { p with
        marks := [], phase := .waiting, cki := p.cki ||| ckiSUBNA ||| fl ||| s'.raised })
    | .fault fs s' =>
      let x := fs.headD ⟨1, 0, false, none⟩
      fail s' (assistCause x.cause) x.addr
    | .stop c va s' => fail s' c va
    | .freeze va _ s' => fail s' 4 va
  | _ => settle s

/-- Work that a halted pair holds waits for the self-test; a mismatch discards the assist's writes (16 R435, R436). -/
def execSubnormalAssist (core : BitVec 9) (s : State) : Result :=
  let n := core.toNat
  match (s.core n).matrixCmds.find? fun (_, p) => p.phase == .assist with
  | none => settle s
  | some (i, p) =>
    if s.device.halts.contains (n / 8) then settle s
    else
      match s.disagrees (n / 8) with
      | (true, s) => settle (s.lockstepHalt (n / 8))
      | (false, s) => s.runAssist n i p

end Sys2Proof.Machine
end

