-- ==== Sys2Proof/Machine/Copy.lean ====
section
/-! DEFINITION. The copy engine: copy commands in units, stream transfers, non-temporal stores and the replies of fault
homes (09 R232-R247, 08 R223, 07 R203-R205, 06 R168). -/

namespace Sys2Proof.Machine

/-! Ranges. -/

/-- Byte ranges that share a byte; an empty range shares none. -/
def sharesByte (a n b m : Nat) : Bool := decide (n ≠ 0) && decide (m ≠ 0) && overlaps a n b m

/-- Row r of a two-dimensional range. -/
def rowVa (base : Word) (stride : W32) (r : Nat) : Word := base + BitVec.ofNat 64 r * stride.signExtend 64

/-- Whether any row of one two-dimensional range shares a byte with any row of another: the ranges that may not overlap are
those of the rows' bytes, what lies between rows being no part of them (09 R245). DEDUCED, log entry 95. -/
def rowsShare (dst src : Word) (rows rlen : Nat) (ds ss : W32) : Bool :=
  (List.range rows).any fun r => (List.range rows).any fun q =>
    sharesByte (rowVa dst ds r).toNat rlen (rowVa src ss q).toNat rlen

/-- What is left of a command in one piece from an offset: destination, source, bytes (09 R237). The end of a CPY2 row is a
unit boundary here. DESIGN CHOICE, log entry 85. -/
structure Piece where
  dst : Word
  src : Word
  len : Nat
deriving DecidableEq, Repr

def Cmd.piece (c : Cmd) (o : Nat) : Option Piece :=
  let flat (dst src : Word) (len : Nat) : Option Piece :=
    if o < len then some ⟨dst + BitVec.ofNat 64 o, src + BitVec.ofNat 64 o, len - o⟩ else none
  match c with
  | .cpy dst src len => flat dst src len
  | .cpymc dst src len _ _ _ => flat dst src len
  | .cpycrc dst src len _ => flat dst src len
  | .cpy2 dst src rows rlen ds ss =>
    let r := o / rlen
    let k := BitVec.ofNat 64 (o % rlen)
    if r < rows then some ⟨rowVa dst ds r + k, rowVa src ss r + k, rlen - o % rlen⟩ else none
  | _ => none

/-- Whether a command writes memory at its destination. -/
def Cmd.writes (c : Cmd) : Bool :=
  match c with
  | .cpycrc _ _ _ w => w
  | .cpy .. => true
  | .cpy2 .. => true
  | .cpymc .. => true
  | _ => false

/-- The length of the unit that starts with a piece. -/
def State.unitLen (s : State) (core : Nat) (c : Cmd) (q : Piece) : Nat :=
  let n := min q.len (s.span core q.src)
  if c.writes then min n (s.span core q.dst) else n

/-! Reading and writing a unit. -/

/-- A copy reaches a sealed HBM source page like a write (06 R160). -/
def State.copyRead (s : State) (core : Nat) (va : Word) (n : Nat) : Eng Marked := s.readRange core true va (n / 2048 + 2) n

/-- Target cores of a CPYMC (09 R243, 01 R10). -/
def mcTargets (clusters cores : BitVec 8) (dom : BitVec 3) : List Nat :=
  (List.range 64).filterMap fun k =>
    if clusters.getLsbD (k / 8) && cores.getLsbD (k % 8) then some (dom.toNat * 64 + k) else none

/-- The bytes written into each target slice at the offset that the destination translates to. -/
def State.writeTargets (s : State) (p : Part) (va : Word) (off : Nat) (bs : Marked) : List Nat → Eng Marked
  | [] => .ok [] s
  | t :: rest =>
    let pa := sliceBase t + off
    let here : Eng Marked := match s.physCause p pa bs.length true with
      | 0 => .ok [] (s.writePart' ⟨pa, false, none, 0x10000⟩ bs)
      | 7 => .freeze va true s
      | c => .fault [⟨c, va, true, none⟩] s
    here.also fun s => State.writeTargets s p va off bs rest

/-- Where a CPYMC's destination translates to: only its slice offset counts, so that no check is made there (09 R243). -/
def State.mcPlace (s : State) (core : Nat) (va : Word) : Eng (Part × Nat) :=
  if 2 ^ 48 ≤ va.toNat then .stop 1 va s
  else match s.partOfCore core with
    | none => .freeze va true s
    | some (k, p) =>
      match s.translate core k p va.toNat true with
      | (.error c, s) => .fault [⟨c, va, true, none⟩] s
      | (.ok x, s) => if x.peer.isSome ∨ !isSlice x.pa then .stop 4 va s else .ok (p, sliceOff x.pa) s

/-- One unit's bytes at the destination of its command. -/
def State.copyWrite (s : State) (core : Nat) (c : Cmd) (va : Word) (bs : Marked) : Eng Unit :=
  match c with
  | .cpymc _ _ _ cl co dom =>
    (s.mcPlace core va).bind fun (p, off) s => (s.writeTargets p va off bs (mcTargets cl co dom)).bind fun _ s => .ok () s
  | .cpycrc _ _ _ false => .ok () s
  | _ => s.engPut core [] va bs

/-! Whole tiles (06 R168). -/

/-- The contiguous destination range that a command has written up to an offset. -/
def Cmd.filled (c : Cmd) (o : Nat) : Option (Nat × Nat) :=
  match c with
  | .cpy dst _ _ => some (dst.toNat, o)
  | .cpymc dst _ _ _ _ _ => some (dst.toNat, o)
  | .cpycrc dst _ _ true => some (dst.toNat, o)
  | .cpy2 dst _ _ rlen ds _ =>
    let r := o / rlen
    if ds.toInt.natAbs ≤ rlen ∧ 0 < r then
      let last := (rowVa dst ds (r - 1)).toNat
      let lo := min dst.toNat last
      some (lo, max dst.toNat last + rlen - lo)
    else none
  | _ => none

/-- The source address that stands for a destination address of a command that shifts nothing. -/
def Cmd.sourceOf (c : Cmd) (va : Nat) : Option Word :=
  match c with
  | .cpy dst src _ => some (src + BitVec.ofNat 64 va - dst)
  | .cpymc dst src _ _ _ _ => some (src + BitVec.ofNat 64 va - dst)
  | .cpycrc dst src _ _ => some (src + BitVec.ofNat 64 va - dst)
  | .cpy2 dst src _ _ ds ss => if ds = ss then some (src + BitVec.ofNat 64 va - dst) else none
  | _ => none

/-- The physical place of a virtual address for an engine, when it has one in this node. -/
def State.placeOf (s : State) (core : Nat) (va : Word) : Option Nat :=
  if 2 ^ 48 ≤ va.toNat then none
  else match (s.engXlate core va.toNat 1 false).1 with
    | .ok x => if x.peer.isSome then none else some x.pa
    | .error _ => none

/-- The record of a tile written whole: the source tile's, when the source is a whole VALID sealed tile with the same
bytes, poisoned ones among them, and else the record of the data, VALID. -/
def State.freshRecord (s : State) (core : Nat) (c : Cmd) (va t : Nat) : LatRec :=
  let data : LatRec :=
    ⟨ofLanes fun i => sumFrom (s.cell t i) 0 64, ofLanes fun j => sumFrom (fun i => s.cell t i j) 0 64, false, []⟩
  match (c.sourceOf va).bind (s.placeOf core) with
  | none => data
  | some u =>
    if u % 16384 = 0 ∧ s.sealedTile u = some u ∧ !(s.latOf u).broken ∧ Mem.bytes s.mem u 16384 = Mem.bytes s.mem t 16384 then s.latOf u
    else data

/-- The sealed tile at a destination address takes its record. -/
def State.closeTile (s : State) (core : Nat) (c : Cmd) (va : Nat) (t : Nat) : State :=
  if t % 16384 = 0 ∧ s.sealedTile t = some t then s.setLat t (s.freshRecord core c va t) else s

def State.closeTargets (s : State) (core : Nat) (c : Cmd) (va off : Nat) : List Nat → State
  | [] => s
  | k :: rest => State.closeTargets (s.closeTile core c va (sliceBase k + off)) core c va off rest

/-- The tiles that a unit has completed, from the tile that holds its first byte on. -/
def State.closeTiles (s : State) (core : Nat) (c : Cmd) (lo len : Nat) (va last : Nat) : Nat → State
  | 0 => s
  | f + 1 =>
    if last < va then s
    else
      let s' :=
        if lo ≤ va ∧ va + 16384 ≤ lo + len then
          match s.placeOf core (BitVec.ofNat 64 va) with
          | none => s
          | some t =>
            match c with
            | .cpymc _ _ _ cl co dom => s.closeTargets core c va (sliceOff t) (mcTargets cl co dom)
            | _ => s.closeTile core c va t
        else s
      State.closeTiles s' core c lo len (va + 16384) last f

/-! CRC-32C (09 R244). -/

def crc32cBit (c : Nat) : Nat → Nat
  | 0 => c
  | n + 1 => crc32cBit (if c % 2 = 1 then (c / 2) ^^^ 0x82F63B78 else c / 2) n

/-- The CRC of some bytes and more bytes, from the CRC of the first. -/
def crc32c (crc : W32) (bs : List Byte) : W32 :=
  BitVec.ofNat 32 (bs.foldl (fun c b => crc32cBit (c ^^^ b.toNat) 8) (crc.toNat ^^^ 0xFFFFFFFF)) ^^^ 0xFFFFFFFF

/-! Units (09 R237). -/

/-- One unit performed: the command past it. A CRC over poison consumes it (07 R196). Of a unit that cannot end nothing is
written here, which leaves its containers to the choices of `mixUnits`; what its read has corrected stays. -/
def State.copyUnit (s : State) (core : Nat) (p : Pending) (q : Piece) (n : Nat) : Eng Pending :=
  (s.copyRead core q.src n).bind fun bs s =>
    let s := match p.cmd with
      | .cpycrc .. => s.tasteSums (Marked.bad bs)
      | _ => s
    (s.whole (s.copyWrite core p.cmd q.dst bs)).bind fun _ s =>
      let prog := p.prog + n
      let s := match p.cmd.filled prog with
        | some (lo, len) =>
          s.closeTiles core p.cmd lo len (q.dst.toNat / 16384 * 16384) (q.dst.toNat + n - 1) (n / 16384 + 2)
        | none => s
      let crc := match p.cmd with
        | .cpycrc .. => crc32c p.crc (Marked.bytes bs)
        | _ => p.crc
      .ok { p with prog := prog, crc := crc } s

/-- A command taken apart by its targets. -/
def Cmd.singles (c : Cmd) : List Cmd :=
  match c with
  | .cpymc dst src len cl co dom =>
    (List.range 64).filterMap fun k =>
      if cl.getLsbD (k / 8) && co.getLsbD (k % 8) then some (.cpymc dst src len (1#8 <<< (k / 8)) (1#8 <<< (k % 8)) dom) else none
  | c => [c]

/-- A few bytes of an unfinished unit, in each target written or not as the run chooses. DEDUCED, log entry 24. -/
def State.mixOne (s : State) (core : Nat) (va : Word) (bs : Marked) : List Cmd → State
  | [] => s
  | c :: rest =>
    let (yes, s') := s.choose [true, false]
    let s'' := if yes = some true then
        match s'.copyWrite core c va bs with
        | .ok _ t => t
        | _ => s'
      else s'
    State.mixOne s'' core va bs rest

/-- Pieces of an unfinished unit, aligned to `step`: containers or 256-byte rows (07 R191). DEDUCED, log entry 24. -/
def State.mixPut (s : State) (core : Nat) (c : Cmd) (step : Nat) (va : Word) : Nat → Marked → State
  | 0, _ => s
  | f + 1, bs =>
    if bs = [] then s
    else
      let k := min bs.length (step - va.toNat % step)
      State.mixPut (s.mixOne core va (bs.take k) c.singles) core c step (va + BitVec.ofNat 64 k) f (bs.drop k)

/-- The units in flight from an offset on are indeterminate. DEDUCED, log entry 24. -/
def State.mixUnits (s : State) (core : Nat) (c : Cmd) (step o : Nat) : Nat → State
  | 0 => s
  | k + 1 =>
    match c.piece o with
    | none => s
    | some q =>
      let n := s.unitLen core c q
      let s' := match s.copyRead core q.src n with
        | .ok bs t => if c.writes then t.mixPut core c step q.dst bs.length bs else s
        | _ => s
      State.mixUnits s' core c step (o + n) k

/-- Units in ascending order until the command is done or one faults. DESIGN CHOICE, log entry 23. -/
def State.copyUnits (s : State) (core : Nat) (p : Pending) : Nat → Eng Pending × Pending
  | 0 => (.ok p s, p)
  | f + 1 =>
    match p.cmd.piece p.prog with
    | none => (.ok p s, p)
    | some q =>
      match s.copyUnit core p q (s.unitLen core p.cmd q) with
      | .ok p' s' => State.copyUnits s' core p' f
      | e => (e, p)

/-- The bytes of a command. -/
def Cmd.bytes (c : Cmd) : Nat :=
  match c with
  | .cpy _ _ len => len
  | .cpymc _ _ len _ _ _ => len
  | .cpycrc _ _ len _ => len
  | .cpy2 _ _ rows rlen _ _ => rows * rlen
  | _ => 0

/-- Whether a copy writes at most one aligned row, which is one write at its home (07 R191). -/
def Cmd.oneRow (c : Cmd) : Bool :=
  match c.piece 0 with
  | none => true
  | some q => decide (q.len = c.bytes) && decide (q.dst.toNat % 256 + q.len ≤ 256) && decide (c.singles.length ≤ 1)

/-- How many units a copy performs before others look: all, or freely fewer. -/
def State.copyFuel (s : State) (c : Cmd) : Nat × State :=
  if c.oneRow then (c.bytes + 1, s)
  else
    let (x, s) := s.pick
    (if x = 0 then c.bytes + 1 else x - 1, s)

/-- A copy performed as far as it goes: to its end, to a fault, or to a place from which it goes on later, with some rows of
the units in flight written (07 R191). DESIGN CHOICE, log entry 23. -/
def State.runCopy (s : State) (core : Nat) (i : BitVec 2) (p : Pending) : State :=
  let (fuel, s) := s.copyFuel p.cmd
  match s.copyUnits core p fuel with
  | (.ok p' s', _) =>
    if (p'.cmd.piece p'.prog).isSome then
      let t := s'.mixUnits core p'.cmd 256 p'.prog 8
      t.setCmd core i .cpy { p'.take t with stage := 1 }
    else
    let s' := match p.cmd with
      | .cpycrc .. =>
        let c := s'.ctxAt core i
        s'.setCtxAt core i (c.setTl .cpy { c.cpy with crc := BitVec.ofNat 64 (p'.crc.toNat + p.seq.toNat % 2 ^ 32 * 2 ^ 32) })
      | _ => s'
    s'.complete core i .cpy (p'.take s')
  | (.fault fs s', p') => engineEnd core i .cpy p' (.fault fs (s'.mixUnits core p.cmd 4 p'.prog 8))
  | (.stop c va s', p') => engineEnd core i .cpy p' (.stop c va (s'.mixUnits core p.cmd 4 p'.prog 8))
  | (.freeze va w s', p') => engineEnd core i .cpy p' (.freeze va w (s'.mixUnits core p.cmd 4 p'.prog 8))

/-- The units in flight of a copy that is suspended are brought to their end: it is suspended at a unit boundary (09 R236). -/
def State.endFlight (s : State) (core : Nat) (i : BitVec 2) (p : Pending) : State :=
  match (s.actCmd core i p).copyUnits core p 8 with
  | (.ok p' s', _) => s'.setCmd core i .cpy { p'.take s' with stage := 0 }
  | (.fault fs s', p') => engineEnd core i .cpy p' (.fault fs (s'.mixUnits core p.cmd 4 p'.prog 8))
  | (.stop c va s', p') => engineEnd core i .cpy p' (.stop c va (s'.mixUnits core p.cmd 4 p'.prog 8))
  | (.freeze va w s', p') => engineEnd core i .cpy p' (.freeze va w (s'.mixUnits core p.cmd 4 p'.prog 8))

def State.endFlights (s : State) (core : Nat) (i : BitVec 2) : List Pending → State
  | [] => s
  | p :: rest => State.endFlights (if p.phase = .waiting ∧ p.stage = 1 then s.endFlight core i p else s) core i rest

/-! Streams (09 R242). -/

def Context.stream (c : Context) (q : BitVec 4) : StreamReg := c.streams.get q.toFin
def Context.setStream (c : Context) (q : BitVec 4) (x : StreamReg) : Context :=
  { c with streams := c.streams.set q.toNat x q.isLt }

/-- A command bound to the first free binding of a stream register. -/
def StreamReg.bindTo (q : StreamReg) (b : Binding) : StreamReg :=
  if q.active.kind = .free then { q with active := b } else { q with shadow := b }

def StreamReg.held (q : StreamReg) : Bool := q.active.kind != .free && q.shadow.kind != .free

/-- The row sum that an element read at an address carries (06 R168, R159): that of a verified row, whose sum is known and whose
containers were read as they stand. -/
def State.elemSum (s : State) (core : Nat) (va : Word) (v : VReg) : W32 :=
  match s.placeOf core va with
  | none => laneSum v
  | some a =>
    match s.sealedTile a with
    | some t =>
      if a % 256 = 0 ∧ !(s.latOf t).broken ∧ !(s.badBytes a 256) ∧ !(s.latOf t).badRow ((a - t) / 256) ∧
          Mem.readLE s.mem a 256 = v.toNat then lane (s.latOf t).rsum ((a - t) / 256) else laneSum v
    | none => laneSum v

def elemVa (base : Word) (stride : BitVec 20) (e : Nat) : Word :=
  base + BitVec.ofNat 64 e * (stride.signExtend 64 <<< 4)

/-- Elements read into the inbound queue while it has room. -/
def State.feed (s : State) (core : Nat) (i : BitVec 2) (p : Pending) (q : BitVec 4) (src : Word) (count : Nat)
    (stride : BitVec 20) : Nat → State
  | 0 => s
  | f + 1 =>
    let c := s.ctxAt core i
    if count ≤ p.prog then s.complete core i .cpy p
    else if 4 ≤ (c.stream q).inq.length then s.setCmd core i .cpy p
    else
      let va := elemVa src stride p.prog
      match s.copyRead core va 256 with
      | .ok bs s' =>
        let v := BitVec.ofNat 2048 (Marked.nat bs)
        let c' := s'.ctxAt core i
        let x := c'.stream q
        let s' := s'.setCtxAt core i (c'.setStream q { x with inq := x.inq ++ [⟨v, s'.elemSum core va v⟩] })
        let s' := if Marked.bad bs then s'.raise ckiPOISON else s'
        State.feed s' core i { p.take s' with prog := p.prog + 1 } q src count stride f
      | .fault fs s' => engineEnd core i .cpy p (.fault fs s')
      | .stop cause a s' => engineEnd core i .cpy p (.stop cause a s')
      | .freeze a w s' => engineEnd core i .cpy p (.freeze a w s')

/-- Popped elements written, in push order; `tileIn` holds those popped and not yet written. -/
def State.unload (s : State) (core : Nat) (i : BitVec 2) (p : Pending) (dst : Word) (count : Nat) (stride : BitVec 20) :
    Nat → State
  | 0 => s.setCmd core i .cpy p
  | f + 1 =>
    if count ≤ p.prog then s.complete core i .cpy p
    else match p.tileIn with
      | [] => s.setCmd core i .cpy p
      | v :: rest =>
        let va := elemVa dst stride p.prog
        let bs := clean (leBytes v.toNat 256)
        match s.someRows core va bs with
        | (some t, _) => t.setCmd core i .cpy (p.take t)
        | (none, s) =>
        match s.engPut core p.parts va bs with
        | .ok _ s' => State.unload s' core i { p.take s' with prog := p.prog + 1, tileIn := rest, parts := [] } dst count stride f
        | .fault fs s' => engineEnd core i .cpy p (.fault fs s')
        | .stop cause a s' => engineEnd core i .cpy p (.stop cause a s')
        | .freeze a w s' => engineEnd core i .cpy p (.freeze a w s')

/-- Elements moved from the outbound queue to the command, at most 8 and no more than it has still to write. -/
def State.collect (s : State) (core : Nat) (i : BitVec 2) (p : Pending) (q : BitVec 4) (count : Nat) : State × Pending :=
  let c := s.ctxAt core i
  let x := c.stream q
  let n := min (8 - p.tileIn.length) (count - p.prog - p.tileIn.length)
  (s.setCtxAt core i (c.setStream q { x with outq := x.outq.drop n }),
    { p with tileIn := p.tileIn ++ (x.outq.take n).map (·.val) })

/-! Which command runs. -/

/-- The hull of what a command writes (09 R235). -/
def Cmd.hull (c : Cmd) : Nat × Nat :=
  match c with
  | .cpy2 dst _ rows rlen ds _ =>
    let last := (rowVa dst ds (rows - 1)).toNat
    (min dst.toNat last, max dst.toNat last + rlen - min dst.toNat last)
  | .cpy dst _ len => (dst.toNat, len)
  | .cpymc dst _ len _ _ _ => (dst.toNat, len)
  | .cpycrc dst _ len w => (dst.toNat, if w then len else 0)
  | .cpyqOut _ dst count stride =>
    let last := (elemVa dst stride (count - 1)).toNat
    (min dst.toNat last, max dst.toNat last + 256 - min dst.toNat last)
  | _ => (0, 0)

/-- The offset of a command's first unit that is not complete, in its own order (09 R237, R238). -/
def Pending.offset (p : Pending) : Nat :=
  match p.cmd with
  | .cpyqIn .. => p.prog * 256
  | .cpyqOut .. => p.prog * 256
  | _ => p.prog

/-- An upper bound of the pieces of a command's destination. -/
def Cmd.span (c : Cmd) : Nat :=
  match c with
  | .cpyqOut _ _ count _ => 2 * count
  | .cpy2 _ _ rows rlen _ _ => rows * (rlen / 65536 + 2)
  | _ => c.bytes / 65536 + 2

/-- The destination of a command from an offset on, in pieces of one page: a key of the home and the length; none for a piece
that does not translate now and may come to. -/
def State.destFrom (s : State) (core : Nat) (c : Cmd) (o : Nat) : Nat → List (Option (Nat × Nat))
  | 0 => []
  | f + 1 =>
    let next : Option (Word × Nat) := match c with
      | .cpyqOut _ dst count stride =>
        if o < 256 * count then some (elemVa dst stride (o / 256) + BitVec.ofNat 64 (o % 256), 256 - o % 256) else none
      | _ => if c.writes then (c.piece o).map fun q => (q.dst, q.len) else none
    match next with
    | none => []
    | some (va, len) =>
      let n := min len (65536 - va.toNat % 65536)
      let here : List (Option (Nat × Nat)) :=
        if 2 ^ 48 ≤ va.toNat then []
        else match s.partOfCore core with
          | none => []
          | some (_, p) =>
            match s.walk p va.toNat false, c with
            | .error _, _ => [none]
            | .ok x, .cpymc _ _ _ cl co dom => (mcTargets cl co dom).map fun t => some (sliceBase t + sliceOff x.pa, n)
            | .ok x, _ => [some (x.pa + (match x.peer with
                | some k => 2 ^ 48 * (k.toNat + 1)
                | none => 0), n)]
      here ++ State.destFrom s core c (o + n) f

/-- Whether a later command would now write a byte that an earlier one still writes at the same home, under whatever address, or
may still write, where a piece of the earlier one's destination does not translate yet (09 R235). -/
def State.aliases (s : State) (core : Nat) (e p : Pending) : Bool :=
  let l := s.destFrom core p.cmd p.offset (p.cmd.span + 2)
  l != [] && (s.destFrom core e.cmd e.offset (e.cmd.span + 2)).any fun x => l.any fun y => match x, y with
    | some (a, n), some (b, m) => sharesByte a n b m
    | none, some _ => true
    | _, none => false

/-- Whether an NTDRAIN is over: every store handed over before it is performed (08 R223). -/
def Core.drained (k : Core) (upto : Nat) : Bool := k.nt.all fun x => decide (upto ≤ x.num)

/-- Whether a cpy command can take a step: nothing stopped before it, no earlier command still to write what it writes,
its stream active with elements or room. -/
def State.canCopy (s : State) (core : Nat) (c : Context) (p : Pending) : Bool :=
  let k := s.core core
  let (lo, n) := p.cmd.hull
  let free := c.cpy.cmds.all fun e =>
    !decide (e.seq.toNat < p.seq.toNat) || e.phase == .done ||
      (e.phase != .stopped && !sharesByte lo n e.cmd.hull.1 e.cmd.hull.2 && !s.aliases core e p)
  p.phase == .waiting && free &&
    match p.cmd with
    | .cpyqIn q _ _ _ => (c.stream q).active == ⟨.cpyqIn, p.seq⟩ && decide ((c.stream q).inq.length < 4)
    | .cpyqOut q _ _ _ =>
      (c.stream q).active == ⟨.cpyqOut, p.seq⟩ && ((c.stream q).outq != [] || p.tileIn != [])
    | .ntdrain upto => k.drained upto
    | _ => true

/-- The cpy commands of a context that can take a step. The engine takes commands up in the order of their issue across
contexts (01 R29), but that order implies nothing of what is performed first (09 R234, R235). DEDUCED, log entry 23. -/
def State.copyTurn (s : State) (core : Nat) (i : BitVec 2) : List Pending :=
  let c := s.ctxAt core i
  c.cpy.cmds.filter (s.canCopy core c)

/-- A command of the cpy engine brought as far as it goes. -/
def State.runCpy (s : State) (core : Nat) (i : BitVec 2) (p : Pending) : State :=
  match p.cmd with
  | .cpyqIn q src count stride => s.feed core i p q src count stride 5
  | .cpyqOut q dst count stride =>
    let (s', p') := s.collect core i p q count
    s'.unload core i p' dst count stride 9
  | .ntdrain _ => s.complete core i .cpy p
  | _ => s.runCopy core i p

/-- 09 R232: one of the context's copy commands that can proceed does so, and segments that waited for an NTDRAIN are
published (08 R215). DESIGN CHOICE, log entry 23. -/
def execCopyComplete (core : BitVec 9) (ctx : BitVec 2) (s : State) : Result :=
  let n := core.toNat
  match s.choose (s.copyTurn n ctx) with
  | (none, _) => settle s
  | (some p, s) => settle (((s.actCmd n ctx p).runCpy n ctx p).publish n)

/-! Non-temporal stores (08 R223). -/

/-- Stores that no earlier store of the queue overlaps. -/
def ntReady : List NtStore → List NtStore → List NtStore
  | _, [] => []
  | before, x :: rest =>
    let clash (y : NtStore) : Bool := y.words.any fun (o, m, _) => x.words.any fun (o', m', _) => o == o' && (m &&& m') != 0
    if before.any clash then ntReady (x :: before) rest else x :: ntReady (x :: before) rest

/-- The runs of set bits of a byte mask: first byte and length. -/
def maskRuns (m : BitVec 4) : List (Nat × Nat) :=
  (List.range 4).filterMap fun k =>
    if m.getLsbD k && !(decide (0 < k) && m.getLsbD (k - 1)) then
      some (k, ((List.range (4 - k)).takeWhile fun j => m.getLsbD (k + j)).length)
    else none

/-- The bytes of a slice word that a mask names, written as an engine writes (07 R191). -/
def State.ntWord (s : State) (core : Nat) (w : Nat × BitVec 4 × W32) : State :=
  let (off, m, d) := w
  (maskRuns m).foldl (fun s (k, n) => s.writePhys (sliceBase core + off + k) (leBytes (d.toNat / 2 ^ (8 * k)) n)) s

def State.ntWords (s : State) (core : Nat) : List (Nat × BitVec 4 × W32) → State
  | [] => s
  | w :: rest => State.ntWords (s.ntWord core w) core rest

/-- NTDRAINs that have nothing left to wait for complete (08 R223). DESIGN CHOICE, log entry 25. -/
def State.drainAll (s : State) (core : Nat) : List (BitVec 2) → State
  | [] => s
  | i :: rest =>
    let c := s.ctxAt core i
    let s' := match c.cpy.cmds.find? fun p => (match p.cmd with
        | .ntdrain _ => true
        | _ => false) && s.canCopy core c p with
      | some p => s.complete core i .cpy p
      | none => s
    State.drainAll s' core rest

/-- The words of a store that one write performs: all, or, where they lie in several aligned rows, freely those of one row alone
(07 R191). -/
def State.ntRow (s : State) (x : NtStore) : List (Nat × BitVec 4 × W32) × State :=
  let rs := (x.words.map fun w => w.1 / 256).eraseDups
  if rs.length ≤ 1 then (x.words, s)
  else
    match s.choose ((none : Option Nat) :: rs.map some) with
    | (some (some r), s) => (x.words.filter fun w => w.1 / 256 = r, s)
    | (_, s) => (x.words, s)

/-- 08 R223: one handed-over store is performed. DESIGN CHOICE, log entry 25. -/
def execNtStorePerform (core : BitVec 9) (s : State) : Result :=
  let n := core.toNat
  match s.choose (ntReady [] (s.core n).nt) with
  | (none, _) => settle s
  | (some x, s) =>
    let (ws, s) := s.ntRow x
    let s := (s.actFor n x.ctx).ntWords n ws
    let k := s.core n
    let left := x.words.filter fun w => !ws.contains w
    let nt := if left = [] then k.nt.filter fun y => y.num ≠ x.num
      else k.nt.map fun y => if y.num = x.num then { y with words := left } else y
    let s := s.setCore n { k with nt := nt }
    let s := (s.flagCtx n x.ctx s.raised).drainAll n [0, 1, 2, 3]
    settle (s.publish n)

/-! Issue. -/

def copyParam (s : State) : Stop := s.trapHere 13 0 0

/-- A copy command issued, or COPY_PARAM (09 R245). -/
def State.issueCopy (s : State) (d : BitVec 6) (cmd : Cmd) (bad : Bool) : Except Stop State :=
  if bad then .error (copyParam s) else .ok (s.issue .cpy d cmd 0)

def lenBad (dst src len : Word) : Bool :=
  decide (2 ^ 40 ≤ len.toNat) || sharesByte dst.toNat len.toNat src.toNat len.toNat

/-- 09 R240. -/
def execCpy (p : Pred) (d a b c : BitVec 6) (s : State) : Result :=
  finish (runSlot p [.s a, .s b, .s c] (slotBlock .cpy) fun s =>
    let dst := s.cx.rs a
    let src := s.cx.rs b
    let len := s.cx.rs c
    s.issueCopy d (.cpy dst src len.toNat) (lenBad dst src len)) s

/-- 09 R241. -/
def execCpy2 (p : Pred) (d a b c : BitVec 6) (rows rlen : BitVec 10) (s : State) : Result :=
  finish (runSlot p [.s a, .s b, .s c] (slotBlock .cpy) fun s =>
    let dst := s.cx.rs a
    let src := s.cx.rs b
    let ds : W32 := (s.cx.rs c).setWidth 32
    let ss : W32 := (s.cx.rs c >>> 32).setWidth 32
    let n := rows.toNat + 1
    let m := 16 * (rlen.toNat + 1)
    let odd := decide (dst.toNat % 16 ≠ 0) || decide (src.toNat % 16 ≠ 0) || decide (ds.toNat % 16 ≠ 0) ||
      decide (ss.toNat % 16 ≠ 0)
    s.issueCopy d (.cpy2 dst src n m ds ss) (odd || rowsShare dst src n m ds ss)) s

/-- A CPYQ issued and bound to its stream (09 R242); one that meets both COPY_PARAM and STREAM_BUSY raises the first: no order is
given. DESIGN CHOICE, log entry 95. -/
def State.issueStream (s : State) (d : BitVec 6) (q : BitVec 4) (kind : BindKind) (cmd : Cmd) (va count : Word) :
    Except Stop State :=
  if va.toNat % 16 ≠ 0 ∨ count = 0 ∨ 2 ^ 32 ≤ count.toNat then .error (copyParam s)
  else if (s.cx.stream q).held then .error (s.trapHere 14 0 0)
  else
    let n := s.nextSeq .cpy
    let s := s.issue .cpy d cmd 0
    .ok (s.setCx (s.cx.setStream q ((s.cx.stream q).bindTo ⟨kind, n⟩)))

def execCpyqIn (p : Pred) (d c a b : BitVec 6) (stride : BitVec 20) (s : State) : Result :=
  finish (runSlot p [.s a, .s b] noBlock fun s =>
    let q : BitVec 4 := c.setWidth 4
    let n := s.cx.rs b
    s.issueStream d q .cpyqIn (.cpyqIn q (s.cx.rs a) n.toNat stride) (s.cx.rs a) n) s

def execCpyqOut (p : Pred) (d c a b : BitVec 6) (stride : BitVec 20) (s : State) : Result :=
  finish (runSlot p [.s a, .s b] noBlock fun s =>
    let q : BitVec 4 := c.setWidth 4
    let n := s.cx.rs b
    s.issueStream d q .cpyqOut (.cpyqOut q (s.cx.rs a) n.toNat stride) (s.cx.rs a) n) s

/-- 09 R243. -/
def execCpymc (p : Pred) (d a b c : BitVec 6) (clusters cores : BitVec 8) (dom : BitVec 3) (s : State) : Result :=
  finish (runSlot p [.s a, .s b, .s c] (slotBlock .cpy) fun s =>
    let dst := s.cx.rs a
    let src := s.cx.rs b
    let len := s.cx.rs c
    s.issueCopy d (.cpymc dst src len.toNat clusters cores dom)
      (lenBad dst src len || (mcTargets clusters cores dom).isEmpty)) s

/-- 09 R244. -/
def execCpycrc (p : Pred) (d a b c : BitVec 6) (s : State) : Result :=
  finish (runSlot p [.s a, .s b, .s c] (slotBlock .cpy) fun s =>
    let dst := s.cx.rs a
    let src := s.cx.rs b
    let len := s.cx.rs c
    s.issueCopy d (.cpycrc dst src len.toNat true) (lenBad dst src len)) s

def execCpycrcChk (p : Pred) (d b c : BitVec 6) (s : State) : Result :=
  finish (runSlot p [.s b, .s c] (slotBlock .cpy) fun s =>
    let len := s.cx.rs c
    s.issueCopy d (.cpycrc 0 (s.cx.rs b) len.toNat false) (decide (2 ^ 40 ≤ len.toNat))) s

/-- 08 R223. -/
def execNtdrain (p : Pred) (d : BitVec 6) (s : State) : Result :=
  finish (runSlot p [] (slotBlock .cpy) fun s => .ok (s.issue .cpy d (.ntdrain s.co.ntNum) 0)) s

/-! Waiting and reading (09 R233, R246, R247). -/

/-- The stopped command that a wait for `n` would pass (09 R236). -/
def Timeline.stopBefore (t : Timeline) (n : Word) : Option Pending :=
  match t.stopped with
  | some p => if p.seq.toNat ≤ n.toNat then some p else none
  | none => none

/-- A wait for value `n`: ORDER_PARAM, ENGINE_FAULT, block 4, or the counter. A wait that meets both of the first two raises
ORDER_PARAM: the rule names no order. DESIGN CHOICE, log entry 86. -/
def State.wait (s : State) (d : BitVec 6) (tl : Tl) (n : Word) : Except Stop State :=
  let t := s.cx.tl tl
  if t.issued.toNat < n.toNat then .error (s.trapHere 15 0 0)
  else match t.stopBefore n with
    | some q => .error (.engine tl q.fcause q.faddr q.seq)
    | none => if t.count.toNat < n.toNat then .error (.block 4) else .ok (s.landS .seqret d t.count)

def execTwait (p : Pred) (d : BitVec 6) (tl : BitVec 3) (a : BitVec 6) (s : State) : Result :=
  finish (runAct p [.s a] fun s => s.wait d (tlOf tl.toNat) (s.cx.rs a)) s

def execTwaitImm (p : Pred) (d : BitVec 6) (tl : BitVec 3) (n : BitVec 20) (s : State) : Result :=
  finish (runAct p [] fun s => s.wait d (tlOf tl.toNat) (n.setWidth 64)) s

def execTreadCnt (p : Pred) (d : BitVec 6) (tl : BitVec 3) (s : State) : Result :=
  finish (runSlot p [] noBlock fun s => .ok (s.landS .sysrd d (s.cx.tl (tlOf tl.toNat)).count)) s

def execTreadIss (p : Pred) (d : BitVec 6) (tl : BitVec 3) (s : State) : Result :=
  finish (runSlot p [] noBlock fun s => .ok (s.landS .sysrd d (s.cx.tl (tlOf tl.toNat)).issued)) s

def execTreadStop (p : Pred) (d : BitVec 6) (tl : BitVec 3) (s : State) : Result :=
  finish (runSlot p [] noBlock fun s => .ok (s.landS .sysrd d (s.cx.tl (tlOf tl.toNat)).stopNum)) s

/-- 09 R236, R247: the stopped command is retired, and its number returned. -/
def execTreadRetire (p : Pred) (d : BitVec 6) (tl : BitVec 3) (s : State) : Result :=
  finish (runSlot p [] noBlock fun s =>
    let t := tlOf tl.toNat
    let s' := s.landS .sysrd d (s.cx.tl t).stopNum
    .ok (s'.setCx (s'.cx.retire t))) s

/-- 09 R238; an NTDRAIN, which has no units, has offset 0. DESIGN CHOICE, log entry 95. -/
def execTreadProg (p : Pred) (d : BitVec 6) (s : State) : Result :=
  finish (runSlot p [] noBlock fun s =>
    let v : Word := match s.cx.cpy.cmds.find? fun q => q.phase ≠ .done with
      | some q => BitVec.ofNat 64 (q.offset % 2 ^ 40)
      | none => 0xFFFFFFFFFFFFFFFF
    .ok (s.landS .sysrd d v)) s

def execTreadCrc (p : Pred) (d : BitVec 6) (s : State) : Result :=
  finish (runSlot p [] noBlock fun s => .ok (s.landS .sysrd d s.cx.cpy.crc)) s

/-! Fault replies (07 R204). -/

/-- The core and context whose command waits for a fault id. -/
def State.findFault (s : State) (fid : W32) : Option (Nat × BitVec 2 × Tl × Pending × Stuck) :=
  s.cores.findSome? fun (n, k) =>
    ([0, 1, 2, 3] : List (BitVec 2)).findSome? fun i =>
      (waitingIn fid (k.ctxs.get i.toFin)).map fun y => (n, i, y)

/-- A FAILED reply: an MMA with rows to commit is checked first (05 R142), a tile walk writes its record first
(06 R178), every other command stops at once (09 R236); a command that was to stop does so with its first cause. The
answer holds the check bits that then reach the context. -/
def Context.failCmd (c : Context) (tl : Tl) (p : Pending) (x : Stuck) (cause : Nat) : Context × BitVec 11 :=
  let later := match p.cmd with
    | .mma .. => p.rowLeft && p.failed.isNone
    | .scheck .. => p.failed.isNone && decide (p.stage = 0)
    | _ => false
  if later then (c.setCmd tl { p with phase := .waiting, failed := some cause, faddr := x.addr, parts := [] }, 0)
  else (c.stopCmd tl p (p.failed.getD cause) (if p.failed.isSome then p.faddr else x.addr), p.cki)

/-- A RESOLVED reply: the command goes on once every faulted part is resolved (07 R205). -/
def Context.resolveCmd (c : Context) (tl : Tl) (p : Pending) (x : Stuck) : Context :=
  let l := p.parts.map fun y => if y = x then { y with fid := none } else y
  c.setCmd tl { p with parts := l, phase := if l.all (·.fid.isNone) then .waiting else .faulted }

def Context.reply (c : Context) (tl : Tl) (p : Pending) (x : Stuck) (resolved timeout : Bool) : Context × BitVec 11 :=
  if resolved then (c.resolveCmd tl p x, 0) else c.failCmd tl p x (if timeout then 8 else x.cause)

/-- The entries for the page of a resolved part are dropped (07 R204). -/
def State.dropFor (s : State) (core : Nat) (va : Nat) : State :=
  match s.partOfCore core with
  | some (k, _) => s.dropPage k va
  | none => s

/-- The saved context whose command waits for a fault id. -/
def State.parkedFault (s : State) (fid : W32) : Option (Parked × Tl × Pending × Stuck) :=
  s.parked.findSome? fun x => (waitingIn fid x.ctx).map fun y => (x, y)

/-- A reply acts on a suspended command as on any other (07 R204, 15 R422). -/
def State.reply (s : State) (fid : W32) (resolved : Bool) (timeout : Bool) : State :=
  match s.findFault fid with
  | some (n, i, tl, p, x) =>
    let (c, fl) := (s.ctxAt n i).reply tl p x resolved timeout
    let s := (s.setCtxAt n i c).flagCtx n i fl
    if resolved then s.dropFor n x.addr.toNat else s
  | none =>
    match s.parkedFault fid with
    | none => s
    | some (y, tl, p, x) =>
      let (c, fl) := y.ctx.reply tl p x resolved timeout
      let s := { s with parked := s.parked.map fun z => if z = y then { z with ctx := { c with ckiSet := c.ckiSet ||| fl } } else z }
      if resolved then s.dropFor (y.num / 4) x.addr.toNat else s

/-- The core whose command waits for a fault's reply. -/
def State.faultCore (s : State) (fid : W32) : Option Nat :=
  match s.findFault fid with
  | some (n, _) => some n
  | none => (s.parkedFault fid).map fun x => x.1.num / 4

/-- A reply as the pair of its cluster handles it: one whose pair has halted holds it (16 R436). -/
def State.faultReply (s : State) (reply : Word) : State :=
  let fid : W32 := reply.setWidth 32
  if (s.faultCore fid).any fun n => s.device.halts.contains (n / 8) then
    { s with device := { s.device with held := s.device.held ++ [reply] } }
  else s.reply fid (reply.getLsbD 32) false

/-- 07 R204. -/
def execFaultReply (reply : BitVec 64) (s : State) : Result := settle (s.faultReply reply)

/-- 07 R204: no reply within 100 ms counts as FAILED, with cause TIMEOUT. -/
def execFaultReplyTimeout (fid : BitVec 64) (s : State) : Result := settle (s.reply (fid.setWidth 32) false true)

end Sys2Proof.Machine
end

