-- ==== Sys2Proof/Machine/Atom.lean ====
section
/-! DEFINITION. Atomics: their issue, their one step at the home, the reply and its loss (09 R248-R250). -/

namespace Sys2Proof.Machine

/-- Where a request is performed: 0 the host, 1 + n the peer node n, and beyond them the stacks and slices of this
node. -/
def homeOf (x : Xlat) : Nat :=
  match x.peer with
  | some n => 1 + n.toNat
  | none =>
    if isHostWin x.pa then 0
    else if isHbm x.pa then 0x10000 + x.pa / 0x1000000000
    else if isSlice x.pa then 0x20000 + sliceCore x.pa
    else 0x30000

/-- A home beyond the package (09 R250). -/
def farHome (h : Nat) : Bool := decide (h < 0x10000)

/-- The record address: a writable PRIVATE entry of the issuing context (09 R248). -/
def State.atomRecord (s : State) (va : Word) : Except Stop Local :=
  match s.xlate va.toNat 16 16 true with
  | .error c => .error (xlateMiss s c va)
  | .ok l =>
    let own := s.co.ltt.toList.find? fun e => Ltt.coversVa e va.toNat && (Ltt.ctxm e).getLsbD s.cur.ctx.toNat
    match own with
    | none => .error (kindFault s va)
    | some e =>
      if !Ltt.wr e then .error (xlateMiss s 3 va)
      else if l.kind ≠ 0 then .error (kindFault s va)
      else .ok l

/-- The core's next request number taken by the atomic of a number (09 R250). -/
def State.takeReqId (s : State) (n : Word) : State :=
  let k := s.co
  let s := match s.cmd s.cur.core s.cur.ctx .atm n with
    | some q => s.setCmd s.cur.core s.cur.ctx .atm { q with reqId := k.reqId }
    | none => s
  s.setCo { s.co with reqId := k.reqId + 1 }

/-- 09 R248. -/
def execAtom (p : Pred) (d a b c : BitVec 6) (code : BitVec 4) (s : State) : Result :=
  finish (runSlot p [.s a, .s b, .s c] (slotBlock .atm) fun s =>
    let x := s.cx.rs a
    let w := codeBytes code.toNat
    if x.toNat % w ≠ 0 then .error (xlateMiss s 5 x)
    else match s.atomRecord (s.cx.rs c) with
      | .error e => .error e
      | .ok l =>
        let r := sliceBase s.cur.core + l.off
        let cas := decide (code.toNat = 11)
        let expected : Word := if cas then BitVec.ofNat 64 (Mem.readLE s.mem r 8) else 0
        let bad := cas && s.badBytes r 8
        let v : Word := BitVec.ofNat 64 ((s.cx.rs b).toNat % 2 ^ (8 * w))
        let n := s.nextSeq .atm
        let s := (s.issue .atm d (.atom code.toNat x v (BitVec.ofNat 64 r) expected) 0).takeReqId n
        .ok (s.landFlag (if bad then ckiPOISON else 0))) s

/-! At the home. -/

/-- The translation of a target, with the records of a sealed page: LMS ranges and instruction stores stop the command
(09 R249). DEDUCED, log entry 26. -/
def State.atomXlat (s : State) (core : Nat) (x : Word) (w : Nat) : Eng Xlat :=
  match s.engPart core x w true with
  | .ok y s => if y.peer.isNone ∧ isIstore y.pa then .stop 4 x s else s.engSeal core x true y
  | .fault fs s => if fs.any (·.cause = 6) then .stop 6 x s else .fault fs s
  | .stop 12 va s => .stop 4 va s
  | e => e

/-- What an operation leaves at its home; none where it writes nothing. -/
def atomNew (code old v expected : Nat) : Option Nat :=
  if code = 11 then (if old = expected then some v else none) else some (combine code old v)

/-- The operation at a home of this node, as one step: the old value as it stands. -/
def State.atomHere (s : State) (y : Xlat) (code : Nat) (x v expected : Word) : Eng Nat :=
  let w := codeBytes code
  (s.readPart y x w).bind fun bs s =>
    let old := Marked.nat bs
    let s := if Marked.bad bs then s.raise ckiPOISON else s
    match atomNew code old v.toNat expected.toNat with
    | some z => .ok old (s.writePart' y (clean (leBytes z w)))
    | none => .ok old s

/-- The reply cache of a home for one source: 64 replies, the oldest replaced first (09 R250). -/
def State.cacheReply (s : State) (key : Nat) (r : CachedReply) : State :=
  { s with replies := put s.replies key ((r :: (look s.replies key).getD []).take 64) }

def State.cachedReply (s : State) (key : Nat) (id : BitVec 16) : Option CachedReply :=
  ((look s.replies key).getD []).find? fun r => r.id = id

/-- A request that goes to a home beyond the package: its value there is open; a retransmission is answered from the cache
that the home keeps for each core (09 R250). DEDUCED, log entry 26. -/
def State.atomFar (s : State) (core : Nat) (p : Pending) (home pa code : Nat) (v expected : Word) : State × Nat × Word :=
  let key := home * 1024 + core
  let again := decide (p.stage = 1)
  let request := Out.atom home core p.reqId again code pa v expected
  let s : State := if home = 0 then { s with out := s.out ++ [request] }
    else s.sendSys (s.tenantOfCore core) (BitVec.ofNat 15 (home - 1)) request
  let (w, s') := s.draw
  let old : Word := BitVec.ofNat 64 (w.toNat % 2 ^ (8 * codeBytes code))
  if again then
    match s.cachedReply key p.reqId with
    | some r => (s, 0, r.val)
    | none => (s', 1, old)
  else (s'.cacheReply key ⟨p.reqId, old⟩, 0, old)

/-- The homes that an address may prove to have, by the table and by the TLBs; none where it faults. -/
def State.homesOf (s : State) (core : Nat) (va : Word) : List (Option Nat) :=
  match s.partOfCore core with
  | none => [none]
  | some (k, p) =>
    let home (x : Nat × Nat) : Option Nat := match leafXlat x.2 va.toNat true x.1 with
      | .ok y => some (homeOf y)
      | .error _ => none
    (match s.walkLeaf p va.toNat with
      | .ok x => home x
      | .error _ => none) :: (s.cached core k va.toNat).map home

/-- Whether an earlier ATOM, not yet performed, holds back a later one: unless their homes are known and differ
(09 R249). -/
def State.sameHome (s : State) (core : Nat) (x y : Word) : Bool :=
  let l := s.homesOf core x
  l.any (·.isNone) || l.any fun h => (s.homesOf core y).contains h

/-- Atomics of a context that may be performed now: no reply held, nothing stopped before, and no earlier one held back
that may have the same home (09 R249). -/
def State.atomReady (s : State) (core : Nat) (c : Context) (p : Pending) : Bool :=
  let before (q : Pending) : Bool := match q.cmd, p.cmd with
    | .atom _ x _ _ _, .atom _ y _ _ _ => s.sameHome core x y
    | _, _ => false
  (p.phase == .waiting || p.phase == .reqSent) && p.reply.isNone &&
    c.atm.cmds.all fun q => !decide (q.seq.toNat < p.seq.toNat) ||
      (q.phase != .stopped && (q.phase == .done || q.stage == 1 || !before q))

/-- The atomics of a context of which one is performed next; those to different homes are unordered (09 R249). -/
def State.atomTurn (s : State) (core : Nat) (i : BitVec 2) : List Pending :=
  let c := s.ctxAt core i
  c.atm.cmds.filter (s.atomReady core c)

/-- A request that has been sent before goes to the same home again: `prog` keeps that home and `faddr` its address
(09 R250). -/
def State.atomAgain (s : State) (core : Nat) (i : BitVec 2) (p : Pending) (code : Nat) (v expected : Word) : State :=
  let (s, st, old) := s.atomFar core p p.prog p.faddr.toNat code v expected
  s.setCmd core i .atm { p with reply := some (st, old) }

/-- The codes that the host window takes (18 R465). -/
def hostAtom (code : Nat) : Bool := [0, 1, 10, 11].contains code

/-- A request taken up: translated and performed at its home; another code stops at the host window with cause PHYS
(18 R465). -/
def State.atomFirst (s : State) (core : Nat) (i : BitVec 2) (p : Pending) (code : Nat) (x v expected : Word) : State :=
  engineEnd core i .atm p ((s.atomXlat core x (codeBytes code)).bind fun y s =>
    if homeOf y = 0 ∧ !hostAtom code then .stop 4 x s
    else if farHome (homeOf y) then
      let (s, st, old) := s.atomFar core p (homeOf y) y.pa code v expected
      .ok () (s.setCmd core i .atm { p.take s with
        phase := .reqSent, stage := 1, prog := homeOf y, faddr := BitVec.ofNat 64 y.pa, reply := some (st, old) })
    else (s.atomHere y code x v expected).bind fun old s =>
      .ok () (s.setCmd core i .atm { p.take s with phase := .reqSent, stage := 1, prog := homeOf y, reply := some (0, BitVec.ofNat 64 old) }))

/-- 09 R249: one atomic of the context is performed at its home. DEDUCED, log entry 26. -/
def execAtomHome (core : BitVec 9) (ctx : BitVec 2) (s : State) : Result :=
  let n := core.toNat
  match s.choose (s.atomTurn n ctx) with
  | (none, _) => settle s
  | (some p, s) =>
    let s := s.actFor n ctx
    match p.cmd with
    | .atom code x v _ expected =>
      settle (if p.stage = 1 then s.atomAgain n ctx p code v expected else s.atomFirst n ctx p code x v expected)
    | _ => settle s

/-- 09 R249: a reply reaches the core; its record is written in the slice and the command is complete. -/
def execAtomReply (core : BitVec 9) (ctx : BitVec 2) (s : State) : Result :=
  let n := core.toNat
  let c := s.ctxAt n ctx
  match s.choose (c.atm.cmds.filter fun p => p.phase == .reqSent && p.reply.isSome) with
  | (none, _) => settle s
  | (some p, s) =>
    let s := s.actCmd n ctx p
    match p.cmd, p.reply with
    | .atom _ _ _ r _, some (st, old) =>
      let s := s.writePart' ⟨r.toNat, false, none, 0⟩ (clean (leBytes (old.toNat + st * 2 ^ 64) 16))
      settle (s.complete n ctx .atm (p.take s))
    | _, _ => settle s

/-- A request that has gone to a home beyond the package and is not over. -/
def Pending.sentFar (p : Pending) : Bool := p.phase == .reqSent && p.stage == 1 && farHome p.prog

/-- 09 R250: 20 µs without a reply from a home beyond the package: the request is sent again, or after the seventh time
the command stops with ATOM_LOST. -/
def execAtomRetransmit (core : BitVec 9) (ctx : BitVec 2) (s : State) : Result :=
  let n := core.toNat
  match s.choose ((s.ctxAt n ctx).atm.cmds.filter Pending.sentFar) with
  | (none, _) => settle s
  | (some p, s) =>
    match p.cmd with
    | .atom code x v _ expected =>
      if p.sends < 7 then settle ((s.actFor n ctx).atomAgain n ctx { p with sends := p.sends + 1, reply := none } code v expected)
      else settle ((s.actCmd n ctx p).stopCmd n ctx .atm p 10 x)
    | _ => settle s

/-- A request of another node's core performed here: a first one is performed and its reply cached; a retransmission is
answered from the cache, or with STATUS UNKNOWN and the word as it stands (09 R250). -/
def State.atomServe (s : State) (t : Nat) (orig : BitVec 15) (core : BitVec 9) (id : BitVec 16) (again : Bool) (code pa : Nat)
    (v expected : Word) : State :=
  let key := 2 ^ 40 + orig.toNat * 512 + core.toNat
  let y : Xlat := ⟨pa, false, none, 0⟩
  let answer (s : State) (st : Nat) (w : Word) : State := s.sendSys t orig (.atomReply orig core id st w)
  let read (s : State) : State × Word := match s.readPart y (BitVec.ofNat 64 pa) (codeBytes code) with
    | .ok m s => (s, BitVec.ofNat 64 (Marked.nat m))
    | e => (e.state, 0)
  if again then
    match s.cachedReply key id with
    | some r => answer s 0 r.val
    | none =>
      let (s, w) := read s
      answer s 1 w
  else match s.atomHere y code (BitVec.ofNat 64 pa) v expected with
    | .ok old s => answer (s.cacheReply key ⟨id, BitVec.ofNat 64 old⟩) 0 (BitVec.ofNat 64 old)
    | e => e.state

end Sys2Proof.Machine
end

