-- ==== Sys2Proof/Machine/Order.lean ====
section
/-! DEFINITION. Ordering through store logs: REL, ACQ, PHASE and LOGSTAT, publication, the PHASE replay and the watchdog
of a full log (08 R214-R231). -/

namespace Sys2Proof.Machine

/-- Whether the issuing task's launch declares an LMS (08 R228). DEDUCED, log entry 27. -/
def State.declares (s : State) : Bool :=
  match s.cx.task with
  | some t => t.lms != []
  | none => false

def Log.tokenAt (l : Log) (tail : Nat) : Word := token l.phase tail

/-- 08 R228: the open segment is closed, and published as R215 allows. DEDUCED, log entry 27. -/
def execRel (p : Pred) (d : BitVec 6) (s : State) : Result :=
  finish (runSlot p [] noBlock fun s =>
    if s.declares then
      let s' := s.closeSegment s.cur.core
      .ok (s'.landS .seqret d (s'.co.log.tokenAt s'.co.log.tail))
    else .ok (s.landS .seqret d 0)) s

/-! ACQ (08 R229, R230). -/

/-- Every task that a writer's core holds for the group has exited; a saved task has not. Of a core on another node the
reader's log keeps what it has heard. DEDUCED, log entry 27. -/
def State.writerGone (s : State) (reader : Log) (m : Nat) : Bool :=
  let left (c : Context) : Bool := match c.task with
    | some t => c.exiting || reader.group != some (t.lid, t.grp) || t.lms == []
    | none => true
  if m / 512 = s.node.toNat then
    (s.core (m % 512)).ctxs.toList.all left && s.parked.all fun x => x.num / 4 != m % 512 || left x.ctx
  else reader.gone.contains m

/-- Entries of writer `m`, the first at position `i`, replayed into the own overlay until one finds no view entry: how many
were passed, and whether poison was consumed (08 R217, R222, R210, R225). DEDUCED, log entry 68. -/
def State.replayInto (s : State) (core m : Nat) (i : Nat) : List LogEntry → State × Nat × Bool
  | [] => (s, 0, false)
  | e :: rest =>
    if e.bad then
      let (s, n, p) := State.replayInto (s.failEntry core m i) core m (i + 1) rest
      (s, n + 1, p)
    else
      let (s, p) := s.meetBase core e
      let k := s.core core
      match applyOverlay (s.lmsBase core) k.log.view e with
      | none => (s, 0, p)
      | some v =>
        let (s, n, q) := State.replayInto (s.setCore core { k with log := { k.log with view := v } }) core m (i + 1) rest
        (s, n + 1, p || q)

/-- A replay of writer `w` up to `t` as far as the view allows: the cursor reached, and whether poison was consumed. -/
def State.replayTo (s : State) (w t : Nat) : State × Nat × Bool :=
  let l := s.co.log
  let m := l.members.getD w 0
  let cur := l.cursors.getD w 0
  let (s, n, bad) := s.replayInto s.cur.core m cur (((s.memberEntries l.group m).take t).drop cur)
  let k := s.co
  (s.setCo { k with log := { k.log with cursors := k.log.cursors.mapIdx fun j x => if j = w then cur + n else x } }, cur + n, bad)

/-- The replay that an acquire asks for: SHORT and the tail, or block 6. -/
def State.acqTarget (s : State) (w : Nat) (tok : Option Word) : Except Stop (Bool × Nat) :=
  let l := s.co.log
  let m := l.members.getD w 0
  let pub := s.memberPublished l.group m
  match tok with
  | none => .ok (false, pub)
  | some t =>
    if tokenTail t ≤ pub then .ok (false, tokenTail t)
    else if s.writerGone l m then .ok (true, pub)
    else .error (.block 6)

/-- ACQ with its token, or ACQ.CUR without one. -/
def State.acquire (s : State) (d : BitVec 6) (w : Word) (tok : Option Word) : Except Stop State :=
  if !s.declares then .ok (s.landS .seqret d 0)
  else
    let l := s.co.log
    let bad : Bool := match tok with
      | some t => t.getLsbD 63 || decide (l.phase.toNat < tokenPhase t)
      | none => false
    if l.members.length ≤ w.toNat ∨ bad then .error (s.trapHere 15 0 0)
    else if w.toNat = s.selfIndex s.cur.core then .ok (s.landS .seqret d (l.tokenAt l.published))
    else if tok.any (fun t => decide (tokenPhase t < l.phase.toNat)) then
      .ok (s.landS .seqret d (l.tokenAt (l.cursors.getD w.toNat 0)))
    else match s.acqTarget w.toNat tok with
      | .error e => .error e
      | .ok (short, t) =>
        let (s, cur, bad) := s.replayTo w.toNat t
        if cur < t then .error (.block 9)
        else
          let r := l.tokenAt (max cur t) ||| (if short then 0x8000000000000000 else 0)
          .ok ((s.landS .seqret d r).landFlag (if bad then ckiPOISON else 0))

/-- DEDUCED, log entry 27. -/
def execAcq (p : Pred) (d a b : BitVec 6) (s : State) : Result :=
  finish (runAct p [.s a, .s b] fun s => s.acquire d (s.cx.rs a) (some (s.cx.rs b))) s

def execAcqCur (p : Pred) (d a : BitVec 6) (s : State) : Result :=
  finish (runAct p [.s a] fun s => s.acquire d (s.cx.rs a) none) s

/-- What a blocked ACQ has replayed when the view is full (08 R222). -/
def State.acqPart (s : State) (behind : State) (i : Instr) : State :=
  let go (p : Pred) (w : Word) (tok : Option Word) : State :=
    if s.test p ∧ s.declares then
      match behind.acquire 0 w tok with
      | .error (.block 9) =>
        match behind.acqTarget w.toNat tok with
        | .ok (_, t) =>
          let (s, _, bad) := s.replayTo w.toNat (behind.replayTo w.toNat t).2.1
          if bad then s.setCx { s.cx with ckiSet := s.cx.ckiSet ||| ckiPOISON } else s
        | .error _ => s
      | _ => s
    else s
  match i with
  | .acq p _ a b => go p (s.cx.rs a) (some (s.cx.rs b))
  | .acqCur p _ a => go p (s.cx.rs a) none
  | _ => s

/-! PHASE (08 R216, R228). -/

/-- The bundle blocks until the group's phase has completed. -/
def execPhase (p : Pred) (d : BitVec 6) (s : State) : Result :=
  finish (runAct p [] fun s =>
    match s.cx.task with
    | none => .error (.block 7)
    | some t =>
      if t.released then
        .ok ((s.setCx { s.cx with task := some { t with released := false } }).landS .seqret d (token t.phases 0))
      else .error (.block 7)) s

/-- The contexts of a group on this node: core, context, task. -/
def State.groupCtxs (s : State) (part : Nat) (lid : Word) (grp : BitVec 32) : List (Nat × BitVec 2 × Task) :=
  s.cores.flatMap fun (n, k) =>
    ([0, 1, 2, 3] : List (BitVec 2)).filterMap fun i =>
      match (k.ctxs.get i.toFin).task with
      | some t => if t.part.toNat = part ∧ t.lid = lid ∧ t.grp = grp then some (n, i, t) else none
      | none => none

/-- A task of the group is saved and away from its core. -/
def State.awayFrom (s : State) (part : Nat) (lid : Word) (grp : BitVec 32) : Bool :=
  s.parked.any fun x => match x.ctx.task with
    | some t => t.part.toNat == part && t.lid == lid && t.grp == grp
    | none => false

/-- Whether a context has arrived at its group's phase (08 R216 step 1). -/
def Context.atPhase (c : Context) : Bool :=
  c.exiting || (c.st == .blocked && c.bcause == 7 && !(c.task.any (·.released)))

/-- Member cores of the group on this node: those whose log belongs to it. -/
def State.groupCores (s : State) (part : Nat) (g : Word × BitVec 32) : List Nat :=
  s.cores.filterMap fun (n, k) =>
    if k.log.group = some g ∧ ((s.partOfCore n).any fun (q, _) => q == part) then some n else none

/-- Step 2: the open segment closed, once. -/
def State.closeOnce (s : State) (core : Nat) : State :=
  let l := (s.core core).log
  if l.closed ≠ [] ∧ l.floor = l.tail then s.publish core else s.closeSegment core

/-- A published entry with its member and its position. -/
abbrev Posted := Nat × Nat × LogEntry

/-- The words that a replay reads rebuilt on a core before any base is changed, so that every member combines into the same
values (08 R216, R225); a plain store of whole words reads nothing. -/
def State.rebuildFor (s : State) (core : Nat) : List Posted → State
  | [] => s
  | (_, _, e) :: rest =>
    State.rebuildFor
      (if e.bad ∨ (e.op = 1 ∧ 4 ≤ e.bytes) ∨ !(s.lmsPhys core e.lms e.off).any (s.badBytes · e.bytes) then s
       else s.rebuildWords core e.lms (wordsOf e.off e.bytes)) core rest

/-- Step 3 for one entry on one core: its bytes combined into the base; what combines with bytes that stay poisoned is
poisoned (08 R217, R225). -/
def State.applyBase (s : State) (core : Nat) : Posted → State
  | (m, i, e) =>
    if e.bad then s.failEntry core m i
    else match s.lmsPhys core e.lms e.off with
      | none => s
      | some pa =>
        let bs := entryBytes e fun off n => Mem.readLE s.mem (pa + (off - e.off)) n
        let old := (s.marked pa e.bytes).map (·.2)
        let t := s.writePhys pa bs
        if e.op = 1 then t else t.spoilBytes pa (bs.zip old)

def State.applyBaseAll (s : State) (core : Nat) : List Posted → State
  | [] => s
  | e :: rest => State.applyBaseAll (s.applyBase core e) core rest

/-- Whether two entries of different members race (08 R220); one whose check fails counts by the fields that it has.
DESIGN CHOICE, log entry 94. -/
def raceWith (e f : LogEntry) : Bool :=
  e.lms == f.lms && overlaps e.off e.bytes f.off f.bytes && !(e.op == f.op && e.op != 1 && e.op != 26)

/-- Whether any two lists of a list hold entries that race. -/
def anyRace : List (List LogEntry) → Bool
  | [] => false
  | l :: rest => rest.any (fun r => l.any fun e => r.any fun f => raceWith e f) || anyRace rest

/-- Step 4: the overlay cleared, the log truncated, the phase counted. -/
def Log.nextPhase (l : Log) : Log :=
  { l with
    view := [], entries := [], floor := 0, published := 0, closed := [], phase := l.phase + 1
    cursors := l.cursors.map fun _ => 0 }

/-- A function applied to every core of a list in turn. -/
def State.eachCore (s : State) (f : State → Nat → State) : List Nat → State
  | [] => s
  | n :: rest => State.eachCore (f s n) f rest

/-- Step 3 on every member core of this node. -/
def State.foldCores (s : State) (es : List Posted) (cores : List Nat) : State :=
  (s.eachCore (fun s n => (s.actFor n 0).rebuildFor n es) cores).eachCore (fun s n => (s.actFor n 0).applyBaseAll n es) cores

/-- Step 5: the tasks released, PRACE set where entries raced. -/
def State.releaseAll (s : State) (race : Bool) : List (Nat × BitVec 2 × Task) → State
  | [] => s
  | (n, i, t) :: rest =>
    let c := s.ctxAt n i
    let c := { c with
      cki := if race then c.cki ||| ckiPRACE else c.cki
      task := some { t with released := !c.exiting, phases := t.phases + 1 }
      st := if c.st = .blocked ∧ c.bcause = 7 then .ready else c.st
      bcause := if c.st = .blocked ∧ c.bcause = 7 then 0 else c.bcause }
    State.releaseAll (s.setCtxAt n i c) race rest

/-- Whether a task waits at a PHASE: one here, or, where the group has members on other nodes, one there (08 R216). -/
def State.phaseAsked (s : State) (ts : List (Nat × BitVec 2 × Task)) (cores : List Nat) : Bool :=
  ts.any (fun (n, i, _) => !(s.ctxAt n i).exiting) ||
    cores.any fun n => (s.core n).log.members.any fun m => decide (m / 512 ≠ s.node.toNat)

/-- A barrier that a halted pair serves is held until the pair's self-test (16 R436). -/
def State.barrierHeld (s : State) (cores : List Nat) : Bool := cores.any fun n => s.device.halts.contains (n / 8)

/-- The first of the clusters whose pair disagrees with itself over the barrier's work, so that none of it leaves the pair
(16 R434-R436). DEDUCED, log entry 30. -/
def State.barrierSplits (s : State) : List Nat → Option Nat × State
  | [] => (none, s)
  | q :: rest =>
    match s.disagrees q with
    | (true, s) => (some q, s)
    | (false, s) => State.barrierSplits s rest

/-- 08 R216: when every task of the group has arrived, segments close, every member folds every log into its base, and the
PHASE bundles may issue. A segment that an NTDRAIN holds back delays the fold. -/
def execPhaseComplete (part : BitVec 6) (lid : BitVec 64) (grp : BitVec 32) (s : State) : Result :=
  let ts := s.groupCtxs part.toNat lid grp
  if ts = [] ∨ !(ts.all fun (n, i, _) => (s.ctxAt n i).atPhase) ∨ s.awayFrom part.toNat lid grp ∨
      !s.phaseAsked ts (s.groupCores part.toNat (lid, grp)) then settle s
  else
    let cores := s.groupCores part.toNat (lid, grp)
    if s.barrierHeld cores then settle s else
    match s.barrierSplits (cores.map (· / 8)).eraseDups with
    | (some q, s) => settle (s.lockstepHalt q)
    | (none, s) =>
    let s := s.eachCore State.closeOnce cores
    if cores.any fun n => (s.core n).log.closed != [] then settle s
    else
      let members := match cores with
        | [] => []
        | n :: _ => (s.core n).log.members
      let logs := members.map (s.memberEntries (some (lid, grp)))
      let posted := (members.zip logs).flatMap fun (m, es) => es.mapIdx fun i e => (m, i, e)
      let s := s.foldCores posted cores
      let s := s.eachCore (fun s n => let k := s.core n; s.setCore n { k with log := k.log.nextPhase }) cores
      let s := { s with remote := s.remote.filter fun (m, _) => !members.contains m }
      settle (s.releaseAll (anyRace logs) ts)

/-! Publication (08 R215) and members on other nodes. -/

/-- An entry that a member on another node has published: its fields are open, within what the group declares, and so is
whether its fetches fail. -/
def openEntry (decls : List LmsDecl) (w : BitVec 2048) : LogEntry :=
  let d := decls.getD (fld w.toNat 0 8 % decls.length) ⟨0, 0, false, 0, 0⟩
  let code := fld w.toNat 8 8 % 12
  let op := if code = 11 then 1 else 16 + code
  let n := if code = 1 then 8 else if code = 11 then 2 ^ (fld w.toNat 16 8 % 5) else 4 * 2 ^ (fld w.toNat 16 8 % 3)
  let off := fld w.toNat 64 64 % max 1 (d.size.toNat / n) * n
  ⟨BitVec.ofNat 5 op, BitVec.ofNat 3 (sizeLog n), d.id, BitVec.ofNat 2 (fld w.toNat 24 2), off,
    BitVec.ofNat 128 (fld w.toNat 128 (8 * n)), 0, w.getLsbD 26⟩

/-- The cores of a group hear that every task of a member on another node has exited (08 R229). -/
def State.markGone (s : State) (group : Option (Word × BitVec 32)) (m : Nat) : State :=
  { s with cores := s.cores.map fun (n, k) =>
      if k.log.group = group ∧ group.isSome then (n, { k with log := { k.log with gone := m :: k.log.gone } }) else (n, k) }

/-- Members on other nodes publish what they choose until their tasks have all exited. -/
def State.growRemote (s : State) (core : Nat) : List Nat → State
  | [] => s
  | m :: rest =>
    let l := (s.core core).log
    let s' :=
      if m / 512 = s.node.toNat ∨ l.decls = [] ∨ l.gone.contains m then s
      else
        let (next, s) := s.choose [0, 1, 2]
        if next = some 1 then
          let (w, s) := s.draw
          { s with remote := put s.remote m ((look s.remote m).getD [] ++ [openEntry l.decls w]) }
        else if next = some 2 then s.markGone l.group m
        else s
    State.growRemote s' core rest

/-- 08 R215: closed segments whose NTDRAINs are over are published; members on other nodes may have published more. -/
def execSegmentPublish (core : BitVec 9) (s : State) : Result :=
  let n := core.toNat
  let s := s.publish n
  settle (s.growRemote n (s.core n).log.members)

/-! LOGSTAT (08 R231). -/

def State.logstat (s : State) (d : BitVec 6) (f : Log → Word) : Except Stop State :=
  .ok (s.landS .seqret d (if s.declares then f s.co.log else 0))

def execLogstatPub (p : Pred) (d : BitVec 6) (s : State) : Result :=
  finish (runSlot p [] noBlock fun s => s.logstat d fun l => l.tokenAt l.published) s

def execLogstatTail (p : Pred) (d : BitVec 6) (s : State) : Result :=
  finish (runSlot p [] noBlock fun s => s.logstat d fun l => l.tokenAt l.tail) s

def execLogstatFree (p : Pred) (d : BitVec 6) (s : State) : Result :=
  finish (runSlot p [] noBlock fun s => s.logstat d fun l => BitVec.ofNat 64 (l.capacity - l.tail)) s

def execLogstatView (p : Pred) (d : BitVec 6) (s : State) : Result :=
  finish (runSlot p [] noBlock fun s => s.logstat d fun l => BitVec.ofNat 64 l.view.length) s

def execLogstatMembers (p : Pred) (d : BitVec 6) (s : State) : Result :=
  finish (runSlot p [] noBlock fun s => s.logstat d fun l => BitVec.ofNat 64 l.members.length) s

def execLogstatSelf (p : Pred) (d : BitVec 6) (s : State) : Result :=
  finish (runSlot p [] noBlock fun s => s.logstat d fun _ => BitVec.ofNat 64 (s.selfIndex s.cur.core)) s

def execLogstatCursor (p : Pred) (d a : BitVec 6) (s : State) : Result :=
  finish (runSlot p [.s a] noBlock fun s =>
    let l := s.co.log
    let w := (s.cx.rs a).toNat
    if !s.declares then .ok (s.landS .seqret d 0)
    else if l.members.length ≤ w then .error (s.trapHere 15 0 0)
    else s.logstat d fun l => l.tokenAt (if w = s.selfIndex s.cur.core then l.published else l.cursors.getD w 0)) s

def execLogstatRbld (p : Pred) (d : BitVec 6) (s : State) : Result :=
  finish (runSlot p [] noBlock fun s => s.logstat d fun l => BitVec.ofNat 64 l.rebuilt) s

end Sys2Proof.Machine
end

