-- ==== Sys2Proof/Machine/Validate.lean ====
section
/-! DEFINITION. FENCE.I: the validation of a bank against the encoding and the double-write rule, and the status it leaves
(02 R58-R61, 10 R272). -/

namespace Sys2Proof.Machine

/-- A vector destination field: a register, or nothing where it pushes. -/
def vdst (d : BitVec 6) (c : LatClass) : List (Reg × LatClass) :=
  if d.toNat < 32 then [(.v (d.setWidth 5), c)] else []

def sdst (d : BitVec 6) (c : LatClass) : List (Reg × LatClass) := if d = 0 then [] else [(.s d, c)]
def pdst (d : BitVec 6) (c : LatClass) : List (Reg × LatClass) := [(.p (d.setWidth 5), c)]

/-- The registers that an instruction writes, with the class of each write (02 R61, R66). -/
def writesOf (i : Instr) : List (Reg × LatClass) :=
  match i with
  | .bprep _ b _ | .bpreps _ b _ => [(.b (b.setWidth 3), .salu)]
  | .brl _ _ l => [(.b l, .salu)]
  | .banksw _ p _ | .vany _ p _ | .vall _ p _ | .fenceI _ p _ => [(.p p, .pred)]
  | .chkerr _ a p _ => sdst a .salu ++ [(.p p, .pred)]
  | .add _ d _ _ _ | .sub _ d _ _ _ | .and _ d _ _ _ | .or _ d _ _ _ | .xor _ d _ _ _ | .andn _ d _ _ _
  | .shl _ d _ _ _ | .shr _ d _ _ _ | .shra _ d _ _ _ | .rotl _ d _ _ _ | .min _ d _ _ _ | .max _ d _ _ _ => sdst d .salu
  | .clz _ d _ _ | .ctz _ d _ _ | .popc _ d _ _ | .sext _ d _ _ | .zext _ d _ _ | .fclass _ d _ _ => sdst d .salu
  | .addsh _ d _ _ _ _ | .fmin _ d _ _ _ _ | .fmax _ d _ _ _ _ => sdst d .salu
  | .sel _ d _ _ _ => sdst d .salu
  | .addi _ d _ _ _ | .andi _ d _ _ _ | .ori _ d _ _ _ | .xori _ d _ _ _ | .shli _ d _ _ _ | .shri _ d _ _ _
  | .shrai _ d _ _ _ => sdst d .salu
  | .movi _ d _ _ | .movhi _ d _ _ => sdst d .salu
  | .pcnt _ d _ | .pfirst _ d _ | .movsp _ d _ => sdst d .salu
  | .mul _ d _ _ _ | .mulh _ d _ _ _ | .fadd _ d _ _ _ | .fsub _ d _ _ _ | .fmul _ d _ _ _ => sdst d .smul
  | .ffma _ d _ _ _ _ => sdst d .smul
  | .fcvt _ d _ _ _ => sdst d .smul
  | .div _ d _ _ _ | .rem _ d _ _ _ => sdst d .sdiv
  | .ld _ d _ _ _ _ _ => sdst d .sld
  | .movsys _ d _ => sdst d .sysrd
  | .cmp _ d _ _ _ _ | .cmpi _ d _ _ _ _ | .fcmp _ d _ _ _ _ => pdst d .pred
  | .pand _ d _ _ | .por _ d _ _ | .pxor _ d _ _ | .pandn _ d _ _ => pdst d .pred
  | .movps _ d _ => pdst d .pred
  | .vadd _ d _ _ _ _ | .vsub _ d _ _ _ _ | .vsatn _ d _ _ _ _ => vdst d .valu
  | .vmul _ d _ _ _ | .vmulh _ d _ _ _ => vdst d .vfma
  | .vshl _ d _ _ _ | .vshr _ d _ _ _ | .vshra _ d _ _ _ | .vmin _ d _ _ _ | .vmax _ d _ _ _ | .vpack _ d _ _ _ =>
    vdst d .valu
  | .vand _ d _ _ | .vor _ d _ _ | .vxor _ d _ _ => vdst d .valu
  | .vabs _ d _ _ _ | .vwiden _ d _ _ _ => vdst d .valu
  | .vcmp _ d _ _ _ _ => pdst d .valu
  | .vfcmp _ d _ _ _ => pdst d .valu
  | .vsel _ d _ _ _ | .vperm _ d _ _ _ => vdst d .valu
  | .vslide _ d _ _ _ => vdst d .valu
  | .vdot4 _ d _ _ _ _ _ => vdst d .vfma
  | .vpackT2 _ d _ _ | .vunpack _ d _ _ => vdst d .valu
  | .vfadd _ d _ _ _ | .vfsub _ d _ _ _ | .vfmul _ d _ _ _ => vdst d .vfma
  | .vffma _ d _ _ _ _ => vdst d .vfma
  | .vfmin _ d _ _ _ _ | .vfmax _ d _ _ _ _ => vdst d .valu
  | .vfrcp _ d _ | .vfrsq _ d _ | .vfexp2 _ d _ | .vflog2 _ d _ => vdst d .vtrans
  | .vfclass _ d _ | .vcompress _ d _ | .vexpand _ d _ => vdst d .valu
  | .vfcvt _ d _ _ _ _ => vdst d .vfma
  | .vquant _ d _ _ _ _ | .vdeq _ d _ _ _ _ => vdst d .vfma
  | .vred _ d _ _ _ => vdst d .vtrans
  | .vbcast _ d _ => vdst d .movx
  | .vbcastLane _ d _ _ | .movsv _ d _ _ => vdst d .movx
  | .viota _ d _ _ => vdst d .movx
  | .vcountge _ d _ _ _ => sdst d .valu
  | .movvs _ d _ _ _ => sdst d .movx
  | .vld _ d _ _ _ _ | .vlds _ d _ _ _ _ | .vldx _ d _ _ _ _ => vdst d .vld
  | .txout _ d => vdst d .xpose
  | .vaccrd _ d _ _ _ => vdst d .vacc
  | .mma _ d _ _ | .mzero _ d _ | .atom _ d _ _ _ _ => sdst d .seqret
  | .mload _ d _ _ _ _ _ _ => sdst d .seqret
  | .mstore _ d _ _ _ _ _ _ _ => sdst d .seqret
  | .msetp _ c _ => [(.m (c.setWidth 3), .seqret)]
  | .mgetp _ d _ => sdst d .sysrd
  | .seal _ d _ _ | .squery _ d _ _ | .squeryAcc _ d _ _ | .scheckAcc _ d _ _ | .sfixAcc _ d _ _ => sdst d .seqret
  | .sealAcc _ d _ => sdst d .seqret
  | .scheck _ d _ _ _ | .sfix _ d _ _ _ | .cpy _ d _ _ _ | .cpycrc _ d _ _ _ => sdst d .seqret
  | .cpy2 _ d _ _ _ _ _ => sdst d .seqret
  | .cpyqIn _ d _ _ _ _ | .cpyqOut _ d _ _ _ _ => sdst d .seqret
  | .cpymc _ d _ _ _ _ _ _ => sdst d .seqret
  | .cpycrcChk _ d _ _ | .acq _ d _ _ => sdst d .seqret
  | .twait _ d _ _ | .twaitImm _ d _ _ => sdst d .seqret
  | .treadCnt _ d _ | .treadIss _ d _ | .treadStop _ d _ | .treadRetire _ d _ => sdst d .sysrd
  | .treadProg _ d | .treadCrc _ d => sdst d .sysrd
  | .rel _ d | .phase _ d | .ntdrain _ d | .logstatPub _ d | .logstatTail _ d | .logstatFree _ d | .logstatView _ d
  | .logstatMembers _ d | .logstatSelf _ d | .logstatRbld _ d | .fsend _ d => sdst d .seqret
  | .acqCur _ d _ | .logstatCursor _ d _ => sdst d .seqret
  | .dwait _ d _ _ => sdst d .seqret
  | .dreadCnt _ d _ | .dreadCons _ d _ | .dreadDesc0 _ d _ | .dreadDesc1 _ d _ | .dreadNum _ d _ => sdst d .sysrd
  | .frecv _ d _ | .frecvPeek _ d _ => vdst d .vld
  | .cslotAlloc _ d _ _ _ _ _ => sdst d .seqret
  | .cslotFree _ d _ _ _ _ | .cslotRead _ d _ _ _ _ => sdst d .seqret
  | .swopen _ d _ _ _ _ _ | .swsub _ d _ _ _ _ _ => sdst d .seqret
  | .swmerge _ d _ _ _ _ => sdst d .seqret
  | .swread _ d _ _ | .swclose _ d _ _ => sdst d .seqret
  | .launch _ d _ c => sdst d .seqret ++ pdst c .seqret
  | .mpostLaunch _ d _ _ c | .mpostMsg _ d _ _ c => sdst d .seqret ++ pdst c .seqret
  | _ => []

/-- The header predicate of a slot word: PI and PN (02 R39). -/
def headOf (w : Nat) : Nat × Nat := (fld w 52 5, fld w 57 1)

/-- Whether two slots of a template may never both write (02 R61). -/
def exclusive (u w : Nat) : Bool := (headOf u).1 == (headOf w).1 && (headOf u).1 != 31 && (headOf u).2 != (headOf w).2

/-- The higher slot of the first colliding pair: slots of a template with their words and writes, counted by a latency
table. -/
def doubleWrite (lat : LatClass → Nat) : List (Nat × Nat × Instr) → Option Nat
  | [] => none
  | (_, w, i) :: rest =>
    let hit := rest.find? fun (_, u, j) =>
      !exclusive w u && (writesOf i).any fun (r, c) => (writesOf j).any fun (q, d) =>
        r == q && lat c == lat d && r.compared
    match hit, doubleWrite lat rest with
    | some (k, _, _), some m => some (min k m)
    | some (k, _, _), none => some k
    | none, m => m

/-- The lowest failing slot of a template with its reason; none where the template is legal (02 R59, R60).
DEDUCED, log entry 69. -/
def judgeTemplate (lat : LatClass → Nat) (ws : List Nat) : Option (Nat × Nat) :=
  let tagged := ws.mapIdx fun k w => (k, w, decodeSlot k w)
  let bad := tagged.findSome? fun (k, _, r) => match r with
    | .error e => some (k, e)
    | .ok _ => none
  let good := tagged.filterMap fun (k, w, r) => match r with
    | .ok i => some (k, w, i)
    | .error _ => none
  match bad, doubleWrite lat good with
  | some (k, e), some m => if m < k ∨ (m = k ∧ 8 < e) then some (m, 8) else some (k, e)
  | some (k, e), none => some (k, e)
  | none, some m => some (m, 8)
  | none, none => none

/-- The lowest-numbered failing template from `t` on, of `n` templates: its number, slot and reason. -/
def judgeFrom (lat : LatClass → Nat) (read : Nat → List Nat) (t : Nat) : Nat → Option (Nat × Nat × Nat)
  | 0 => none
  | n + 1 =>
    match judgeTemplate lat (read t) with
    | some (k, e) => some (t, k, e)
    | none => judgeFrom lat read (t + 1) n

def templateWords (m : Mem) (base t : Nat) : List Nat := slotsOf (Mem.readLE m (base + 48 * t) 48)

/-- The latencies that the double-write rule counts by: the table of the context's task, or the native ones for the
service bank (02 R61, R67). -/
def State.fenceLat (s : State) (core : Nat) (ctx : BitVec 2) (bank : BitVec 2) (c : LatClass) : Nat :=
  if bank = 2 ∨ 512 ≤ core then Config.native c.num
  else match (s.ctxAt core ctx).task with
    | some t => t.lat.getD c.num (Config.native c.num)
    | none => Config.native c.num

/-- What a validation finds in a bank: none where it arms. DEDUCED, log entry 69. -/
def State.judgeBank (s : State) (core : Nat) (ctx : BitVec 2) (bank : BitVec 2) : Option (Nat × Nat × Nat) :=
  judgeFrom (s.fenceLat core ctx bank) (templateWords s.mem (istoreBase core + (bankNum bank.toNat).dict)) 0
    (if bank = 2 then 512 else 2048)

/-- SYS.FIS after a validation (02 R60). -/
def fisAfter (fis : BitVec 24) (bank : Nat) (fail : Bool) (reason tidx slot : Nat) : BitVec 24 :=
  let arm : BitVec 24 := if fail then (fis &&& 7) &&& ~~~(1#24 <<< bank) else (fis &&& 7) ||| (1#24 <<< bank)
  arm ||| BitVec.ofNat 24 (fail.toNat * 2 ^ 3 + bank * 2 ^ 4 + reason * 2 ^ 6 + tidx * 2 ^ 10 + slot * 2 ^ 21)

/-- The result of a fence reaches its predicate. -/
def Context.fenceLands (c : Context) (f : Fence) (ok : Bool) : Context :=
  let fill (l : List LandEntry) : List LandEntry := l.map fun e =>
    if e.reg == .p f.pd && !e.ready && e.issue == f.issue then { e with val := (boolWord ok).setWidth 2048, ready := true }
    else e
  { c with
    landing := fill c.landing
    latch := c.latch.map fun l => { l with landing := fill l.landing } }

/-- The oldest FENCE.I of a core ends: its result exists, and lands at the next boundary of its context at which it is due
(10 R254, R257). -/
def State.fenceDone (s : State) (n : Nat) : State :=
  match (s.core n).fences with
  | [] => s
  | f :: rest =>
    let verdict := if f.hit then some (0, 0, 0) else s.judgeBank n f.ctx f.bank
    let (t, k, e) := verdict.getD (0, 0, 0)
    let c := s.core n
    let s := s.setCore n { c with fences := rest, fis := fisAfter c.fis f.bank.toNat verdict.isSome e t k }
    s.setCtxAt n f.ctx ((s.ctxAt n f.ctx).fenceLands f verdict.isNone)

/-- 10 R272. DEDUCED, log entry 69. -/
def execFenceIDone (core : BitVec 9) (s : State) : Result := settle (s.fenceDone core.toNat)

end Sys2Proof.Machine
end

