-- ==== Sys2Proof/Machine/Save.lean ====
section
/-! DEFINITION. Context records: their image, CTXSAVE and CTXRSTR, full saves, drain stubs, group saves and restores
(15 R413-R423, R431-R433, R495), and schedule-cycle stops (17 R461). -/

namespace Sys2Proof.Machine

/-! The record (15 R414-R416). -/

def zeros (n : Nat) : List Byte := List.replicate n 0
def words8 (l : List Word) : List Byte := l.flatMap fun w => leBytes w.toNat 8

/-- Class and number of a register in a landing-buffer entry (15 R416). -/
def Reg.code (r : Reg) : Nat :=
  match r with
  | .s n => n.toNat
  | .v n => 2 ^ 12 + n.toNat
  | .p n => 2 * 2 ^ 12 + n.toNat
  | .b n => 3 * 2 ^ 12 + n.toNat
  | .m n => 4 * 2 ^ 12 + n.toNat
  | .k n => 5 * 2 ^ 12 + n.toNat
  | .fmt => 6 * 2 ^ 12
  | .push n => 7 * 2 ^ 12 + n.toNat
  | .sys n => 8 * 2 ^ 12 + n.toNat

def Reg.ofCode (x : Nat) : Option Reg :=
  let n := x % 2 ^ 12
  match x / 2 ^ 12 with
  | 0 => some (.s (BitVec.ofNat 6 n))
  | 1 => some (.v (BitVec.ofNat 5 n))
  | 2 => some (.p (BitVec.ofNat 5 n))
  | 3 => some (.b (BitVec.ofNat 3 n))
  | 4 => some (.m (BitVec.ofNat 3 n))
  | 5 => some (.k (BitVec.ofNat 3 n))
  | 6 => some .fmt
  | 7 => some (.push (BitVec.ofNat 4 n))
  | 8 => some (.sys (BitVec.ofNat 12 n))
  | _ => none

def LandEntry.bytes (e : LandEntry) : List Byte :=
  let chk := match e.reg with
    | .v _ => e.chk.toNat
    | .push _ => e.chk.toNat
    | _ => 0
  leBytes e.reg.code 4 ++ leBytes e.left 4 ++ leBytes chk 4 ++ zeros 52 ++ leBytes e.val.toNat 256

def landingBytes (l : List LandEntry) : List Byte :=
  let l := (entriesOf l).take 64
  l.flatMap LandEntry.bytes ++ zeros (20480 - 320 * l.length)

def loopBytes (ls : Vector Loop 4) : List Byte :=
  words8 (ls.toList.map Loop.word) ++ words8 (ls.toList.flatMap fun l => [0, 1, 2, 3, 4, 5].map l.fillWord)

/-- The redirections with counts 1 and 2: flags and targets (15 R415). -/
def redirAt (rs : List (Nat × BitVec 14)) (k : Nat) : Option (BitVec 14) := (rs.find? fun r => r.1 = k).map (·.2)
def redirFlags (rs : List (Nat × BitVec 14)) : Nat :=
  (redirAt rs 1).isSome.toNat * 2 + (redirAt rs 2).isSome.toNat * 4
def redirTarget (rs : List (Nat × BitVec 14)) (k : Nat) : Nat := ((redirAt rs k).getD 0).toNat

def stagingBytes (f : Option Ferry) : List Byte :=
  match f with
  | none => zeros 352
  | some f => ((ferryFlits f).take 11).flatMap (fun x => leBytes x.toNat 32) ++ zeros (352 - 32 * min 11 (ferryFlits f).length)

def BindKind.num (k : BindKind) : Nat :=
  match k with
  | .free => 0
  | .cpyqIn => 1
  | .cpyqOut => 2
  | .swsub => 3

/-- A stream register's bindings (15 R495). -/
def StreamReg.bytes (q : StreamReg) : List Byte :=
  let depth := match q.active.kind with
    | .cpyqOut => q.outq.length
    | .free => 0
    | _ => q.inq.length
  let half (b : Binding) (d : Nat) : List Byte :=
    leBytes ((if b.kind = .free then 0 else b.seq.toNat % 2 ^ 48) + b.kind.num * 2 ^ 48 + d * 2 ^ 50) 8
  half q.active (depth % 8) ++ half q.shadow 0

/-- The containment record: handler IP in bits 13:0, mask in bits 19:16, bit 63 set while a region is open. -/
def regionBytes (r : Option Region) : List Byte :=
  match r with
  | none => zeros 576
  | some r =>
    words8 (BitVec.ofNat 64 (r.ip.toNat + r.mask.toNat * 2 ^ 16 + 2 ^ 63) :: r.token :: r.s.toList.drop 1) ++ zeros 56

def timelineBytes (c : Context) : List Byte :=
  words8 ([Tl.cpy, .mtx, .fry, .swp, .atm].flatMap fun t =>
    [(c.tl t).count, (c.tl t).issued, (c.tl t).stopNum]) ++ zeros 8

/-- What a record says beside the registers: its kind, its groups, IC, the resume IP with DRAIN and SVC, the redirections,
the landing buffer. -/
structure SaveForm where
  kind    : Nat
  groups  : BitVec 10
  ic      : Word
  ip      : Nat
  redir   : List (Nat × BitVec 14)
  landing : List LandEntry
deriving DecidableEq, Repr

def ifGroup (g : BitVec 10) (n : Nat) (bs : List Byte) : List Byte := if g.getLsbD n then bs else zeros bs.length

def headerBytes (c : Context) (num : Nat) (f : SaveForm) : List Byte :=
  let lid := match c.task with
    | some t => t.lid.toNat
    | none => 0
  leBytes 0x00585443 4 ++ leBytes f.groups.toNat 2 ++ leBytes f.kind 1 ++ leBytes (min 64 (entriesOf f.landing).length) 1 ++
  leBytes f.ic.toNat 8 ++ leBytes f.ip 2 ++ leBytes c.dip.toNat 2 ++ leBytes (redirFlags f.redir) 1 ++
  leBytes (f.groups.getLsbD 7 && c.staging.isSome).toNat 1 ++ leBytes (redirTarget f.redir 1) 2 ++ leBytes lid 8 ++
  leBytes num 2 ++ leBytes (redirTarget f.redir 2) 2 ++ zeros 28

/-- The 32 KiB record of a context (15 R414). DEDUCED, log entry 65. -/
def recordBytes (c : Context) (num : Nat) (f : SaveForm) : List Byte :=
  let g := f.groups
  headerBytes c num f ++
  ifGroup g 0 (words8 ((List.range 64).map fun n => c.rs (BitVec.ofNat 6 n))) ++
  ifGroup g 2 (words8 c.p.toList) ++
  ifGroup g 3 (words8 (c.b.toList.map (·.setWidth 64))) ++
  ifGroup g 4 (loopBytes c.loops) ++
  ifGroup g 5 (words8 ((List.range 8).map fun n => c.mword (BitVec.ofNat 3 n))) ++
  ifGroup g 6 (c.k.toList.flatMap fun x => leBytes x.toNat 4) ++
  ifGroup g 9 (words8 ([c.fmt.setWidth 64, c.fpf.setWidth 64, c.cki.setWidth 64, c.pmk.setWidth 64,
    BitVec.ofNat 64 c.shchk.toNat] ++ c.scr.toList) ++ zeros 56) ++
  timelineBytes c ++
  ifGroup g 7 (c.streams.toList.flatMap StreamReg.bytes) ++
  ifGroup g 8 (regionBytes c.region) ++
  ifGroup g 7 (stagingBytes c.staging) ++
  ifGroup g 1 (c.vchk.toList.flatMap fun x => leBytes x.toNat 4) ++
  zeros 1376 ++
  ifGroup g 1 (c.v.toList.flatMap fun x => leBytes x.toNat 256) ++
  landingBytes f.landing

/-- The trap latch record (15 R415). -/
def latchBytes (c : Context) (l : TrapLatch) : List Byte :=
  leBytes 0x004C5443 4 ++ leBytes (min 64 (entriesOf l.landing).length) 1 ++ leBytes (redirFlags l.redir) 1 ++
  leBytes (redirTarget l.redir 1) 2 ++ leBytes (l.ip.toNat + l.drain.toNat * 2 ^ 14) 2 ++
  leBytes (redirTarget l.redir 2) 2 ++ zeros 52 ++
  words8 [c.tcause, c.tip.setWidth 64, c.taddr, c.tseq, c.tval.setWidth 64] ++ zeros 24 ++
  loopBytes l.loops ++ zeros 672 ++ landingBytes l.landing

/-! Reading a record. -/

def State.recWord (s : State) (a : Nat) : Word := BitVec.ofNat 64 (Mem.readLE s.mem a 8)

def loopOf (w : Word) (f : Nat → Word) : Loop where
  start := BitVec.ofNat 14 (fld w.toNat 0 14)
  fin := BitVec.ofNat 14 (fld w.toNat 14 14)
  act := w.getLsbD 28
  depth := BitVec.ofNat 2 (fld w.toNat 29 2)
  rem := BitVec.ofNat 32 (fld w.toNat 32 32)
  fills := Vector.ofFn fun j => (f j.val).setWidth 32
  nops := Vector.ofFn fun j => (f j.val >>> 32).setWidth 32

def State.loopsAt (s : State) (a : Nat) : Vector Loop 4 :=
  Vector.ofFn fun t => loopOf (s.recWord (a + 8 * t.val)) fun j => s.recWord (a + 32 + 48 * t.val + 8 * j)

/-- The landing buffer of a record. The flags that land with an entry have no place there: they come back, position by
position, with the entries `old` that the record was made from (03 R94, 15 R416). DESIGN CHOICE, log entry 64. -/
def State.landingAt (s : State) (a : Nat) (ic : Word) (old : List LandEntry) : Nat → List LandEntry
  | 0 => []
  | n + 1 =>
    let rest := State.landingAt s (a + 320) ic (old.drop 1) n
    match Reg.ofCode (Mem.readLE s.mem a 2) with
    | none => rest
    | some r =>
      let (fl, ck) : BitVec 5 × BitVec 11 := match old with
        | [] => (0, 0)
        | e :: _ => (e.fpf, e.cki)
      ⟨r, BitVec.ofNat 2048 (Mem.readLE s.mem (a + 64) 256), BitVec.ofNat 32 (Mem.readLE s.mem (a + 8) 4), Mem.readLE s.mem (a + 4) 4,
        ic - 1, 0, true, fl, ck⟩ :: rest

/-- A restored landing buffer, behind it the flags of operations that have no result. -/
def State.landingOf (s : State) (a n : Nat) (ic : Word) (old : List LandEntry) : List LandEntry :=
  s.landingAt a ic ((entriesOf old).take 64) n ++ flagsOnly old

def redirsOf (flags t1 t2 : Nat) : List (Nat × BitVec 14) :=
  (if flags.testBit 1 then [(1, BitVec.ofNat 14 t1)] else []) ++ (if flags.testBit 2 then [(2, BitVec.ofNat 14 t2)] else [])

def State.regionAt (s : State) (a : Nat) : Option Region :=
  let w := s.recWord a
  if w.getLsbD 63 then
    some ⟨w.setWidth 14, BitVec.ofNat 4 (fld w.toNat 16 4),
      Vector.ofFn fun n => if n.val = 0 then 0 else s.recWord (a + 8 + 8 * n.val), s.recWord (a + 8)⟩
  else none

def State.flitAt (s : State) (a : Nat) : BitVec 256 := BitVec.ofNat 256 (Mem.readLE s.mem a 32)

/-- The staging buffer of a record whose STGV is set; CLEN of its header tells the cargo flits (12 R297, R298). -/
def State.stagingAt (s : State) (rec' : Nat) : Option Ferry :=
  if Mem.readLE s.mem (rec' + 21) 1 % 2 = 1 then
    let a := rec' + 0x8C0
    let h := s.flitAt a
    let n := (fld h.toNat 112 9 + 31) / 32
    some ⟨h, s.flitAt (a + 32), s.flitAt (a + 64), (List.range (min 8 n)).map fun j => s.flitAt (a + 96 + 32 * j)⟩
  else none

/-- A value where its group was written, and zeros where it was not. -/
def ifKept {α : Type} (g : BitVec 10) (n : Nat) (x zero' : α) : α := if g.getLsbD n then x else zero'

/-- A hardware restore (15 R417): what the record at `a` says of a context, over what stayed with its commands; a group left
out of the record comes back as zeros (15 R414, R423). -/
def State.restoreFrom (s : State) (a latch : Nat) (c : Context) : Context :=
  let g : BitVec 10 := BitVec.ofNat 10 (Mem.readLE s.mem (a + 4) 2)
  let ic := s.recWord (a + 8)
  let ipw := Mem.readLE s.mem (a + 16) 2
  let svc := ipw.testBit 15
  let w (off n : Nat) : Word := s.recWord (a + off + 8 * n)
  let m7 := w 0x420 7
  { c with
    s := Vector.ofFn fun n => ifKept g 0 (w 0x40 n.val) 0
    v := Vector.ofFn fun n => ifKept g 1 (BitVec.ofNat 2048 (Mem.readLE s.mem (a + 0x1000 + 256 * n.val) 256)) 0
    vchk := Vector.ofFn fun n => ifKept g 1 (BitVec.ofNat 32 (Mem.readLE s.mem (a + 0xA20 + 4 * n.val) 4)) 0
    p := Vector.ofFn fun n => ifKept g 2 (w 0x240 n.val) 0
    b := Vector.ofFn fun n => ifKept g 3 ((w 0x300 n.val).setWidth 14) 0
    loops := ifKept g 4 (s.loopsAt (a + 0x340)) (Vector.replicate 4 Loop.idle)
    m := Vector.ofFn fun n => ifKept g 5 (w 0x420 n.val &&& mWritable n.val) 0
    mnext := ifKept g 5 (BitVec.ofNat 7 (fld m7.toNat 8 7)) 0
    mseq := ifKept g 5 (BitVec.ofNat 32 (fld m7.toNat 16 32)) 0
    k := Vector.ofFn fun n => ifKept g 6 (BitVec.ofNat 32 (Mem.readLE s.mem (a + 0x460 + 4 * n.val) 4)) 0
    fmt := ifKept g 9 ((w 0x480 0).setWidth 6) 0
    fpf := ifKept g 9 ((w 0x480 1).setWidth 5) 0
    cki := ifKept g 9 ((w 0x480 2).setWidth 11) 0
    pmk := ifKept g 9 ((w 0x480 3).setWidth 16) 0
    shchk := ifKept g 9 ((w 0x480 4).getLsbD 0) false
    scr := Vector.ofFn fun n => ifKept g 9 (w 0x4A8 n.val) 0
    region := ifKept g 8 (s.regionAt (a + 0x680)) none
    staging := ifKept g 7 (s.stagingAt a) none
    landing := s.landingOf (a + 0x3000) (Mem.readLE s.mem (a + 7) 1) ic c.kept
    kept := []
    ic := ic
    ip := BitVec.ofNat 14 ipw
    drain := ipw.testBit 14
    dip := BitVec.ofNat 14 (Mem.readLE s.mem (a + 18) 2)
    redir := redirsOf (Mem.readLE s.mem (a + 20) 1) (Mem.readLE s.mem (a + 22) 2) (Mem.readLE s.mem (a + 34) 2)
    svc := svc
    latch := if svc then
        let old := match c.latch with
          | some l => l.landing
          | none => []
        some ⟨s.landingOf (latch + 0x400) (Mem.readLE s.mem (latch + 4) 1) ic old,
          redirsOf (Mem.readLE s.mem (latch + 5) 1) (Mem.readLE s.mem (latch + 6) 2) (Mem.readLE s.mem (latch + 10) 2),
          s.loopsAt (latch + 0x80), BitVec.ofNat 14 (Mem.readLE s.mem (latch + 8) 2),
          (Mem.readLE s.mem (latch + 8) 2).testBit 14⟩
      else none
    tcause := if svc then s.recWord (latch + 0x40) else c.tcause
    tip := if svc then (s.recWord (latch + 0x48)).setWidth 14 else c.tip
    taddr := if svc then s.recWord (latch + 0x50) else c.taddr
    tseq := if svc then s.recWord (latch + 0x58) else c.tseq
    tval := if svc then (s.recWord (latch + 0x60)).setWidth 16 else c.tval
    tmr := 0, tpend := false, preq := false, saved := false, bcause := 0, resid := 0, stubLen := 0, diverted := false
    st := if c.frozen ∨ c.nested then .halted else .ready }

/-! CTXSAVE and CTXRSTR (15 R431-R433). -/

def saveBase (core : Nat) : Nat := sliceBase core + 0xF80000
def recordBase (core : Nat) (i : BitVec 2) : Nat := saveBase core + 0x8000 * i.toNat
def latchBase (core : Nat) (i : BitVec 2) : Nat := sliceBase core + 0xFE8000 + 0x5400 * i.toNat

/-- Whether the partition of a core has save regions (15 R413). -/
def State.hasSaves (s : State) (core : Nat) : Bool := (s.partOfCore core).any fun (_, p) => Part.swap p

/-- The slice address of a record: the translated address, or the context's place in the save region. -/
def State.recordPlace (s : State) (sr : Bool) (va : Word) : Except Stop Nat :=
  if sr then
    if s.hasSaves s.cur.core then .ok (recordBase s.cur.core s.cur.ctx) else .error (kindFault s 0)
  else
    match s.access va 32768 64 true with
    | .error e => .error e
    | .ok acc => if 2 ≤ acc.loc.kind then .error (kindFault s va) else .ok (s.accessPa acc)

/-- Values of results that do not exist yet are open. DEDUCED, log entry 65. -/
def State.openResults (s : State) : List LandEntry → List LandEntry × State
  | [] => ([], s)
  | e :: rest =>
    if e.ready then
      let (l, s') := State.openResults s rest
      (e :: l, s')
    else
      let (w, s1) := s.draw
      let (l, s') := State.openResults s1 rest
      ({ e with val := w } :: l, s')

/-- Whether the bundle now issuing returns from service: fetch then takes the bundle at SYS.TIP (15 R429). -/
def State.returns (s : State) : Bool :=
  s.cx.svc && (match s.fetchBundle s.cur.core s.cx with
    | .ok (_, l) => l.any fun x => match x.2 with
      | .eret p => s.test p
      | _ => false
    | .error _ => false)

/-- What fetch takes behind the bundle now issuing, and the redirections pending then (15 R429, R432). -/
def State.resume (s : State) (c' : Context) : BitVec 14 × List (Nat × BitVec 14) :=
  if s.returns then (s.cx.tip, match s.cx.latch with
    | some l => l.redir
    | none => [])
  else (c'.ip, c'.redir)

/-- The record that CTXSAVE writes for the bundle now issuing (15 R432): in a stub KIND 1 with the IP that the context
resumes at, and the landing buffer behind what has landed by then (15 R423); TMR is 0 from then on (17 R456).
DEDUCED, log entry 65. -/
def State.saveNow (s : State) (groups : BitVec 10) (pa : Nat) : State :=
  let n := s.cur.core
  let c := s.cx
  let c' := s.afterIssue n s.cur.ctx s.isLiteral
  let early := c.landing.filter fun e => e.left = 0
  let (landing, s') := s.openResults (c'.landing.filter fun e => !(early.any fun x => x.reg == e.reg && x.issue == e.issue && x.slot == e.slot))
  let (next, redir) := s.resume c'
  let ip := if c.drain then c.dip else next
  let s' := s'.writePhys pa (recordBytes c (n * 4 + s.cur.ctx.toNat)
    ⟨if c.drain then 1 else 0, groups, c.ic + 1, ip.toNat, redir, landing⟩)
  let s' := s'.setCx { s'.cx with tmr := 0, tpend := false }
  if pa = recordBase n s.cur.ctx then s'.setCx { s'.cx with kept := landing } else s'

def ctxsave (sr : Bool) (p : Pred) (regs : List Reg) (groups : BitVec 10) (va : State → Word) : State → Result :=
  finish (runSlot p regs noBlock fun s =>
    if sr ∧ !s.cx.svc ∧ !s.cx.drain then .error (s.trapHere 19 0 0)
    else match s.recordPlace sr (va s) with
      | .error e => .error e
      | .ok pa => .ok (s.saveNow groups pa))

def execCtxsave (p : Pred) (a : BitVec 6) (groups : BitVec 10) (s : State) : Result :=
  ctxsave false p [.s a] groups (fun s => s.cx.rs a) s
def execCtxsaveSr (p : Pred) (groups : BitVec 10) (s : State) : Result := ctxsave true p [] groups (fun _ => 0) s

def restored (r : Reg) (v : BitVec 2048) (chk : W32) : LandEntry := ⟨r, v, chk, 1, 0, 5, true, 0, 0⟩

/-- The register writes of a restored record. -/
def State.restoreRegs (s : State) (g : BitVec 10) (a : Nat) : List LandEntry :=
  let w (off n : Nat) : BitVec 2048 := (s.recWord (a + off + 8 * n)).setWidth 2048
  let of (n : Nat) (l : List LandEntry) : List LandEntry := if g.getLsbD n then l else []
  of 0 ((List.range 64).map fun n => restored (.s (BitVec.ofNat 6 n)) (w 0x40 n) 0) ++
  of 1 ((List.range 32).map fun n => restored (.v (BitVec.ofNat 5 n))
    (BitVec.ofNat 2048 (Mem.readLE s.mem (a + 0x1000 + 256 * n) 256)) (BitVec.ofNat 32 (Mem.readLE s.mem (a + 0xA20 + 4 * n) 4))) ++
  of 2 ((List.range 24).map fun n => restored (.p (BitVec.ofNat 5 n)) (w 0x240 n) 0) ++
  of 3 ((List.range 8).map fun n => restored (.b (BitVec.ofNat 3 n)) (w 0x300 n) 0) ++
  of 5 ((List.range 8).map fun n => restored (.m (BitVec.ofNat 3 n)) (w 0x420 n &&& (mWritable n).setWidth 2048) 0) ++
  of 6 ((List.range 8).map fun n => restored (.k (BitVec.ofNat 3 n)) (BitVec.ofNat 2048 (Mem.readLE s.mem (a + 0x460 + 4 * n) 4)) 0) ++
  of 9 ([restored .fmt (w 0x480 0) 0, restored (.sys 0x002) (w 0x480 1) 0, restored (.sys 0x004) (w 0x480 2) 0,
    restored (.sys 0x005) (w 0x480 3) 0, restored (.sys 0x001) (w 0x480 4 <<< 4) 0] ++
    (List.range 4).map fun n => restored (.sys (BitVec.ofNat 12 (0x028 + n))) (w 0x4A8 n) 0)

/-- CTXRSTR of the bundle now issuing: the writes pending from earlier bundles go when it issues (15 R433). -/
def State.restoreNow (s : State) (groups : BitVec 10) (pa : Nat) : State :=
  let g : BitVec 10 := groups &&& BitVec.ofNat 10 (Mem.readLE s.mem (pa + 4) 2)
  let c := s.cx
  let bad := s.badBytes pa 32768
  let r : Restore := ⟨g, s.restoreRegs g pa, if g.getLsbD 8 then some (s.regionAt (pa + 0x680)) else none,
    if g.getLsbD 7 then some (s.stagingAt pa) else none⟩
  (s.setCx { c with restore := some r }).landFlag (if bad then ckiPOISON else 0)

def ctxrstr (sr : Bool) (p : Pred) (regs : List Reg) (groups : BitVec 10) (va : State → Word) : State → Result :=
  finish (runSlot p regs noBlock fun s =>
    if sr ∧ !s.cx.svc then .error (s.trapHere 19 0 0)
    else match s.recordPlace sr (va s) with
      | .error e => .error e
      | .ok pa =>
        if Mem.readLE s.mem pa 4 ≠ 0x00585443 then .error (kindFault s (va s)) else .ok (s.restoreNow groups pa))

def execCtxrstr (p : Pred) (a : BitVec 6) (groups : BitVec 10) (s : State) : Result :=
  ctxrstr false p [.s a] groups (fun s => s.cx.rs a) s
def execCtxrstrSr (p : Pred) (groups : BitVec 10) (s : State) : Result := ctxrstr true p [] groups (fun _ => 0) s

/-! Pre-emption (15 R418-R421). -/

/-- Every pending result of the context exists (10 R257). -/
def Context.settled (c : Context) : Bool :=
  c.landing.all (·.ready) && (match c.latch with
    | some l => l.landing.all (·.ready)
    | none => true)

def fullForm (c : Context) : SaveForm :=
  ⟨2, 0x3FF, c.ic, c.ip.toNat + c.drain.toNat * 2 ^ 14 + c.svc.toNat * 2 ^ 15, c.redir, c.landing⟩

/-- The full save of a context at the boundary where it stands (15 R421). -/
def State.saveFull (s : State) (core : Nat) (i : BitVec 2) : State :=
  let c := s.ctxAt core i
  let s := s.writePhys (recordBase core i) (recordBytes c (core * 4 + i.toNat) (fullForm c))
  let s := match c.latch with
    | some l => if c.svc then s.writePhys (latchBase core i) (latchBytes c l) else s
    | none => s
  s.setCtxAt core i { c with
    st := .halted, saved := true, kept := c.landing, preq := false, diverted := false, tmr := 0, tpend := false, bcause := 0 }

/-- The drain stub that covers an IP (02 R64, 15 R418). -/
def Context.stubFor (c : Context) : Option Stub :=
  match c.task with
  | none => none
  | some t => t.stubs.find? fun x => decide (x.start ≤ c.ip) && decide (c.ip ≤ x.fin)

/-- Fetch diverted into a stub (15 R419). -/
def Context.divert (c : Context) (x : Stub) : Context :=
  { c with
    dip := c.ip, drain := true, diverted := true, stubLen := 0, ip := x.entry, bcause := 0
    st := if c.st = .blocked then .ready else c.st }

/-- What a pre-emption asks of a context at its boundary (15 R418). -/
inductive PreAction where
  | nothing
  | divert (x : Stub)
  | save
deriving DecidableEq, Repr

def Context.preAction (c : Context) : PreAction :=
  if !c.preq ∨ c.st = .free ∨ c.exiting then .nothing
  else if c.frozen then .save
  else if c.svc ∨ (c.drain ∧ c.diverted) then .nothing
  else if c.st = .halted then .save
  else if c.redir ≠ [] then (if c.preqLeft = 0 then .save else .nothing)
  else if c.drain then .save
  else match c.stubFor with
    | some x => .divert x
    | none => .save

/-- A stub's entry waits for every pending result of the context (10 R257, 15 R419). -/
def execPreemptDivert (core : BitVec 9) (ctx : BitVec 2) (s : State) : Result :=
  let c := s.ctxAt core.toNat ctx
  match c.preAction with
  | .divert x => settle (if c.settled then s.setCtxAt core.toNat ctx (c.divert x) else s)
  | _ => settle s

/-- 15 R421: the save waits for every pending result of the context. -/
def execFullSave (core : BitVec 9) (ctx : BitVec 2) (s : State) : Result :=
  let c := s.ctxAt core.toNat ctx
  if c.preAction = .save ∧ c.settled ∧ !c.saved then settle (s.saveFull core.toNat ctx) else settle s

/-- A stub that may not go on is abandoned with a full save (15 R420). -/
def Context.mustAbandon (c : Context) : Bool :=
  c.drain && (decide (4096 ≤ c.stubLen) || c.st == .blocked) && !c.svc && !c.saved && !c.exiting

/-- A context that a pre-emption keeps at its boundary issues nothing more (15 R418, R420). -/
def Context.held (c : Context) : Bool := c.preAction != .nothing || c.mustAbandon

/-- A context that can issue its next bundle (01 R19). -/
def Context.canIssue (c : Context) : Bool := (c.st == .ready || c.st == .issuing) && !c.exiting && !c.held

def execStubAbandon (core : BitVec 9) (ctx : BitVec 2) (s : State) : Result :=
  let c := s.ctxAt core.toNat ctx
  if c.mustAbandon ∧ c.settled then settle (s.saveFull core.toNat ctx) else settle s

/-- LOG_FULL or VIEW_FULL at the blocked bundle (08 R221, R222); a stub is abandoned in its place, and its bundle attempted
again when the context is back (15 R420). -/
def execLogFull (core : BitVec 9) (ctx : BitVec 2) (s : State) : Result :=
  let n := core.toNat
  let c := s.ctxAt n ctx
  if c.st = .blocked ∧ (c.bcause = 8 ∨ c.bcause = 9) then
    if c.mustAbandon then settle (if c.settled then s.saveFull n ctx else s)
    else settle (s.takeTrap n ctx ⟨if c.bcause = 8 then 21 else 22, 0, c.bslot, 0, 0, 0, 0⟩)
  else settle s

/-! Groups (15 R422). -/

def xposeState (k : Core) : List Byte :=
  leBytes k.xf.toNat 1 ++ leBytes k.xg.toNat 1 ++ leBytes (match k.xowner with
    | some i => i.toNat + 1
    | none => 0) 1 ++ zeros 61

/-- An image written with the poison of its tile (07 R195, R196). -/
def State.writeImage (s : State) (a : Nat) (x : Tile) : State :=
  x.bad.foldl (fun s n => s.spoilBytes (a + 4 * n) (List.replicate 4 (0, true))) (s.writePhys a x.image)

/-- The tiles of a mask into the save region. -/
def State.saveTiles (s : State) (core : Nat) (mask : BitVec 16) : List Nat → State
  | [] => s
  | t :: rest =>
    let s' := if mask.getLsbD t then
        s.writeImage (sliceBase core + 0xFA0000 + 0x4200 * t) ((s.core core).tiles[t]?.getD Tile.zero)
      else s
    State.saveTiles s' core mask rest

/-- The transposer into the save region with its counts and its grant, or, for a group without the grant, zeros in the place
of counts and grant; what a group that is still away holds there stays. The reserved ranges become 0 (15 R413). -/
def State.saveXpose (s : State) (core : Nat) (granted : Bool) : State :=
  let k := s.core core
  let a := sliceBase core + 0xFE6200
  let s :=
    if granted then (s.writeImage (sliceBase core + 0xFE2000) k.xpose).writePhys a (xposeState k)
    else if s.parked.any fun x => x.num / 4 == core && x.grant then s
    else s.writePhys a (zeros 64)
  (s.writePhys (sliceBase core + 0xFE6240) (zeros 0x1DC0)).writePhys (sliceBase core + 0xFFD000) (zeros 0x3000)

/-! A task's entries of the locked table go with it (11 R286). -/

def setCtxm (e : BitVec 128) (m : BitVec 4) : BitVec 128 :=
  BitVec.ofNat 128 (e.toNat - fld e.toNat 88 4 * 2 ^ 88 + m.toNat * 2 ^ 88)

/-- A context's valid entries, as its own. -/
def Core.lttOf (k : Core) (i : BitVec 2) : List (BitVec 128) :=
  (k.ltt.toList.filter fun e => Ltt.v e && (Ltt.ctxm e).getLsbD i.toNat).map fun e => setCtxm e (1#4 <<< i.toNat)

/-- The table without a context: an entry that no context is left in becomes invalid. -/
def dropLtt (t : Vector (BitVec 128) 128) (i : BitVec 2) : Vector (BitVec 128) 128 :=
  t.map fun e =>
    let m := Ltt.ctxm e &&& ~~~(1#4 <<< i.toNat)
    if !Ltt.v e || !(Ltt.ctxm e).getLsbD i.toNat then e else if m = 0 then 0 else setCtxm e m

/-- An entry put back: into one that differs in CTXM alone, or into the lowest invalid one. -/
def addLtt (t : Vector (BitVec 128) 128) (e : BitVec 128) : Vector (BitVec 128) 128 :=
  match (List.range 128).find? fun n => Ltt.v (t[n]?.getD 0) && Ltt.kind e != 0 && setCtxm (t[n]?.getD 0) 0 == setCtxm e 0 with
  | some n => vmod t n fun x => setCtxm x (Ltt.ctxm x ||| Ltt.ctxm e)
  | none =>
    match (List.range 128).find? fun n => !Ltt.v (t[n]?.getD 0) with
    | some n => vmod t n fun _ => e
    | none => t

/-- Rows may have committed behind the record: NEXT of its m7 follows, where it names the same command (05 R141, R142). -/
def State.saveNext (s : State) (core : Nat) (i : BitVec 2) : State :=
  let a := recordBase core i
  let c := s.ctxAt core i
  if (Mem.readLE s.mem (a + 4) 2).testBit 5 ∧ Mem.readLE s.mem (a + 0x45A) 4 = c.mseq.toNat then
    s.writePhys (a + 0x459) (leBytes c.mnext.toNat 1)
  else s

/-- Contexts leave the core; a cpy command stops at a unit boundary, and what belongs to suspended commands is kept
(15 R422, 09 R236). A mark that a core's bases are unsound stays, since the tasks of the group are not over (08 R210).
DESIGN CHOICE, log entry 94. -/
def State.parkAll (s : State) (core : Nat) : List (BitVec 2) → State
  | [] => s
  | i :: rest =>
    let s := (s.endFlights core i (s.ctxAt core i).cpy.cmds).saveNext core i
    let c := s.ctxAt core i
    let s := s.writePhys (recordBase core i + 0x500) (timelineBytes c)
    let own := (s.core core).lttOf i
    let s := (s.setCtxAt core i Context.reset)
    let k := s.core core
    let s := s.setCore core { k with xowner := if k.xowner = some i then none else k.xowner, ltt := dropLtt k.ltt i }
    State.parkAll { s with parked := s.parked ++ [⟨core * 4 + i.toNat, c, own, false, k.xowner == some i⟩] } core rest

/-- The contexts of a group on a core. -/
def State.groupOn (s : State) (core part : Nat) (lid : Word) (grp : BitVec 32) : List (BitVec 2) :=
  ([0, 1, 2, 3] : List (BitVec 2)).filter fun i =>
    match (s.ctxAt core i).task with
    | some t => t.part.toNat == part && t.lid == lid && t.grp == grp
    | none => false

/-- The tile mask of the tasks of a list of contexts. -/
def State.maskOf (s : State) (core : Nat) (is : List (BitVec 2)) : BitVec 16 :=
  is.foldl (fun m i => m ||| (match (s.ctxAt core i).task with
    | some t => t.mask
    | none => 0)) 0

def State.parkGroup (s : State) (core : Nat) (is : List (BitVec 2)) : State :=
  let s := s.saveTiles core (s.maskOf core is) (List.range 16)
  (s.saveXpose core ((s.core core).xowner.any is.contains)).parkAll core is

/-- 15 R422: every context of the group on the core has been saved. -/
def execGroupSave (core : BitVec 9) (part : BitVec 6) (lid : BitVec 64) (grp : BitVec 32) (s : State) : Result :=
  let n := core.toNat
  let is := s.groupOn n part.toNat lid grp
  if is ≠ [] ∧ is.all (fun i => (s.ctxAt n i).st == .halted && (s.ctxAt n i).saved) then settle (s.parkGroup n is)
  else settle s

/-! Restore (15 R417, R422). -/

def State.loadTiles (s : State) (core : Nat) (mask : BitVec 16) : List Nat → State
  | [] => s
  | t :: rest =>
    let s' := if mask.getLsbD t then
        let k := s.core core
        s.setCore core { k with tiles := vmod k.tiles t fun _ => s.imageAt (sliceBase core + 0xFA0000 + 0x4200 * t) }
      else s
    State.loadTiles s' core mask rest

/-- Tiles come back with the first context of their group, the transposer with the context that held its grant.
DESIGN CHOICE, log entry 49. -/
def State.loadShared (s : State) (core : Nat) (i : BitVec 2) (grant : Bool) (t : Task) : State :=
  let s := if s.groupOn core t.part.toNat t.lid t.grp = [] then s.loadTiles core t.mask (List.range 16) else s
  let a := sliceBase core + 0xFE6200
  if grant ∧ Mem.readLE s.mem (a + 2) 1 = i.toNat + 1 then
    let k := s.core core
    s.setCore core { k with
      xpose := s.imageAt (sliceBase core + 0xFE2000), xf := BitVec.ofNat 7 (Mem.readLE s.mem a 1)
      xg := BitVec.ofNat 7 (Mem.readLE s.mem (a + 1) 1), xowner := some i }
  else s

/-- The first element of a list that meets a test, and the list without it. -/
def takeFirst {α : Type} (f : α → Bool) : List α → Option (α × List α)
  | [] => none
  | x :: rest =>
    if f x then some (x, rest)
    else match takeFirst f rest with
      | some (y, l) => some (y, x :: l)
      | none => none

/-- Admission can have changed: the engine need not wait, and a pass that runs is followed by another (13 R355, R361). -/
def Pass.wake (e : Pass) : Pass := { e with hit := true, idle := false }

/-- A restored subscriber may change what its sweeps' engines admit (13 R355). -/
def State.nudge (s : State) (ctxn : Nat) : State :=
  { s with sweeps := s.sweeps.map fun (k, x) =>
      (k, if x.queries.any (fun q => q.ctxn == ctxn) then { x with engines := x.engines.map Pass.wake } else x) }

/-- Whether a context stands saved on its core while nothing pre-empts its group: a stub that was abandoned outside a
pre-emption (15 R420). -/
def State.savedAlone (s : State) (core : Nat) (i : BitVec 2) : Bool :=
  let c := s.ctxAt core i
  c.saved && match c.task with
    | none => false
    | some t => !(s.launches.any fun l => l.part == t.part.toNat && l.lid == t.lid &&
        l.groups.any fun g => g.st == .saving && g.ctxs.contains (core * 4 + i.toNat))

/-- 15 R417: a saved context returns to its place, when the place is free; one that was saved alone returns where it stands.
DESIGN CHOICE, log entry 87. -/
def execContextRestore (core : BitVec 9) (ctx : BitVec 2) (s : State) : Result :=
  let n := core.toNat
  if s.savedAlone n ctx then
    settle ((s.setCtxAt n ctx (s.restoreFrom (recordBase n ctx) (latchBase n ctx) (s.ctxAt n ctx))).nudge (n * 4 + ctx.toNat))
  else if (s.ctxAt n ctx).st ≠ .free then settle s
  else match takeFirst (fun (x : Parked) => x.num == n * 4 + ctx.toNat && x.ready) s.parked with
    | none => settle s
    | some (x, rest) =>
      let s := match x.ctx.task with
        | some t => s.loadShared n ctx x.grant t
        | none => s
      let c := s.restoreFrom (recordBase n ctx) (latchBase n ctx) x.ctx
      let s := (({ s with parked := rest }).setCtxAt n ctx c).nudge x.num
      let k := s.core n
      settle (s.setCore n { k with ltt := x.ltt.foldl addLtt k.ltt })

/-! Results, timers and stops. -/

/-- Whether a pending write waits for a FENCE.I. DESIGN CHOICE, log entry 20. -/
def Core.fenceEntry (k : Core) (i : BitVec 2) (e : LandEntry) : Bool :=
  k.fences.any fun f => f.ctx == i && e.reg == .p f.pd && e.issue == f.issue

/-- The entry that the context waits for first; that of the program behind those of its handler. -/
def Core.awaited (k : Core) (i : BitVec 2) (c : Context) : Option LandEntry :=
  (c.landing ++ (match c.latch with
    | some l => l.landing
    | none => [])).find? fun e => !e.ready && !k.fenceEntry i e

/-- A result exists. -/
def Context.gets (c : Context) (e : LandEntry) : Context :=
  let fill (l : List LandEntry) : List LandEntry := l.map fun x => if x = e then { x with ready := true } else x
  { c with landing := fill c.landing, latch := c.latch.map fun l => { l with landing := fill l.landing } }

/-- 10 R256: the oldest result that the context waits for exists; it lands at the next boundary at which it is due, and a
record made before that holds it with remaining count 0 (10 R257). DESIGN CHOICE, log entry 20. -/
def execOverdueResult (core : BitVec 9) (ctx : BitVec 2) (s : State) : Result :=
  let n := core.toNat
  let c := s.ctxAt n ctx
  match (s.core n).awaited ctx c with
  | none => settle s
  | some e => settle (s.setCtxAt n ctx (c.gets e))

/-- 17 R456: SYS.TIME has reached the deadline of a context outside service mode and stubs. -/
def execTimerExpire (core : BitVec 9) (ctx : BitVec 2) (s : State) : Result :=
  let n := core.toNat
  let c := s.ctxAt n ctx
  if c.tmr = 0 ∨ s.time.toNat < c.tmr.toNat ∨ c.svc ∨ c.drain ∨ c.st = .free ∨ c.st = .halted ∨ c.exiting then settle s
  else if c.st = .blocked then settle (s.takeTrap n ctx ⟨49, 0, 7, 0, 0, 0, 0⟩)
  else settle (s.setCtxAt n ctx { c with tpend := true })

/-- The context that takes issue after the holder has been passed over (01 R18): the next ready one, round robin. -/
def Core.nextReady (k : Core) : Option (BitVec 2) :=
  ([1, 2, 3] : List (BitVec 2)).map (k.holder + ·) |>.find? fun i => (k.ctxs.get i.toFin).canIssue

/-- 01 R19: at 65,536 bundles issue passes to the next ready context, or the holder's count restarts. -/
def State.limitResidency (s : State) (core : Nat) : State :=
  let k := s.core core
  let c := k.ctxs.get k.holder.toFin
  if c.resid.toNat < 65536 then s
  else match k.nextReady with
    | none => s.setCtxAt core k.holder { c with resid := 0 }
    | some _ => s.setCtxAt core k.holder { c with resid := 0, st := if c.st = .issuing then .ready else c.st }

/-- A boundary at which a context stands Blocked is left to the core's next attempt, which finds out whether its cause has
cleared (01 R19). DEDUCED, log entry 13. -/
def execResidencyLimit (core : BitVec 9) (s : State) : Result :=
  let k := s.core core.toNat
  if k.nextReady.isNone ∧ k.ctxs.toList.any (fun c => c.st == .blocked && !c.exiting) then settle s
  else settle (s.limitResidency core.toNat)

/-! PC samples (17 R453-R455). -/

/-- DEDUCED, log entry 8. -/
def Core.ringSize (k : Core) : Nat := 2 ^ fld k.smpc.toNat 8 4

/-- The contexts in the order in which they are considered: the holder while it keeps issue, else the others from the next
one on and the holder last. -/
def Core.considered (k : Core) : List (BitVec 2) :=
  let others := ([1, 2, 3] : List (BitVec 2)).map (k.holder + ·)
  let l := if (k.ctxs.get k.holder.toFin).st = .issuing then k.holder :: others else others ++ [k.holder]
  l.filter fun i => (k.ctxs.get i.toFin).canIssue

/-- The reason of a context's record (17 R455): what the context whose turn it is to issue did in the cycle is open, and
another that is Ready stands behind it. DEDUCED, log entry 8. -/
def State.sampleReason (s : State) (core : Nat) (i : BitVec 2) (c : Context) : Nat × State :=
  let first := (s.core core).considered.head?
  match c.st with
  | .issuing | .ready =>
    if first = some i ∨ (first = none ∧ (s.core core).holder = i) then
      let (r, s') := s.choose [0, 16, 17, 18]
      (r.getD 0, s')
    else (if c.svc then 21 else 19, s)
  | .blocked => (if c.svc then 21 else c.bcause.toNat, s)
  | .halted => (20, s)
  | .free => (0, s)

def sampleBytes (c : Context) (i : BitVec 2) (reason : Nat) (ccyc : Word) : List Byte :=
  leBytes (c.ip.toNat + c.drain.toNat * 2 ^ 14 + c.svc.toNat * 2 ^ 15) 2 ++ leBytes i.toNat 1 ++ leBytes reason 1 ++
  leBytes c.pmk.toNat 2 ++ zeros 2 ++ leBytes ccyc.toNat 8

def State.writeSamples (s : State) (core : Nat) (ccyc : Word) : List (BitVec 2) → State
  | [] => s
  | i :: rest =>
    let k := s.core core
    let c := s.ctxAt core i
    let (r, s') := s.sampleReason core i c
    let a := sliceBase core + fld k.smpc.toNat 12 12 * 4096 + 16 * (k.smph.toNat % k.ringSize)
    let s' := s'.writePhys a (sampleBytes c i r ccyc)
    let k' := s'.core core
    State.writeSamples (s'.setCore core { k' with smph := k'.smph + 1 }) core ccyc rest

/-- The sample of a core whose CCYC stands at a multiple of the interval: written whole, or dropped (17 R454). -/
def State.takeSample (s : State) (n : Nat) : State :=
  let k := s.core n
  let live := ([0, 1, 2, 3] : List (BitVec 2)).filter fun i => (s.ctxAt n i).st ≠ .free
  if k.smph.toNat - k.smpt.toNat + live.length ≤ k.ringSize then s.writeSamples n k.ccyc live
  else s.setCore n { k with smpd := k.smpd + BitVec.ofNat 64 live.length }

/-- CCYC comes to the next multiple of the interval. -/
def execSampleTick (core : BitVec 9) (s : State) : Result :=
  let n := core.toNat
  let k := s.core n
  if !k.samplesOn then settle s
  else settle ((s.setCore n { k with ccyc := BitVec.ofNat 64 k.nextSample }).takeSample n)

/-- A cycle in which a core tries to issue: CCYC counts it, and a sample is taken where one is due (17 R452, R454). -/
def State.cycle (s : State) (n : Nat) : State :=
  let k := s.core n
  let now := k.ccyc.toNat + 1
  let s := s.setCore n { k with ccyc := BitVec.ofNat 64 now }
  if k.samplesOn ∧ now = k.nextSample then s.takeSample n else s

/-! Schedule-cycle stops (17 R461). -/

/-- The validations that a core's results wait for come to their end. -/
def State.endFences (s : State) (core : Nat) : Nat → State
  | 0 => s
  | n + 1 => State.endFences (s.fenceDone core) core n

/-- Every result that a context waits for exists; what is overdue lands before its next bundle (10 R257). -/
def State.awaitCtx (s : State) (core : Nat) (i : BitVec 2) : State :=
  let c := s.ctxAt core i
  let done (l : List LandEntry) : List LandEntry := l.map fun e => { e with ready := true }
  s.setCtxAt core i { c with landing := done c.landing, latch := c.latch.map fun l => { l with landing := done l.landing } }

/-- DEDUCED, log entry 59. -/
def dumpOf (c : Context) (num : Nat) : List Byte := recordBytes c num (fullForm c)

def State.dumpAll (s : State) (core : Nat) : List (BitVec 2) → State
  | [] => s
  | i :: rest =>
    let s := s.awaitCtx core i
    State.dumpAll { s with out := s.out ++ [.debug (core * 4 + i.toNat) (dumpOf (s.ctxAt core i) (core * 4 + i.toNat))] } core rest

def allCtxs : List (BitVec 2) := [0, 1, 2, 3]

/-- The core issues no further bundle, and its contexts are dumped in ascending order. DEDUCED, log entry 59. -/
def State.stopCore (s : State) (n : Nat) : State :=
  let k := s.core n
  ((s.setCore n { k with stopped := true, stopAt := none }).endFences n k.fences.length).dumpAll n allCtxs

/-- CCYC has come to the value of a stop that waits. -/
def Core.stopDue (k : Core) : Bool := k.stopAt.any fun v => decide (v.toNat ≤ k.ccyc.toNat)

/-- A record that the debugger has replaced, written into its context as a restore does (15 R417); what is no part of a record
stays as at the stop. DEDUCED, log entry 59. -/
def State.reinject (s : State) (core : Nat) (x : BitVec 2 × List Byte) : State :=
  let c := s.ctxAt core x.1
  let r := ({ s with mem := Mem.writeBytes [] 0 (x.2.take 32768) }).restoreFrom 0 32768 { c with kept := c.landing }
  s.setCtxAt core x.1 { r with
    latch := c.latch, tcause := c.tcause, tip := c.tip, taddr := c.taddr, tseq := c.tseq, tval := c.tval, kept := c.kept
    tmr := c.tmr, tpend := c.tpend, preq := c.preq, saved := c.saved, st := c.st, bcause := c.bcause, resid := c.resid
    stubLen := c.stubLen, diverted := c.diverted }

/-- In ascending context order. -/
def State.reinjectAll (s : State) (core : Nat) (records : List (BitVec 2 × List Byte)) : State :=
  allCtxs.foldl (fun s i => match records.find? fun x => x.1 = i with
    | some x => s.reinject core x
    | none => s) s

end Sys2Proof.Machine
end

