-- ==== Sys2Proof/Machine/Issue.lean ====
section
/-! DEFINITION. One attempt of a core to issue: pre-emption at the boundary, the choice of a context (01 R18, R19), the
steps of 10 R251, and what follows an issued bundle. The meaning of a slot's instruction is an argument, `run`. -/

namespace Sys2Proof.Machine

/-! The slots of a bundle. -/

/-- The place of a slot in the order in which a bundle's effects are worked out: loads see memory before the bundle's
stores (07 R190), an ATOM and a record read by LAUNCH or MPOST go with the loads, slot 2 stores before slot 4, an ordering
or saving instruction of slot 5 sees the stores, and an instruction that ends its bundle comes last.
DEDUCED, log entry 14. -/
def slotRank (k : Nat) (i : Instr) : Nat :=
  match i with
  | .trap .. => 6
  | .eret .. => 6
  | .exit .. => 6
  | .yield .. => 6
  | .st .. => 2
  | .stnt .. => 2
  | .stcmb .. => 2
  | .vst .. => 3
  | .vsts .. => 3
  | .vstx .. => 3
  | .vstnt .. => 3
  | .vstcmb .. => 3
  | .vspill .. => 3
  | .atom .. => 1
  | .launch .. => 1
  | .mpostLaunch .. => 1
  | .mpostMsg .. => 1
  | .ctxrstr .. => 0
  | .ctxrstrSr .. => 0
  | _ => if k = 5 then 5 else 0

/-- DEDUCED, log entry 14. -/
def slotOrder (l : List (Nat × Instr)) : List (Nat × Instr) :=
  [0, 1, 2, 3, 4, 5, 6].flatMap fun r => l.filter fun x => slotRank x.1 x.2 = r

/-- The predicate, the vector source fields and the vector destination field of an instruction of slot 3 (02 R45). -/
def streamFields (i : Instr) : Option (Pred × List (BitVec 6) × Option (BitVec 6)) :=
  match i with
  | .vadd p d a b _ _ | .vsub p d a b _ _ | .vsatn p d a b _ _ => some (p, [a, b], some d)
  | .vmul p d a b _ | .vmulh p d a b _ | .vshl p d a b _ | .vshr p d a b _ | .vshra p d a b _ | .vmin p d a b _ | .vmax p d a b _
  | .vpack p d a b _ | .vfadd p d a b _ | .vfsub p d a b _ | .vfmul p d a b _ | .vslide p d a b _ => some (p, [a, b], some d)
  | .vand p d a b | .vor p d a b | .vxor p d a b => some (p, [a, b], some d)
  | .vfmin p d a b _ _ | .vfmax p d a b _ _ => some (p, [a, b], some d)
  | .vcmp p _ a b _ _ => some (p, [a, b], none)
  | .vfcmp p _ a b _ => some (p, [a, b], none)
  | .vsel p d a b _ => some (p, [a, b], some d)
  | .vdot4 p d a b c _ _ => some (p, [a, b, c], some d)
  | .vffma p d a b c _ => some (p, [a, b, c], some d)
  | .vperm p d a b c => some (p, [a, b, c], some d)
  | .vabs p d a _ _ | .vwiden p d a _ _ | .vred p d a _ _ => some (p, [a], some d)
  | .vpackT2 p d a _ | .vunpack p d a _ | .vbcastLane p d a _ => some (p, [a], some d)
  | .vfrcp p d a | .vfrsq p d a | .vfexp2 p d a | .vflog2 p d a | .vfclass p d a | .vcompress p d a | .vexpand p d a =>
    some (p, [a], some d)
  | .vfcvt p d a _ _ _ | .vquant p d a _ _ _ | .vdeq p d a _ _ _ => some (p, [a], some d)
  | .vcountge p _ a _ _ | .movvs p _ a _ _ => some (p, [a], none)
  | .vbcast p d _ | .viota p d _ _ | .movsv p d _ _ | .txout p d => some (p, [], some d)
  | .vaccrd p d _ _ _ => some (p, [], some d)
  | .vaccwr p _ b _ _ => some (p, [b], none)
  | .txin p a => some (p, [a], none)
  | _ => none

/-- A move of one lane that is inactive: it pops and pushes nothing (04 R133). -/
def State.laneIdle (s : State) : Instr → Bool
  | .movvs p _ _ n _ => !laneOn (s.mask p) n.toNat
  | .movsv p _ _ n => !laneOn (s.mask p) n.toNat
  | _ => false

/-- The pops and the push of a stopped slot 3, which slot 4 still has to reckon with: whether the bundle blocks does not
depend on a stall or a trap (04 R114, 10 R251). -/
def State.countStreams (s : State) (i : Instr) : State :=
  match streamFields i with
  | none => s
  | some (p, srcs, d) =>
    if s.mask p = 0 ∨ s.laneIdle i then s
    else
      let c := (popsOf srcs).foldl Context.popOne s.cx
      match d.bind pushOf with
      | none => s.setCx c
      | some n => s.setCx { c with landing := c.landing ++ [⟨.push n, 0, 0, 1, c.ic, 3, true, 0, 0⟩] }

/-- What a run of an instruction comes to where it stops nowhere. -/
def ranWhole : Result → Option State
  | .next t => if t.last.isNone then some t else none
  | .fault _ => none
  | .refused _ => none

/-- What a stopped slot-2 store would put into the log, the view and the hand-over queue counts against their room for slot 4,
also where its data is overdue (08 R221, R223, 10 R251): it is judged with the registers as they stand, and, where the view has
no place for it, by its entries alone. DEDUCED, log entry 91. -/
def State.countEntries (run : Instr → State → Result) (s : State) (i : Instr) : State :=
  let k := s.co
  let bare := s.setCx { s.cx with landing := [] }
  match ranWhole (run i bare) with
  | some t => s.setCo { k with log := { k.log with entries := t.co.log.entries, view := t.co.log.view }, nt := t.co.nt, ntNum := t.co.ntNum }
  | none =>
    match ranWhole (run i (bare.setCo { bare.co with log := { k.log with view := [] } })) with
    | some t => s.setCo { k with log := { k.log with entries := t.co.log.entries } }
    | none => s

/-- The state in which the slots behind a stopped one are judged. -/
def State.pastStop (run : Instr → State → Result) (s : State) (k : Nat) (i : Instr) : State :=
  if k = 3 then s.countStreams i else if k = 2 then s.countEntries run i else s

/-- The slots one after another: a stopped slot leaves no effect, and what stopped it is kept with its number.
DEDUCED, log entry 14. -/
def runSlots (run : Instr → State → Result) (s : State) : List (Nat × Instr) → Host.Outcome (State × List (Nat × Stop)) Fault Refusal
  | [] => .next (s, [])
  | (k, i) :: rest =>
    match run i { s with cur := { s.cur with slot := k }, last := none } with
    | .fault f => .fault f
    | .refused r => .refused r
    | .next t =>
      match t.last with
      | none => runSlots run t rest
      | some e =>
        match runSlots run (s.pastStop run k i) rest with
        | .next (u, l) => .next (u, (k, e) :: l)
        | .fault f => .fault f
        | .refused r => .refused r

/-- A slot or the whole bundle; LANDING_FULL counts after every slot (10 R255). DEDUCED, log entry 15. -/
def stopRank (x : Nat × Stop) : Nat :=
  match x.2 with
  | .trap 5 _ 7 _ => 7
  | _ => x.1

/-- The least element of a list by a measure; the first of equals. DEDUCED, log entry 15. -/
def leastBy {α : Type} (f : α → Nat) : List α → Option α
  | [] => none
  | x :: rest =>
    match leastBy f rest with
    | none => some x
    | some y => if f x ≤ f y then some x else some y

def Stop.isBlock : Stop → Bool
  | .block _ => true
  | _ => false

def Stop.code : Stop → Nat
  | .block b => b
  | _ => 0

/-- Which stop decides: the first block cause, then a stall, then the trap of the lowest slot (10 R251, 01 R18).
DEDUCED, log entry 15. -/
def decisive (l : List (Nat × Stop)) : Option (Nat × Stop) :=
  match leastBy (fun x => x.2.code) (l.filter fun x => x.2.isBlock) with
  | some x => some x
  | none =>
    match l.find? fun x => x.2 = .stall with
    | some x => some x
    | none => leastBy stopRank l

/-! One attempt of a context. -/

/-- What an attempt of the bundle comes to. -/
inductive Attempt where
  | issued (s : State)
  | trapped (s : State)
  | blocked (s : State)
  | stalled (s : State)
  | failed (f : Fault)
  | refused (r : Refusal)
deriving DecidableEq, Repr


/-- A trap at the boundary, or the end of the drain stub that met it (15 R420). -/
def State.trapAttempt (s : State) (core : Nat) (i : BitVec 2) (t : State) : Attempt :=
  let c := s.ctxAt core i
  if c.stubEnds then (if c.settled then .trapped (s.saveFull core i) else .stalled s) else .trapped t

/-- The bundle's stores, before its acquire is judged. -/
def State.behindStores (run : Instr → State → Result) (s : State) (l : List (Nat × Instr)) : State :=
  match runSlots run s (l.filter fun x => slotRank x.1 x.2 < 5) with
  | .next (t, _) => t
  | .fault _ => s
  | .refused _ => s

/-- A block: its cause and slot recorded, an acquire's replay kept as far as the view allows beside what the bundle's own stores
take of it (08 R222). -/
def State.blockAt (run : Instr → State → Result) (s : State) (core : Nat) (i : BitVec 2) (l : List (Nat × Instr)) (slot b : Nat) :
    State :=
  let s := if b = 9 then
      let t := s.behindStores run l
      l.foldl (fun s x => s.acqPart t x.2) s
    else s
  let c := s.ctxAt core i
  s.setCtxAt core i { c with st := .blocked, bcause := BitVec.ofNat 4 b, bslot := slot }

/-- TIMER at the boundary after an issued bundle, that of a YIELD among them (17 R456). -/
def State.timerAfter (s : State) (core : Nat) (i : BitVec 2) (was : Bool) : State :=
  let c := s.ctxAt core i
  if c.tpend ∧ !was ∧ !c.svc ∧ !c.drain ∧ !c.exiting ∧ (c.st = .issuing ∨ c.st = .ready ∨ (c.st = .blocked ∧ c.bcause = 11)) then
    s.takeTrap core i ⟨49, 0, 7, 0, 0, 0, 0⟩
  else s

/-- After an issued bundle: a rollback or a trap leaves issue where it was, and a pre-emption has one bundle less to wait. -/
def State.afterBundle (s : State) (core : Nat) (i : BitVec 2) (was : Bool) : State :=
  let yields := (s.ctxAt core i).st = .blocked
  let s := s.timerAfter core i was
  let c := s.ctxAt core i
  s.setCtxAt core i { c with
    st := if c.st = .ready ∧ !yields then .issuing else c.st
    preqLeft := if was then c.preqLeft else c.preqLeft - 1 }

/-- A bundle issued, in its partition's window with its slots that are not NOP (17 R459). -/
def State.countBundle (s : State) (core : Nat) (l : List (Nat × Instr)) : State :=
  (s.countFor core 2 1).countFor core 3 (l.filter fun x => x.2 ≠ .nop).length

/-- 10 R251: the bundle at the context's IP, the context holding issue. DEDUCED, log entry 13. -/
def State.attempt (run : Instr → State → Result) (s : State) (core : Nat) (i : BitVec 2) : Attempt :=
  let s := { s with cur := ⟨core, i, 0, none⟩, last := none, ended := false, raised := 0 }
  let c := s.ctxAt core i
  match c.efaults with
  | e :: rest =>
    let s' := s.setCtxAt core i { c with efaults := rest }
    s.trapAttempt core i (s'.takeTrap core i ⟨33, e.cause, 7, e.tl.num, e.addr, e.seq, 0⟩)
  | [] =>
    match s.fetchBundle core c with
    | .error code => s.trapAttempt core i (s.takeTrap core i ⟨code, 0, 7, 0, 0, 0, 0⟩)
    | .ok (_, l) =>
      let order := slotOrder l
      match runSlots run s order with
      | .fault x => .failed x
      | .refused r => .refused r
      | .next (t, stops) =>
        match decisive stops with
        | some (k, .block b) => .blocked (s.blockAt run core i order k b)
        | some (_, .stall) => .stalled s
        | some (k, e) => s.trapAttempt core i ({ s with cur := ⟨core, i, k, none⟩ }.enterStop e)
        | none =>
          if t.ended then .issued (({ t with ended := false }.countBundle core l).afterBundle core i c.svc)
          else
            match t.endBundle with
            | .ok u => .issued ((u.countBundle core l).afterBundle core i c.svc)
            | .error e => s.trapAttempt core i (s.enterStop e)

/-! Readiness and selection (01 R18, R19). -/

/-- A Blocked context whose bundle would no longer block becomes Ready (15 R400), and one whose timer has come takes it at the
boundary before that bundle (17 R456). It is judged with what is due landed, but
nothing lands while it issues nothing (10 R257). DEDUCED, log entry 13. -/
def State.wake (run : Instr → State → Result) (s : State) (core : Nat) (i : BitVec 2) : State :=
  let c := s.ctxAt core i
  if c.st ≠ .blocked ∨ c.exiting ∨ c.held then s
  else
    let ready := s.setCtxAt core i { c with st := .ready, bcause := 0 }
    if c.tpend ∧ !c.svc ∧ !c.drain then s.takeTrap core i ⟨49, 0, 7, 0, 0, 0, 0⟩
    else if c.bcause = 11 then ready
    else match (s.landDue core i).attempt run core i with
      | .blocked t => if (dueSplit [] c.landing).1 = [] ∧ c.ckiSet = 0 then t else s
      | _ => ready

def State.wakeAll (run : Instr → State → Result) (s : State) (core : Nat) : List (BitVec 2) → State
  | [] => s
  | i :: rest => State.wakeAll run (s.wake run core i) core rest

/-- Taking issue: the residency count restarts (01 R19). -/
def State.takeIssue (s : State) (core : Nat) (i : BitVec 2) : State :=
  let k := s.core core
  let old := k.ctxs.get k.holder.toFin
  let s := if k.holder ≠ i ∧ old.st = .issuing then s.setCtxAt core k.holder { old with st := .ready } else s
  let k := { s.core core with holder := i }
  let s := s.setCore core k
  let c := s.ctxAt core i
  if c.st = .issuing then s else s.setCtxAt core i { c with st := .issuing, resid := 0 }

/-- The cycle's bundle, behind what is due at the boundary before it: results that have come to exist, those that a record
held with remaining count 0, and check bits from outside (10 R256, R257, 15 R411, R417). A context that blocks passes issue on
in the same cycle (01 R18). -/
def State.tryAll (run : Instr → State → Result) (s : State) (core : Nat) : List (BitVec 2) → Result
  | [] => settle s
  | i :: rest =>
    match ((s.landDue core i).takeIssue core i).attempt run core i with
    | .issued t => settle t
    | .trapped t =>
      let c := t.ctxAt core i
      settle (t.setCtxAt core i { c with st := if c.st = .ready then .issuing else c.st })
    | .stalled t => settle t
    | .blocked t => State.tryAll run t core rest
    | .failed f => .fault f
    | .refused r => .refused r

/-- What pre-emption does at the boundaries of a core's contexts (15 R418-R421). -/
def State.preemptAt (s : State) (core : Nat) (i : BitVec 2) : State :=
  let c := s.ctxAt core i
  if c.mustAbandon then (if c.settled then s.saveFull core i else s)
  else match c.preAction with
    | .nothing => s
    | .divert x => if c.settled then s.setCtxAt core i (c.divert x) else s
    | .save => if c.settled ∧ !c.saved then s.saveFull core i else s

def State.preemptAll (s : State) (core : Nat) : List (BitVec 2) → State
  | [] => s
  | i :: rest => State.preemptAll (s.preemptAt core i) core rest

/-- A control core whose pair has halted issues nothing, nor does a trailing core on its own outside split mode (16 R436,
R437). -/
def State.pairHeld (s : State) (core : Nat) : Bool :=
  decide (512 ≤ core) && (s.device.halts.contains (clusterOf core) || (decide (576 ≤ core) && !s.splitAt (clusterOf core)))

/-- A bundle that a control pair has committed: where its two signatures differ, nothing of it leaves the pair, which halts
(16 R434-R436). DEDUCED, log entry 30. -/
def State.compared (s : State) (core : Nat) (r : Result) : Result :=
  match r with
  | .next t =>
    if core < 512 ∨ (t.core core).bundles = (s.core core).bundles then r
    else match t.disagrees (clusterOf core) with
      | (true, u) => settle ({ s with draws := u.draws }.lockstepHalt (clusterOf core))
      | (false, u) => .next u
  | .fault f => .fault f
  | .refused x => .refused x

/-- One attempt of a core; a core that a schedule-cycle stop holds issues nothing, and one that waits for its cycle takes hold
before the attempt (17 R461). DEDUCED, log entry 13. -/
def State.issueCore (run : Instr → State → Result) (s : State) (core : Nat) : Result :=
  if (s.core core).stopped ∨ s.pairHeld core then settle s
  else
    let s := s.cycle core
    if (s.core core).stopDue then settle (s.stopCore core)
    else
      let s := s.preemptAll core allCtxs
      let s := s.wakeAll run core allCtxs
      let s := s.limitResidency core
      s.compared core (s.tryAll run core (s.core core).considered)

/-- The core after `n` in the round in which the model lets cores issue. -/
def nextCore (l : List (Nat × Core)) (n : Nat) : Nat :=
  match l.find? fun x => n < x.1 with
  | some x => x.1
  | none =>
    match l with
    | x :: _ => x.1
    | [] => n

/-! A step of the node. -/

/-- The next move: the head of the agenda, or, when it is empty, an attempt of the core whose turn it is.
DESIGN CHOICE, log entry 2. -/
def State.move (run : Instr → State → Result) (s : State) : Result :=
  match s.agenda with
  | .event i :: rest => run i { s with agenda := rest }
  | .issue n :: rest => { s with agenda := rest }.issueCore run n
  | [] => { s with turn := nextCore s.cores s.turn }.issueCore run s.turn

end Sys2Proof.Machine
end

