-- ==== Sys2Proof/Machine/Router.lean ====
section
/-! DEFINITION. Ferries, the router and the mooring: header and manifest fields, arrival and start order, routes, mooring
with its notices and freezes, and delivery queues (12 R297-R304, R320-R337, 14 R379-R384). -/

namespace Sys2Proof.Machine

/-! Output lanes. -/

/-- A ferry queued on an output lane. -/
def State.enqueue (s : State) (port lane : Nat) (f : Ferry) : State :=
  let k := 3 * port + lane
  s.setRouter { s.router with lanes := put s.router.lanes k ((look s.router.lanes k).getD [] ++ [f]) }

/-- Flits queued on the adaptive lane of a port, saturating (12 R309). -/
def State.loadq (s : State) (port : Nat) : Nat :=
  min 1023 (((look s.router.lanes (3 * port + 2)).getD []).foldl (fun n f => n + (ferryFlits f).length) 0)

/-! Notices and freezes (12 R328, R332, 14 R380-R382). -/

/-- Whether a context holds a task of the launch that a ferry names. -/
def Context.sent (c : Context) (f : Ferry) : Bool := c.task.any fun t => fld t.lid.toNat 0 16 == ferryLid f

/-- SYS.CKI.MOORED in the context that sent the ferry, while it holds the same launch; in a saved context that has left its
core it waits for the restore (12 R328, 15 R422). -/
def State.markSender (s : State) (f : Ferry) : State :=
  let n := ferrySctx f
  let i := BitVec.ofNat 2 n
  if (s.ctxAt (n / 4) i).sent f then s.flagCtx (n / 4) i ckiMOORED
  else { s with parked := s.parked.map fun x =>
      if x.num = n ∧ x.ctx.sent f then { x with ctx := { x.ctx with ckiSet := x.ctx.ckiSet ||| ckiMOORED } } else x }

/-- A ferry notice to the tenant's fault mailbox here, and to the origin (12 R328). -/
def State.ferryNotice (s : State) (f : Ferry) (code pos num : Nat) : State :=
  if ferrySys f then s
  else
    let rec' := noticeRec code pos s.node num f.header
    let s := s.postTenant (ferryTenant f) rec'
    if ferryOrig f = s.node then s.markSender f else s.sendSys (ferryTenant f) (ferryOrig f) (.notice (ferryOrig f) rec')

/-- DEDUCED, log entry 33. -/
def State.pairFrozen (s : State) (orig : BitVec 15) (t : Nat) : Bool :=
  s.pairs.any fun (_, x) => x.tenant.toNat == t && (x.orig == none || x.orig == some orig)

/-- The lowest key from `k` on that a table does not hold. -/
def firstFree {α : Type} (l : List (Nat × α)) : Nat → Nat → Nat
  | 0, k => k
  | n + 1, k => if (look l k).isSome then firstFree l n (k + 1) else k

/-- A pair frozen: the lowest free entry, or the tenant for every origin, in an entry of its own until one of the 256 frees
(14 R382). PRESUMED, log entry 32. DEDUCED, log entry 33. -/
def State.freezePair (s : State) (orig : BitVec 15) (t : Nat) (header : BitVec 256) : State :=
  if s.pairFrozen orig t then s
  else
    let k := firstFree s.pairs 256 0
    let e : PairFreeze := if k < 256 then ⟨some orig, BitVec.ofNat 12 t, 1⟩ else ⟨none, BitVec.ofNat 12 t, 1⟩
    let s := { s with pairs := put s.pairs (if k < 256 then k else 4096 + t) e }
    s.postTenant t (noticeRec 33 0 s.node 0 header)

/-! The mooring (12 R326-R330). -/

/-- A ferry enters the mooring; a fault or UNREACHABLE posts its notices. -/
def State.moorNow (s : State) (m : Moored) : State :=
  let n := freeEntry s.router.moor s.router.moor.length 0
  (if m.code ≤ 5 ∨ m.code = 20 then s.ferryNotice m.ferry m.code m.pos n else s).enter m

/-- A ferry moored with its code (12 R327), from the escape lanes or not. One that
finds no entry waits for one. DESIGN CHOICE, log entry 88. -/
def State.moorAs (s : State) (esc : Bool) (f : Ferry) (code pos arg : Nat) (val : W32) : State :=
  let r := s.router
  let m : Moored := ⟨0, f, code, pos, arg, val, esc, r.stamp, none⟩
  let s := s.setRouter { r with stamp := r.stamp + 1 }
  if r.roomFor esc then s.moorNow m else s.setRouter { s.router with stuck := r.stuck ++ [m] }

def State.moor (s : State) (f : Ferry) (code pos arg : Nat) (val : W32) : State := s.moorAs (ferryEsc f) f code pos arg val

/-! Commands of the fry timeline (12 R340, R344). -/

def doneOrder (order : Nat) (c : Context) : Option Pending := c.fry.cmds.find? fun p => p.order = order ∧ p.phase ≠ .done

/-- The fry command of a context complete; a context that has been saved and parked keeps the count (15 R422). -/
def State.fryDone (s : State) (who : Option (Nat × Nat)) : State :=
  match who with
  | none => s
  | some (n, order) =>
    match doneOrder order (s.ctxAt (n / 4) (BitVec.ofNat 2 n)) with
    | some p => s.complete (n / 4) (BitVec.ofNat 2 n) .fry p
    | none =>
      { s with parked := s.parked.map fun x =>
          if x.num = n ∧ (doneOrder order x.ctx).isSome then
            let cmds := x.ctx.fry.cmds.map fun q => if q.order = order then { q with phase := Phase.done } else q
            { x with ctx := { x.ctx with fry := Timeline.advance { x.ctx.fry with cmds := cmds } } }
          else x }

/-! Arrival (12 R302, R303, R326). -/

/-- Where an arrival stands in start order: router cycle, source, order of production. -/
def insertArrival (a : Arrival) : List Arrival → List Arrival
  | [] => [a]
  | x :: rest =>
    if x.cycle < a.cycle ∨ (x.cycle = a.cycle ∧ x.src ≤ a.src) then x :: insertArrival a rest else a :: x :: rest

/-- The router cycle may have moved on since the last arrival. -/
def State.routerTick (s : State) : State :=
  let (later, s) := s.choose [false, true]
  if later = some true then s.setRouter { s.router with cycle := s.router.cycle + 1 } else s

/-- A full pool moors its oldest waiting ferry with reason POOL, for an arrival from the escape lanes out of their reserve. -/
def State.overflow (s : State) (esc : Bool) : State :=
  match s.router.pool with
  | [] => s
  | a :: rest =>
    if s.router.pool.length < 1024 then s
    else ((s.setRouter { s.router with pool := rest }).moorAs esc a.ferry 16 0 0 0).fryDone a.fsend

/-- An arrival to land here: ESC and VLH are cleared before its landing starts (12 R322). -/
def State.arrive (s : State) (f : Ferry) (src : Nat) (who : Option (Nat × Nat)) : State :=
  let s := s.overflow (ferryEsc f)
  s.setRouter { s.router with pool := insertArrival ⟨setHdr f 81 2 0, s.router.cycle, src, who⟩ s.router.pool }

/-- A local injection, which a full mooring holds back (12 R302, R330). -/
def State.inject (s : State) (f : Ferry) : State :=
  if s.router.full then s.setRouter { s.router with copies := s.router.copies ++ [f] } else s.arrive f 6 none

def State.injectAll (s : State) : List Ferry → State
  | [] => s
  | f :: rest => State.injectAll (s.inject f) rest

/-! Leaving (12 R321-R325). -/

def axisPort (port : Nat) : Nat := port / 2

/-- The escape lane through a port: VL1 only within an axis whose dateline it has crossed (12 R321). -/
def escapeLane (port : Nat) (inPort : Option Nat) (f : Ferry) : Nat :=
  match inPort with
  | some p => (decide (axisPort p = axisPort port) && ferryVlh f).toNat
  | none => 0

/-- A ferry sent on the escape lanes toward a target that this router reaches; a spent budget moors it (12 R325). -/
def State.sendEscape (s : State) (f : Ferry) (inPort : Option Nat) (pos : Nat) : State :=
  match dimPort (s.extent (ferryTenant f)) s.node (ferryTarget f) with
  | none => s
  | some port =>
    if ferryHops f = ferryBudget f then s.moor f 5 pos 0 0
    else
      let lane := escapeLane port inPort f
      s.enqueue port lane (setHdr f 81 2 (1 + 2 * lane))

/-- A descriptor (12 R336) without its NUM. -/
def delivery (cargo : BitVec 2048) (value : Nat) (kind clen : Nat) (orig : BitVec 15) (tenant tag : Nat) : Delivery :=
  ⟨cargo, BitVec.ofNat 64 (value % 2 ^ 32 + kind * 2 ^ 32 + clen * 2 ^ 48),
    BitVec.ofNat 64 (orig.toNat + tenant * 2 ^ 16 + tag % 2 ^ 32 * 2 ^ 32)⟩

/-- Whether deliveries already wait for a queue (12 R335, R337, 11 R283). -/
def Router.queueWaits (r : Router) (q : Nat) : Bool :=
  (r.moor ++ r.stuck).any (fun m => m.code == 17 && m.arg == q) || r.records.any (fun x => x.queue == q)

def State.queueRoom (s : State) (q : Nat) : Bool :=
  match (s.core (q / 8)).dqs[q % 8]? with
  | some d => decide (d.items.length < 32)
  | none => false

/-- The next entry of a delivery queue (core × 8 + queue), and its counter. -/
def State.putDelivery (s : State) (q : Nat) (x : Delivery) : State :=
  let k := s.core (q / 8)
  s.setCore (q / 8) { k with dqs := vmod k.dqs (q % 8) fun d => { d with items := d.items ++ [x], count := d.count + 1 } }

/-- A delivery that no ferry carries: entered, or held in its queue's order. -/
def State.deliverItem (s : State) (q : Nat) (x : Delivery) (launch : Option (Nat × Word)) : State × Bool :=
  if s.queueRoom q ∧ !s.router.queueWaits q then (s.putDelivery q x, true)
  else
    let r := s.router
    (s.setRouter { r with records := r.records ++ [⟨q, x, r.stamp, launch⟩], stamp := r.stamp + 1 }, false)

/-- UNREACHABLE at the router that finds it: the mooring, and the delivery to the origin's return queue (12 R323, R336). -/
def State.moorUnreachable (s : State) (f : Ferry) : State :=
  let s := s.moor f 20 0 0 0
  if ferryRqv f then
    let cargo := BitVec.ofNat 2048 (f.header.toNat + 2 ^ 256 * f.manifest.toNat)
    let x := delivery cargo 20 1 64 (ferryOrig f) (ferryTenant f) (ferryTag f)
    let q := fld (ferryRq f) 0 9 * 8 + fld (ferryRq f) 9 3
    if ferryOrig f = s.node then (s.deliverItem q x none).1
    else s.sendSys (ferryTenant f) (ferryOrig f) (.unreachable (ferryOrig f) (BitVec.ofNat 12 (ferryRq f)) x)
  else s

/-- GODST's route (12 R313, R321, R323): on to the target, to FALL when DEST is unreachable, or into the mooring. -/
def State.route (s : State) (f : Ferry) (inPort : Option Nat) (pos : Nat) : State :=
  let t := ferryTenant f
  if s.reaches t (ferryTarget f) then s.sendEscape f inPort pos
  else if !ferryFback f ∧ ferryFall f ≠ ferryDest f ∧ s.reaches t (ferryFall f) then
    let f := setHdr f 83 1 1
    if ferryFall f = s.node then
      (s.setRouter { s.router with cycle := s.router.cycle + 1 }).inject (setHdr f 81 2 0)
    else s.sendEscape f inPort pos
  else s.moorUnreachable f

/-- 12 R301, R322, R324, R332: what the router does with a ferry that has entered it, through a port or by injection. -/
def State.receive (s : State) (f : Ferry) (src : Nat) (who : Option (Nat × Nat)) : State :=
  let t := ferryTenant f
  let inPort := if src < 6 then some src else none
  if ferryPoison f then
    (s.setRouter { s.router with drops := put s.router.drops t ((look s.router.drops t).getD 0 + 1) }).fryDone who
  else if !ferryHeaderOk f then (s.moor f 1 0 0 0).fryDone who
  else if s.pairFrozen (ferryOrig f) t then
    (s.moorAs (ferryEsc f) (if ferryTarget f = s.node then setHdr f 81 2 0 else f) 19 0 0 0).fryDone who
  else if ferryTarget f = s.node then s.arrive f src who
  else if ferryEsc f then (s.route f inPort 0).fryDone who
  else if ferryOp f 0 = 0x7400 ∧ ferryHops f ≠ ferryBudget f then (s.route f inPort 0).fryDone who
  else s.arrive f src who

/-! Delivery (12 R314, R335). -/

/-- DLVR at the end of a landing: the entry, or the mooring with QFULL. -/
def State.deliverFerry (s : State) (f : Ferry) (q : Nat) (v : W32) : State :=
  if s.queueRoom q ∧ !s.router.queueWaits q then
    s.putDelivery q (delivery (ferryCargo f) v.toNat 0 (ferryClen f) (ferryOrig f) (ferryTenant f) (ferryTag f))
  else s.moor f 17 0 q v

/-! Re-landing (12 R315, R329). -/

/-- A ferry that waited for an entry enters the mooring, unless what it would wait for there has come; it keeps its place in
the order in which ferries were to be moored (12 R337). -/
def State.unstick (s : State) (m : Moored) : State :=
  if m.code = 18 ∧ (look s.router.slots m.arg).all (fun x => x.st ≠ 1) then s.arrive m.ferry 7 none else s.moorNow m

/-- Freed entries taken by ferries that wait for one, in their order. -/
def State.unstickAll (s : State) : Nat → State
  | 0 => s
  | n + 1 =>
    match s.router.stuck with
    | [] => s
    | m :: rest =>
      if s.router.roomFor m.esc then State.unstickAll ((s.setRouter { s.router with stuck := rest }).unstick m) n else s

/-- The mooring without some of its entries. -/
def State.dropMoored (s : State) (l : List Moored) : State :=
  let s := (s.setRouter { s.router with moor := l }).judgeFull
  s.unstickAll s.router.stuck.length

/-- Ferries taken out of the mooring and out of those that wait for an entry. -/
def State.release (s : State) (f : Moored → Bool) : State :=
  (s.setRouter { s.router with stuck := s.router.stuck.filter fun m => !f m }).dropMoored (s.router.moor.filter fun m => !f m)

def State.unmoor (s : State) (num : Nat) : State := s.dropMoored (s.router.moor.filter fun m => m.num ≠ num)

/-- DEDUCED, log entry 39. -/
def State.relandAll (s : State) : List Moored → State
  | [] => s
  | m :: rest => State.relandAll ((s.release fun x => x.stamp == m.stamp).arrive m.ferry 7 none) rest

/-- Every ferry parked on a slot, in the order in which they parked. -/
def Router.parkedOn (r : Router) (slot : Nat) : List Moored := (r.moor ++ r.stuck).filter fun m => m.code = 18 ∧ m.arg = slot

/-! Combine slots (12 R316-R318). -/

/-- The identity of a code (12 R317). -/
def identity (code : Nat) : W32 :=
  match code with
  | 2 => 0x80000000
  | 3 => 0x80000000
  | 4 => 0x7FFFFFFF
  | 5 => 0xFF800000
  | 6 => 0x7F800000
  | 9 => 0xFFFFFFFF
  | _ => 0

def State.setSlot (s : State) (k : Nat) (x : CSlot) : State := s.setRouter { s.router with slots := put s.router.slots k x }

/-- A slot that has left ARMED: its parked ferries re-land (12 R316). DEDUCED, log entry 39. -/
def State.slotLeft (s : State) (k : Nat) : State := s.relandAll (s.router.parkedOn k)

end Sys2Proof.Machine
end

