-- ==== Sys2Proof/Machine/Fry.lean ====
section
/-! DEFINITION. Commands of the fry timeline at the node: FSEND's injection and CSLOT at the landing store, each when its
context's earlier fry commands are finished (12 R330, R340, R344, R345). -/

namespace Sys2Proof.Machine

/-- The context's first fry command that is not finished, when it has not begun. -/
def Timeline.nextUp (t : Timeline) : Option Pending :=
  match t.cmds.find? fun p => p.phase ≠ .done with
  | some p => if p.phase = .waiting then some p else none
  | none => none

/-- The 64-byte image of a slot (12 R345). DEDUCED, log entry 37. -/
def CSlot.image (x : CSlot) (status : Nat) : List Byte :=
  leBytes x.value.toNat 4 ++ zeros 4 ++ leBytes x.count.toNat 4 ++ leBytes x.expect.toNat 4 ++
  leBytes x.st 1 ++ [x.flags] ++ leBytes x.code 1 ++ [x.tnum] ++ leBytes x.tenant.toNat 2 ++ leBytes status 1 ++ zeros 1 ++
  leBytes x.deadline.toNat 8 ++ leBytes x.late.toNat 4 ++ zeros 28

def CSlot.free : CSlot := ⟨0, 0, 0, 0, 0, 0, 0, 0, 0, 0, 0⟩

/-- A form of CSLOT at the landing store: its status (12 R344). DEDUCED, log entry 37. -/
def State.slotForm (s : State) (form code : Nat) (k : Nat) (param : Word) (tnum : Byte) (tpl : BitVec 768) (tenant : BitVec 12) :
    State × Nat :=
  if 8192 ≤ k then (s, 3)
  else
    let old := look s.router.slots k
    match form, old with
    | 0, some _ => (s, 1)
    | 0, none =>
      if param.setWidth 32 = 0#32 then (s, 3)
      else
        let us := fld param.toNat 32 32
        let deadline : Word := if us = 0 then 0 else s.time + BitVec.ofNat 64 (us * 1000)
        (s.setSlot k ⟨1, identity code, 0, param.setWidth 32, 0, code, tnum, tpl, tenant, deadline, 0⟩, 0)
    | 1, none => (s, 2)
    | 1, some x =>
      if x.tenant ≠ tenant then (s, 2)
      else if s.router.parkedOn k ≠ [] then (s, 4)
      else (s.setRouter { s.router with slots := del s.router.slots k }, 0)
    | _, none => (s, 0)
    | _, some x => (s, if x.tenant = tenant then 0 else 2)

/-- The timeout ferry of a slot: it has no flag of the header set (12 R298, R319). -/
def timeoutFerry (node : BitVec 15) (slot : Nat) (x : CSlot) : Ferry :=
  let f : Ferry := ⟨x.tpl.setWidth 256, (x.tpl >>> 256).setWidth 256, (x.tpl >>> 512).setWidth 256, []⟩
  let f := setHdr f 0 15 node.toNat
  let f := setHdr f 48 12 x.tenant.toNat
  let f := setHdr f 64 8 0
  let f := setHdr f 80 7 0
  let f := setHdr f 112 9 0
  let f := setHdr f 128 32 slot
  let f := setHdr f 176 11 0
  let f := setHdr f 192 16 0
  setH (setH (setH (setH f 0 x.value) 1 x.count) 2 (x.flags.setWidth 32)) 3 (BitVec.ofNat 32 slot)

/-- A slot that the last microsecond tick has found armed at or beyond its deadline (12 R319). -/
def State.slotLate (s : State) (x : CSlot) : Bool :=
  x.st == 1 && x.deadline != 0 && decide (x.deadline.toNat ≤ s.time.toNat / 1000 * 1000)

/-- A slot times out: TOUT, the parked ferries re-land, and the timeout ferry is injected in the same router cycle. -/
def State.slotTimeout (s : State) (k : Nat) (x : CSlot) : State :=
  let x := { x with st := 3, flags := x.flags ||| 2 }
  let s := (s.setSlot k x).slotLeft k
  let f := timeoutFerry s.node k x
  if s.router.full then s.inject f else s.receive f 6 none

/-- The microsecond tick at which a slot times out. -/
def CSlot.tick (x : CSlot) : Nat := (x.deadline.toNat + 999) / 1000

/-- Slots in the order of their ticks, those of one tick by number. -/
def byTick : List (Nat × CSlot) → List (Nat × CSlot)
  | [] => []
  | a :: rest => put' a (byTick rest)
where
  put' (a : Nat × CSlot) : List (Nat × CSlot) → List (Nat × CSlot)
    | [] => [a]
    | b :: rest => if a.2.tick ≤ b.2.tick then a :: b :: rest else b :: put' a rest

/-- The timeouts of slots in the order of their ticks: those of one tick in one router cycle. -/
def State.timeoutAll (s : State) (last : Nat) : List (Nat × CSlot) → State
  | [] => s
  | (k, x) :: rest =>
    let s := if x.tick = last then s else s.setRouter { s.router with cycle := s.router.cycle + 1 }
    State.timeoutAll (s.slotTimeout k x) x.tick rest

/-- Timeouts come before the landings of their router cycle: those that are due when a landing, or a CSLOT, is to start; a
landing in progress started earlier (12 R319). -/
def State.timeouts (s : State) : State :=
  if s.router.landing.isSome then s else s.timeoutAll 0 (byTick (s.router.slots.filter fun x => s.slotLate x.2))

/-- A CSLOT at the landing store; the write of its image is its command's (06 R175). -/
def State.doSlot (s : State) (core : Nat) (i : BitVec 2) (p : Pending) (form code k : Nat) (param : Word) (tnum : Byte)
    (tpl : BitVec 768) (image : Nat) : State :=
  let (s, status) := s.timeouts.slotForm form code k param tnum tpl (BitVec.ofNat 12 (s.tenantOfCore core))
  let x := if k < 8192 then (look s.router.slots k).getD CSlot.free else CSlot.free
  let t := (s.actCmd core i p).writePart' ⟨image, false, none, 0⟩ (clean (x.image status))
  { t with cur := s.cur, raised := s.raised }.complete core i .fry { p.take t with phase := .reqSent }

/-- The command performed: an FSEND injected unless injection is stopped, a CSLOT at the landing store.
DEDUCED, log entry 37. -/
def State.doFry (s : State) (core : Nat) (i : BitVec 2) (p : Pending) : State :=
  match p.cmd with
  | .fsend f =>
    if s.router.full then s
    else
      let s := s.setCmd core i .fry { p with phase := .reqSent }
      s.routerTick.receive f 6 (some (core * 4 + i.toNat, p.order))
  | .cslot form code slot param tnum tpl image => s.doSlot core i p form code slot.toNat param tnum tpl image
  | _ => s

/-- The fry command of a core whose turn it is: of those that can begin, the first issued (01 R29). -/
def State.fryTurn (s : State) (core : Nat) : Option (BitVec 2 × Pending) :=
  leastBy (fun x => x.2.order) (allCtxs.filterMap fun i => (s.ctxAt core i).fry.nextUp.map fun p => (i, p))

/-- Fry commands of a core that can begin, one after another. -/
def State.pumpCore (s : State) (core : Nat) : Nat → State
  | 0 => s
  | n + 1 =>
    match s.fryTurn core with
    | none => s
    | some (i, p) => State.pumpCore (s.doFry core i p) core n

/-- As many steps as a core has fry commands. -/
def State.fryCount (s : State) (core : Nat) : Nat := (allCtxs.map fun i => (s.ctxAt core i).fry.cmds.length).sum

def State.pumpCores (s : State) : List Nat → State
  | [] => s
  | n :: rest => State.pumpCores (s.pumpCore n (s.fryCount n)) rest

/-- What waited for injection, and the fry commands of every core. -/
def State.pump (s : State) : State :=
  let s := if s.router.full then s else (s.setRouter { s.router with copies := [] }).injectAll s.router.copies
  s.pumpCores (s.cores.map (·.1))

end Sys2Proof.Machine
end

