-- ==== Sys2Proof/Machine/Landing.lean ====
section
/-! DEFINITION. Landings: the 32 landing operations in their 35 forms (12 R304-R315), and how a landing starts and ends
(12 R302-R304, R327). -/

namespace Sys2Proof.Machine

/-! Fault codes (12 R327). -/

def faultIllegal : Nat := 1
def faultOver : Nat := 2
def faultUnder : Nat := 3
def faultPerm : Nat := 4
def faultBudget : Nat := 5

/-! The stack (12 R299). -/

def setSp (f : Ferry) (n : Nat) : Ferry := setHdr f 96 3 n

def pushW (f : Ferry) (x : W32) : Except Nat Ferry :=
  let n := ferrySp f
  if 4 ≤ n then .error faultOver else .ok (setSp (setE f n x) (n + 1))

def popW (f : Ferry) : Except Nat (W32 × Ferry) :=
  let n := ferrySp f
  if n = 0 then .error faultUnder else .ok (ferryE f (n - 1), setSp (setE f (n - 1) 0) (n - 1))

/-! What an operation does. -/

/-- The end of an operation: on to the next position, a branch, the end of the landing, or a fault. -/
inductive LandOut where
  | next (l : Landing) (s : State)
  | goto (l : Landing) (pos : Nat) (s : State)
  | done (l : Landing) (s : State)
  | fault (code : Nat)

/-- Recorded copies depart in the order of their CLONE, as if each had executed GODST (12 R311). -/
def State.depart (s : State) : List Ferry → State
  | [] => s
  | f :: rest =>
    let s' := if ferryTarget f = s.node then s.inject f else s.route f none 0
    State.depart s' rest

/-- A fault: the ferry is moored as it stood before the faulting operation, its copies are never sent, and PERM freezes the
pair (12 R304, R311, R332). DEDUCED, log entry 36. -/
def State.landFault (s : State) (l : Landing) (code : Nat) : State :=
  let s := s.setRouter { s.router with landing := none }
  let s := s.moor l.ferry code l.pos 0 0
  let s := if code = faultPerm then s.freezePair (ferryOrig l.ferry) (ferryTenant l.ferry) l.ferry.header else s
  s.fryDone l.fsend

/-- An operation of the landing in progress; without one there is nothing to execute. -/
def landStep (act : Landing → State → LandOut) (s : State) : Result :=
  match s.router.landing with
  | none => settle s
  | some l =>
    match act l s with
    | .next l' s' => settle (s'.setRouter { s'.router with landing := some { l' with pos := l.pos + 1 } })
    | .goto l' pos s' => settle (s'.setRouter { s'.router with landing := some { l' with pos := pos } })
    | .done l' s' => settle ((((s'.setRouter { s'.router with landing := none }).depart l'.clones).fryDone l.fsend).pump)
    | .fault code => settle (s.landFault l code).pump

/-- The landing has reached position 16, or its operation is reserved: ILLEGAL there (12 R300, R304). -/
def State.landIllegal (s : State) : Result := landStep (fun _ _ => .fault faultIllegal) s

/-- An operation that changes the ferry alone. -/
def landFerry (act : Ferry → Except Nat Ferry) : State → Result :=
  landStep fun l s =>
    match act l.ferry with
    | .ok f => .next { l with ferry := f } s
    | .error e => .fault e

/-- "a b → c". -/
def binary (op : W32 → W32 → W32) (f : Ferry) : Except Nat Ferry :=
  match popW f with
  | .error e => .error e
  | .ok (b, f) =>
    match popW f with
    | .error e => .error e
    | .ok (a, f) => pushW f (op a b)

def flagW (b : Bool) : W32 := if b then 1 else 0

/-! Permissions and the tenant's partition here (12 R331). -/

def State.landPart (s : State) (f : Ferry) : Option Part := (s.partOfTenant (ferryTenant f)).map (·.2)

/-- Whether the landing mask grants an operation; a system ferry is exempt. DEDUCED, log entry 38. -/
def State.granted (s : State) (f : Ferry) (bit : Nat) : Bool :=
  ferrySys f || match s.landPart f with
    | some p => (Part.lmask p).testBit bit
    | none => false

/-- An operation that needs a bit of the landing mask. DEDUCED, log entry 36. -/
def landMasked (bit : Nat) (act : Landing → State → LandOut) : State → Result :=
  landStep fun l s => if s.granted l.ferry bit then act l s else .fault faultPerm

/-! Stack, arithmetic and branches (12 R305, R306). -/

/-- KILL: the ferry is discarded; copies still depart (12 R315). -/
def execKill (s : State) : Result := landStep (fun l s => .done l s) s

def execPushi (i : BitVec 10) (s : State) : Result := landFerry (fun f => pushW f (i.signExtend 32)) s

def execPushh (k : BitVec 2) (s : State) : Result := landFerry (fun f => pushW f (ferryH f k.toNat)) s

/-- h[k] := x; k = 4 drops it. -/
def execPoph (k : BitVec 3) (s : State) : Result :=
  landFerry (fun f =>
    match popW f with
    | .error e => .error e
    | .ok (x, f) => .ok (if k = 4 then f else setH f k.toNat x)) s

def execDup (k : BitVec 2) (s : State) : Result :=
  landFerry (fun f =>
    if ferrySp f ≤ k.toNat then .error faultUnder else pushW f (ferryE f (ferrySp f - 1 - k.toNat))) s

def execSwap (s : State) : Result :=
  landFerry (fun f =>
    match popW f with
    | .error e => .error e
    | .ok (b, f) =>
      match popW f with
      | .error e => .error e
      | .ok (a, f) =>
        match pushW f b with
        | .error e => .error e
        | .ok f => pushW f a) s

def execFerryAdd (s : State) : Result := landFerry (binary (· + ·)) s
def execFerrySub (s : State) : Result := landFerry (binary (· - ·)) s
def execFerryAnd (s : State) : Result := landFerry (binary (· &&& ·)) s
def execFerryOr (s : State) : Result := landFerry (binary (· ||| ·)) s
def execFerryXor (s : State) : Result := landFerry (binary (· ^^^ ·)) s

def minMaxW (float wantMax : Bool) (a b : W32) : W32 :=
  if float then BitVec.ofNat 32 (fMinMax fp32 false wantMax a.toNat b.toNat)
  else if wantMax then (if a.slt b then b else a) else (if b.slt a then b else a)

def execFerryMin (f : BitVec 1) (s : State) : Result := landFerry (binary (minMaxW (f == 1) false)) s
def execFerryMax (f : BitVec 1) (s : State) : Result := landFerry (binary (minMaxW (f == 1) true)) s

/-- The larger magnitude, or the canonical NaN (12 R306). -/
def execAmax (s : State) : Result := landFerry (binary fun a b => BitVec.ofNat 32 (combine 7 a.toNat b.toNat)) s

/-- EQ compares two entries; EQ.Z one with 0. -/
def execEq (z : BitVec 1) (s : State) : Result :=
  landFerry (fun f =>
    if z = 1 then
      match popW f with
      | .error e => .error e
      | .ok (a, f) => pushW f (flagW (a == 0))
    else binary (fun a b => flagW (a == b)) f) s

def execLt (u : BitVec 1) (s : State) : Result :=
  landFerry (binary fun a b => flagW (if u = 1 then decide (a < b) else a.slt b)) s

/-- A forward branch; a target above 15 is ILLEGAL at the branch, taken or not (12 R305). DEDUCED, log entry 36. -/
def landBranch (l : Landing) (f : Ferry) (k : BitVec 4) (yes : Bool) (s : State) : LandOut :=
  let t := l.pos + 1 + k.toNat
  if 15 < t then .fault faultIllegal
  else if yes then .goto { l with ferry := f } t s
  else .next { l with ferry := f } s

def execJz (k : BitVec 4) (s : State) : Result :=
  landStep (fun l s =>
    match popW l.ferry with
    | .error e => .fault e
    | .ok (a, f) => landBranch l f k (a == 0) s) s

def execJmp (k : BitVec 4) (s : State) : Result := landStep (fun l s => landBranch l l.ferry k true s) s

/-! Landing windows and counters (12 R307, R308). -/

/-- The window word of an index, in the window region of the landing store. -/
def State.windowWord (s : State) (f : Ferry) (i : Nat) : Option Nat :=
  match s.landPart f with
  | some p => if i < Part.wsize p then some (Part.wbase p + i) else none
  | none => none

def State.winGet (s : State) (w : Nat) : W32 := (look s.router.win w).getD 0
def State.winSet (s : State) (w : Nat) (x : W32) : State :=
  s.setRouter { s.router with win := if x = 0 then del s.router.win w else put s.router.win w x }

def ldwAt (l : Landing) (f : Ferry) (i : Nat) (s : State) : LandOut :=
  match s.windowWord f i with
  | none => .fault faultPerm
  | some w =>
    match pushW f (s.winGet w) with
    | .error e => .fault e
    | .ok f => .next { l with ferry := f } s

def execLdwImm (i : BitVec 9) (s : State) : Result := landMasked 0 (fun l s => ldwAt l l.ferry i.toNat s) s

def execLdw (s : State) : Result :=
  landMasked 0 (fun l s =>
    match popW l.ferry with
    | .error e => .fault e
    | .ok (i, f) => ldwAt l f i.toNat s) s

/-- W[i] := combine(c, W[i], v), and the old word pushed. -/
def addwAt (l : Landing) (f : Ferry) (i : Nat) (c : BitVec 4) (v : W32) (s : State) : LandOut :=
  match s.windowWord f i with
  | none => .fault faultPerm
  | some w =>
    let old := s.winGet w
    match pushW f old with
    | .error e => .fault e
    | .ok f => .next { l with ferry := f } (s.winSet w (BitVec.ofNat 32 (combine c.toNat old.toNat v.toNat)))

def execAddwImm (i : BitVec 5) (c : BitVec 4) (s : State) : Result :=
  landMasked 1 (fun l s =>
    match popW l.ferry with
    | .error e => .fault e
    | .ok (v, f) => addwAt l f i.toNat c v s) s

def execAddw (c : BitVec 4) (s : State) : Result :=
  landMasked 1 (fun l s =>
    match popW l.ferry with
    | .error e => .fault e
    | .ok (v, f) =>
      match popW f with
      | .error e => .fault e
      | .ok (i, f) => addwAt l f i.toNat c v s) s

def counterAt (k : BitVec 4) (inc : Bool) : State → Result :=
  landMasked 3 fun l s =>
    let key := ferryTenant l.ferry * 16 + k.toNat
    let old := (look s.router.ctrs key).getD 0
    match pushW l.ferry old with
    | .error e => .fault e
    | .ok f =>
      .next { l with ferry := f } (if inc then s.setRouter { s.router with ctrs := put s.router.ctrs key (old + 1) } else s)

def execCtr (k : BitVec 4) (s : State) : Result := counterAt k false s
def execCtrInc (k : BitVec 4) (s : State) : Result := counterAt k true s

/-! Combine slots (12 R315, R318). -/

/-- The slot that CMB or PARK names, with the checks that both make. -/
def State.slotFor (s : State) (f : Ferry) (k : Nat) : Except Nat CSlot :=
  if 8192 ≤ k then .error faultIllegal
  else match look s.router.slots k with
    | none => .error faultIllegal
    | some x => if x.tenant.toNat = ferryTenant f then .ok x else .error faultPerm

/-- A contribution to an ARMED slot, and the flag that CMB pushes. -/
def CSlot.combine (x : CSlot) (v : W32) : CSlot × W32 :=
  let nan := (x.code == 2 || x.code == 5 || x.code == 6 || x.code == 7) && decide (fp32.read v.toNat = .nan)
  let n := x.count + 1
  let full := n == x.expect
  ({ x with
      flags := if nan then x.flags ||| 1 else x.flags
      value := BitVec.ofNat 32 (Machine.combine x.code x.value.toNat v.toNat)
      count := n, st := if full then 2 else x.st }, flagW full)

def push2 (f : Ferry) (a b : W32) : Except Nat Ferry :=
  match pushW f a with
  | .error e => .error e
  | .ok f => pushW f b

def execCmb (s : State) : Result :=
  landMasked 2 (fun l s =>
    match popW l.ferry with
    | .error e => .fault e
    | .ok (v, f) =>
      match popW f with
      | .error e => .fault e
      | .ok (k, f) =>
        match s.slotFor f k.toNat with
        | .error e => .fault e
        | .ok x =>
          if x.st = 1 then
            let (x', flag) := x.combine v
            match push2 f flag x'.value with
            | .error e => .fault e
            | .ok f =>
              let s := s.setSlot k.toNat x'
              .next { l with ferry := f } (if x'.st = 2 then s.slotLeft k.toNat else s)
          else
            match push2 f 2 x.value with
            | .error e => .fault e
            | .ok f => .next { l with ferry := f } (s.setSlot k.toNat { x with flags := x.flags ||| 4, late := x.late + 1 })) s

/-! Coordinates, counts and cargo (12 R309, R310). -/

def landPushes (x : Landing → State → W32) : State → Result :=
  landStep fun l s =>
    match pushW l.ferry (x l s) with
    | .error e => .fault e
    | .ok f => .next { l with ferry := f } s

/-- A coordinate popped and checked against the fabric domain. -/
def State.popCoord (s : State) (f : Ferry) : Except Nat (BitVec 15 × Ferry) :=
  match popW f with
  | .error e => .error e
  | .ok (x, f) => if s.coordOk (ferryTenant f) x then .ok (x.setWidth 15, f) else .error faultIllegal

def execNode (m : BitVec 3) (s : State) : Result :=
  match m.toNat with
  | 0 => landPushes (fun _ s => s.node.setWidth 32) s
  | 1 => landPushes (fun l _ => (ferryDest l.ferry).setWidth 32) s
  | 2 => landPushes (fun l _ => (ferryOrig l.ferry).setWidth 32) s
  | 3 => landPushes (fun l _ => (ferryFall l.ferry).setWidth 32) s
  | 4 =>
    landStep (fun l s =>
      match s.popCoord l.ferry with
      | .error e => .fault e
      | .ok (x, f) => .next { l with ferry := setHdr (setHdr f 16 15 x.toNat) 83 1 0 } s) s
  | 5 =>
    landStep (fun l s =>
      match s.popCoord l.ferry with
      | .error e => .fault e
      | .ok (x, f) => .next { l with ferry := setHdr f 32 15 x.toNat } s) s
  | _ => landStep (fun _ _ => .fault faultIllegal) s

def execHops (sel : BitVec 1) (s : State) : Result :=
  landPushes (fun l _ => BitVec.ofNat 32 (if sel = 1 then ferryBudget l.ferry else ferryHops l.ferry)) s

def execLoadq (k : BitVec 3) (s : State) : Result :=
  landMasked 6 (fun l s =>
    match pushW l.ferry (BitVec.ofNat 32 (s.loadq k.toNat)) with
    | .error e => .fault e
    | .ok f => .next { l with ferry := f } s) s

/-- Cargo word k lies in flit k / 8. -/
def cargoWord (f : Ferry) (k : Nat) : W32 := BitVec.ofNat 32 (fld ((f.cargo.getD (k / 8) 0).toNat) (32 * (k % 8)) 32)
def setCargoWord (f : Ferry) (k : Nat) (x : W32) : Ferry :=
  { f with cargo := f.cargo.mapIdx fun j c => if j = k / 8 then setFld c (32 * (k % 8)) 32 x.toNat else c }

def execCrd (k : BitVec 6) (s : State) : Result :=
  landFerry (fun f =>
    if ferryClen f / 4 ≤ k.toNat then .error faultIllegal else pushW f (cargoWord f k.toNat)) s

def execCwr (k : BitVec 6) (s : State) : Result :=
  landFerry (fun f =>
    if ferryClen f / 4 ≤ k.toNat then .error faultIllegal
    else match popW f with
      | .error e => .error e
      | .ok (w, f) => .ok (setCargoWord f k.toNat w)) s

/-! CLONE, GO, GODST, DLVR, PARK (12 R311-R315). -/

def execClone (s : State) : Result :=
  landMasked 5 (fun l s =>
    if 3 ≤ l.clones.length then .fault faultIllegal
    else match s.popCoord l.ferry with
      | .error e => .fault e
      | .ok (d, f) =>
        match pushW f 0, pushW f 1 with
        | .ok own, .ok copy =>
          .next { l with
            ferry := own, clones := l.clones ++ [setHdr (setHdr copy 16 15 d.toNat) 83 2 2] } s
        | _, _ => .fault faultOver) s

/-- GO through a port: a dead port sends the ferry to the escape lanes at once (16 R445); a ferry at its budget is moored as
it leaves, its landing having ended (12 R325). DEDUCED, log entry 73. -/
def goPort (port : Nat) (l : Landing) (s : State) : LandOut :=
  if s.extent (ferryTenant l.ferry) (axisPort port) = 1 then .fault faultIllegal
  else if s.deadPort port then
    (if ferryTarget l.ferry = s.node then .done l (s.arrive l.ferry 6 none) else .done l (s.route l.ferry none l.pos))
  else if ferryHops l.ferry = ferryBudget l.ferry then .done l (s.moor l.ferry faultBudget l.pos 0 0)
  else .done l (s.enqueue port 2 l.ferry)

/-- The minimal-direction port with the least load, the lowest number on a tie (12 R312). -/
def State.adaptivePort (s : State) (f : Ferry) : Option Nat :=
  leastBy s.loadq (minimalPorts (s.extent (ferryTenant f)) s.node (ferryTarget f))

def execGo (port : BitVec 3) (s : State) : Result :=
  if port = 6 then
    landStep (fun l s =>
      match s.adaptivePort l.ferry with
      | none => .fault faultIllegal
      | some p => goPort p l s) s
  else landMasked 6 (fun l s => goPort port.toNat l s) s

/-- At the target the landing goes on; elsewhere it ends and the ferry leaves on the escape lanes, or is
moored there at its budget (12 R313, R325). DEDUCED, log entry 73. -/
def execGodst (s : State) : Result :=
  landStep (fun l s =>
    if ferryTarget l.ferry = s.node then .next l s
    else .done l (s.route l.ferry none l.pos)) s

/-- A second pop from an empty stack gives 0 (12 R314). -/
def popOrZero (f : Ferry) : W32 × Ferry :=
  match popW f with
  | .ok r => r
  | .error _ => (0, f)

def State.ownsLandCore (s : State) (f : Ferry) (core : Nat) : Bool :=
  match s.landPart f with
  | some p => Part.ownsCore p core
  | none => false

def execDlvr (s : State) : Result :=
  landMasked 4 (fun l s =>
    match popW l.ferry with
    | .error e => .fault e
    | .ok (t, f) =>
      let (v, f) := popOrZero f
      if 2 ^ 12 ≤ t.toNat then .fault faultIllegal
      else if !s.ownsLandCore f (t.toNat % 512) then .fault faultPerm
      else .done l (s.deliverFerry f (t.toNat % 512 * 8 + t.toNat / 512) v)) s

def execPark (s : State) : Result :=
  landMasked 2 (fun l s =>
    match popW l.ferry with
    | .error e => .fault e
    | .ok (k, f) =>
      match s.slotFor f k.toNat with
      | .error e => .fault e
      | .ok x => .done l (if x.st = 1 then s.moor f 18 0 k.toNat 0 else s.arrive f 7 none)) s

/-! The start of a landing (12 R302, R303, R331). -/

/-- Landing engines that a tenant's ferries hold while they wait for a mooring entry. DESIGN CHOICE, log entry 88. -/
def Router.enginesOf (r : Router) (t : Nat) : Nat := (r.stuck.filter fun m => ferryTenant m.ferry = t).length

/-- Engines reserved for a tenant here (14 R375, R399). -/
def State.lemin (s : State) (t : Nat) : Nat :=
  match s.partOfTenant t with
  | some (_, p) => Part.lemin p
  | none => 0

/-- Whether one of the 24 landing engines is to be had by a tenant: of those reserved for it, or of those that no tenant has
reserved or holds (14 R399). -/
def State.engineFor (s : State) (t : Nat) : Bool :=
  let ts := (s.parts.map (fun x => Part.tenant x.2) ++ s.router.stuck.map fun m => ferryTenant m.ferry).eraseDups
  decide (s.router.enginesOf t < s.lemin t) ||
    decide ((ts.map fun u => max (s.router.enginesOf u) (s.lemin u)).foldl (· + ·) 0 < 24)

/-- The first waiting ferry in start order that finds an engine starts at position 0, behind the timeouts that are due; what
arrives after it arrives in a later router cycle (12 R303, 13 R370, 14 R399). A frozen pair's is moored, and a tenant without an
ACTIVE partition here is refused as PERM. DESIGN CHOICE, log entry 35. DESIGN CHOICE, log entry 88. -/
def execLandingStart (s : State) : Result :=
  let s := s.timeouts
  match s.router.landing, takeFirst (fun (a : Arrival) => s.engineFor (ferryTenant a.ferry)) s.router.pool with
  | none, some (a, rest) =>
    let s := s.setRouter { s.router with pool := rest, cycle := max s.router.cycle (a.cycle + 1) }
    let t := ferryTenant a.ferry
    let l : Landing := ⟨a.ferry, 0, [], a.fsend⟩
    if s.pairFrozen (ferryOrig a.ferry) t then settle ((s.moor a.ferry 19 0 0 0).fryDone a.fsend).pump
    else
      let s := s.countTenant t 8 1
      if !ferrySys a.ferry ∧ (s.landPart a.ferry).isNone then settle (s.landFault l faultPerm).pump
      else settle (s.setRouter { s.router with landing := some l })
  | _, _ => settle s

/-- The next operation of the landing in progress: none at position 16 or on a reserved encoding. -/
def Landing.operation (l : Landing) : Option Instr :=
  if l.pos < 16 then decodeLanding (ferryOp l.ferry l.pos) else none

/-- One step of the landing in progress. DESIGN CHOICE, log entry 35. -/
def State.landMove (run : Instr → State → Result) (s : State) (l : Landing) : Result :=
  match l.operation with
  | some i => run i s
  | none => s.landIllegal

end Sys2Proof.Machine
end

