-- ==== Sys2Proof/Machine/Ferry.lean ====
section
/-! DEFINITION. The core's side of ferries: FBUILD, FSEND, DWAIT, DREAD, FRECV, CSLOT and their commands on the fry
timeline (12 R338-R345). -/

namespace Sys2Proof.Machine

/-! Rows read by slot 5. -/

/-- A slot of slot 5 that reads vector sources: bit 0 of its predicate decides, and every source is read whole and checked
(02 R40, 04 R114, R116). -/
def runRows (p : Pred) (srcs : List (BitVec 6)) (regs : List Reg) (block : State → Option Nat)
    (act : List VReg → State → Except Stop State) (s : State) : Except Stop State :=
  let c := s.cx
  if !s.test p then
    match checkReads s (predReads p) with
    | .error e => .error e
    | .ok _ => .ok s
  else if !c.arrived srcs then .error (.block 1)
  else match block s with
    | some b => .error (.block b)
    | none =>
      match checkReads s (predReads p ++ vregsOf srcs ++ regs) with
      | .error e => .error e
      | .ok _ =>
        let es := srcs.map c.vsrc
        if es.all Elem.ok then act (es.map (·.val)) (s.setCx ((popsOf srcs).foldl Context.popOne c))
        else .error (s.trapHere 32 0 0)

/-- The entry of the locked table that translates an address: the issuing context's, else in service mode another's where
the instruction takes one (07 R185). -/
def State.entryFor (s : State) (va : Word) (ownOnly : Bool) : Option Ltt :=
  match s.co.ltt.toList.find? fun e => Ltt.coversVa e va.toNat && (Ltt.ctxm e).getLsbD s.cur.ctx.toNat with
  | some e => some e
  | none => if ownOnly || !s.cx.svc then none else s.co.ltt.toList.find? fun e => Ltt.coversVa e va.toNat

/-- The slice address of a record that an engine will write: an aligned range in a writable entry, for a sweep of the issuing
context alone, of a kind that the instruction takes (12 R344, 13 R363). -/
def State.recordAt (s : State) (va : Word) (n align : Nat) (coreToo ownOnly : Bool) : Except Stop Nat :=
  match s.xlate va.toNat n align true with
  | .error c => .error (xlateMiss s c va)
  | .ok l =>
    match s.entryFor va ownOnly with
    | none => .error (kindFault s va)
    | some e =>
      if !Ltt.wr e then .error (xlateMiss s 3 va)
      else if l.kind = 0 ∨ (coreToo ∧ l.kind = 1) then .ok (sliceBase s.cur.core + l.off)
      else .error (kindFault s va)

/-! FBUILD (12 R339). -/

def ferryParam (s : State) : Stop := s.trapHere 16 0 0

/-- Template `n` of the issuing task's image. -/
def State.template (s : State) (n : Nat) : Option (BitVec 768) :=
  match s.cx.task with
  | some t => t.templates[n]?
  | none => none

def ferryOf (t : BitVec 768) : Ferry := ⟨t.setWidth 256, (t >>> 256).setWidth 256, (t >>> 512).setWidth 256, []⟩

/-- A coordinate that an option selects lies in the fabric domain of the issuing partition. -/
def State.domainNode (s : State) (x : Nat) : Bool :=
  match s.partOfCore s.cur.core with
  | some (_, p) => [0, 1, 2].all fun a => decide (fld x (5 * a) 5 < Part.extent p a)
  | none => false

def State.ownsCoreHere (s : State) (core : Nat) : Bool :=
  match s.partOfCore s.cur.core with
  | some (_, p) => Part.ownsCore p core
  | none => false

/-- The staging buffer that FBUILD forms from a template, its options and the cargo row. -/
def buildFerry (t : BitVec 768) (opts : BitVec 5) (a b : Word) (cargo : VReg) (clen : Nat) : Ferry :=
  let f := ferryOf t
  let f := setHdr f 112 9 clen
  let f := if opts.getLsbD 0 then setHdr f 16 15 (fld a.toNat 0 15) else f
  let f := if opts.getLsbD 1 then setHdr f 32 15 (fld a.toNat 15 15) else f
  let f := if opts.getLsbD 2 then setHdr (setHdr f 160 12 (fld a.toNat 30 12)) 80 1 1 else f
  let f := if opts.getLsbD 3 then setHdr f 72 8 (fld a.toNat 42 8) else f
  let f := if opts.getLsbD 4 then setH (setH f 0 (b.setWidth 32)) 1 ((b >>> 32).setWidth 32) else f
  { f with cargo := cargoFlits (cargo.toNat % 2 ^ (8 * clen)) ((clen + 31) / 32) }

def execFbuild (p : Pred) (a b c : BitVec 6) (opts : BitVec 5) (tpl : BitVec 8) (clen : BitVec 9) (s : State) : Result :=
  let srcs := if clen = 0 then [] else [c]
  finish (runRows p srcs [.s a, .s b] noBlock fun rows s =>
    let x := s.cx.rs a
    let bad := decide (256 < clen.toNat) || decide (clen.toNat % 4 ≠ 0) ||
      (opts.getLsbD 0 && !s.domainNode (fld x.toNat 0 15)) || (opts.getLsbD 1 && !s.domainNode (fld x.toNat 15 15)) ||
      (opts.getLsbD 2 && !s.ownsCoreHere (fld x.toNat 30 9))
    match s.template tpl.toNat, bad with
    | some t, false => .ok (s.setCx { s.cx with staging := some (buildFerry t opts x (s.cx.rs b) (rows.headD 0) clen.toNat) })
    | _, _ => .error (ferryParam s)) s

/-- A fry command issued; it begins at once when nothing of its context is before it. -/
def State.issueFry (s : State) (d : BitVec 6) (cmd : Cmd) : State :=
  let s := s.issue .fry d cmd 0
  s.pumpCore s.cur.core (s.fryCount s.cur.core)

/-- 12 R340, and the header's flags at their reset values (12 R298). DEDUCED, log entry 72. -/
def execFsend (p : Pred) (d : BitVec 6) (s : State) : Result :=
  finish (runSlot p [] (slotBlock .fry) fun s =>
    match s.cx.staging with
    | none => .error (ferryParam s)
    | some f =>
      let lid := match s.cx.task with
        | some t => t.lid.toNat
        | none => 0
      let f := setHdr f 0 15 s.node.toNat
      let f := setHdr f 48 12 (s.tenantOfCore s.cur.core)
      let f := setHdr (setHdr f 64 8 0) 81 6 0
      let f := setHdr f 128 32 (s.nextSeq .fry).toNat
      let f := setHdr f 176 11 (s.cur.core * 4 + s.cur.ctx.toNat)
      let f := setHdr f 192 16 lid
      .ok (s.issueFry d (.fsend f))) s

/-! Delivery queues (12 R341-R343). -/

def Core.dq (k : Core) (n : BitVec 3) : DeliveryQueue := k.dqs.get n.toFin
def Core.setDq (k : Core) (n : BitVec 3) (q : DeliveryQueue) : Core := { k with dqs := k.dqs.set n.toNat q n.isLt }

/-- 12 R341. -/
def execDwait (p : Pred) (d a : BitVec 6) (dq : BitVec 3) (s : State) : Result :=
  finish (runAct p [.s a] fun s =>
    let n := (s.co.dq dq).count
    if n.toNat < (s.cx.rs a).toNat then .error (.block 5) else .ok (s.landS .seqret d n)) s

def execDreadCnt (p : Pred) (d : BitVec 6) (dq : BitVec 3) (s : State) : Result :=
  finish (runSlot p [] noBlock fun s => .ok (s.landS .sysrd d (s.co.dq dq).count)) s

def execDreadCons (p : Pred) (d : BitVec 6) (dq : BitVec 3) (s : State) : Result :=
  finish (runSlot p [] noBlock fun s => .ok (s.landS .sysrd d (s.co.dq dq).cons)) s

/-- A field of the oldest unconsumed entry, or QUEUE_EMPTY. -/
def State.oldest (s : State) (dq : BitVec 3) (act : Delivery → State) : Except Stop State :=
  match (s.co.dq dq).items with
  | [] => .error (s.trapHere 17 0 0)
  | x :: _ => .ok (act x)

def execDreadDesc0 (p : Pred) (d : BitVec 6) (dq : BitVec 3) (s : State) : Result :=
  finish (runSlot p [] noBlock fun s => s.oldest dq fun x => s.landS .sysrd d x.desc0) s

def execDreadDesc1 (p : Pred) (d : BitVec 6) (dq : BitVec 3) (s : State) : Result :=
  finish (runSlot p [] noBlock fun s => s.oldest dq fun x => s.landS .sysrd d x.desc1) s

def execDreadNum (p : Pred) (d : BitVec 6) (dq : BitVec 3) (s : State) : Result :=
  finish (runSlot p [] noBlock fun s => s.oldest dq fun _ => s.landS .sysrd d ((s.co.dq dq).cons + 1)) s

/-- The oldest entry's cargo into v[D] with its lane sum (12 R343). -/
def State.landCargo (s : State) (d : BitVec 6) (x : Delivery) : State :=
  s.landF .vld (.v (d.setWidth 5)) x.cargo (laneSum x.cargo) 0 0

def DeliveryQueue.consume (q : DeliveryQueue) : DeliveryQueue := { q with items := q.items.drop 1, cons := q.cons + 1 }

def execFrecv (p : Pred) (d : BitVec 6) (dq : BitVec 3) (s : State) : Result :=
  finish (runSlot p [] noBlock fun s =>
    s.oldest dq fun x =>
      let s := s.landCargo d x
      s.setCo (s.co.setDq dq (s.co.dq dq).consume)) s

def execFrecvPeek (p : Pred) (d : BitVec 6) (dq : BitVec 3) (s : State) : Result :=
  finish (runSlot p [] noBlock fun s => s.oldest dq fun x => s.landCargo d x) s

/-! CSLOT (12 R344). -/

def cslotAct (form code : Nat) (p : Pred) (d a b c : BitVec 6) (tpl : BitVec 8) : State → Result :=
  finish (runSlot p [.s a, .s b, .s c] (slotBlock .fry) fun s =>
    match s.template tpl.toNat with
    | none => .error (ferryParam s)
    | some t =>
      match s.recordAt (s.cx.rs b) 64 64 false false with
      | .error e => .error e
      | .ok pa => .ok (s.issueFry d (.cslot form code (s.cx.rs a) (s.cx.rs c) tpl t pa)))

def execCslotAlloc (p : Pred) (d a b c : BitVec 6) (code : BitVec 4) (tpl : BitVec 8) (s : State) : Result :=
  cslotAct 0 code.toNat p d a b c tpl s

def execCslotFree (p : Pred) (d a b c : BitVec 6) (tpl : BitVec 8) (s : State) : Result := cslotAct 1 0 p d a b c tpl s

def execCslotRead (p : Pred) (d a b c : BitVec 6) (tpl : BitVec 8) (s : State) : Result := cslotAct 2 0 p d a b c tpl s

end Sys2Proof.Machine
end

