-- ==== Sys2Proof/Machine/Lanes.lean ====
section
/-! DEFINITION. Steps of the fabric at the router: ferries that arrive, holds, escape and combine timeouts, reachability
notices, and the service of moored faults (12 R301, R316-R323, R329, R330, 16 R445). -/

namespace Sys2Proof.Machine

/-- A ferry handed to the router by port `port`, in the router cycle that the arrival finds (12 R301, R302). -/
def State.takeFerry (s : State) (port : Nat) (f : Ferry) : State := s.routerTick.receive f port none

/-- A full mooring holds the adaptive lanes, so that nothing comes in through them (12 R330). -/
def State.holdsBack (s : State) (f : Ferry) : Bool := s.router.full && !ferryEsc f

/-! What system ferries bring from other nodes. -/

/-- An UNREACHABLE delivery for a queue of this node (12 R323, R336, 13 R373). -/
def State.takeUnreachable (s : State) (queue : BitVec 12) (x : Delivery) : State :=
  (s.deliverItem (fld queue.toNat 0 9 * 8 + fld queue.toNat 9 3) x none).1

/-- A notice of a ferry of this node that is moored elsewhere: the tenant's fault mailbox and MOORED in the context that sent
it (12 R328). -/
def State.takeNotice (s : State) (r : BitVec 512) : State :=
  let f : Ferry := ⟨(r >>> 128).setWidth 256, 0, 0, []⟩
  (s.postTenant (ferryTenant f) r).markSender f

/-- A peer request that the owner checks refuse freezes its pair; one of a frozen pair is refused without a record
(14 R379, R380, R382). -/
def State.admitPeer (s : State) (orig : BitVec 15) (tenant : BitVec 12) (pa n : Nat) (write : Bool) : Bool × State :=
  let refuse (s : State) : Bool × State := (false, s.sendSys tenant.toNat orig (.peerRefused orig))
  let freeze : State := s.freezePair orig tenant.toNat (faultRecord pa 7 0 0 write tenant.toNat 0 0)
  if s.pairFrozen orig tenant.toNat then refuse s
  else match s.partOfTenant tenant.toNat with
    | none => refuse freeze
    | some (_, p) =>
      if isHostWin pa then refuse freeze
      else match s.physCause p pa n write with
        | 0 => (true, s)
        | 7 => refuse freeze
        | _ => refuse s

/-- A peer's read or write performed at its home here. -/
def State.servePeer (s : State) (orig : BitVec 15) (tenant : BitVec 12) (pa n : Nat) (data : Option (List Byte)) : State :=
  let m := match data with
    | some bs => bs.length
    | none => n
  match s.admitPeer orig tenant pa m data.isSome with
  | (false, s) => s
  | (true, s) =>
    let s := s.actAlone
    let x : Xlat := ⟨pa, false, none, 0⟩
    match data with
    | some bs =>
      let s := s.putPart x (clean bs)
      s.sendSys tenant.toNat orig (.peerReply orig [])
    | none =>
      match s.readPart x (BitVec.ofNat 64 pa) n with
      | .ok bs s => s.sendSys tenant.toNat orig (.peerReply orig (Marked.bytes bs))
      | e => e.state.sendSys tenant.toNat orig (.peerRefused orig)

/-- A peer's atomic; an instruction store takes none (09 R249, R250). -/
def State.servePeerAtom (s : State) (orig : BitVec 15) (tenant : BitVec 12) (core : BitVec 9) (id : BitVec 16) (again : Bool)
    (code pa : Nat) (v expected : Word) : State :=
  match s.admitPeer orig tenant pa (codeBytes code) true with
  | (false, s) => s
  | (true, s) =>
    if isIstore pa then s.sendSys tenant.toNat orig (.peerRefused orig)
    else s.actAlone.atomServe tenant.toNat orig core id again code pa v expected

/-- The head of an adaptive lane, held for 4,096 router cycles, on the escape lanes (12 R322). -/
def execEscapeTimeout (port : BitVec 3) (s : State) : Result :=
  let k := 3 * port.toNat + 2
  match look s.router.lanes k with
  | some (f :: rest) =>
    let s := s.setRouter { s.router with lanes := if rest = [] then del s.router.lanes k else put s.router.lanes k rest }
    if ferryTarget f = s.node then settle (s.routerTick.arrive f 6 none)
    else settle (s.route f none 0)
  | _ => settle s

/-- An armed slot that a microsecond tick has found at or beyond its deadline times out, and with it every other that is due
(12 R319); a landing that started before it is not disturbed. -/
def execCombineSlotTimeout (slot : BitVec 13) (s : State) : Result :=
  match look s.router.slots slot.toNat with
  | none => settle s
  | some x =>
    if s.slotLate x ∧ s.router.landing.isNone then settle s.timeouts.pump else settle s

/-- A notice of a port between live and dead lands: the router's reachability follows (12 R323, 16 R445).
DESIGN CHOICE, log entry 42. -/
def execReachabilityNotice (node : FarPort) (live : Bool) (s : State) : Result :=
  let l := s.router.deadPorts
  let k := (node.node, node.port.toNat)
  settle (s.setRouter { s.router with
    deadPorts := if live then l.filter (· ≠ k) else if l.contains k then l else l ++ [k] })

/-- The receiver raises or lowers hold on a lane (12 R320). -/
def execHoldSignal (port : BitVec 3) (lane : BitVec 2) (hold : Bool) (s : State) : Result :=
  if 6 ≤ port.toNat ∨ 3 ≤ lane.toNat then settle s
  else
    let k := 3 * port.toNat + lane.toNat
    let l := s.router.held.filter (· ≠ k)
    settle (s.setRouter { s.router with held := if hold then l ++ [k] else l })

/-- Service software re-lands or discards a fault entry (12 R329). -/
def execMooredFaultService (entry : BitVec 14) (reland : Bool) (s : State) : Result :=
  match s.router.moor.find? fun m => m.num = entry.toNat ∧ m.code ≤ 5 with
  | none => settle s
  | some m =>
    let s := s.unmoor m.num
    settle (if reland then s.routerTick.arrive m.ferry 7 none else s).pump

end Sys2Proof.Machine
end

