-- ==== Sys2Proof/Machine/Regs.lean ====
section
/-! DEFINITION. Register writes as steps of their own, and the trap of a fetch that finds no bundle (01 R12, 07 R183, R201,
08 R211, 17 R453-R460, 02 R53). -/

namespace Sys2Proof.Machine

/-- The control pair of a cluster takes core number 512 + cluster (01 R12). DEDUCED, log entry 67. -/
def execCspWrite (cluster : BitVec 6) (v : BitVec 64) (s : State) : Result :=
  settle (s.sysWrite (512 + cluster.toNat) 0 0x038 v)

def execLttCommit (core : BitVec 9) (hi : BitVec 64) (s : State) : Result := settle (s.lttCommit core.toNat hi)

def execLogcWrite (core : BitVec 9) (v : BitVec 64) (s : State) : Result := settle (s.logcWrite core.toNat v)

def execLogxWrite (core : BitVec 9) (v : BitVec 64) (s : State) : Result := settle (s.logxWrite core.toNat v)

def execTlbiWrite (part : BitVec 6) (v : BitVec 64) (s : State) : Result := settle (s.tlbiWrite part.toNat v)

def execSmpcWrite (core : BitVec 9) (v : BitVec 64) (s : State) : Result := settle (s.smpcWrite core.toNat v)

def execSmptWrite (core : BitVec 9) (v : BitVec 64) (s : State) : Result := settle (s.smptWrite core.toNat v)

def execTmrWrite (core : BitVec 9) (ctx : BitVec 2) (v : BitVec 64) (s : State) : Result :=
  settle (s.sysWrite core.toNat ctx 0x130 v)

def execPcselWrite (part : BitVec 6) (k : BitVec 4) (v : BitVec 64) (s : State) : Result :=
  settle (s.pcselWrite part.toNat k v)

/-- The context that is first to issue meets a fetch trap; nothing where its fetch finds a bundle or an engine fault is
taken before it (02 R53, 10 R251). -/
def execFetchTrap (core : BitVec 9) (s : State) : Result :=
  let n := core.toNat
  if (s.core n).stopped then settle s
  else
    let s := (s.preemptAll n allCtxs).limitResidency n
    match (s.core n).considered with
    | [] => settle s
    | i :: _ =>
      let s := (s.landDue n i).takeIssue n i
      let c := s.ctxAt n i
      match c.efaults, s.fetchBundle n c with
      | [], .error code =>
        match s.trapAttempt n i (s.takeTrap n i ⟨code, 0, 7, 0, 0, 0, 0⟩) with
        | .trapped t =>
          let c := t.ctxAt n i
          settle (t.setCtxAt n i { c with st := if c.st = .ready then .issuing else c.st })
        | .stalled t => settle t
        | _ => settle s
      | _, _ => settle s

end Sys2Proof.Machine
end

