-- ==== Sys2Proof/Machine/Sweep.lean ====
section
/-! DEFINITION. Page-major sweeps: the life of a sweep, subscriptions, page offers and catch-up passes, delivery, the merge
buffer and the sweep instructions (13 R346-R367). -/

namespace Sys2Proof.Machine

/-! The merge buffer (13 R358-R360). -/

def Partial.initial : Partial := ⟨0xFF800000, 0, 0⟩

/-- a × x + b × y, each operation rounded to nearest even; no FMT field is read (13 R359). -/
def blend (a b : Nat) (x y : W32) : W32 :=
  BitVec.ofNat 32 (fAdd fp32 0 (fMul fp32 0 x.toNat a).1 (fMul fp32 0 y.toNat b).1).1

def oLane (o : BitVec 4096) (i : Nat) : W32 := o.extractLsb' (32 * i) 32

def oFrom (f : Nat → W32) (i : Nat) : Nat → Nat
  | 0 => 0
  | n + 1 => (f i).toNat + 2 ^ 32 * oFrom f (i + 1) n

def isNan32 (x : W32) : Bool := fp32.read x.toNat == .nan

def Partial.nan (a : Partial) : Bool := isNan32 a.m || isNan32 a.l || (List.range 128).any fun i => isNan32 (oLane a.o i)

/-- 13 R359. -/
def Partial.apply (acc part : Partial) : Partial :=
  if part.m = 0xFF800000 then acc
  else
    let mm := fMinMax fp32 false true acc.m.toNat part.m.toNat
    let a := (fExp2 0 (fSub fp32 0 acc.m.toNat mm).1).1
    let b := (fExp2 0 (fSub fp32 0 part.m.toNat mm).1).1
    ⟨BitVec.ofNat 32 mm, blend a b acc.l part.l,
      BitVec.ofNat 4096 (oFrom (fun i => blend a b (oLane acc.o i) (oLane part.o i)) 0 128)⟩

/-! Sweeps by id. -/

def State.sweep (s : State) (id : Nat) : Option Sweep := look s.sweeps id
def State.setSweep (s : State) (id : Nat) (x : Sweep) : State := { s with sweeps := put s.sweeps id x }

/-- The domain of a page: the stack that holds it (13 R347). -/
def pageDomain (pa : Nat) : Nat := pa / 0x1000000000

def Sweep.domainOf (x : Sweep) (p : Nat) : Nat := pageDomain (x.pages.getD p 0)

def homeDomain (ctxn : Nat) : Nat := ctxn / 256

/-- An engine has no page of its stack left in its main pass (13 R349). -/
def Sweep.mainDone (x : Sweep) (d : Nat) : Bool :=
  ((x.pages.mapIdx fun p a => (p, a)).drop (x.engines[d]?.getD ⟨0, none, false, false⟩).cursor).all
    fun e => pageDomain e.2 != d

def Sweep.modEngine (x : Sweep) (d : Nat) (f : Pass → Pass) : Sweep := { x with engines := vmod x.engines d f }

/-- A task by its group and its launch. -/
def taskId (t : Task) : BitVec 96 := t.grp ++ t.lid

def Context.taskId (c : Context) : BitVec 96 :=
  match c.task with
  | some t => Machine.taskId t
  | none => 0

/-- Whose a query is: its context and, of the tasks that a pre-emption lets share it, the task. -/
def Query.key (q : Query) : Nat × BitVec 96 := (q.ctxn, q.task)

/-- The query of a task on a sweep (13 R350). -/
def Sweep.queryOf (x : Sweep) (key : Nat × BitVec 96) : Option Query := x.queries.find? fun q => q.key = key

def Sweep.setQuery (x : Sweep) (q : Query) : Sweep := { x with queries := x.queries.map fun r => if r.key = q.key then q else r }

def Sweep.dropQuery (x : Sweep) (q : Query) : Sweep := { x with queries := x.queries.filter fun r => r.key != q.key }

/-! Commands of the swp timeline. -/

/-- A swp command counted, its stream binding kept (13 R351). -/
def Context.swpDone (c : Context) (seq : Word) : Context :=
  let cmds := c.swp.cmds.map fun q => if q.seq = seq then { q with phase := Phase.done } else q
  { c with swp := Timeline.advance { c.swp with cmds := cmds } }

def Context.hasSwp (c : Context) (task : BitVec 96) (seq : Word) : Bool :=
  c.taskId == task && c.swp.cmds.any fun q => q.seq == seq && q.phase != .done

/-- A command complete, also in a context that a pre-emption has parked. -/
def State.swpDone (s : State) (key : Nat × BitVec 96) (seq : Word) : State :=
  let i := BitVec.ofNat 2 key.1
  let c := s.ctxAt (key.1 / 4) i
  if c.hasSwp key.2 seq then s.setCtxAt (key.1 / 4) i (c.swpDone seq)
  else
    { s with parked := s.parked.map fun x =>
        if x.num = key.1 ∧ x.ctx.hasSwp key.2 seq then { x with ctx := x.ctx.swpDone seq } else x }

/-- The end of a sweep's present state, when it has come (13 R349, R367). -/
def State.settleSweep (s : State) (id : Nat) : State :=
  match s.sweep id with
  | none => s
  | some x =>
    let x := if x.st = .main ∧ (List.range 8).all x.mainDone then { x with st := if x.close then .closing else .tail } else x
    if x.st = .closing ∧ x.queries = [] then
      let s := { s with sweeps := del s.sweeps id, bufs := s.bufs.filter fun b => b.id ≠ id }
      match x.closer with
      | some (n, task, seq) => s.swpDone (n, task) seq
      | none => s
    else s.setSweep id x

/-- The main passes begin when enough subscriptions are active (13 R349). -/
def Sweep.begin (x : Sweep) : Sweep := if x.st = .opened ∧ x.expect ≤ x.subs then { x with st := .main } else x

/-! Delivery (13 R353, R356). -/

def descriptorRow (page dom : Nat) (late : Bool) (id ordinal : Nat) : VReg :=
  BitVec.ofNat 2048 (page + (dom + late.toNat * 256) * 2 ^ 32 + id * 2 ^ 64 + ordinal * 2 ^ 96)

/-- A context that can take elements for a query now: present, not saved, the binding active, room in the queue. -/
def State.taker (s : State) (q : Query) : Option Context :=
  let c := s.ctxAt (q.ctxn / 4) (BitVec.ofNat 2 q.ctxn)
  let x := c.stream q.q
  if c.taskId = q.task ∧ c.st ≠ .free ∧ !c.saved ∧ x.active = ⟨.swsub, q.seq⟩ ∧ x.inq.length < 4 then some c else none

/-- A binding of a context given up, wherever the context is (13 R351). -/
def State.releaseStream (s : State) (q : Query) : State :=
  let i := BitVec.ofNat 2 q.ctxn
  let c := s.ctxAt (q.ctxn / 4) i
  if c.taskId = q.task ∧ c.st ≠ .free then s.setCtxAt (q.ctxn / 4) i (c.unbind .swp q.seq)
  else
    { s with parked := s.parked.map fun x =>
        if x.num = q.ctxn ∧ x.ctx.taskId = q.task then { x with ctx := x.ctx.unbind .swp q.seq } else x }

/-- Delivered when its last page is, Merged when every partial is applied too (13 R351). -/
def Query.judge (q : Query) : Query :=
  if q.left ≠ [] then q else { q with st := if q.applied = q.pages.length then .merged else .delivered }

/-- Some buffer has delivered this query a part of its page; the rest comes first (13 R353). -/
def State.midPage (s : State) (id : Nat) (key : Nat × BitVec 96) : Bool :=
  s.bufs.any fun b => b.id == id && b.takes.any fun t => t.1 == key && t.2 != 0

/-- Elements of a buffer into the stream of one of its takers, as far as there is room. -/
def State.deliver (s : State) (b : PageBuf) (key : Nat × BitVec 96) : Nat → Nat → State × Nat
  | 0, k => (s, k)
  | f + 1, k =>
    if 129 ≤ k then (s, k)
    else match s.sweep b.id with
      | none => (s, k)
      | some x =>
        match x.queryOf key with
        | none => (s, k)
        | some q =>
          match s.taker q with
          | none => (s, k)
          | some c =>
            let r := c.stream q.q
            let d := descriptorRow b.page b.dom b.late b.id (q.entered.length + 1)
            let e : Elem := if k = 0 then ⟨d, laneSum d⟩ else b.rows.getD (k - 1) ⟨0, 0⟩
            let s := s.setCtxAt (q.ctxn / 4) (BitVec.ofNat 2 q.ctxn) (c.setStream q.q { r with inq := r.inq ++ [e] })
            let q := if k = 0 then { q with entered := q.entered ++ [(b.page, r.taken + r.inq.length)] } else q
            let q := if k = 128 then Query.judge { q with left := q.left.filter (· ≠ b.page) } else q
            let s := s.setSweep b.id (x.setQuery q)
            let s := if q.left = [] then s.releaseStream q else s
            State.deliver s b key f (k + 1)

/-- Every take of a buffer brought as far as it goes; a take that is complete leaves. -/
def State.deliverTakes (s : State) (pick : Bool) (b : PageBuf) :
    List ((Nat × BitVec 96) × Nat) → State × List ((Nat × BitVec 96) × Nat)
  | [] => (s, [])
  | (n, k) :: rest =>
    let (go, s) := if pick ∧ k = 0 then s.choose [true, false] else (some true, s)
    let (s, k') := if go = some false ∨ (k = 0 ∧ s.midPage b.id n) then (s, k) else s.deliver b n 5 k
    let s := { s with bufs := s.bufs.map fun y =>
      if y.id = b.id ∧ y.page = b.page ∧ y.dom = b.dom then { y with takes := y.takes.map fun t => if t.1 = n then (n, k') else t } else y }
    let (s, l) := State.deliverTakes s pick b rest
    (s, if k' < 129 then (n, k') :: l else l)

/-- Every buffer of an engine; one whose takers are all served frees (13 R356). -/
def State.deliverBufs (s : State) (pick : Bool) : List PageBuf → State
  | [] => s
  | b :: rest =>
    let (s, l) := s.deliverTakes pick b b.takes
    let same (y : PageBuf) : Bool := y.id == b.id && y.page == b.page && y.dom == b.dom
    let bufs := if l = [] then s.bufs.filter (fun y => !same y)
      else s.bufs.map (fun y => if same y then { y with takes := l } else y)
    State.deliverBufs { s with bufs := bufs } pick rest

def State.deliverAll (s : State) (dom : Nat) : State := s.deliverBufs false (s.bufs.filter fun b => b.dom = dom)

/-- The same, but which queries begin a page now is open: a query takes the pages of different engines in either order
(13 R353, 22 R487). -/
def State.deliverSome (s : State) (dom : Nat) : State := s.deliverBufs true (s.bufs.filter fun b => b.dom = dom)

/-! Offers (13 R354, R355). -/

/-- Pages of a query that are admitted beside its lowest unapplied page. -/
def Query.others (q : Query) : Nat :=
  (q.admitted.filter fun p => decide (q.pages[q.applied]? ≠ some p)).length

def Query.admits (q : Query) (page : Nat) : Bool := q.pages[q.applied]? == some page || decide (q.others < 16)

/-- A subscriber whose context is saved takes no offer (13 R356). -/
def State.present (s : State) (q : Query) : Bool :=
  let c := s.ctxAt (q.ctxn / 4) (BitVec.ofNat 2 q.ctxn)
  c.taskId == q.task && c.st != .free && !c.saved

/-- Whether a page is offered to a query in a pass: a subscriber bit of the main pass, or a debt of the catch-up pass. -/
def Query.wants (q : Query) (late : Bool) (page : Nat) : Bool :=
  if late then q.owed.contains page
  else q.left.contains page && !q.owed.contains page && !q.admitted.contains page

/-- One subscriber offered a page: admitted, or owed it. -/
def State.offerTo (s : State) (page : Nat) (q : Query) : Query × Bool :=
  let owed := q.owed.filter (· ≠ page)
  if s.present q ∧ q.admits page then ({ q with owed := owed, admitted := q.admitted ++ [page] }, true)
  else ({ q with owed := owed ++ [page] }, false)

/-- Subscribers in ascending context number: those admitted and the queries afterwards. -/
def insertQuery (q : Query) : List Query → List Query
  | [] => [q]
  | r :: rest => if r.ctxn ≤ q.ctxn then r :: insertQuery q rest else q :: r :: rest

def State.offerAll (s : State) (late : Bool) (page : Nat) : List Query → List Query × List (Nat × BitVec 96)
  | [] => ([], [])
  | q :: rest =>
    let (l, ns) := State.offerAll s late page rest
    if q.wants late page then
      let (q', yes) := s.offerTo page q
      (insertQuery q' l, if yes then q.key :: ns else ns)
    else (insertQuery q l, ns)

/-- Numbers in rising order. -/
def sortNat : List Nat → List Nat
  | [] => []
  | n :: rest =>
    let rec ins (n : Nat) : List Nat → List Nat
      | [] => [n]
      | m :: l => if n ≤ m then n :: m :: l else m :: ins n l
    ins n (sortNat rest)

/-- The stored sum of a verified sealed row, else the sum of the data as read, as where the stored sum is poisoned
(13 R353, 07 R195). -/
def State.rowElem (s : State) (pa : Nat) : Elem :=
  let v : VReg := BitVec.ofNat 2048 (Mem.readLE s.mem pa 256)
  match s.sealedTile pa with
  | some t => if (s.latOf t).broken ∨ (s.latOf t).badRow ((pa - t) / 256) then ⟨v, laneSum v⟩ else ⟨v, lane (s.latOf t).rsum ((pa - t) / 256)⟩
  | none => ⟨v, laneSum v⟩

def State.pageRows (s : State) (pa : Nat) : List Elem := (List.range 128).map fun r => s.rowElem (pa + 256 * r)

/-- The contexts that a page is delivered to take the flags that its fetch raised (06 R162, 07 R196). -/
def State.flagTakers (s : State) (cki : BitVec 11) : List (Nat × BitVec 96) → State
  | [] => s
  | n :: rest => State.flagTakers (s.flagCtx (n.1 / 4) (BitVec.ofNat 2 n.1) cki) cki rest

/-- A page fetched for no core and verified by halves; what that corrects, and poison, are flags of those who take it, and
no SCORR counts it (06 R175). DESIGN CHOICE, log entry 82. -/
def State.fetchPage (s : State) (pa : Nat) : State × BitVec 11 :=
  let t := (s.actAlone.verifyRead pa 16384).1
  let t := (t.verifyRead (pa + 16384) 16384).1
  ({ t with cur := s.cur, raised := s.raised },
    (t.raised &&& (ckiLCORR ||| ckiPOISON)) ||| (if t.badBytes pa 32768 then ckiPOISON else 0))

/-- A page fetched and offered (13 R354); the answer tells whether any offer was admitted. -/
def State.offerPage (s : State) (dom id : Nat) (x : Sweep) (page : Nat) (late : Bool) : State × Bool :=
  let pa := x.pages.getD page 0
  let (s, cki) := s.fetchPage pa
  let (qs, ns) := s.offerAll late page x.queries
  let s := (s.setSweep id { x with queries := qs }).flagTakers cki ns
  if ns = [] then (s, false)
  else ({ s with bufs := s.bufs ++ [⟨dom, id, page, late, s.pageRows pa, ns.map fun n => (n, 0)⟩] }, true)

/-- The lowest page of a stack, from a page on, that some query wants in a pass. -/
def Sweep.nextPage (x : Sweep) (dom start : Nat) (late : Bool) : Option Nat :=
  let wanted := x.queries.flatMap fun q => (if late then q.owed else q.left).filter fun p => q.wants late p
  (sortNat (wanted.filter fun p => start ≤ p && x.domainOf p == dom)).head?

/-- What an engine can do next: the main pass of a sweep, or its running catch-up pass. -/
inductive EngineJob where
  | main (id : Nat)
  | late (id : Nat)
deriving DecidableEq, Repr

def Sweep.engine (x : Sweep) (dom : Nat) : Pass := x.engines[dom]?.getD ⟨0, none, false, false⟩

def State.engineJobs (s : State) (dom : Nat) : List EngineJob :=
  s.sweeps.flatMap fun (id, x) =>
    (if x.st = .main ∧ !x.mainDone dom then [EngineJob.main id] else []) ++
    (if (x.engine dom).walk.isSome then [EngineJob.late id] else [])

/-- One step of a main pass: the next subscribed page, or the end of the pass (13 R354). -/
def State.mainStep (s : State) (dom id : Nat) (x : Sweep) : State :=
  match x.nextPage dom (x.engine dom).cursor false with
  | none => (s.setSweep id (x.modEngine dom fun e => { e with cursor := x.pages.length })).settleSweep id
  | some p =>
    let (s, _) := s.offerPage dom id (x.modEngine dom fun e => { e with cursor := p + 1 }) p false
    s.settleSweep id

/-- One step of a catch-up pass; a pass that admitted nothing, and in which nothing changed, waits for a change
(13 R355). -/
def State.lateStep (s : State) (dom id : Nat) (x : Sweep) (start : Nat) : State :=
  match x.nextPage dom start true with
  | none => s.setSweep id (x.modEngine dom fun e => { e with walk := none, idle := !e.hit })
  | some p =>
    let (s, yes) := s.offerPage dom id (x.modEngine dom fun e => { e with walk := some (p + 1) }) p true
    match s.sweep id with
    | some y => s.setSweep id (y.modEngine dom fun e => { e with hit := e.hit || yes })
    | none => s

/-- DESIGN CHOICE, log entry 45. -/
def State.engineStep (s : State) (dom : Nat) (j : EngineJob) : State :=
  match j with
  | .main id =>
    match s.sweep id with
    | some x => s.mainStep dom id x
    | none => s
  | .late id =>
    match s.sweep id with
    | some x =>
      match (x.engine dom).walk with
      | some p => s.lateStep dom id x p
      | none => s
    | none => s

/-! The commands (13 R362-R367). -/

/-- Status written as an engine write, and the command complete; a refused subscription gives its binding up. -/
def State.sweepStatus (s : State) (core : Nat) (i : BitVec 2) (p : Pending) (stat code : Nat) (unbind : Bool) : State :=
  let s := s.writePart' ⟨stat, false, none, 0⟩ (clean (leBytes code 8))
  let c := s.ctxAt core i
  let c := if unbind then c.unbind .swp p.seq else c
  (s.setCtxAt core i (c.swpDone p.seq)).flagCtx core i (p.cki ||| s.raised)

/-- A page of the directory translated, and checked where it lies in this node's HBM: elsewhere it is only found to be there
(13 R347). -/
def State.openPage (s : State) (core va : Nat) : Eng Xlat :=
  match s.partOfCore core with
  | none => .freeze (BitVec.ofNat 64 va) false s
  | some (k, p) =>
    match s.translate core k p va false with
    | (.error c, s) => .fault [⟨c, BitVec.ofNat 64 va, false, none⟩] s
    | (.ok x, s) =>
      if x.peer.isSome ∨ !isHbm x.pa ∨ Part.ownsHbm p x.pa then .ok x s else .freeze (BitVec.ofNat 64 va) false s

/-- The directory's entries as pages: none for a bad one (13 R347). -/
def State.openPages (s : State) (core : Nat) (seen : List Nat) (bad : Bool) : List Nat → Eng (Option (List Nat))
  | [] => .ok (if bad then none else some seen.reverse) s
  | e :: rest =>
    match s.openPage core (e % 2 ^ 48 / 32768 * 32768) with
      | .ok x s =>
        if 2 ^ 48 ≤ e ∨ e % 32768 ≠ 0 ∨ x.peer.isSome ∨ !isHbm x.pa ∨ seen.contains x.pa then State.openPages s core seen true rest
        else State.openPages s core (x.pa :: seen) bad rest
      | .fault fs s => .fault fs s
      | .stop c va s => .stop c va s
      | .freeze va w s => .freeze va w s

def entries (x size : Nat) : Nat → List Nat
  | 0 => []
  | n + 1 => x % 2 ^ size :: entries (x / 2 ^ size) size n

/-- Pages of a partition's open sweeps in a stack. -/
def State.poolPages (s : State) (part d : Nat) : Nat :=
  (s.sweeps.map fun (_, x) => if x.part = part then (x.pages.filter fun a => pageDomain a = d).length else 0).foldl (· + ·) 0

def State.poolHolds (s : State) (part : Nat) (p : Part) (pages : List Nat) : Bool :=
  (List.range 8).all fun d =>
    decide (s.poolPages part d + (pages.filter fun a => pageDomain a = d).length ≤ Part.spool p d * 4096)

/-- Where an Eng outcome leaves a swp command. -/
def swpEnd {α : Type} (core : Nat) (i : BitVec 2) (p : Pending) (e : Eng α) (f : α → State → State) : State :=
  match e with
  | .ok x s => f x s
  | .fault fs s => engineEnd core i .swp p (.fault fs s)
  | .stop c va s => engineEnd core i .swp p (.stop c va s)
  | .freeze va w s => engineEnd core i .swp p (.freeze va w s)

/-- DEDUCED, log entry 44. -/
def State.runOpen (s : State) (core : Nat) (i : BitVec 2) (p : Pending) (dir : Word) (n stat : Nat) (id : BitVec 6)
    (expect : Nat) : State :=
  match s.partOfCore core with
  | none => s.sweepStatus core i p stat 2 false
  | some (k, pt) =>
    if !(Part.swmask pt).getLsbD id.toNat then s.sweepStatus core i p stat 2 false
    else if (s.sweep id.toNat).isSome then s.sweepStatus core i p stat 5 false
    else
      swpEnd core i p ((s.engCompute core dir (8 * n)).bind fun x s => s.openPages core [] false (entries x 64 n)) fun l s =>
        match l with
        | none => s.sweepStatus core i p stat 4 false
        | some pages =>
          if !s.poolHolds k pt pages then s.sweepStatus core i p stat 3 false
          else
            let x : Sweep := ⟨.opened, k, pages, expect, 0, false, none, Vector.replicate 8 ⟨0, none, false, false⟩, []⟩
            ((s.setSweep id.toNat x.begin).settleSweep id.toNat).sweepStatus core i p stat 0 false

/-- The merge records in use in a domain (13 R350). -/
def State.recordsIn (s : State) (d : Nat) : Nat :=
  (s.sweeps.map fun (_, x) => (x.queries.filter fun q => homeDomain q.ctxn = d).length).foldl (· + ·) 0

def ascending : List Nat → Bool
  | a :: b :: rest => decide (a < b) && ascending (b :: rest)
  | _ => true

/-- The listed pages that the engines' cursors have passed (13 R352); in Open every cursor is 0. -/
def Sweep.passed (x : Sweep) (l : List Nat) : List Nat := l.filter fun p => decide (p < (x.engine (x.domainOf p)).cursor)

/-- DEFER: a page falls into the catch-up pass, and more than 16 above it into the main pass (13 R352). -/
def deferred (l owed : List Nat) : Bool :=
  match owed.head? with
  | none => false
  | some b => decide (16 < (l.filter fun p => decide (b < p) && !owed.contains p).length)

/-- A subscription's status, with the sweep as it is afterwards. -/
def State.subscribe (s : State) (ctxn : Nat) (task : BitVec 96) (seq : Word) (q : BitVec 4) (x : Sweep) (l : List Nat) :
    Nat × Sweep :=
  if !ascending l ∨ l.any (fun p => decide (x.pages.length ≤ p)) then (4, x)
  else if 455 ≤ s.recordsIn (homeDomain ctxn) then (3, x)
  else
    let owed := x.passed l
    if deferred l owed then (1, x)
    else
      let y : Query := ⟨ctxn, task, seq, q, l, l, owed, [], [], 0, [], 0, Partial.initial, false, .active⟩
      (0, Sweep.begin { x with
        subs := x.subs + 1, queries := insertQuery y x.queries, engines := x.engines.map Pass.wake })

/-- A context holds one query, whichever of its tasks subscribed (13 R350). DEDUCED, log entry 44. -/
def State.runSub (s : State) (core : Nat) (i : BitVec 2) (p : Pending) (q : BitVec 4) (lst : Word) (n stat : Nat)
    (id : BitVec 6) : State :=
  let ctxn := core * 4 + i.toNat
  let task := (s.ctxAt core i).taskId
  match s.partOfCore core, s.sweep id.toNat with
  | some (k, _), some x =>
    if x.part ≠ k then s.sweepStatus core i p stat 2 true
    else if x.st = .closing ∨ x.close then s.sweepStatus core i p stat 5 true
    else if x.queries.any fun q => q.ctxn = ctxn then s.sweepStatus core i p stat 6 true
    else
      swpEnd core i p (s.engCompute core lst (4 * n)) fun w s =>
        let (code, y) := s.subscribe ctxn task p.seq q x (entries w 32 n)
        ((s.setSweep id.toNat y).settleSweep id.toNat).sweepStatus core i p stat code (code ≠ 0)
  | _, _ => s.sweepStatus core i p stat 2 true

/-- The 528-byte record (13 R366). -/
def queryRecord (q : Option Query) : List Byte :=
  match q with
  | some q =>
    leBytes q.acc.m.toNat 4 ++ leBytes q.acc.l.toNat 4 ++ leBytes q.applied 4 ++ leBytes q.nan.toNat 1 ++ zeros 3 ++
      leBytes q.acc.o.toNat 512
  | none => zeros 12 ++ [2] ++ zeros 515

def State.runRead (s : State) (core : Nat) (i : BitVec 2) (p : Pending) (rec' : Nat) (id : BitVec 6) : State :=
  let key := (core * 4 + i.toNat, (s.ctxAt core i).taskId)
  let put (q : Option Query) : State := s.writePart' ⟨rec', false, none, 0⟩ (clean (queryRecord q))
  match (s.sweep id.toNat).bind fun x => (x.queryOf key).map fun q => (x, q) with
  | none => ((put none).swpDone key p.seq).flagCtx core i (put none).raised
  | some (x, q) =>
    if q.st ≠ .merged then s
    else
      let t := put (some q)
      (((t.setSweep id.toNat (x.dropQuery q)).settleSweep id.toNat).swpDone key p.seq).flagCtx core i
        (t.raised ||| if q.nan then ckiCNAN else 0)

/-- The status is written when the close is performed; the command completes when the sweep is Free (13 R364, R367). -/
def State.runClose (s : State) (core : Nat) (i : BitVec 2) (p : Pending) (stat : Nat) (id : BitVec 6) : State :=
  match s.partOfCore core, s.sweep id.toNat with
  | some (k, _), some x =>
    if x.part ≠ k then s.sweepStatus core i p stat 2 false
    else if x.st = .closing ∨ x.close then s.sweepStatus core i p stat 5 false
    else
      let s := s.writePart' ⟨stat, false, none, 0⟩ (clean (leBytes 0 8))
      let s := (s.flagCtx core i s.raised).setCmd core i .swp { p with phase := .reqSent }
      let st := match x.st with
        | .opened => SweepState.main
        | .tail => .closing
        | y => y
      (s.setSweep id.toNat { x with st := st, close := true, closer := some (core * 4 + i.toNat, (s.ctxAt core i).taskId, p.seq) }).settleSweep id.toNat
  | _, _ => s.sweepStatus core i p stat 2 false

/-- DEDUCED, log entry 43. -/
def State.doSwp (s : State) (core : Nat) (i : BitVec 2) (p : Pending) : State :=
  let s := s.actCmd core i p
  match p.cmd with
  | .swopen dir n stat id expect => s.runOpen core i p dir n stat id expect
  | .swsub q lst n stat id => s.runSub core i p q lst n stat id
  | .swread rec' id => s.runRead core i p rec' id
  | .swclose stat id => s.runClose core i p stat id
  | _ => s

/-- The context's first swp command that is not finished, when it has not begun; partials in the merge buffer hold nothing
up (13 R365). -/
def Timeline.nextSweep (t : Timeline) : Option Pending :=
  let held (p : Pending) : Bool := match p.cmd with
    | .swmerge .. => false
    | _ => p.phase != .done
  match t.cmds.find? held with
  | some p => if p.phase = .waiting then some p else none
  | none => none

/-- The swp command of a core whose turn it is: of those that can begin in contexts that are not held up, the first issued
(01 R29). -/
def State.swpTurn (s : State) (core : Nat) (held : List (BitVec 2)) : Option (BitVec 2 × Pending) :=
  leastBy (fun x => x.2.order) (allCtxs.filterMap fun i =>
    if held.contains i then none else (s.ctxAt core i).swp.nextSweep.map fun p => (i, p))

/-- Sweep commands of a core one after another; one that waits for its query or its sweep holds up its own context only. -/
def State.sweepCore (s : State) (core : Nat) (held : List (BitVec 2)) : Nat → State
  | 0 => s
  | n + 1 =>
    match s.swpTurn core held with
    | none => s
    | some (i, p) =>
      let t : State := { s.doSwp core i p with cur := s.cur, raised := s.raised }
      let waits := (t.ctxAt core i).swp.nextSweep.map (·.seq) = some p.seq
      State.sweepCore t core (if waits then i :: held else held) n

/-- Enough steps for every swp command of a core. -/
def State.swpCount (s : State) (core : Nat) : Nat := (allCtxs.map fun i => (s.ctxAt core i).swp.cmds.length).sum + 4

def State.sweepCores (s : State) : List Nat → State
  | [] => s
  | n :: rest => State.sweepCores (s.sweepCore n [] (s.swpCount n)) rest

/-- Sweep commands of every context that can go on. DEDUCED, log entry 43. -/
def State.pumpSweeps (s : State) : State := s.sweepCores (s.cores.map (·.1))

/-! The merge buffer's intake (13 R365). -/

/-- Partials applied while the lowest unapplied page's has arrived (13 R358); the SWMERGEs that are thereby complete. -/
def Query.fold (q : Query) : Nat → Query × List Word
  | 0 => (q, [])
  | f + 1 =>
    match q.pages[q.applied]? with
    | none => (q, [])
    | some page =>
      match q.window.find? fun w => w.1 = page with
      | none => (q, [])
      | some (_, seq, part) =>
        let acc := q.acc.apply part
        let q := { q with
          acc := acc, nan := q.nan || acc.nan, applied := q.applied + 1
          window := q.window.filter fun w => w.1 ≠ page, admitted := q.admitted.filter (· ≠ page) }
        let (q', l) := Query.fold q f
        (q', seq :: l)

/-- A partial at its merge buffer (13 R358, R359, R355); one of a query that is gone is dropped (13 R351). -/
def State.merge (s : State) (y : Intake) : State :=
  match (s.sweep y.id).bind fun x => (x.queryOf (y.ctxn, y.task)).map fun q => (x, q) with
  | none => s
  | some (x, q) =>
    let (q, done') := Query.fold { q with window := q.window ++ [(y.page, y.seq, y.part)] } (q.window.length + 1)
    let x := x.setQuery q.judge
    let x := if done' = [] then x
      else { x with engines := x.engines.mapIdx fun d e => if q.owed.any (fun p => x.domainOf p == d) then e.wake else e }
    done'.foldl (fun s n => s.swpDone q.key n) (s.setSweep y.id x)

/-- The partials in the intake of a domain's merge buffer, oldest first. -/
def State.intakeOf (s : State) (d : Nat) : List Intake := (look s.intake d).getD []

/-- An intake with nothing in it is not listed. -/
def State.setIntake (s : State) (d : Nat) (l : List Intake) : State :=
  { s with intake := if l = [] then del s.intake d else put s.intake d l }

/-- The oldest partials of an intake merged. -/
def State.drainIntake (s : State) (d : Nat) : Nat → State
  | 0 => s
  | n + 1 =>
    match s.intakeOf d with
    | [] => s
    | y :: rest => State.drainIntake ((s.setIntake d rest).merge y) d n

/-- Every intake emptied. -/
def State.drainIntakes (s : State) : List Nat → State
  | [] => s
  | d :: rest => State.drainIntakes (s.drainIntake d (s.intakeOf d).length) rest

def State.mergeAll (s : State) : State := s.drainIntakes (List.range 8)

/-- A merge buffer takes as many partials from its intake as it will. DESIGN CHOICE, log entry 89. -/
def State.mergeSome (s : State) (d : Nat) : State :=
  match s.choose (List.range ((s.intakeOf d).length + 1)) with
  | (some n, s) => s.drainIntake d n
  | (none, s) => s

/-! Steps of the engines. -/

/-- 13 R354: partials are merged, elements move on, and a free buffer takes the next page of a pass. DESIGN CHOICE, log entry 45. -/
def execSweepPageOffer (dom : BitVec 3) (s : State) : Result :=
  let d := dom.toNat
  let s := s.mergeAll.deliverAll d
  if 8 ≤ (s.bufs.filter fun b => b.dom = d).length then settle s.pumpSweeps
  else match s.choose (s.engineJobs d) with
    | (none, s) => settle s.pumpSweeps
    | (some j, s) => settle ((s.engineStep d j).deliverSome d).pumpSweeps

/-- 13 R355: a pass begins over the pages owed at this engine. DESIGN CHOICE, log entry 45. -/
def execSweepCatchupPass (dom : BitVec 3) (s : State) : Result :=
  let d := dom.toNat
  let ready (x : Sweep) : Bool :=
    x.st != .opened && x.mainDone d && (x.engine d).walk.isNone && !(x.engine d).idle && (x.nextPage d 0 true).isSome
  let s := s.mergeAll
  match s.choose (s.sweeps.filter fun x => ready x.2) with
  | (none, s) => settle s.pumpSweeps
  | (some (id, x), s) =>
    settle ((s.setSweep id (x.modEngine d fun e => { e with walk := some 0, hit := false })).deliverAll d).pumpSweeps

/-! Issue (13 R363). -/

def sweepParam (s : State) : Stop := s.trapHere 18 0 0

def State.pumpSwp (s : State) (core : Nat) : State := s.sweepCore core [] (s.swpCount core)

/-- A sweep command issued; it begins at once when nothing is before it. -/
def State.issueSwp (s : State) (d : BitVec 6) (cmd : Cmd) : State := (s.issue .swp d cmd 0).pumpSwp s.cur.core

def execSwopen (p : Pred) (d a b c : BitVec 6) (id : BitVec 6) (expect : BitVec 12) (s : State) : Result :=
  finish (runSlot p [.s a, .s b, .s c] (slotBlock .swp) fun s =>
    let dir := s.cx.rs a
    let n := (s.cx.rs b).toNat
    if n = 0 ∨ 0x100000 < n ∨ 2048 < expect.toNat ∨ dir.toNat % 8 ≠ 0 then .error (sweepParam s)
    else match s.recordAt (s.cx.rs c) 8 8 false true with
      | .error e => .error e
      | .ok stat => .ok (s.issueSwp d (.swopen dir n stat id expect.toNat))) s

def execSwsub (p : Pred) (d a b c : BitVec 6) (id : BitVec 6) (q : BitVec 4) (s : State) : Result :=
  finish (runSlot p [.s a, .s b, .s c] (slotBlock .swp) fun s =>
    let lst := s.cx.rs a
    let n := (s.cx.rs b).toNat
    if n = 0 ∨ 4096 < n ∨ lst.toNat % 4 ≠ 0 then .error (sweepParam s)
    else match s.recordAt (s.cx.rs c) 8 8 false true with
      | .error e => .error e
      | .ok stat =>
        if (s.cx.stream q).held then .error (s.trapHere 14 0 0)
        else
          let seq := s.nextSeq .swp
          let s := s.setCx (s.cx.setStream q ((s.cx.stream q).bindTo ⟨.swsub, seq⟩))
          .ok (s.issueSwp d (.swsub q lst n stat id))) s

/-- The query that a SWMERGE of the issuing context supplies, with the page of its oldest popped descriptor that has no
partial (13 R358, R365). -/
def State.mergeFor (s : State) (id : BitVec 6) : Option (Sweep × Query × Nat) :=
  let n := s.cur.core * 4 + s.cur.ctx.toNat
  match s.sweep id.toNat with
  | none => none
  | some x =>
    match x.queryOf (n, s.cx.taskId) with
    | none => none
    | some q =>
      if q.st = .merged then none
      else match q.entered[q.supplied]? with
        | none => none
        | some (page, place) => if place < (s.cx.stream q.q).taken then some (x, q, page) else none

/-- A full intake blocks as a merge-buffer stall (01 R18, 15 R401). -/
def mergeBlock (s : State) : Option Nat := if 64 ≤ (s.intakeOf (homeDomain (s.cur.core * 4))).length then some 10 else none

/-- DEDUCED, log entry 43. -/
def execSwmerge (p : Pred) (d a b c : BitVec 6) (id : BitVec 6) (s : State) : Result :=
  finish (runRows p [a, b] [.s c] mergeBlock fun rows s =>
    match s.mergeFor id with
    | none => .error (sweepParam s)
    | some (x, q, page) =>
      let w := s.cx.rs c
      let part : Partial := ⟨w.setWidth 32, (w >>> 32).setWidth 32, (rows.getD 1 0) ++ (rows.getD 0 0)⟩
      let y : Intake := ⟨id.toNat, q.ctxn, q.task, page, s.nextSeq .swp, part⟩
      let s := (s.issue .swp d (.swmerge page part id) 0).setSweep id.toNat (x.setQuery { q with supplied := q.supplied + 1 })
      let d := homeDomain q.ctxn
      let s := (s.setIntake d (s.intakeOf d ++ [y])).mergeSome d
      .ok (s.pumpSwp s.cur.core)) s

def execSwread (p : Pred) (d a : BitVec 6) (id : BitVec 6) (s : State) : Result :=
  finish (runSlot p [.s a] (slotBlock .swp) fun s =>
    match s.recordAt (s.cx.rs a) 528 16 true true with
    | .error e => .error e
    | .ok pa => .ok (s.issueSwp d (.swread pa id))) s

def execSwclose (p : Pred) (d c : BitVec 6) (id : BitVec 6) (s : State) : Result :=
  finish (runSlot p [.s c] (slotBlock .swp) fun s =>
    match s.recordAt (s.cx.rs c) 8 8 false true with
    | .error e => .error e
    | .ok stat => .ok (s.issueSwp d (.swclose stat id))) s

/-! The end of a context's task (13 R351, R356). -/

/-- Queries of a task cancelled, their pages in transit dropped. -/
def State.cancelIn (s : State) (key : Nat × BitVec 96) : List (Nat × Sweep) → State
  | [] => s
  | (id, x) :: rest =>
    match x.queryOf key with
    | none => State.cancelIn s key rest
    | some q =>
      let bufs := (s.bufs.map fun b => if b.id = id then { b with takes := b.takes.filter fun t => t.1 ≠ key } else b).filter
        fun b => b.takes ≠ []
      State.cancelIn ((({ s with bufs := bufs }).setSweep id (x.dropQuery q)).settleSweep id) key rest

/-- The queries of a task, with its partials in an intake. -/
def State.cancelQueries (s : State) (ctxn : Nat) (t : Task) : State :=
  let key := (ctxn, taskId t)
  let d := homeDomain ctxn
  let s := s.setIntake d ((s.intakeOf d).filter fun y => (y.ctxn, y.task) ≠ key)
  s.cancelIn key s.sweeps

end Sys2Proof.Machine
end

