-- ==== Sys2Proof/Machine/Image.lean ====
section
/-! DEFINITION. Kernel images: reading one through its partition's page table, the sections of the file, and every
condition that refuses it (02 R63-R68, 07 R182, 11 R281, 14 R391). -/

namespace Sys2Proof.Machine

/-! Reading (02 R63). -/

/-- Bytes of a partition's virtual range, as the scheduler reads them; none where a part does not translate or is not the
partition's. -/
def State.partRead (s : State) (p : Part) (va : Word) : Nat → Nat → Option (List Byte) × State
  | 0, _ => (some [], s)
  | f + 1, n =>
    if n = 0 then (some [], s)
    else if 2 ^ 48 ≤ va.toNat then (none, s)
    else
      let k := partLen va n
      match s.walk p va.toNat false with
      | .error _ => (none, s)
      | .ok x =>
        if x.peer.isNone ∧ s.physCause p x.pa k false ≠ 0 then (none, s)
        else
          let (bs, s) := s.engRead x k
          match State.partRead s p (va + BitVec.ofNat 64 k) f (n - k) with
          | (some rest, s) => (some (bs ++ rest), s)
          | (none, s) => (none, s)

def imgLE (b : List Byte) (off n : Nat) : Nat := ofLE ((b.drop off).take n)

/-- Offset and length of section 0 to 9: the two banks' dictionaries and index streams, stubs, templates, LMS declarations,
prototype, initial data, signature. -/
def imgSec (b : List Byte) (k : Nat) : Nat × Nat := (imgLE b (0x20 + 8 * k) 4, imgLE b (0x24 + 8 * k) 4)

/-- Where the last section of a header ends. DEDUCED, log entry 46. -/
def imgEnd (b : List Byte) : Nat :=
  (List.range 10).foldl (fun m k => let (o, n) := imgSec b k; if n = 0 then m else max m (o + n)) 128

/-- The whole image: its header, then everything up to its last section. -/
def State.readImage (s : State) (p : Part) (va : Word) : Option (List Byte) × State :=
  match s.partRead p va 3 128 with
  | (none, s) => (none, s)
  | (some h, s) => s.partRead p va (imgEnd h / 2048 + 2) (imgEnd h)

/-! Sections as data (02 R64). -/

def imgEntry (b : List Byte) : Nat := imgLE b 0x10 2
def imgSigned (b : List Byte) : Bool := (imgLE b 0x0C 4).testBit 0
def imgLat (b : List Byte) : List Nat := (List.range 16).map fun c => imgLE b (0x70 + c) 1
def imgLatOf (b : List Byte) (c : LatClass) : Nat := (imgLat b).getD c.num (Config.native c.num)

/-- A bank is present when it has a dictionary or an index stream. DEDUCED, log entry 46. -/
def imgBank (b : List Byte) (bank : Nat) : Bool :=
  decide ((imgSec b (2 * bank)).2 ≠ 0) || decide ((imgSec b (2 * bank + 1)).2 ≠ 0)

def imgStub (b : List Byte) (k : Nat) : Nat := imgLE b ((imgSec b 4).1 + 8 * k) 8
def imgStubs (b : List Byte) : List Stub :=
  (List.range (imgLE b 0x12 2)).map fun k =>
    let w := imgStub b k
    ⟨BitVec.ofNat 14 (fld w 0 14), BitVec.ofNat 14 (fld w 16 14), BitVec.ofNat 14 (fld w 32 14)⟩

def imgTemplates (b : List Byte) : List (BitVec 768) :=
  (List.range (imgLE b 0x14 2)).map fun k => BitVec.ofNat 768 (imgLE b ((imgSec b 5).1 + 96 * k) 96)

def imgLmsRaw (b : List Byte) (k : Nat) : Nat := imgLE b ((imgSec b 6).1 + 32 * k) 32
def imgLms (b : List Byte) : List LmsDecl :=
  (List.range (imgLE b 0x16 2)).map fun k =>
    let w := imgLmsRaw b k
    ⟨BitVec.ofNat 12 (fld w 0 12), fld w 16 8, w.testBit 24, BitVec.ofNat 64 (fld w 64 64), BitVec.ofNat 64 (fld w 128 64)⟩

def imgProto (b : List Byte) : List (BitVec 128) :=
  (List.range ((imgSec b 7).2 / 16)).map fun k => BitVec.ofNat 128 (imgLE b ((imgSec b 7).1 + 16 * k) 16)

/-- A record of initial data. -/
structure InitRec where
  va   : Nat
  kind : Nat
  seal' : Bool
  data : List Byte
deriving DecidableEq, Repr

/-- The records of a section; none where one is cut off or its attribute word breaks R64. -/
def initRecs (b : List Byte) : Nat → Option (List InitRec)
  | 0 => some []
  | f + 1 =>
    if b = [] then some []
    else
      let n := imgLE b 8 8
      let attr := imgLE b 16 8
      let whole := 24 + (n + 7) / 8 * 8
      if b.length < whole ∨ 8 ≤ attr then none
      else (initRecs (b.drop whole) f).map fun rest => ⟨imgLE b 0 8, fld attr 0 2, attr.testBit 2, (b.drop 24).take n⟩ :: rest

def imgInit (b : List Byte) : Option (List InitRec) :=
  let (o, n) := imgSec b 8
  initRecs ((b.drop o).take n) (n / 24 + 1)

/-! The conditions (02 R68). -/

/-- MAGIC, VMAJ, FAMILY, MODEL and the header's zero fields. DEDUCED, log entry 46. -/
def imgHeaderOk (b : List Byte) : Bool :=
  decide (imgLE b 0 4 = 0x00494B46) && decide (imgLE b 4 2 = 1) && decide (imgLE b 8 2 = 1) &&
    decide (imgLE b 10 2 ≤ 9) && decide (imgLE b 12 4 < 4) && decide (imgEntry b < 2 ^ 14) && decide (imgLE b 0x18 8 = 0)

/-- Sections apart from the header and from one another. -/
def imgApart (b : List Byte) : Bool :=
  let secs := ((List.range 10).map (imgSec b)).filter fun x => x.2 ≠ 0
  secs.all (fun x => decide (128 ≤ x.1)) &&
    (List.range secs.length).all fun i => (List.range secs.length).all fun j =>
      decide (i = j) || !rangesMeet (secs.getD i (0, 0)).1 (secs.getD i (0, 0)).2 (secs.getD j (0, 0)).1 (secs.getD j (0, 0)).2

/-- Counts and lengths (02 R64). -/
def imgCountsOk (b : List Byte) : Bool :=
  let len (k : Nat) : Nat := (imgSec b k).2
  [0, 2].all (fun k => decide (len k % 48 = 0) && decide (len k ≤ 98304) && decide (len (k + 1) % 2 = 0) && decide (len (k + 1) ≤ 16384)) &&
    decide (imgLE b 0x12 2 ≤ 256) && decide (len 4 = 8 * imgLE b 0x12 2) && decide (imgLE b 0x14 2 ≤ 256) &&
    decide (len 5 = 96 * imgLE b 0x14 2) && decide (imgLE b 0x16 2 ≤ 256) && decide (len 6 = 32 * imgLE b 0x16 2) &&
    decide (len 7 % 16 = 0) && decide (len 7 ≤ 2048) && (if imgSigned b then decide (len 9 = 96) else decide (len 9 = 0 ∨ len 9 = 96))

def imgLatOk (b : List Byte) : Bool :=
  (List.range 16).all fun c =>
    let v := (imgLat b).getD c 0
    if c < 13 then decide (1 ≤ v) && decide (v ≤ 32) else decide (v = Config.native c)

/-- Stub ranges in one bank, ascending and apart. -/
def stubsFrom (lo : Nat) : List Stub → Bool
  | [] => true
  | x :: rest =>
    decide (lo ≤ x.start.toNat) && decide (x.start.toNat ≤ x.fin.toNat) && decide (x.start.toNat / 8192 = x.fin.toNat / 8192) &&
      stubsFrom (x.fin.toNat + 1) rest

def imgStubsOk (b : List Byte) : Bool :=
  (List.range (imgLE b 0x12 2)).all (fun k =>
    let w := imgStub b k
    decide (fld w 14 2 = 0) && decide (fld w 30 2 = 0) && decide (fld w 46 18 = 0)) && stubsFrom 0 (imgStubs b)

def imgLmsOk (b : List Byte) : Bool :=
  (List.range (imgLE b 0x16 2)).all (fun k =>
    let w := imgLmsRaw b k
    decide (fld w 12 4 = 0) && decide (fld w 25 7 = 0) && decide (fld w 32 32 = 0) && decide (fld w 192 64 = 0)) &&
  (imgLms b).all (fun d => decide (1 ≤ d.tier) && decide (d.tier ≤ 5) && decide (d.base.toNat % 65536 = 0) && decide (d.base.toNat < 2 ^ 48) &&
    d.size != 0 && decide (d.size.toNat % 65536 = 0)) &&
  ((imgLms b).map (·.id)).eraseDups.length == (imgLms b).length

/-- The image-wide rules of 07 R182 over the valid prototype entries. -/
def imgProtoOk (p : Part) (b : List Byte) : Bool :=
  let es := (imgProto b).filter Ltt.v
  es.all (fun e => Ltt.formOk e && (Ltt.kind e != 2 || (imgLms b).any fun d => d.id == Ltt.lmsid e) &&
    !(Part.swap p && rangesMeet (Ltt.soff e) (2 ^ Ltt.size e) 0xF80000 0x80000) &&
    !(decide (Ltt.size e = 24) && (Part.swap p || decide (imgLms b ≠ [])))) &&
  (List.range es.length).all fun i => (List.range es.length).all fun j => decide (i = j) || !Ltt.clash (es.getD i 0) (es.getD j 0)

/-- Prototype entries that a range of virtual addresses touches. -/
def coveringProto (b : List Byte) (va n : Nat) : List (BitVec 128) :=
  (imgProto b).filter fun e => Ltt.v e && rangesMeet va n (Ltt.vbase e) (2 ^ Ltt.size e)

/-- The pages of a range translate, with the SEAL that is asked for (02 R65); what lies on this node is the partition's
(14 R380). -/
def State.pagesAgree (s : State) (p : Part) (seal' : Bool) (va : Nat) : Nat → Nat → Bool
  | 0, _ => true
  | f + 1, n =>
    if n = 0 then true
    else if 2 ^ 48 ≤ va then false
    else match s.walk p va false with
      | .error _ => false
      | .ok x =>
        let k := min n (x.page - va % x.page)
        x.sealed == seal' && (x.peer.isSome || decide (s.physCause p x.pa k false = 0)) && State.pagesAgree s p seal' (va + k) f (n - k)

def State.initOk (s : State) (p : Part) (b : List Byte) (r : InitRec) : Bool :=
  let n := r.data.length
  let es := coveringProto b r.va n
  if es ≠ [] then
    es.all fun e => decide (Ltt.vbase e ≤ r.va) && decide (r.va + n ≤ Ltt.vbase e + 2 ^ Ltt.size e) &&
      decide (Ltt.kind e = r.kind) && Ltt.sealed e == r.seal'
  else decide (r.kind = 3) && s.pagesAgree p r.seal' r.va (n / 65536 + 2) n

def State.imgInitOk (s : State) (p : Part) (b : List Byte) : Bool :=
  match imgInit b with
  | none => false
  | some l => l.all (s.initOk p b)

/-- Both banks validate (02 R59). -/
def imgBanksOk (b : List Byte) : Bool :=
  [0, 1].all fun k =>
    let (o, n) := imgSec b (2 * k)
    (judgeFrom (imgLatOf b) (fun t => slotsOf (imgLE ((b.drop o).take n) (48 * t) 48)) 0 (n / 48)).isNone

/-- A signature under any key that the partition's IKEY names (14 R391). -/
def State.imgSigOk (s : State) (p : Part) (b : List Byte) : Bool :=
  if imgSigned b then
    let (o, _) := imgSec b 9
    let sig : BitVec 768 := BitVec.ofNat 768 (imgLE b o 96)
    [0, 1, 2, 3].any fun i => match look s.device.keys (Part.ikey p i) with
      | some key => decide (Part.ikey p i ≠ 255) && Config.ecdsaOk key (Config.sha384 (b.take o)) sig
      | none => false
  else !Part.signReq p

/-- Whether an image is accepted for a partition. -/
def State.imageOk (s : State) (p : Part) (b : List Byte) : Bool :=
  imgHeaderOk b && imgApart b && imgCountsOk b && imgBank b (imgEntry b / 8192) && imgLatOk b && imgStubsOk b && imgLmsOk b &&
    imgProtoOk p b && s.imgInitOk p b && imgBanksOk b && s.imgSigOk p b

end Sys2Proof.Machine
end

