-- ==== Sys2Proof/Machine/Launch.lean ====
section
/-! DEFINITION. Mailboxes, launch records and their checks, the pending-launch pool, completion records, and LAUNCH and
MPOST (11 R277-R284, R292-R296, 16 R449). -/

namespace Sys2Proof.Machine

/-! Launch records (11 R280). -/

abbrev LaunchRec := BitVec 512

def rf (r : LaunchRec) (lo n : Nat) : Nat := fld r.toNat lo n
def recSeq (r : LaunchRec) : W32 := BitVec.ofNat 32 (rf r 0 32)
def recType (r : LaunchRec) : Nat := rf r 32 8
def recTier (r : LaunchRec) : Nat := rf r 40 3
def recClass (r : LaunchRec) : Nat := rf r 43 3
def recTxg (r : LaunchRec) : Bool := r.getLsbD 46
def recPercore (r : LaunchRec) : Nat := rf r 48 3
def recTiles (r : LaunchRec) : Nat := rf r 51 5
def recImage (r : LaunchRec) : Word := BitVec.ofNat 64 (rf r 64 48)
def recNgrp (r : LaunchRec) : Nat := rf r 128 32
def recGsize (r : LaunchRec) : Nat := rf r 160 16
def recEnergy (r : LaunchRec) : Nat := rf r 192 32
def recCdst (r : LaunchRec) : Nat := rf r 224 12
def recArg (r : LaunchRec) (k : Nat) : Word := BitVec.ofNat 64 (rf r (256 + 64 * k) 64)
def recTag (r : LaunchRec) : Nat := rf r 384 32

/-- A record of TYPE 1 reads as CMODE 0: the rule says so of one that MPOST.LAUNCH posts, and one that LAUNCH hands over is
read in the same way (11 R280). DESIGN CHOICE, log entry 47. -/
def recCmode (r : LaunchRec) : Nat := if recType r = 1 then 0 else rf r 236 2

/-- RSV, read as 0 above 1,024 where entries are taken (11 R295). DEDUCED, log entry 47. -/
def recRsv (r : LaunchRec) : Nat := if 1024 < rf r 176 16 then 0 else rf r 176 16

/-- The CRC-16 over bytes 0 to 61 (11 R279). -/
def crcOf (r : BitVec 512) : Nat := crc16 (leBytes r.toNat 62)
def withCrc (r : BitVec 512) : BitVec 512 := setFld r 496 16 (crcOf r)
def crcOk (r : BitVec 512) : Bool := decide (rf r 496 16 = crcOf r)

/-- Reserved values and zero fields (11 R280). -/
def recFormOk (r : LaunchRec) : Bool :=
  decide (recType r = 0) && decide (recTier r ≤ 5) && decide (rf r 47 1 = 0) && decide (1 ≤ recPercore r) && decide (recPercore r ≤ 4) &&
    decide (recTiles r ≤ 16) && decide (rf r 56 8 = 0) && decide (rf r 112 16 = 0) && decide (1 ≤ recNgrp r) && decide (recNgrp r ≤ 2048) &&
    decide (1 ≤ recGsize r) && decide (recGsize r ≤ 2048) && decide (rf r 176 16 ≤ 1024) && decide (recEnergy r ≠ 0) && decide (recCmode r ≠ 3) &&
    decide (rf r 238 18 = 0) && decide (rf r 416 80 = 0)

/-- The largest group of a tier, and for the wider tiers of the cores of one unit (01 R13, 11 R281). -/
def tierMax (r : LaunchRec) : Nat :=
  match recTier r with
  | 0 => 1
  | 1 => 4
  | 2 => min 32 (8 * recPercore r)
  | 3 => min 256 (64 * recPercore r)
  | _ => min 2048 (512 * recPercore r)

def Part.contexts (p : Part) : Nat := 4 * ((List.range 512).filter (Part.ownsCore p)).length

/-- The mailbox of a number, as registered or never (11 R278). -/
def Mbox.none : Mbox := ⟨0, 0, 0xFFFFFFFF, 0xFFFFFFFF, 0, 0, 0, 0, 0, 0, 0⟩
def State.mbox (s : State) (n : Nat) : Mbox := (look s.mboxes n).getD Mbox.none
def State.setMbox (s : State) (n : Nat) (x : Mbox) : State := { s with mboxes := put s.mboxes n x }

/-- Whether a record's completion has somewhere to go (11 R281). -/
def State.targetOk (s : State) (part : Nat) (p : Part) (r : LaunchRec) : Bool :=
  match recCmode r with
  | 0 => true
  | 1 => (s.mbox (recCdst r)).v && decide ((s.mbox (recCdst r)).part = part)
  | 2 => Part.ownsCore p (recCdst r % 512)
  | _ => false

/-- The checks on the record alone; `named` tells whether it may name an image, and a forwarded record has its completion
target at the arrival node (11 R281, R288). DEDUCED, log entry 49. -/
def State.recordOk (s : State) (part : Nat) (p : Part) (r : LaunchRec) (named forwarded : Bool) : Bool :=
  recFormOk r && (named || recImage r == 0) && (forwarded || s.targetOk part p r) && decide (recGsize r ≤ tierMax r) &&
    decide (recNgrp r * recGsize r ≤ Part.contexts p)

/-! Launches (11 R284, R292). -/

def State.launch (s : State) (part : Nat) (lid : Word) : Option Launch := s.launches.find? fun l => l.part = part ∧ l.lid = lid

def State.modLaunch (s : State) (part : Nat) (lid : Word) (f : Launch → Launch) : State :=
  { s with launches := s.launches.map fun l => if l.part = part ∧ l.lid = lid then f l else l }

/-- Pool entries that a launch holds: none while its parent's reservation covers them. -/
def State.poolEntries (s : State) (l : Launch) : Nat :=
  match l.parent with
  | some q => if l.reserved ∧ (s.launch l.part q).isSome then 0 else l.entries
  | none => l.entries

def State.poolUse (s : State) (f : Launch → Bool) : Nat := ((s.launches.filter f).map s.poolEntries).foldl (· + ·) 0

/-- Room for more entries in the node's pool and under the partition's POOLMAX (11 R292, 14 R375). -/
def State.poolRoom (s : State) (part : Nat) (p : Part) (n : Nat) : Bool :=
  decide (s.poolUse (fun _ => true) + n ≤ 16384) && decide (s.poolUse (fun l => l.part == part) + n ≤ Part.poolMax p)

def State.nextLid (s : State) (part : Nat) : Word := (look s.lids part).getD 0 + 1

/-! Completion records (11 R282, R283). -/

/-- A TYPE 0 record; SEQ and CRC are formed when it is written. -/
def Launch.completion (l : Launch) (now : Word) : BitVec 512 :=
  BitVec.ofNat 512 (l.status * 2 ^ 40 + l.lseq.toNat * 2 ^ 64 + recTag l.record * 2 ^ 96 + l.cki.toNat * 2 ^ 128 + l.used % 2 ^ 64 * 2 ^ 192 +
    l.tstart.toNat * 2 ^ 256 + now.toNat * 2 ^ 320 + l.nexit % 2 ^ 32 * 2 ^ 384 + l.ntrap % 2 ^ 32 * 2 ^ 416)

/-- What a member node reports when its own tasks of a torus launch have all ended (11 R282, R288). -/
def Launch.report (l : Launch) : MemberReport :=
  ⟨true, BitVec.ofNat 32 l.nexit, BitVec.ofNat 32 l.ntrap, l.cki, BitVec.ofNat 8 l.status, BitVec.ofNat 64 l.used⟩

/-- The arrival node's launch with a member's report merged (11 R282, R288). DEDUCED, log entry 51. -/
def Launch.merge (l : Launch) (node : BitVec 15) (r : MemberReport) : Launch :=
  { l with
    members := l.members.filter (· ≠ node), nexit := l.nexit + r.nexit.toNat, ntrap := l.ntrap + r.ntrap.toNat, cki := l.cki ||| r.cki
    status := max l.status r.status.toNat, used := l.used + r.used.toNat }

/-- A retired launch returns its entries: every mailbox is examined again (11 R279, R284). -/
def State.retire (s : State) (part : Nat) (lid : Word) : State :=
  let s' := match s.launch part lid with
    | some l => match l.parent with
      | some q => if l.reserved then s.modLaunch part q fun x => { x with resUsed := x.resUsed - l.entries } else s
      | none => s
    | none => s
  { s' with
    launches := s'.launches.filter fun l => !(l.part == part && l.lid == lid)
    touched := s'.mboxes.map (·.1) }

/-- Completing: the record waits for its channel, be it withdrawn meanwhile, or goes to its queue; CMODE 0 retires the launch
at once, and a forwarded launch reports to its arrival node instead (11 R283, R284, R288). DEDUCED, log entry 51. -/
def State.finishLaunch (s : State) (part : Nat) (lid : Word) : State :=
  match s.launch part lid with
  | none => s
  | some l =>
    let s := s.modLaunch part lid fun l => { l with st := .completing }
    let rec' := l.completion s.time
    match l.home with
    | some (node, theirs) => (s.sendSys (Part.tenant (s.part part)) node (.memberReport node theirs l.report)).retire part lid
    | none =>
      match recCmode l.record with
      | 1 => { s with compl := s.compl ++ [⟨BitVec.ofNat 12 (recCdst l.record), rec', some (part, lid)⟩] }
      | 2 =>
        let x := delivery ((withCrc rec').setWidth 2048) 0 2 64 s.node (Part.tenant (s.part part)) 0
        let (s, placed) := s.deliverItem (fld (recCdst l.record) 0 9 * 8 + fld (recCdst l.record) 9 3) x (some (part, lid))
        if placed then s.retire part lid else s
      | _ => s.retire part lid

/-- The number of records that a mailbox's channel holds unconsumed (11 R283). -/
def Mbox.unread (x : Mbox) : Nat := (x.lastc - x.cack).toNat

/-- A launch's record goes to a channel of its own partition (11 R281, R284). -/
def Compl.fits (c : Compl) (m : BitVec 12) (part : Nat) : Bool := c.mbox == m && c.launch.all fun l => l.1 == part

/-- The oldest held record of a channel written: the slot first, then LASTC (11 R283, 16 R449). -/
def State.writeCompletion (s : State) (m : BitVec 12) : State :=
  let x := s.mbox m.toNat
  match takeFirst (fun (c : Compl) => c.fits m x.part) s.compl with
  | none => s
  | some (c, rest) =>
    if !x.v ∨ 64 ≤ x.unread then s
    else
      let seq := x.lastc + 1
      let s := ({ s with compl := rest }).writeAlone (x.base + 4096 + 64 * (seq.toNat % 64))
        (leBytes (withCrc (setFld c.record 0 32 seq.toNat)).toNat 64)
      let s := s.setMbox m.toNat { s.mbox m.toNat with lastc := seq, tcmp := s.time }
      match c.launch with
      | some (part, lid) => s.retire part lid
      | none => s

def execCompletionWrite (mbox : BitVec 12) (s : State) : Result := settle (s.writeCompletion mbox).pump

/-- 11 R278: the host tells what it has consumed. -/
def execCackWrite (mbox : BitVec 12) (v : BitVec 32) (s : State) : Result :=
  if (look s.mboxes mbox.toNat).isSome then settle (s.setMbox mbox.toNat { s.mbox mbox.toNat with cack := v }) else settle s

/-! Registration (11 R277). -/

def descOk (d : BitVec 256) : Bool :=
  decide (fld d.toNat 3 9 = 0) && decide (fld d.toNat 48 16 = 0) && decide (fld d.toNat 12 36 * 4096 % 8192 = 0) &&
    isHbm (fld d.toNat 12 36 * 4096) && decide (fld d.toNat 112 16 = 0) && decide (fld d.toNat 134 58 = 0) && decide (fld d.toNat 192 64 = 0)

/-- The records held for a channel are void when its number is registered afresh, and their launches retire (16 R450). -/
def State.voidRecords (s : State) (m : BitVec 12) : State :=
  let old := s.compl.filter fun c => c.mbox == m && c.launch.isSome
  old.foldl (fun s c => match c.launch with
    | some (part, lid) => s.retire part lid
    | none => s) { s with compl := s.compl.filter fun c => !(c.mbox == m && c.launch.isSome) }

/-- A descriptor written: refused, or the number registered afresh, or withdrawn (11 R277, R278, 16 R449).
DEDUCED, log entry 48. -/
def execMailboxRegister (num : BitVec 12) (desc : BitVec 256) (s : State) : Result :=
  let old := s.mbox num.toNat
  let part := fld desc.toNat 128 6
  let st := Part.state (s.part part)
  if !descOk desc then settle s
  else if desc.getLsbD 0 then
    if (st ≠ 1 ∧ st ≠ 2) ∨ (old.v ∧ old.part ≠ part) then settle s
    else settle ((s.voidRecords num).setMbox num.toNat
      ⟨desc, 0, 0xFFFFFFFF, 0xFFFFFFFF, 0, 0, 0, old.rgen + 1, s.device.gen, 0, 0xFFFFFFFFFFFFFFFF⟩)
  else settle (s.setMbox num.toNat { old with desc := desc })

/-! Acceptance (11 R279-R281). -/

/-- Torus members other than this node (11 R288): the nodes of the partition's fabric domain. -/
def domainNodes (p : Part) : List (BitVec 15) :=
  (List.range (Part.extent p 2)).flatMap fun z => (List.range (Part.extent p 1)).flatMap fun y =>
    (List.range (Part.extent p 0)).map fun x => BitVec.ofNat 15 (x + 32 * y + 1024 * z)

def newLaunch (lid : Word) (part : Nat) (r : LaunchRec) (mbox : Option (BitVec 12)) (lseq : W32) (image : Word)
    (parent : Option Word) (reserved : Bool) (now : Word) : Launch where
  lid := lid
  part := part
  record := r
  mbox := mbox
  lseq := lseq
  image := image
  bytes := []
  st := .queued
  cls := recClass r
  front := 0
  parent := parent
  entries := 1 + recRsv r
  resUsed := 0
  groups := List.replicate (recNgrp r) ⟨.unplaced, [], 0⟩
  ended := 0
  hbmDone := false
  charge := 0
  used := 0
  waited := 0
  since := now
  tstart := 0
  nexit := 0
  ntrap := 0
  cki := 0
  status := 0
  members := []
  reserved := reserved
  tick := 0
  home := none

/-- A refused launch creates no task and goes to completion with its status; one whose completion target does not exist
retires at once (11 R281). -/
def State.refuse (s : State) (part : Nat) (lid : Word) (r : LaunchRec) (status : Nat) : State :=
  let s := s.modLaunch part lid fun l => { l with groups := [], status := max l.status status }
  if s.targetOk part (s.part part) r then s.finishLaunch part lid else s.retire part lid

/-- The checks of a launch, in order: its image's bytes, or the status of the first check that fails (11 R281). -/
def State.judgeLaunch (s : State) (part : Nat) (r : LaunchRec) (image : Word) (named forwarded : Bool) :
    Except Nat (List Byte) × State :=
  let p := s.part part
  if !s.recordOk part p r named forwarded then (.error 2, s)
  else match s.readImage p image with
    | (none, s) => (.error 1, s)
    | (some b, s) =>
      if !s.imageOk p b ∨ (imgLms b).any (fun d => d.tier ≠ recTier r) then (.error 1, s) else (.ok b, s)

/-- The checks of an accepted launch; one that passes is queued, a torus launch forwarded to its members with the image that
it names or inherits (11 R281, R288). -/
def State.checkLaunch (s : State) (part : Nat) (lid : Word) (named : Bool) : State :=
  match s.launch part lid with
  | none => s
  | some l =>
    match s.judgeLaunch part l.record l.image named false with
    | (.error status, s) => s.refuse part lid l.record status
    | (.ok b, s) =>
      let members := if recTier l.record = 5 then (domainNodes (s.part part)).filter (· ≠ s.node) else []
      let s := s.modLaunch part lid fun l => { l with bytes := b, members := members }
      s.sendEach (Part.tenant (s.part part)) (fun n => Out.forward n lid (setFld l.record 64 48 l.image.toNat)) members

/-- A record accepted into a partition with the next launch id. -/
def State.acceptLaunch (s : State) (part : Nat) (r : LaunchRec) (mbox : Option (BitVec 12)) (seq : Option W32) (image : Word)
    (parent : Option Word) (reserved named : Bool) : State :=
  let lid := s.nextLid part
  let lseq := seq.getD (lid.setWidth 32)
  let s := { s with
    lids := put s.lids part lid
    launches := s.launches ++ [newLaunch lid part r mbox lseq image parent reserved s.time] }
  s.checkLaunch part lid named

/-- A torus launch that another node forwards (11 R288): checked, given this node's own id and entries (11 R292) and queued,
or refused with a report. A node with no room in its pool refuses. DEDUCED, log entry 49. -/
def State.acceptMember (s : State) (orig : BitVec 15) (tenant : Nat) (theirs : Word) (r : LaunchRec) : State :=
  let refuse (s : State) : State := s.sendSys tenant orig (.memberReport orig theirs .refusal)
  match s.partOfTenant tenant with
  | none => refuse s
  | some (part, p) =>
    if recTier r ≠ 5 ∨ !(domainNodes p).contains orig then refuse s
    else match s.judgeLaunch part r (recImage r) true true with
      | (.error _, s) => refuse s
      | (.ok b, s) =>
        if !s.poolRoom part p (1 + recRsv r) then refuse s
        else
          let lid := s.nextLid part
          let l := newLaunch lid part r none (lid.setWidth 32) (recImage r) none false s.time
          { s with lids := put s.lids part lid, launches := s.launches ++ [{ l with bytes := b, home := some (orig, theirs) }] }

/-- One examination of the next slot of a mailbox; the answer tells whether it was accepted (11 R279). A record sent before the
mailbox was registered is void (16 R450). The bytes of a
FAULT_REPLY that the layout gives as zero are not looked at (11 R280). DESIGN CHOICE, log entry 47. -/
def State.examineOnce (s : State) (m : BitVec 12) : State × Bool :=
  let x := s.mbox m.toNat
  let p := s.part x.part
  let r : LaunchRec := BitVec.ofNat 512 (Mem.readLE s.mem x.slotAt 64)
  if !x.v ∨ (Part.state p ≠ 1 ∧ Part.state p ≠ 2) ∨ (x.prod ∧ x.posts = 0) ∨ x.void.getLsbD (x.nextl.toNat % 64) ∨ recSeq r ≠ x.nextl ∨ !crcOk r then (s, false)
  else
    let moved (s : State) : State :=
      let x := s.mbox m.toNat
      s.setMbox m.toNat { x with nextl := x.nextl + 1, tacc := s.time, posts := if x.prod then x.posts - 1 else x.posts }
    if recType r = 1 ∧ !x.prod then (((moved s).reply (BitVec.ofNat 32 (rf r 64 32)) (r.getLsbD 96) false), true)
    else if !s.poolRoom x.part p (1 + recRsv r) then (s, false)
    else
      let lid := s.nextLid x.part
      let image := if recImage r = 0 then x.handler else recImage r
      let s := moved s
      let s := s.setMbox m.toNat { s.mbox m.toNat with llid := lid }
      (s.acceptLaunch x.part r (some m) (if x.prod then none else some (recSeq r)) image none false x.anyimg, true)

/-- The next slot is examined as NEXTL advances. DEDUCED, log entry 47. -/
def State.examineSlot (s : State) (m : BitVec 12) : Nat → State
  | 0 => s
  | f + 1 =>
    match s.examineOnce m with
    | (s, true) => State.examineSlot s m f
    | (s, false) => s

def State.examineList (s : State) : List Nat → State
  | [] => s
  | m :: rest => State.examineList (s.examineSlot (BitVec.ofNat 12 m) 65) rest

/-- Every mailbox that a write or a freed entry calls for, until none is left to examine. DEDUCED, log entry 47. -/
def State.settleMail (s : State) : Nat → State
  | 0 => s
  | f + 1 => if s.touched = [] then s else State.settleMail ({ s with touched := [] }.examineList s.touched) f

/-- After a step: mailboxes whose slots it wrote are examined, in the step itself (11 R279). -/
def State.afterMove (s : State) : State := s.settleMail (s.launches.length + 2)

def execLaunchAccept (mbox : BitVec 12) (s : State) : Result := settle (s.examineSlot mbox 65)

/-! LAUNCH and MPOST (11 R294-R296). -/

/-- The 64-byte record at an address of the issuing context. -/
def State.launchRecord (s : State) (va : Word) : Except Stop (LaunchRec × State) :=
  match s.access va 64 64 false with
  | .error e => .error e
  | .ok acc =>
    if 2 ≤ acc.loc.kind then .error (kindFault s va)
    else
      let (v, bad, s) := s.localRead acc 64
      .ok (BitVec.ofNat 512 v, s.landFlag (if bad then ckiPOISON else 0))

/-- s[D] and p[C], both with landing count n + 1 (11 R294). -/
def State.landBoth (s : State) (d c : BitVec 6) (x : Word) (yes : Bool) : State :=
  (s.landS .seqret d x).landP .seqret (c.setWidth 5) (boolWord yes)

/-- Where LAUNCH takes its entries: the parent's reservation, the free pool, or nowhere (11 R292). -/
def State.takeEntries (s : State) (part : Nat) (p : Part) (parent : Word) (n : Nat) : Option Bool :=
  match s.launch part parent with
  | some l =>
    if l.resUsed + n ≤ recRsv l.record then some true
    else if s.poolRoom part p n then some false else none
  | none => if s.poolRoom part p n then some false else none

/-- 11 R295. -/
def execLaunch (p : Pred) (d a c : BitVec 6) (s : State) : Result :=
  finish (runSlot p [.s a] noBlock fun s =>
    match s.launchRecord (s.cx.rs a) with
    | .error e => .error e
    | .ok (r, s) =>
      match s.partOfCore s.cur.core, s.cx.task with
      | some (n, pt), some t =>
        let need := 1 + recRsv r
        match s.takeEntries n pt t.lid need with
        | none => .ok (s.landBoth d c 0 false)
        | some reserved =>
          let s := if reserved then s.modLaunch n t.lid fun l => { l with resUsed := l.resUsed + need } else s
          let own := match s.launch n t.lid with
            | some l => l.image
            | none => 0
          let image := if recImage r = 0 then own else recImage r
          let s := s.landBoth d c (s.nextLid n) true
          .ok (s.acceptLaunch n r none none image (some t.lid) reserved true)
      | _, _ => .ok (s.landBoth d c 0 false)) s

/-- The mailbox that a post names, when the issuing task's partition has registered it. -/
def State.postBox (s : State) (num : Word) : Option (Nat × Mbox) :=
  let n := num.toNat % 4096
  let x := s.mbox n
  match s.partOfCore s.cur.core with
  | some (k, _) => if x.v ∧ x.part = k then some (n, x) else none
  | none => none

def State.landStatus (s : State) (d c : BitVec 6) (status : Nat) : State :=
  s.landBoth d c (BitVec.ofNat 64 status) (decide (status = 0))

/-- 11 R296. -/
def execMpostLaunch (p : Pred) (d a b c : BitVec 6) (s : State) : Result :=
  finish (runSlot p [.s a, .s b] noBlock fun s =>
    match s.launchRecord (s.cx.rs b) with
    | .error e => .error e
    | .ok (r, s) =>
      match s.postBox (s.cx.rs a) with
      | none => .ok (s.landStatus d c 2)
      | some (n, x) =>
        if !x.prod then .ok (s.landStatus d c 2)
        else if 64 ≤ x.posts then .ok (s.landStatus d c 1)
        else
          let seq := x.nextl + BitVec.ofNat 32 x.posts
          let s := s.writePhys (x.base + 64 * (seq.toNat % 64)) (leBytes (withCrc (setFld r 0 32 seq.toNat)).toNat 64)
          let s := s.setMbox n { s.mbox n with posts := x.posts + 1 }
          let s := s.landStatus d c 0
          .ok (s.examineSlot (BitVec.ofNat 12 n) 65)) s

/-- A TYPE 2 record with bytes 8 to 61 of the posted one (11 R282, R296). -/
def execMpostMsg (p : Pred) (d a b c : BitVec 6) (s : State) : Result :=
  finish (runSlot p [.s a, .s b] noBlock fun s =>
    match s.launchRecord (s.cx.rs b) with
    | .error e => .error e
    | .ok (r, s) =>
      match s.postBox (s.cx.rs a) with
      | none => .ok (s.landStatus d c 2)
      | some (n, x) =>
        if 64 ≤ x.unread then .ok (s.landStatus d c 1)
        else .ok ((s.post (BitVec.ofNat 12 n) (BitVec.ofNat 512 (2 * 2 ^ 32 + rf r 64 432 * 2 ^ 64))).landStatus d c 0)) s

end Sys2Proof.Machine
end

