-- ==== Sys2Proof/Machine/Sched.lean ====
section
/-! DEFINITION. The scheduler: eligibility and placement (11 R285-R287), its decisions and pre-emption (R289, R293), energy
and aging (R290, R291), torus launches (R288), the end of tasks (10 R275, 11 R284), and re-landing from the mooring
(12 R329). -/

namespace Sys2Proof.Machine

/-! Groups and waiting (11 R289, R291). -/

def Launch.waiting (l : Launch) : Bool := l.groups.any fun g => g.st == .unplaced || g.st == .saving || g.st == .saved

/-- A launch changed, its waiting time kept: the count runs while it waits (11 R291). -/
def Launch.adjust (now : Word) (f : Launch → Launch) (l : Launch) : Launch :=
  let new := f l
  if l.waiting ∧ !new.waiting then { new with waited := new.waited + (now - l.since).toNat }
  else if !l.waiting ∧ new.waiting then { new with since := now }
  else new

def State.adjust (s : State) (part : Nat) (lid : Word) (f : Launch → Launch) : State :=
  s.modLaunch part lid (Launch.adjust s.time f)

def Launch.setGroup (l : Launch) (g : Nat) (f : Group → Group) : Launch :=
  { l with groups := l.groups.mapIdx fun i x => if i = g then f x else x }

/-- A class change restarts the 10 ms of waiting, and the place at the front is lost. -/
def Launch.setClass (l : Launch) (now : Word) (c : Nat) : Launch := { l with cls := c, front := 0, waited := 0, since := now }

/-- The next place in the order of placements, and of pre-emptions. -/
def State.nextStamp (s : State) : Nat := 1 + (s.launches.flatMap fun l => l.groups.map (·.stamp)).foldl max 0
def State.nextFront (s : State) : Nat := 1 + (s.launches.map (·.front)).foldl max 0

/-- The parked contexts of a group. -/
def State.parkedOf (s : State) (part : Nat) (lid : Word) (g : Nat) : List Parked :=
  s.parked.filter fun x => match x.ctx.task with
    | some t => t.part.toNat == part && t.lid == lid && t.grp.toNat == g
    | none => false

def State.liveOf (s : State) (part : Nat) (lid : Word) (g : Nat) : List (Nat × BitVec 2 × Task) :=
  s.groupCtxs part lid (BitVec.ofNat 32 g)

/-! Eligibility (11 R286). -/

/-- A context that holds no task and that no saved task is about to return to. -/
def State.ctxFree (s : State) (core : Nat) (i : BitVec 2) : Bool :=
  (s.ctxAt core i).st == .free && !(s.parked.any fun x => x.ready && x.num == core * 4 + i.toNat)

def State.freeCtxs (s : State) (core : Nat) : List (BitVec 2) := allCtxs.filter (s.ctxFree core)

/-- Each bank that the image has is armed. -/
def banksArmed (fis : BitVec 24) (b : List Byte) : Bool := [0, 1].all fun k => !imgBank b k || fis.getLsbD k

/-- The banks hold the image, as its virtual address and bytes identify it. -/
def Core.holdsImage (k : Core) (part : Nat) (l : Launch) : Bool :=
  k.image == some ⟨part, l.image, l.bytes⟩ && banksArmed k.fis l.bytes

/-- Accumulator tiles of a core that other launches hold, tasks about to return among them. DEDUCED, log entry 49. -/
def State.tilesUsed (s : State) (part : Nat) (lid : Word) (core : Nat) : BitVec 16 :=
  let here := allCtxs.filterMap fun i => (s.ctxAt core i).task
  let back := (s.parked.filter fun x => x.ready && x.num / 4 == core).filterMap fun x => x.ctx.task
  ((here ++ back).filter fun t => t.part.toNat != part || t.lid != lid).foldl (fun m t => m ||| t.mask) 0

/-- The lowest-numbered tiles that a mask does not hold. -/
def tilesFrom (used : BitVec 16) (n : Nat) : BitVec 16 :=
  (((List.range 16).filter fun t => !used.getLsbD t).take n).foldl (fun m t => m ||| (1#16 <<< t)) 0

def tilesFree (used : BitVec 16) : Nat := ((List.range 16).filter fun t => !used.getLsbD t).length

/-- CTXM of a prototype entry: bit k names the k-th task of the group on the core. -/
def mapCtxm (m : BitVec 4) (is : List (BitVec 2)) : BitVec 4 :=
  (is.mapIdx fun k i => if m.getLsbD k then 1#4 <<< i.toNat else 0).foldl (· ||| ·) 0

/-- The prototype rewritten for the group's contexts on a core, entry by entry; 0 where nothing is written. -/
def protoFor (b : List Byte) (is : List (BitVec 2)) : List (BitVec 128) :=
  (imgProto b).map fun e =>
    let m := mapCtxm (Ltt.ctxm e) is
    if Ltt.v e ∧ m ≠ 0 then setCtxm e m else 0

/-- Whether the entries of a list can be put into a table one after another, without a clash. -/
def lttFits (t : Vector (BitVec 128) 128) : List (BitVec 128) → Bool
  | [] => true
  | e :: rest =>
    !(t.toList.any fun f => Ltt.clash e f) && ((addLtt t e).toList.any fun f => setCtxm f 0 == setCtxm e 0) && lttFits (addLtt t e) rest

/-- Store log and view index of a core as ranges of its slice. -/
def Core.logRanges (k : Core) : List (Nat × Nat) := [(k.log.logOff, k.log.logSize), (k.log.viewOff, 0x80000)]

def hitsLog (k : Core) (e : BitVec 128) : Bool := k.logRanges.any fun (o, n) => overlaps (Ltt.soff e) (2 ^ Ltt.size e) o n

/-- The rules of 07 R182 and R184 that judge one core for a group's entries. -/
def Core.lttEligible (k : Core) (fresh lms : Bool) (es : List (BitVec 128)) : Bool :=
  let es := es.filter Ltt.v
  let old := if fresh then [] else k.ltt.toList.filter Ltt.v
  (fresh || lttFits k.ltt es) && !((lms || k.log.group.isSome) && es.any (hitsLog k)) && !(lms && old.any (hitsLog k))

/-- Whether a task is of a launch. -/
def Task.ofLaunch (part : Nat) (lid : Word) (t : Task) : Bool := t.part.toNat == part && t.lid == lid

/-- The transposer of a core is granted to no other launch, nor is a task about to return to it with its grant. That a second
group of the same launch may take it over is DESIGN CHOICE, log entry 49. -/
def State.xposeFree (s : State) (part : Nat) (lid : Word) (core : Nat) : Bool :=
  (s.core core).xowner.all (fun i => (s.ctxAt core i).task.all (Task.ofLaunch part lid)) &&
    s.parked.all fun x => !(x.ready && x.grant && x.num / 4 == core) || x.ctx.task.all (Task.ofLaunch part lid)

/-- A control pair that has halted, or a cluster retired, takes no more placements (16 R437). -/
def State.clusterUp (s : State) (core : Nat) : Bool :=
  !s.device.retired.contains (core / 8) && !s.device.halts.contains (core / 8)

def State.eligible (s : State) (part : Nat) (p : Part) (l : Launch) (core need : Nat) : Bool :=
  let k := s.core core
  let free := s.freeCtxs core
  let is := free.take need
  let lms := imgLms l.bytes != []
  let fresh := decide (free.length = 4) && !k.holdsImage part l
  Part.ownsCore p core && s.clusterUp core && decide (is.length = need) && (decide (free.length = 4) || k.holdsImage part l) &&
    (!lms || k.log.group.isNone) && decide (recTiles l.record ≤ tilesFree (s.tilesUsed part l.lid core)) &&
    (!recTxg l.record || s.xposeFree part l.lid core) && k.lttEligible (fresh || decide (free.length = 4)) lms (protoFor l.bytes is)

/-! Placement (11 R285). -/

/-- The cores of each unit of a tier, in ascending number. -/
def unitsOf (tier : Nat) : List (List Nat) :=
  let n := match tier with
    | 0 => 1
    | 1 => 1
    | 2 => 8
    | 3 => 64
    | _ => 512
  (List.range (512 / n)).map fun u => (List.range n).map fun c => u * n + c

/-- Tasks for each core of a group, in order. -/
def sharesFrom (per : Nat) : Nat → Nat → List Nat
  | 0, _ => []
  | f + 1, n => if n = 0 then [] else min per n :: sharesFrom per f (n - per)

def sharesOf (r : LaunchRec) : List Nat :=
  if recTier r ≤ 1 then [recGsize r] else sharesFrom (recPercore r) 2048 (recGsize r)

/-- The lowest-numbered eligible cores of a unit for the shares. -/
def State.pickCores (s : State) (part : Nat) (p : Part) (l : Launch) : List Nat → List Nat → Option (List (Nat × List (BitVec 2)))
  | _, [] => some []
  | [], _ => none
  | c :: cs, n :: ns =>
    if s.eligible part p l c n then (State.pickCores s part p l cs ns).map fun rest => (c, (s.freeCtxs c).take n) :: rest
    else State.pickCores s part p l cs (n :: ns)

/-- The cores and contexts of a group that has not been placed before. -/
def State.planNew (s : State) (part : Nat) (p : Part) (l : Launch) : Option (List (Nat × List (BitVec 2))) :=
  (unitsOf (recTier l.record)).findSome? fun u => s.pickCores part p l u (sharesOf l.record)

/-- Whether a saved group can return: all its contexts free, and its cores able to take it again. -/
def State.canReturn (s : State) (part : Nat) (p : Part) (l : Launch) (g : Nat) : Bool :=
  let xs := s.parkedOf part l.lid g
  xs.all (fun x =>
    let core := x.num / 4
    let k := s.core core
    let free := s.freeCtxs core
    let mask := match x.ctx.task with
      | some t => t.mask
      | none => 0
    let mine := (xs.filter fun y => y.num / 4 == core).flatMap (·.ltt)
    Part.ownsCore p core && s.clusterUp core && free.contains (BitVec.ofNat 2 x.num) &&
      (decide (free.length = 4) || k.holdsImage part l) && (s.tilesUsed part l.lid core &&& mask == 0) &&
      (!recTxg l.record || s.xposeFree part l.lid core) && lttFits k.ltt mine)

/-! Loading a core (02 R63-R65, 11 R286). -/

def padTo (n : Nat) (bs : List Byte) : List Byte := bs.take n ++ List.replicate (n - bs.length) 0

def imgBytes (b : List Byte) (k : Nat) : List Byte :=
  let (o, n) := imgSec b k
  (b.drop o).take n

/-- One code bank written whole, and armed by FENCE.I when the image has it (02 R58-R60, R68). -/
def State.loadBank (s : State) (core : Nat) (b : List Byte) (bank : Nat) : State :=
  let x := bankNum bank
  let s := s.writeAlone (istoreBase core + x.dict) (padTo 98304 (imgBytes b (2 * bank)))
  let s := s.writeAlone (istoreBase core + x.stream) (padTo 16384 (imgBytes b (2 * bank + 1)))
  if imgBank b bank then
    let k := s.core core
    s.setCore core { k with fis := fisAfter k.fis bank false 0 0 0 }
  else s

/-- Tiles that a range touches. -/
def tilesOfRange (a n : Nat) : List Nat :=
  if n = 0 then [] else (List.range ((a + n - 1) / 16384 - a / 16384 + 1)).map fun k => (a / 16384 + k) * 16384

def State.sealTiles (s : State) : List Nat → State
  | [] => s
  | t :: rest => State.sealTiles (s.sealTile t) rest

def State.initWrite (s : State) (a : Nat) (seal' : Bool) (bs : List Byte) : State :=
  let s := s.writeAlone a bs
  if seal' then s.sealTiles (tilesOfRange a bs.length) else s

/-- A record's data through each prototype entry that holds it. -/
def State.initEntries (s : State) (core : Nat) (r : InitRec) : List (BitVec 128) → State
  | [] => s
  | e :: rest => State.initEntries (s.initWrite (sliceBase core + Ltt.soff e + (r.va - Ltt.vbase e)) r.seal' r.data) core r rest

/-- Slice data of a core: everything when the core is loaded, and the bases of a new group's LMSs in any case.
DEDUCED, log entry 50. -/
def State.initCore (s : State) (core : Nat) (b : List Byte) (loaded : Bool) : List InitRec → State
  | [] => s
  | r :: rest =>
    let es := coveringProto b r.va r.data.length
    State.initCore (if loaded || r.kind = 2 then s.initEntries core r es else s) core b loaded rest

/-- Data through the page table, page by page and whether its leaf is writable or not, sealed where its pages are; a page
whose records the lattice pool cannot hold is left as it is (06 R160). DESIGN CHOICE, log entry 50. -/
def State.initPages (s : State) (p : Part) (seal' : Bool) (va : Nat) : Nat → List Byte → State
  | 0, _ => s
  | f + 1, bs =>
    if bs = [] then s
    else match s.walk p va false with
      | .error _ => s
      | .ok x =>
        let n := min bs.length (x.page - va % x.page)
        let here := match s.reachSealed p x with
          | (_, false) => s
          | (s, true) => if x.peer.isSome then s.engWrite x (bs.take n) else s.initWrite x.pa seal' (bs.take n)
        State.initPages here p seal' (va + n) f (bs.drop n)

def State.initHbm (s : State) (p : Part) (b : List Byte) : List InitRec → State
  | [] => s
  | r :: rest =>
    let s := if coveringProto b r.va r.data.length = [] then s.initPages p r.seal' r.va (r.data.length / 65536 + 2) r.data else s
    State.initHbm s p b rest

/-- Entries of the prototype put into the table: at their own places on an empty core, beside the others elsewhere.
DEDUCED, log entry 50. -/
def Core.placeLtt (k : Core) (empty : Bool) (es : List (BitVec 128)) : Core :=
  if empty then { k with ltt := Vector.ofFn fun n => es.getD n.val 0 }
  else { k with ltt := (es.filter Ltt.v).foldl addLtt k.ltt }

/-- DEDUCED, log entry 50. -/
def State.loadCore (s : State) (core part : Nat) (l : Launch) : State :=
  let s := (s.loadBank core l.bytes 0).loadBank core l.bytes 1
  s.setCore core { s.core core with image := some ⟨part, l.image, l.bytes⟩ }

/-! Starting tasks (11 R287). -/

/-- The index of this node among the members of a torus launch and their number; 0 and 1 for any other. -/
def State.memberIndex (s : State) (p : Part) (r : LaunchRec) : Nat × Nat :=
  if recTier r = 5 then
    let l := domainNodes p
    ((l.filter fun n => n.toNat < s.node.toNat).length, l.length)
  else (0, 1)

def startRegs (l : Launch) (g rank idx cnt : Nat) : Vector Word 64 :=
  let size := recGsize l.record
  Vector.ofFn fun n => match n.val with
    | 1 => recArg l.record 0
    | 2 => recArg l.record 1
    | 3 => BitVec.ofNat 64 g
    | 4 => BitVec.ofNat 64 (idx * size + rank)
    | 5 => BitVec.ofNat 64 (size * cnt)
    | 6 => l.lid
    | 7 => BitVec.ofNat 64 rank
    | 8 => BitVec.ofNat 64 (idx + cnt * 2 ^ 32)
    | _ => 0

def startTask (l : Launch) (part g rank idx cnt : Nat) (mask : BitVec 16) : Task where
  lid := l.lid
  part := BitVec.ofNat 6 part
  grp := BitVec.ofNat 32 g
  rank := idx * recGsize l.record + rank
  gsize := recGsize l.record * cnt
  tier := recTier l.record
  mask := mask
  lat := imgLat l.bytes
  stubs := imgStubs l.bytes
  templates := imgTemplates l.bytes
  lms := imgLms l.bytes
  released := false
  phases := 0

/-- Tasks of consecutive ranks on the contexts of a core. -/
def State.startTasks (s : State) (core part g idx cnt : Nat) (l : Launch) (mask : BitVec 16) (rank : Nat) : List (BitVec 2) → State
  | [] => s
  | i :: rest =>
    let c := { Context.reset with
      s := startRegs l g rank idx cnt, ip := BitVec.ofNat 14 (imgEntry l.bytes), st := .ready
      task := some (startTask l part g rank idx cnt mask) }
    State.startTasks (s.setCtxAt core i c) core part g idx cnt l mask (rank + 1) rest

/-- Member cores on another node: which of its cores its scheduler chose is open. -/
def State.openCores (s : State) (node : Nat) (lo : Nat) : Nat → List Nat × State
  | 0 => ([], s)
  | n + 1 =>
    let (c, s) := s.choose ((List.range 512).filter fun c => decide (lo ≤ c) && decide (c + n < 512))
    let c := c.getD lo
    let (rest, s) := State.openCores s node (c + 1) n
    ((node * 512 + c) :: rest, s)

def State.memberCores (s : State) (r : LaunchRec) (here : List Nat) : List (BitVec 15) → List Nat × State
  | [] => ([], s)
  | n :: rest =>
    let (mine, s) := if n = s.node then (here.map fun c => n.toNat * 512 + c, s) else s.openCores n.toNat 0 (sharesOf r).length
    let (others, s) := State.memberCores s r here rest
    (mine ++ others, s)

/-- A member core's log, as the group begins. -/
def Log.begin (l : Log) (lid : Word) (g : Nat) (members : List Nat) (decls : List LmsDecl) : Log :=
  { Log.reset with
    logc := l.logc, logx := l.logx, logRej := l.logRej, group := some (lid, BitVec.ofNat 32 g), members := members
    decls := decls, cursors := members.map fun _ => 0 }

/-- The group's tasks on its cores, one core after another. -/
def State.startCores (s : State) (part g idx cnt : Nat) (l : Launch) (inits : List InitRec) (members : List Nat) (rank : Nat) :
    List (Nat × List (BitVec 2)) → State
  | [] => s
  | (core, is) :: rest =>
    let empty := decide ((s.freeCtxs core).length = 4)
    let loaded := empty || !(s.core core).holdsImage part l
    let s := if loaded then s.loadCore core part l else s
    let s := s.setCore core ((s.core core).placeLtt empty (protoFor l.bytes is))
    let s := s.initCore core l.bytes loaded inits
    let k := s.core core
    let k := if imgLms l.bytes ≠ [] then { k with log := k.log.begin l.lid g members (imgLms l.bytes) } else k
    let k := if recTxg l.record then { k with xowner := is.head?, xpose := Tile.zero, xf := 0, xg := 0 } else k
    let mask := tilesFrom (s.tilesUsed part l.lid core) (recTiles l.record)
    let s := (s.setCore core k).startTasks core part g idx cnt l mask rank is
    State.startCores s part g idx cnt l inits members (rank + is.length) rest

/-- A group placed for the first time (11 R285-R287). -/
def State.placeNew (s : State) (part : Nat) (p : Part) (l : Launch) (g : Nat) (plan : List (Nat × List (BitVec 2))) : State :=
  let inits := (imgInit l.bytes).getD []
  let s := if l.hbmDone then s else s.initHbm p l.bytes inits
  let (idx, cnt) := s.memberIndex p l.record
  let (members, s) := if imgLms l.bytes = [] then ([], s)
    else s.memberCores l.record (plan.map (·.1)) (if recTier l.record = 5 then domainNodes p else [s.node])
  let s := s.startCores part g idx cnt l inits members 0 plan
  let stamp := s.nextStamp
  let ctxs := plan.flatMap fun (c, is) => is.map fun i => c * 4 + i.toNat
  s.adjust part l.lid fun l =>
    { l.setGroup g (fun _ => ⟨.placed, ctxs, stamp⟩) with
      st := .running, hbmDone := true, tstart := if l.groups.all (fun x => x.stamp == 0) then s.time else l.tstart }

/-- The cores of saved contexts loaded again where their banks hold something else. -/
def State.reloadCores (s : State) (part : Nat) (l : Launch) : List Parked → State
  | [] => s
  | x :: rest =>
    let core := x.num / 4
    State.reloadCores (if (s.core core).holdsImage part l then s else s.loadCore core part l) part l rest

/-- A saved group's contexts may return. -/
def State.placeAgain (s : State) (part : Nat) (l : Launch) (g : Nat) : State :=
  let xs := s.parkedOf part l.lid g
  let s := s.reloadCores part l xs
  let stamp := s.nextStamp
  let s := { s with parked := s.parked.map fun x => if xs.contains x then { x with ready := true } else x }
  s.adjust part l.lid fun l =>
    let l := l.setGroup g fun x => { x with st := .placed, stamp := stamp }
    if l.groups.any (fun x => x.st == .saving || x.st == .saved) then l else { l with front := 0 }

/-! Decisions (11 R289, R293). -/

/-- A pre-empted group whose unfinished tasks have all left their cores is saved. -/
def State.refreshGroups (s : State) : State :=
  { s with launches := s.launches.map fun l =>
      { l with groups := l.groups.mapIdx fun g x =>
          if x.st = .saving ∧ s.liveOf l.part l.lid g = [] ∧ s.parkedOf l.part l.lid g ≠ [] then { x with st := .saved } else x } }

/-- The group of a launch that is to be placed next. -/
def Launch.nextGroup (l : Launch) : Option Nat := l.groups.findIdx? fun g => g.st == .unplaced || g.st == .saving || g.st == .saved

/-- Whether one launch stands before another in its partition's queues: class, then the front, then arrival at the node,
also where a launch has changed its class (11 R289). DESIGN CHOICE, log entry 49. -/
def Launch.before (a b : Launch) : Bool :=
  decide (a.cls < b.cls) || (a.cls == b.cls && (decide (b.front < a.front) || (a.front == b.front && decide (a.lid < b.lid))))

def firstLaunch : List Launch → Option Launch
  | [] => none
  | l :: rest =>
    match firstLaunch rest with
    | none => some l
    | some m => if l.before m then some l else some m

def State.queueOf (s : State) (part : Nat) : List Launch :=
  s.launches.filter fun l => l.part == part && l.waiting && (l.st == .queued || l.st == .running)

/-- A child of the head is placed before the head's own groups (11 R293). -/
def State.headOf (s : State) (q : List Launch) : Nat → Option Launch → Option Launch
  | 0, h => h
  | f + 1, h =>
    match h with
    | none => none
    | some l =>
      match firstLaunch (q.filter fun c => c.parent == some l.lid) with
      | some c => State.headOf s q f (some c)
      | none => some l

/-- What a launch's next group would be placed on: a plan for a new group, or its own contexts. -/
def State.fit (s : State) (part : Nat) (p : Part) (l : Launch) : Option (Nat × Option (List (Nat × List (BitVec 2)))) :=
  match l.nextGroup with
  | none => none
  | some g =>
    match (l.groups.getD g ⟨.ended, [], 0⟩).st with
    | .unplaced => (s.planNew part p l).map fun plan => (g, some plan)
    | .saved => if s.canReturn part p l g then some (g, none) else none
    | _ => none

/-- The node with the tasks of a group gone from their cores, to judge whether their room is enough. -/
def State.without (s : State) : List (Nat × BitVec 2 × Task) → State
  | [] => s
  | (core, i, _) :: rest =>
    let s := s.setCtxAt core i Context.reset
    let k := s.core core
    State.without (s.setCore core { k with xowner := if k.xowner = some i then none else k.xowner, ltt := dropLtt k.ltt i }) rest

def State.withoutGroups (s : State) (part : Nat) : List (Word × Nat) → State
  | [] => s
  | (lid, g) :: rest => State.withoutGroups (s.without (s.liveOf part lid g)) part rest

/-- A group all of whose tasks on this node are blocked. -/
def State.groupBlocked (s : State) (part : Nat) (lid : Word) (g : Nat) : Bool :=
  (s.liveOf part lid g).all fun (n, i, _) => (s.ctxAt n i).st == .blocked

/-- Placed groups of a launch with their order of placement. -/
def Launch.placedGroups (l : Launch) : List (Nat × Nat × Nat) :=
  (l.groups.mapIdx fun g x => (g, x)).filterMap fun (g, x) => if x.st = .placed then some (l.cls, x.stamp, g) else none

/-- A pre-emption order: numerically highest class first, then the most recent placement. -/
def insertVictim (x : Nat × Nat × Word × Nat) : List (Nat × Nat × Word × Nat) → List (Nat × Nat × Word × Nat)
  | [] => [x]
  | y :: rest => if y.1 < x.1 ∨ (y.1 = x.1 ∧ y.2.1 < x.2.1) then x :: y :: rest else y :: insertVictim x rest

/-- Groups that may be pre-empted for a head: those of higher classes, then blocked groups of its parent. -/
def State.victims (s : State) (part : Nat) (h : Launch) : List (Word × Nat) :=
  let all := (s.launches.filter fun l => l.part == part).flatMap fun l => (l.placedGroups).map fun (c, st, g) => (c, st, l.lid, g)
  let lower := (all.filter fun (c, _, lid, _) => decide (h.cls < c) && lid != h.lid).foldr insertVictim []
  let parent := (all.filter fun (c, _, lid, g) => !decide (h.cls < c) && h.parent == some lid && s.groupBlocked part lid g).foldr insertVictim []
  (lower ++ parent).map fun (_, _, lid, g) => (lid, g)

/-- The shortest prefix of the victims whose going would make room. DEDUCED, log entry 49. -/
def State.prefixFor (s : State) (part : Nat) (p : Part) (h : Launch) (done : List (Word × Nat)) : List (Word × Nat) → Option (List (Word × Nat))
  | [] => none
  | v :: rest =>
    let s' := s.withoutGroups part [v]
    if (s'.fit part p h).isSome then some (done ++ [v]) else State.prefixFor s' part p h (done ++ [v]) rest

/-- PREQ in each context of a group; its launch rejoins the front of its class (15 R418, 11 R289). -/
def State.askAll (s : State) : List (Nat × BitVec 2 × Task) → State
  | [] => s
  | (core, i, _) :: rest =>
    let c := s.ctxAt core i
    State.askAll (if c.exiting then s else s.setCtxAt core i { c with preq := true, preqLeft := 2 }) rest

/-- DEDUCED, log entry 49. -/
def State.preempt (s : State) (part : Nat) : List (Word × Nat) → State
  | [] => s
  | (lid, g) :: rest =>
    let s := s.askAll (s.liveOf part lid g)
    let front := s.nextFront
    State.preempt (s.adjust part lid fun l => { l.setGroup g (fun x => { x with st := .saving }) with front := front }) part rest

/-- Groups that are on their way out. -/
def State.leaving (s : State) (part : Nat) : List (Word × Nat) :=
  (s.launches.filter fun l => l.part == part).flatMap fun l =>
    (l.groups.mapIdx fun g x => (g, x)).filterMap fun (g, x) => if x.st = .saving then some (l.lid, g) else none

/-- One decision for a partition: its head is placed, or groups are pre-empted for it, or it waits. DEDUCED, log entry 49. -/
def State.decideOne (s : State) (part : Nat) : State :=
  let s := s.refreshGroups
  let p := s.part part
  let q := s.queueOf part
  match s.headOf q q.length (firstLaunch q) with
  | none => s
  | some h =>
    match s.fit part p h with
    | some (g, some plan) => s.placeNew part p h g plan
    | some (g, none) => s.placeAgain part h g
    | none =>
      let later := s.withoutGroups part (s.leaving part)
      if !Part.swap p ∨ (later.fit part p h).isSome then s
      else match later.prefixFor part p h [] (later.victims part h) with
        | some vs => s.preempt part vs
        | none => s

/-- A partition on its way out places nothing (18 R466). -/
def execScheduleDecision (part : BitVec 6) (s : State) : Result :=
  let n := part.toNat
  if Part.state (s.part n) = 1 ∧ !(s.device.running.any fun r => r.part == n) then settle (s.decideOne n) else settle s

/-! Energy and aging (11 R290, R291). -/

def Launch.charged (l : Launch) (now : Word) (uj : Nat) : Launch :=
  let budget := recEnergy l.record
  let l := { l with charge := l.charge + uj, used := l.used + uj }
  if l.charge < budget then l
  else
    let l := { l with charge := l.charge - budget }
    if l.cls < 7 then l.setClass now (l.cls + 1) else l

def Launch.metered (l : Launch) : Bool := recEnergy l.record != 0xFFFFFFFF

/-- The number of the present microsecond, from 1. -/
def State.tickNow (s : State) : Nat := s.time.toNat / 1000 + 1

/-- A metered launch is charged once in every microsecond (11 R290). -/
def execEnergyCharge (part : BitVec 6) (lid : BitVec 64) (uj : BitVec 32) (s : State) : Result :=
  settle (s.modLaunch part.toNat lid fun l =>
    if l.metered ∧ l.tick ≠ s.tickNow then { l.charged s.time uj.toNat with tick := s.tickNow } else l)

/-- Waiting time since the last class change, in ns. -/
def Launch.waitedAt (l : Launch) (now : Word) : Nat := l.waited + (if l.waiting then (now - l.since).toNat else 0)

/-- Aging comes behind the charge of its microsecond (11 R291). -/
def execAgingPromote (part : BitVec 6) (lid : BitVec 64) (s : State) : Result :=
  settle (s.modLaunch part.toNat lid fun l =>
    if l.waiting ∧ 0 < l.cls ∧ 10000000 ≤ l.waitedAt s.time ∧ (l.metered → l.tick = s.tickNow) then l.setClass s.time (l.cls - 1) else l)

/-! The end of tasks (10 R275, 11 R282, R284). -/

/-- Every command is complete or stopped, or waits behind a stopped one. -/
def Timeline.drained (t : Timeline) : Bool := (t.cmds.takeWhile fun p => p.phase ≠ .stopped).all fun p => p.phase == .done

def allTls : List Tl := [.cpy, .mtx, .fry, .swp, .atm]

def Context.drainedAll (c : Context) : Bool := allTls.all fun t => Timeline.drained (c.tl t)
def Context.anyStopped (c : Context) : Bool := allTls.any fun t => (Timeline.stopped (c.tl t)).isSome

/-- The code that a task's end gives its launch (11 R282). -/
def Context.endStatus (c : Context) : Nat := if c.killed then 5 else if c.trapped then 4 else if c.anyStopped then 3 else 0

/-- Nothing of a group is left on this node. -/
def State.groupGone (s : State) (part : Nat) (lid : Word) (g : Nat) : Bool := s.liveOf part lid g == [] && s.parkedOf part lid g == []

/-- An ended group's cores are member cores no longer; their logs keep their entries until another group begins there, and
LOGC with them (08 R211). DESIGN CHOICE, log entry 49. -/
def State.leaveLogs (s : State) (part : Nat) (lid : Word) (g : Nat) : State :=
  let cores := s.groupCores part (lid, BitVec.ofNat 32 g)
  let members := cores.flatMap fun n => (s.core n).log.members
  { s with remote := s.remote.filter fun (m, _) => !members.contains m }.eachCore (fun s n =>
    let k := s.core n
    s.setCore n { k with log := { k.log with group := none } }) cores

def Launch.allEnded (l : Launch) : Bool := l.groups.all fun g => g.st == .ended

/-- A launch none of whose tasks is left here, and whose members have all reported, completes. DEDUCED, log entry 51. -/
def State.tryFinish (s : State) (part : Nat) (lid : Word) : State :=
  match s.launch part lid with
  | some l =>
    if l.allEnded ∧ l.st ≠ .completing then
      if l.members = [] then s.finishLaunch part lid else s.modLaunch part lid fun l => { l with st := .draining }
    else s
  | none => s

/-- NEXIT or NTRAP of a task that has ended by itself (11 R282). -/
def Launch.credit (c : Context) (l : Launch) : Launch :=
  if c.trapped then { l with ntrap := l.ntrap + 1 } else { l with nexit := l.nexit + 1 }

/-- A task gone, its counts taken; one that was killed has had its own when it was. -/
def State.taskEnded (s : State) (t : Task) (c : Context) : State :=
  let part := t.part.toNat
  let s := if c.killed then s else s.modLaunch part t.lid (Launch.credit c)
  let s := s.modLaunch part t.lid fun l => { l with
    cki := l.cki ||| c.cki, status := max l.status c.endStatus, ended := l.ended + 1 }
  if s.groupGone part t.lid t.grp.toNat then
    let s := (s.leaveLogs part t.lid t.grp.toNat).adjust part t.lid fun l => l.setGroup t.grp.toNat fun g => { g with st := .ended }
    s.tryFinish part t.lid
  else s

/-- A Free context: its registers hold what the task left in them until the next placement (10 R275, 11 R287). -/
def Context.freed (c : Context) : Context :=
  { Context.reset with
    s := c.s, v := c.v, vchk := c.vchk, p := c.p, b := c.b, loops := c.loops, m := c.m, k := c.k, fmt := c.fmt, ip := c.ip, ic := c.ic
    fpf := c.fpf, cki := c.cki, pmk := c.pmk, scr := c.scr, tcause := c.tcause, tip := c.tip, taddr := c.taddr, tseq := c.tseq
    tval := c.tval, dip := c.dip, crs := c.crs, shchk := c.shchk, mnext := c.mnext, mseq := c.mseq }

/-- A drained context becomes Free. -/
def State.endCtx (s : State) (core : Nat) (i : BitVec 2) : State :=
  let c := s.ctxAt core i
  match c.task with
  | none => s
  | some t =>
    let s := { s.setCtxAt core i c.freed with freezes := del s.freezes (core * 4 + i.toNat) }
    let k := s.core core
    let s := s.setCore core { k with xowner := if k.xowner = some i then none else k.xowner, ltt := dropLtt k.ltt i }
    s.taskEnded t c

/-- 10 R275. -/
def execExitDrainEnd (core : BitVec 9) (ctx : BitVec 2) (s : State) : Result :=
  let n := core.toNat
  let c := s.ctxAt n ctx
  match c.task with
  | none => settle s
  | some t =>
    if !c.exiting then settle s
    else
      let s := s.cancelQueries (n * 4 + ctx.toNat) t
      if (s.ctxAt n ctx).drainedAll then settle (s.endCtx n ctx) else settle s

/-! Ending tasks from outside (11 R288, 14 R383, 18 R466). -/

/-- A task ended: it fetches nothing more, and drains as after EXIT. -/
def Context.kill (c : Context) : Context :=
  if c.exiting then { c with killed := true }
  else { c with
    landing := [], redir := [], skip := none, region := none, exiting := true, killed := true, trapped := false, st := .blocked, bcause := 12
    frozen := false, nested := false, preq := false, saved := false, efaults := [] }

def State.killAll (s : State) : List (Nat × BitVec 2 × Task) → State
  | [] => s
  | (core, i, t) :: rest =>
    let c := s.ctxAt core i
    let s := if c.exiting ∧ !c.killed then s.modLaunch t.part.toNat t.lid (Launch.credit c) else s
    State.killAll (s.setCtxAt core i c.kill) rest

/-- Saved tasks end where they are: their commands are discarded with them. -/
def State.dropParked (s : State) : List Parked → State
  | [] => s
  | x :: rest =>
    let s := { s with parked := s.parked.filter fun y => y.num ≠ x.num ∨ y.ctx ≠ x.ctx, freezes := del s.freezes x.num }
    match x.ctx.task with
    | some t => State.dropParked ((s.cancelQueries x.num t).taskEnded t { x.ctx with killed := true }) rest
    | none => State.dropParked s rest

/-- Every task of a launch ended, groups not yet placed dropped. -/
def State.killLaunch (s : State) (part : Nat) (lid : Word) (status : Nat) : State :=
  match s.launch part lid with
  | none => s
  | some l =>
    let s := s.adjust part lid fun l => { l with
      status := max l.status status
      groups := l.groups.map fun g => if g.st = .unplaced then { g with st := .ended } else g }
    let gs := List.range l.groups.length
    let s := s.killAll (gs.flatMap fun g => s.liveOf part lid g)
    let s := s.dropParked (gs.flatMap fun g => s.parkedOf part lid g)
    s.tryFinish part lid

/-! Torus launches (11 R288). -/

/-- The arrival node ends a forwarded launch (11 R288). -/
def State.endMember (s : State) (orig : BitVec 15) (tenant : Nat) (theirs : Word) : State :=
  match s.entryOf tenant with
  | none => s
  | some (part, _) =>
    match s.launches.find? fun l => l.part = part ∧ l.home = some (orig, theirs) with
    | some l => s.killLaunch part l.lid 6
    | none => s

/-- A member refused or did not report: the launch ends everywhere with TORUS_FAIL. -/
def State.torusFail (s : State) (part : Nat) (lid : Word) : State :=
  match s.launch part lid with
  | none => s
  | some l =>
    if recTier l.record ≠ 5 ∨ l.home.isSome ∨ l.st = .completing then s
    else
      let s := s.sendEach (Part.tenant (s.part part)) (fun n => Out.endLaunch n lid) ((domainNodes (s.part part)).filter (· ≠ s.node))
      (s.modLaunch part lid fun l => { l with members := [] }).killLaunch part lid 6

/-- A member reports that its draining is done, with its share of the completion record, or that it refused the record. -/
def execTorusMemberReport (part : BitVec 6) (lid : BitVec 64) (node : BitVec 15) (report : MemberReport) (s : State) : Result :=
  let n := part.toNat
  match s.launch n lid with
  | none => settle s
  | some l =>
    if !l.members.contains node then settle s
    else if report.accepted then settle ((s.modLaunch n lid fun l => l.merge node report).tryFinish n lid)
    else settle (s.torusFail n lid)

/-- A member that cannot report within a second. -/
def execTorusMemberTimeout (part : BitVec 6) (lid : BitVec 64) (s : State) : Result :=
  match s.launch part.toNat lid with
  | some l => if l.members = [] then settle s else settle (s.torusFail part.toNat lid)
  | none => settle s

/-! Re-landing (12 R329, R335, 11 R283). -/

inductive Reland where
  | pool (num : Nat)
  | queued (stamp : Nat)
  | record (stamp : Nat)
  | reroute (num : Nat)
deriving DecidableEq, Repr

/-- The entry of a queue's order that stands first, if the queue has room. -/
def State.queueTurn (s : State) (q : Nat) : Option Reland :=
  let ms := ((s.router.moor ++ s.router.stuck).filter fun m => m.code = 17 ∧ m.arg = q).map fun m => (m.stamp, Reland.queued m.stamp)
  let rs := (s.router.records.filter fun x => x.queue = q).map fun x => (x.stamp, Reland.record x.stamp)
  if s.queueRoom q then (leastBy (·.1) (ms ++ rs)).map (·.2) else none

/-- Whether an UNREACHABLE ferry can be routed now. -/
def State.reachable (s : State) (f : Ferry) : Bool :=
  s.reaches (ferryTenant f) (ferryTarget f) || (!ferryFback f && s.reaches (ferryTenant f) (ferryFall f))

/-- Every entry that may leave the mooring now, in its kind's own order. -/
def State.relandable (s : State) : List Reland :=
  let r := s.router
  let pools := if r.pool.length < 1024 then ((leastBy (·.stamp) (r.moor.filter fun m => m.code = 16)).map fun m => Reland.pool m.num).toList else []
  let qs := (((r.moor ++ r.stuck).filter fun m => m.code = 17).map (·.arg) ++ r.records.map (·.queue)).eraseDups
  let ways := (r.moor.filter fun m => m.code = 20 ∧ s.reachable m.ferry).map fun m => Reland.reroute m.num
  pools ++ qs.filterMap s.queueTurn ++ ways

def State.moorAt (s : State) (num : Nat) : Option Moored := s.router.moor.find? fun m => m.num = num

def State.reland (s : State) (x : Reland) : State :=
  match x with
  | .pool num => match s.moorAt num with
    | some m => (s.unmoor num).routerTick.arrive m.ferry 7 none
    | none => s
  | .reroute num => match s.moorAt num with
    | some m =>
      let s := (s.unmoor num).routerTick
      match m.sys with
      | some o => s.sendSys (ferryTenant m.ferry) (ferryDest m.ferry) o
      | none => s.route m.ferry none 0
    | none => s
  | .queued stamp => match (s.router.moor ++ s.router.stuck).find? fun m => m.code = 17 ∧ m.stamp = stamp with
    | some m =>
      let s := s.putDelivery m.arg
        (delivery (ferryCargo m.ferry) m.val.toNat 0 (ferryClen m.ferry) (ferryOrig m.ferry) (ferryTenant m.ferry) (ferryTag m.ferry))
      s.release fun x => x.stamp == stamp
    | none => s
  | .record stamp => match takeFirst (fun (r : HeldRecord) => r.stamp == stamp) s.router.records with
    | some (r, rest) =>
      let s := (s.setRouter { s.router with records := rest }).putDelivery r.queue r.item
      match r.launch with
      | some (part, lid) => s.retire part lid
      | none => s
    | none => s

/-- DEDUCED, log entry 39. -/
def execMooringReland (s : State) : Result :=
  let (x, s) := s.choose s.relandable
  match x with
  | some x => settle (s.reland x).pump
  | none => settle s

end Sys2Proof.Machine
end

