-- ==== Sys2Proof/Machine/Links.lean ====
section
/-! DEFINITION. Links: frames, retry, verdict marks, keys, lanes, training and failover (14 R385-R389, 16 R438-R445). -/

namespace Sys2Proof.Machine

/-! Link ids and frames (14 R385, R386). -/

def linkIdOf (node : BitVec 15) (port l : Nat) : Nat := node.toNat * 2 ^ 17 + port * 2 ^ 14 + l * 2 ^ 12

/-- Bytes 16 to 31 of a tag beat: counter, then the number of flits. -/
def tagBeatTail (counter flits : Nat) : BitVec 128 := BitVec.ofNat 128 (counter + flits * 2 ^ 64)

def frameIv (lid counter : Nat) : BitVec 96 := BitVec.ofNat 96 (lid * 2 ^ 64 + counter)

/-- A frame as it travels: the flits as ciphertext, then the tag beat. -/
def frameBody (key : BitVec 256) (lid counter : Nat) (flits : List (BitVec 256)) : List Byte :=
  let aad := tagBeatTail counter flits.length
  let (ct, tag) := Config.gcmSeal key (frameIv lid counter) aad (flits.flatMap fun x => leBytes x.toNat 32)
  ct ++ leBytes tag.toNat 16 ++ leBytes aad.toNat 16

/-! Links by port. -/

def State.setFabric (s : State) (f : Fabric) : State := { s with fabric := f }
def State.setLink (s : State) (port l : Nat) (x : Link) : State :=
  s.setFabric { s.fabric with links := put s.fabric.links (4 * port + l) x }
def State.link (s : State) (port l : Nat) : Link := s.fabric.link port l
def State.signal (s : State) (x : Signal) (port l n : Nat) : State := { s with out := s.out ++ [.signal x port l n] }
def State.skidPort (s : State) (port : Nat) : Bool := s.fabric.skid.getLsbD port
def Fabric.waitingFor (f : Fabric) (port l : Nat) : List Ferry := (look f.resend (4 * port + l)).getD []
def State.setResend (s : State) (port l : Nat) (fs : List Ferry) : State :=
  let k := 4 * port + l
  s.setFabric { s.fabric with resend := if fs = [] then del s.fabric.resend k else put s.fabric.resend k fs }

/-- The live links of a port, in quarters of its full weight (16 R444). -/
def State.portWeight (s : State) (port : Nat) : Nat := ([0, 1, 2, 3].filter fun l => (s.link port l).alive).length

/-- The other nodes of the fabric domain (12 R309). -/
def State.domainOthers (s : State) : List (BitVec 15) :=
  match s.entryOfTenant 0 with
  | some p => (domainNodes p).filter (· ≠ s.node)
  | none => []

/-- The links of a port have changed: its weight follows, and a change between live and dead is flooded to the fabric domain by
system ferries (16 R444, R445). DESIGN CHOICE, log entry 42. -/
def State.floodIf (s : State) (port : Nat) (before : Bool) : State :=
  let now := s.deadPort port
  let s := s.signal .weight port 0 (s.portWeight port)
  if before = now then s
  else s.sendEach 0 (fun n => .portChange n ⟨s.node, BitVec.ofNat 3 port⟩ (!now)) s.domainOthers

/-- The link of a port whose turn it is, of those that meet a test (16 R444). -/
def State.turnOf (s : State) (port : Nat) (f : Link → Bool) : Option Nat :=
  let t := (look s.fabric.turn port).getD 0
  ([0, 1, 2, 3].map fun k => (t + k) % 4).find? fun l => f (s.link port l)

/-- The turn passes on behind a link. -/
def State.turnPast (s : State) (port l : Nat) : State :=
  s.setFabric { s.fabric with turn := put s.fabric.turn port ((l + 1) % 4) }

/-! Failover (16 R444, R445). -/

/-- Every ferry that a link still holds, in order: those whose last flit awaits acknowledgement, then the one in progress. -/
def Link.unacked (l : Link) : List Ferry :=
  l.retry.flatMap (·.ferries) ++ (match l.current with
    | some (f, _) => [f]
    | none => [])

def State.rerouteAll (s : State) : List Ferry → State
  | [] => s
  | f :: rest => State.rerouteAll (s.route f none 0) rest

/-- A ferry that was to leave and does not has not made its hop. -/
def unhop (f : Ferry) : Ferry := setHdr f 64 8 (ferryHops f - 1)

/-- A ferry but for what its hops change: HOPS, ESC and VLH. -/
def hopless (f : Ferry) : Ferry := setHdr (setHdr f 64 8 0) 81 2 0
def sameFerry (a b : Ferry) : Bool := hopless a == hopless b

/-- The marks of ferries that have to leave by another way than the one they took: `old` becomes `new` (14 R388). -/
def Router.remark (r : Router) (old new : Option (Nat × Option Nat)) (fs : List Ferry) : Router :=
  { r with marks := r.marks.map fun u => if u.via = old ∧ fs.any (sameFerry u.ferry) then { u with via := new } else u }

/-- Ferries bound for a port that has died go to the escape lanes, or into the mooring; one whose verdict mark is outstanding
waits for it here (16 R445, 12 R323, 14 R388). -/
def State.emptyPort (s : State) (port : Nat) : State :=
  let back := [0, 1, 2, 3].flatMap fun l => s.fabric.waitingFor port l
  let fs := back.map unhop ++ [0, 1, 2].flatMap fun k => (look s.router.lanes (3 * port + k)).getD []
  let s := [0, 1, 2, 3].foldl (fun s l => s.setResend port l []) s
  let s := s.setRouter { s.router with lanes := del (del (del s.router.lanes (3 * port)) (3 * port + 1)) (3 * port + 2) }
  let waits (f : Ferry) : Bool := s.router.marks.any fun u => u.via == some (port, none) && sameFerry u.ferry f
  (s.setRouter (s.router.remark (some (port, none)) none fs)).rerouteAll (fs.filter fun f => !waits f)

/-- A link has failed: kind 13 is logged, and its ferries move whole and in order to the port's surviving link whose turn it
is, or leave a dead port. DEDUCED, log entry 41. -/
def State.linkLost (s : State) (port l : Nat) : State :=
  let x := s.link port l
  let before := s.deadPort port
  let id := linkIdOf s.node port l
  let fs := s.fabric.waitingFor port l ++ Link.unacked x
  let s := s.logDevice 13 16 (id / 2 ^ 17) 1 id
  let s := (s.setLink port l { Link.reset with st := .failed, lanes := x.lanes }).setResend port l []
  let s := s.setRouter (s.router.remark (some (port, some l)) (some (port, none)) fs)
  let s := match s.turnOf port Link.alive with
    | some k => (s.setResend port k (s.fabric.waitingFor port k ++ fs)).turnPast port k
    | none => s.setResend port l fs
  let s := s.floodIf port before
  if s.deadPort port then s.emptyPort port else s

/-- A link fails at this end, and so at the other (16 R443). -/
def State.linkFail (s : State) (port l : Nat) : State := (s.linkLost port l).signal .linkDown port l 0

/-- A link that failed at its other end; one that has no state to lose stays as it is. -/
def State.linkDown (s : State) (port l : Nat) : State :=
  match (s.link port l).st with
  | .down | .failed => s
  | _ => s.linkLost port l

/-! Sending (14 R385, R387, 16 R438). -/

/-- A ferry leaves through a port: one hop more, and VLH once an escape ferry crosses the axis's dateline (12 R321, R325). -/
def State.leave (s : State) (port lane : Nat) (f : Ferry) : Ferry :=
  let a := axisOf s.node (port / 2)
  let crosses := if port % 2 = 0 then a + 1 = s.extent (ferryTenant f) (port / 2) else a = 0
  let f := setHdr f 64 8 (ferryHops f + 1)
  if lane < 2 ∧ crosses then setHdr f 82 1 1 else f

/-- The ferry that a link sends next: one that it has taken over from a failed link, else the head of a lane that is not held;
the surviving links of a port take those in turn (16 R444). -/
def State.nextFerry (s : State) (port l : Nat) : Option Ferry × State :=
  let reduced := [0, 1, 2, 3].any fun k => (s.link port k).st == .failed
  match s.fabric.waitingFor port l with
  | f :: rest => (some f, s.setResend port l rest)
  | [] =>
    if reduced ∧ s.turnOf port Link.live ≠ some l then (none, s) else
    let ready := [0, 1, 2].filter fun k => !s.router.held.contains (3 * port + k) && (look s.router.lanes (3 * port + k)).getD [] != []
    let (k, s) := s.choose ready
    match k with
    | none => (none, s)
    | some k =>
      match (look s.router.lanes (3 * port + k)).getD [] with
      | [] => (none, s)
      | f :: rest =>
        let lanes := if rest = [] then del s.router.lanes (3 * port + k) else put s.router.lanes (3 * port + k) rest
        let s' := s.setRouter { s.router with lanes := lanes }
        (some (s.leave port k f), if reduced then s'.turnPast port l else s')

/-- At counter 2^40 the next key takes over and the counter restarts; without one, nothing more is sent. -/
def Link.rollTx (x : Link) : Option Link :=
  if x.txNext < 2 ^ 40 then some x
  else x.nextTx.map fun k => { x with txKey := k, nextTx := none, txNext := 0 }

/-- What the next frame carries: flits, the ferries whose last flit is among them, and what is left of the last one. -/
structure Filled where
  flits : List (BitVec 256)
  whole : List Ferry
  left' : Option (Ferry × List (BitVec 256))
deriving DecidableEq, Repr

/-- Flits of the ferry being sent and of those that wait behind it, up to the room of the frame (14 R385). -/
def State.fillFrame (s : State) (port l : Nat) : Nat → Nat → Option (Ferry × List (BitVec 256)) → Filled × State
  | 0, _, cur => (⟨[], [], cur⟩, s)
  | n + 1, room, cur =>
    if room = 0 then (⟨[], [], cur⟩, s)
    else match cur with
      | some (f, fl) =>
        if room < fl.length then (⟨fl.take room, [], some (f, fl.drop room)⟩, s)
        else
          let (x, s) := State.fillFrame s port l n (room - fl.length) none
          (⟨fl ++ x.flits, f :: x.whole, x.left'⟩, s)
      | none =>
        match s.nextFerry port l with
        | (some f, s) => State.fillFrame s port l n room (some (f, ferryFlits f))
        | (none, s) => (⟨[], [], none⟩, s)

/-- The mark behind the last flit of a ferry that leaves by a port in skid mode; one whose own mark is outstanding is followed
by that mark when it comes (14 R388). -/
def State.sendMark (s : State) (port l : Nat) (f : Ferry) : State :=
  match takeFirst (fun (u : Unmarked) => u.via.any (·.2.isNone) && sameFerry u.ferry f) s.router.marks with
  | some (u, rest) => s.setRouter { s.router with marks := rest ++ [{ u with via := some (port, some l) }] }
  | none => s.signal .mark port l (ferryPoison f).toNat

def State.sendMarks (s : State) (port l : Nat) : List Ferry → State
  | [] => s
  | f :: rest => State.sendMarks (if s.skidPort port then s.sendMark port l f else s) port l rest

/-- A frame of up to five flits; nothing where no flit waits. -/
def State.sendFrame (s : State) (port l : Nat) (x : Link) : State :=
  let (y, s) := s.fillFrame port l 8 5 x.current
  if y.flits = [] then s
  else
    let body := frameBody x.txKey (linkIdOf s.node port l) x.txNext y.flits
    let s := s.setLink port l { x with
      txNext := x.txNext + 1, retry := x.retry ++ [⟨x.txNext, body, y.whole⟩], current := y.left' }
    { s with out := s.out ++ [Out.frame port l x.txNext body] }.sendMarks port l y.whole

/-- 14 R385: a frame closes and is sent, unless the retry buffer is full. DESIGN CHOICE, log entry 40. -/
def execFrameClose (port : BitVec 3) (link : BitVec 2) (s : State) : Result :=
  let p := port.toNat
  let l := link.toNat
  let x := s.link p l
  if !x.live ∨ 128 ≤ x.retry.length then settle s
  else match x.rollTx with
    | none => settle s
    | some x => settle (s.sendFrame p l x)

/-! Receiving (14 R386, R388, R389, 16 R438, R439). -/

/-- The port by which a ferry passes this router without landing, mooring or pool entry (12 R322, R324). -/
def State.transitPort (s : State) (f : Ferry) : Option Nat :=
  let t := ferryTenant f
  if ferryHeaderOk f ∧ !ferryPoison f ∧ !s.pairFrozen (ferryOrig f) t ∧ ferryTarget f ≠ s.node ∧
      (ferryEsc f ∨ ferryOp f 0 = 0x7400) ∧ ferryHops f ≠ ferryBudget f ∧ s.reaches t (ferryTarget f) then
    dimPort (s.extent t) s.node (ferryTarget f)
  else none

def poisoned (f : Ferry) : Ferry := setHdr f 85 1 1

/-- A poisoned ferry: sent on to the next router, which drops it, when it only passes here; else dropped and counted here
(14 R388, R389, 12 R301). -/
def State.givePoisoned (s : State) (port : Nat) (f : Ferry) : State :=
  if (s.transitPort f).isSome then s.route (poisoned f) (some port) 0 else s.takeFerry port (poisoned f)

/-- A ferry of which a flit came in a failed frame is not built (14 R389). -/
def Fabric.barredAt (f : Fabric) (port : Nat) : List Ferry := (look f.barred port).getD []
def State.setBarred (s : State) (port : Nat) (l : List Ferry) : State :=
  s.setFabric { s.fabric with barred := if l = [] then del s.fabric.barred port else put s.fabric.barred port l }

/-- A ferry whose last flit a good frame brings. In skid mode one that passes here goes on at once, by a port in skid mode
too, and every other is kept until its mark arrives (14 R388). DEDUCED, log entry 41. -/
def State.giveFerry (s : State) (port : Nat) (f : Ferry) : State :=
  match takeFirst (sameFerry f) (s.fabric.barredAt port) with
  | some (_, rest) => (s.setBarred port rest).givePoisoned port f
  | none =>
    if !s.skidPort port then s.takeFerry port f
    else
      let wait (via : Option (Nat × Option Nat)) : State := s.setRouter { s.router with marks := s.router.marks ++ [⟨port, f, via⟩] }
      match s.transitPort f with
      | some q => if s.skidPort q then (wait (some (q, none))).route f (some port) 0 else wait none
      | none => wait none

def State.giveFerries (s : State) (port : Nat) : List Ferry → State
  | [] => s
  | f :: rest => State.giveFerries (s.giveFerry port f) port rest

/-- Ferries that a frame that failed in skid mode would have completed. -/
def State.poisonAll (s : State) (port : Nat) : List Ferry → State
  | [] => s
  | f :: rest => State.poisonAll (s.givePoisoned port f) port rest

/-- The next counter that a receiver expects; at 2^40 the direction's new key begins at 0. -/
def State.rollRx (s : State) (port l : Nat) : State :=
  let x := s.link port l
  if x.rxNext + 1 < 2 ^ 40 then s.setLink port l { x with rxNext := x.rxNext + 1 }
  else
    let (k, s) := s.draw
    s.setLink port l { x with rxNext := 0, rxKey := k.setWidth 256 }

/-- Tag failures within one span of 2^20 counters. -/
def recentFails (fails : List Nat) (now : Nat) : List Nat := fails.filter fun c => decide (c ≤ now) && decide (now < c + 2 ^ 20)

/-- A frame that fails: the receiver asks for the expected counter again; a third failure fails the link.
DEDUCED, log entry 41. -/
def State.frameFails (s : State) (port l : Nat) (own : Bool) (fs parts : List Ferry) : State :=
  let x := s.link port l
  let fails := recentFails x.fails x.rxNext ++ [x.rxNext]
  let s := s.signal .retry port l x.rxNext
  let s := s.setLink port l { x with fails := fails, waiting := true, outside := false }
  let lost := if own then (s.poisonAll port fs).setBarred port (s.fabric.barredAt port ++ parts) else s
  let s := if s.skidPort port then lost.rollRx port l else s
  if 3 ≤ fails.length then s.linkFail port l else s

/-- A frame with its counter, the verdict on its tag, the ferries that it completes and those of which it brings a flit but not
the last. What a full mooring holds back does not come in, nor what follows it on its link (12 R330). After a failure every
later frame is discarded until the retry comes, which in skid mode begins behind the counter that failed (16 R438).
DESIGN CHOICE, log entry 40. -/
def execFrameReceive (port : BitVec 3) (link : BitVec 2) (counter : BitVec 64) (tagOk : Bool) (ferries : FrameLoad)
    (s : State) : Result :=
  let p := port.toNat
  let l := link.toNat
  let x := s.link p l
  let mine := decide (counter.toNat = x.rxNext)
  let late := x.waiting && (!mine || (s.skidPort p && !ferries.retry))
  if !x.live ∨ (x.outside ∧ !mine) then settle s
  else if tagOk ∧ mine ∧ !late ∧ ferries.whole.any s.holdsBack then settle (s.setLink p l { x with outside := true })
  else if tagOk ∧ mine ∧ !late then
    let s := (s.setLink p l { x with waiting := false, outside := false }).rollRx p l
    let s := s.giveFerries p ferries.whole
    settle (s.signal .ack p l (s.link p l).rxNext).pump
  else if late then settle s
  else settle (s.frameFails p l mine ferries.whole ferries.parts).pump

/-- A ferry that has not left whole takes POISON where it stands: on a lane, among those that a link has taken over, or half
sent (14 R388, R389). -/
def State.poisonQueued (s : State) (f : Ferry) : State :=
  let hit (g : Ferry) : Ferry := if sameFerry g f then poisoned g else g
  let s := s.setRouter { s.router with lanes := s.router.lanes.map fun (k, l) => (k, l.map hit) }
  s.setFabric { s.fabric with
    resend := s.fabric.resend.map fun (k, l) => (k, l.map hit)
    links := s.fabric.links.map fun (k, x) => (k, { x with current := x.current.map fun (g, l) => (hit g, l) }) }

/-- A skid-mode mark: the ferry that waits for it is released, or takes POISON; behind one that has passed it follows
unchanged (14 R388, 12 R301). -/
def execVerdictMark (port : BitVec 3) (f : Ferry) (bad : Bool) (s : State) : Result :=
  match takeFirst (fun (u : Unmarked) => u.port == port.toNat && u.ferry == f) s.router.marks with
  | none => settle s
  | some (u, rest) =>
    let s := s.setRouter { s.router with marks := rest }
    match u.via with
    | none => settle (if bad then s.givePoisoned u.port f else s.takeFerry u.port f).pump
    | some (q, some l) => settle (s.signal .mark q l bad.toNat)
    | some (_, none) => settle (if bad then s.poisonQueued f else s)

/-- What a port or a system ferry brings to this node (12 R301, R323, R328, R330, 11 R288, 14 R379). -/
def execFerryReceive (port : BitVec 3) (x : Inbound) (s : State) : Result :=
  match x with
  | .ferry f => if 6 ≤ port.toNat ∨ s.holdsBack f then settle s else settle (s.takeFerry port.toNat f).pump
  | .unreachable queue cargo desc0 desc1 => settle (s.takeUnreachable queue ⟨cargo, desc0, desc1⟩).pump
  | .notice r => settle (s.takeNotice r)
  | .peer orig tenant pa len data => settle (s.servePeer orig tenant pa.toNat len.toNat data).pump
  | .atom orig tenant core id again code pa v expected =>
    settle (s.servePeerAtom orig tenant core id again code.toNat pa.toNat v expected).pump
  | .launch orig tenant lid r => settle (s.acceptMember orig tenant.toNat lid r).pump
  | .endLaunch orig tenant lid => settle (s.endMember orig tenant.toNat lid).pump
  | .linkDown link => settle (s.linkDown port.toNat link.toNat).pump

/-- How far a counter lies before another, counters restarting at 2^40. -/
def counterGap (c n : Nat) : Nat := (n + 2 ^ 40 - c) % 2 ^ 40

def isBehind (c n : Nat) : Bool := decide (0 < counterGap c n) && decide (counterGap c n ≤ 2 ^ 39)

def State.resendFrames (s : State) (port l : Nat) (fs : List Frame) : State :=
  { s with out := s.out ++ fs.map fun f => .frame port l f.counter f.body }

/-- Go-back-N from the counter named; in skid mode from the frame after it, which is not sent again (16 R438). -/
def execRetryRequest (port : BitVec 3) (link : BitVec 2) (counter : BitVec 64) (s : State) : Result :=
  let p := port.toNat
  let l := link.toNat
  let x := s.link p l
  let n := counter.toNat
  if !x.live then settle s
  else if s.skidPort p then
    let s := s.setLink p l { x with retry := x.retry.filter fun f => f.counter ≠ n }
    settle (s.resendFrames p l (x.retry.filter fun f => f.counter ≠ n && !isBehind f.counter n))
  else settle (s.resendFrames p l (x.retry.filter fun f => !isBehind f.counter n))

/-- The receiver expects `counter` next: every frame before it leaves the retry buffer. -/
def execLinkAck (port : BitVec 3) (link : BitVec 2) (counter : BitVec 64) (s : State) : Result :=
  let x := s.link port.toNat link.toNat
  settle (s.setLink port.toNat link.toNat { x with retry := x.retry.filter fun f => !isBehind f.counter counter.toNat })

/-- 100 µs without an acknowledgement while frames are outstanding. -/
def execAckTimeout (port : BitVec 3) (link : BitVec 2) (s : State) : Result :=
  let x := s.link port.toNat link.toNat
  if x.live ∧ x.retry ≠ [] then settle (s.linkFail port.toNat link.toNat).pump else settle s

/-! Keys (14 R387). -/

def execRekeyStart (port : BitVec 3) (link : BitVec 2) (s : State) : Result :=
  let p := port.toNat
  let l := link.toNat
  let x := s.link p l
  if x.live ∧ 2 ^ 40 - 2 ^ 32 ≤ x.txNext ∧ !x.rekeying ∧ x.nextTx.isNone then
    settle ((s.setLink p l { x with rekeying := true }).signal .keyUpdate p l x.txNext)
  else settle s

def execRekeyDeadline (port : BitVec 3) (link : BitVec 2) (s : State) : Result :=
  let x := s.link port.toNat link.toNat
  if x.live ∧ x.txNext = 2 ^ 40 ∧ x.nextTx.isNone then settle (s.linkFail port.toNat link.toNat).pump else settle s

/-- The session's secrets give both directions their keys; a link that retrained keeps those it holds, and its retry buffer
resumes. A key update that ends gives the key that follows. -/
def execLinkKeyed (port : BitVec 3) (link : BitVec 2) (ok : Bool) (s : State) : Result :=
  let p := port.toNat
  let l := link.toNat
  let x := s.link p l
  if x.st = .keying then
    if !ok then settle (s.linkFail p l).pump
    else
      let before := s.deadPort p
      let live := if x.width = 4 then LinkState.up else .degraded
      if x.keyed then settle ((s.setLink p l { x with st := live }).resendFrames p l x.retry)
      else
        let (a, s) := s.draw
        let (b, s) := s.draw
        settle ((s.setLink p l { x with
          st := live, keyed := true, txKey := a.setWidth 256, rxKey := b.setWidth 256, txNext := 0, rxNext := 0 }).floodIf p before)
  else if x.live ∧ x.rekeying then
    if ok then
      let (a, s) := s.draw
      settle (s.setLink p l { x with rekeying := false, nextTx := some (a.setWidth 256) })
    else settle s
  else settle s

/-! Lanes and training (16 R443). -/

def laneCount (m : BitVec 4) : Nat := ([0, 1, 2, 3].filter fun k => m.getLsbD k).length

/-- The largest power of two of good lanes. -/
def trainWidth (m : BitVec 4) : Nat := if 4 ≤ laneCount m then 4 else if 2 ≤ laneCount m then 2 else laneCount m

def execLaneFault (port : BitVec 3) (link : BitVec 2) (lane : BitVec 2) (s : State) : Result :=
  let p := port.toNat
  let l := link.toNat
  let x := s.link p l
  if !x.live ∨ !x.lanes.getLsbD lane.toNat then settle s
  else
    let id := linkIdOf s.node p l
    let good := x.lanes &&& ~~~(1#4 <<< lane.toNat)
    let s := s.logTo 64 12 16 (id / 2 ^ 17) 1 id
    let s := s.setLink p l { x with lanes := good }
    if good = 0 then settle (s.linkFail p l).pump
    else settle (s.setLink p l { x with lanes := good, st := .training, width := trainWidth good, attempts := 0 })

/-- A link with no good lane fails (16 R443). DEDUCED, log entry 41. -/
def execLinkTrainDone (port : BitVec 3) (link : BitVec 2) (ok : Bool) (s : State) : Result :=
  let p := port.toNat
  let l := link.toNat
  let x := s.link p l
  if x.st ≠ .training then settle s
  else if x.lanes = 0 then settle (s.linkFail p l).pump
  else if ok then settle (s.setLink p l { x with st := .keying, width := trainWidth x.lanes, attempts := 0 })
  else if x.attempts + 1 < 3 then settle (s.setLink p l { x with attempts := x.attempts + 1 })
  else settle (s.linkFail p l).pump

end Sys2Proof.Machine
end

