-- ==== Sys2Proof/Machine/Repair.lean ====
section
/-! DEFINITION. Memory errors found by the scrubs, remaps and row replacement (07 R195, R197, 16 R441, R442), and the self-test
of a control pair (16 R436). -/

namespace Sys2Proof.Machine

/-! Times of corrections (16 R442). -/

/-- 24 hours in ns. -/
def day : Nat := 86400000000000

def State.setDevice (s : State) (d : Device) : State := { s with device := d }

/-- A correction of a word or row noted; the answer is how many fell within 24 hours. DEDUCED, log entry 60. -/
def State.noteCorrection (s : State) (key : Nat) : Nat × State :=
  let now := s.time.toNat
  let times := ((look s.device.corrected key).getD []).filter (fun t => decide (now < t + day)) ++ [now]
  (times.length, s.setDevice { s.device with corrected := put s.device.corrected key times })

/-- A word of a slice, known by `key`, remapped to a spare; once the spares are used, one entry of kind 7 says so. -/
def State.remap (s : State) (core key a : Nat) : State :=
  let d := s.device
  let used := (look d.spares core).getD 0
  if used < 65536 then
    (s.setDevice { d with
      spares := put d.spares core (used + 1), remaps := d.remaps ++ [key], corrected := del d.corrected key }).logMem 6 1 a
  else if used = 65536 then (s.setDevice { d with spares := put d.spares core (used + 1) }).logMem 7 1 a
  else s

/-- A word of a slice corrected: logged with its address, and remapped the second time within a day (16 R442). -/
def State.correctedWord (s : State) (core key a : Nat) : State :=
  let (k, s) := (s.logMem 1 1 a).noteCorrection key
  if 2 ≤ k then s.remap core key a else s

/-! Uncorrectable errors (07 R195, R197). -/

/-- Data bits as the bad read found them: open, and outside every record. -/
def State.corrupt (s : State) (a n : Nat) : State :=
  let (w, s) := s.draw
  { s with mem := Mem.writeBytes s.mem a (drawBytes w 0 n) }

/-- Erasure repair of the containers of a range (06 R165); a scrub raises nothing in a program. -/
def State.repairCells (s : State) (t : Nat) (a : Nat) : Nat → State
  | 0 => s
  | n + 1 =>
    let i := (a - t) / 256
    let j := (a - t) % 256 / 4
    State.repairCells (if s.badCell t i j then { s.repairAll t [(i, j)] with raised := s.raised } else s) t (a + 4) n

def State.tryErasure (s : State) (a n : Nat) : State :=
  match s.sealedTile a with
  | some t => if (s.latOf t).broken then s else s.repairCells t a (n / 4)
  | none => s

/-- The LMS and offset that a slice word is the base of, on the core that holds it. -/
def State.lmsOf (s : State) (core off : Nat) : Option (BitVec 12 × Nat) :=
  match (s.core core).ltt.toList.find? fun e => Ltt.kind e == 2 && Ltt.coversOff e off with
  | none => none
  | some e => ((s.core core).log.declOf (Ltt.lmsid e)).map fun d => (d.id, Ltt.vbase e + (off - Ltt.soff e) - d.base.toNat)

/-- A word of the view index belongs to some entry: which, and that all its bytes are lost, is open, since the spec does not
lay the entries out. DESIGN CHOICE, log entry 60. -/
def State.spoilView (s : State) (core off : Nat) : State :=
  let k := s.core core
  if k.lmsDecls ≠ [] ∧ k.log.viewOff ≤ off ∧ off < k.log.viewOff + 0x80000 then
    match s.choose k.log.view with
    | (some e, s) =>
      let view := k.log.view.map fun x => if x = e then { x with bad := x.mask } else x
      s.setCore core { s.core core with log := { k.log with view := view } }
    | (none, s) => s
  else s

/-- A word of a slice with an uncorrectable error: poisoned, then repaired in a sealed tile, or rebuilt in an LMS base
(07 R195, 16 R441). -/
def State.lostWord (s : State) (core off : Nat) : State :=
  let a := sliceBase core + off
  let s := (((s.corrupt a 4).mark a).logMem 2 1 a).tryErasure a 4
  match s.lmsOf core off with
  | some (lms, at') => s.rebuildWords core lms [at' / 4]
  | none => s.spoilView core off

/-- A word of a tile's record, row sum i as i and column sum j as 64 + j, poisoned with open bits (07 R195). -/
def State.loseSum (s : State) (t word : Nat) : State :=
  let (w, s) := s.draw
  let r := s.latOf t
  let r := if word < 64 then { r with rsum := setLane r.rsum word (w.setWidth 32) }
    else { r with csum := setLane r.csum (word - 64) (w.setWidth 32) }
  s.setLat t { r with bad := if r.bad.contains word then r.bad else r.bad ++ [word] }

/-- A side-band word of a slice. -/
def State.lostSum (s : State) (t word : Nat) : State := (s.loseSum t word).logMem 2 1 t

/-- Whether an HBM address lies in a lattice pool: the top of the highest-numbered granules that a partition owns in the stack
(06 R160, 14 R376). DEDUCED, log entry 92. -/
def Part.inPool (p : Part) (a : Nat) : Bool :=
  let d := a / 0x1000000000
  let above := (List.range 64).filter fun k => decide (a / 0x40000000 < 64 * d + k) && Part.ownsHbm p ((64 * d + k) * 0x40000000)
  isHbm a && Part.ownsHbm p a && decide ((above.length + 1) * 0x40000000 - a % 0x40000000 ≤ Part.lpool p d * 0x4000000)

/-- A granule of a lattice pool with an uncorrectable error: eight words of the record that stands there are lost (06 R158, 16
R441). Which record that is, is open. DESIGN CHOICE, log entry 92. -/
def State.lostPool (s : State) (p : Part) (a : Nat) : State :=
  let mine := s.lat.filter fun (t, _) => isHbm t && decide (t / 0x1000000000 = a / 0x1000000000) && Part.ownsHbm p t
  match s.choose (mine.map (·.1)) with
  | (some t, s) => (List.range 8).foldl (fun s k => s.loseSum t (8 * (a / 32 % 16) + k)) s
  | (none, s) => s

/-- A number put into a rising list. -/
def insertUp (n : Nat) : List Nat → List Nat
  | [] => [n]
  | m :: rest => if n < m then n :: m :: rest else if n = m then m :: rest else m :: insertUp n rest

/-- An accumulator container poisoned, with open bits (07 R195). -/
def State.lostAcc (s : State) (core tile i j : Nat) : State :=
  let (w, s) := s.draw
  let k := s.core core
  let lose (x : Tile) : Tile :=
    { x with
      rows := vmod x.rows i fun r => setLane r j (w.setWidth 32)
      bad := insertUp (64 * i + j) x.bad, good := del x.good (64 * i + j) }
  (s.setCore core { k with tiles := vmod k.tiles tile lose }).logAcc 2 core

/-- A word of a core's memories as the patrol scrub, or an access, reads it; a scrub acts for no program (07 R195, 16 R441,
R442). DEDUCED, log entry 60. -/
def execSliceScrub (core : BitVec 9) (word : ScrubWord) (err : MemError) (s : State) : Result :=
  let n := core.toNat
  let t := s.actAlone
  match err, word with
  | .clean, _ => settle s
  | .single, .slice w => settle (s.correctedWord n (sliceBase n + 4 * w.toNat) (sliceBase n + 4 * w.toNat))
  | .single, .record tile w => settle
    (s.correctedWord n (2 ^ 50 + sliceBase n + 4 * (4194304 + 128 * tile.toNat + w.toNat)) (sliceBase n + 16384 * tile.toNat))
  | .single, .acc .. => settle (s.logAcc 1 n)
  | .uncorrectable, .slice w => settle (t.lostWord n (4 * w.toNat))
  | .uncorrectable, .record tile w => settle (t.lostSum (sliceBase n + 16384 * tile.toNat) w.toNat)
  | .uncorrectable, .acc tile i j => settle (t.lostAcc n tile.toNat i.toNat j.toNat)

/-- A granule as its base die's daily scrub reads it. DEDUCED, log entry 60. -/
def execHbmScrub (granule : BitVec 34) (err : MemError) (s : State) : Result :=
  let a := 32 * granule.toNat
  match err with
  | .clean => settle s
  | .single =>
    let (k, s) := (s.logMem 3 1 a).noteCorrection (2 ^ 48 + Config.hbmRow a)
    settle (if 16 ≤ k then s.rowDue a else s)
  | .uncorrectable =>
    match s.parts.find? fun x => Part.state x.2 ≠ 0 ∧ Part.inPool x.2 a with
    | some (_, p) => settle (((s.actAlone.lostPool p a).logMem 4 1 a).rowDue a)
    | none =>
      let s := ((s.actAlone.corrupt a 32).mark a).logMem 4 1 a
      settle ((s.tryErasure a 32).rowDue a)

/-- 16 R442: at a refresh window a row that is due is replaced, its contents and its poison kept; without a spare row the
entry has COUNT 0. -/
def execHbmRowSpare (granule : BitVec 34) (spareLeft : Bool) (s : State) : Result :=
  let a := 32 * granule.toNat
  let row := Config.hbmRow a
  if s.device.due.contains row then
    let s := s.setDevice { s.device with due := s.device.due.filter (· ≠ row), corrected := del s.device.corrected (2 ^ 48 + row) }
    settle (s.logMem 8 spareLeft.toNat a)
  else settle s

/-! The self-test (16 R436). -/

/-- Tasks that a mismatch has halted go on; frozen, saved and nested ones stay. -/
def State.wakeCtxs (s : State) (core : Nat) : List (BitVec 2) → State
  | [] => s
  | i :: rest =>
    let c := s.ctxAt core i
    State.wakeCtxs (if c.st = .halted ∧ !c.frozen ∧ !c.saved ∧ !c.nested then s.setCtxAt core i { c with st := .ready } else s) core rest

def State.wakeCores (s : State) : List Nat → State
  | [] => s
  | n :: rest => State.wakeCores (s.wakeCtxs n allCtxs) rest

/-- Assists that no pair will run any more stop. -/
def Context.dropAssists (c : Context) : Context :=
  { c with mtx := { c.mtx with cmds := c.mtx.cmds.map fun p => if p.phase = .assist then { p with phase := .stopped } else p } }

def State.clusterTasks (s : State) (cluster : Nat) : List (Nat × BitVec 2 × Task) :=
  (clusterCores cluster).flatMap fun n => allCtxs.filterMap fun i => (s.ctxAt n i).task.map fun t => (n, i, t)

def State.dropAll (s : State) : List (Nat × BitVec 2 × Task) → State
  | [] => s
  | (n, i, _) :: rest => State.dropAll (s.setCtxAt n i (s.ctxAt n i).dropAssists) rest

/-- A cluster whose pair fails its self-test is retired, and its tasks end. -/
def State.retireCluster (s : State) (cluster : Nat) : State :=
  let s := s.setDevice { s.device with retired := s.device.retired ++ [cluster] }
  let ts := s.clusterTasks cluster
  let s := (s.dropAll ts).killAll ts
  s.dropParked (s.parked.filter fun x => x.num / 32 = cluster)

/-- The replies that the pair of a cluster has held are handled. -/
def State.handleHeld (s : State) : List Word → State
  | [] => s
  | r :: rest => State.handleHeld (s.faultReply r) rest

/-- The pair is reset, what it has held starts again, and the tasks go on; or the cluster is retired (16 R436). -/
def execLockstepSelftest (cluster : BitVec 6) (pass : Bool) (s : State) : Result :=
  let n := cluster.toNat
  if !s.device.halts.contains n then settle s
  else
    let held := s.device.held
    let s := s.setDevice { s.device with halts := s.device.halts.filter (· ≠ n), held := [] }
    if pass then
      settle (({ s with cores := s.cores.filter fun x => x.1 ≠ 512 + n ∧ x.1 ≠ 576 + n }.wakeCores (clusterCores n)).handleHeld held)
    else settle ((s.retireCluster n).handleHeld held)

end Sys2Proof.Machine
end

