-- ==== Sys2Proof/Machine/Start.lean ====
section
/-! DEFINITION. Start-up and minimal mode (14 R390, R394, 16 R446, R447), clocks and the thermal stop (18 R469), and what a
stopped device or one in minimal mode does (16 R447). -/

namespace Sys2Proof.Machine

/-! Measurement (14 R390). -/

/-- `slot i := SHA-384(slot i ‖ x)`. -/
def Device.extend (d : Device) (i : Nat) (x : BitVec 384) : Device :=
  { d with slots := vmod d.slots i fun old => Config.sha384 (leBytes old.toNat 48 ++ leBytes x.toNat 48) }

def Device.extendAll (d : Device) (i : Nat) : List (BitVec 384) → Device
  | [] => d
  | x :: rest => Device.extendAll (d.extend i x) i rest

def State.extend (s : State) (i : Nat) (x : BitVec 384) : State := s.setDevice (s.device.extend i x)

def State.drawDigests (s : State) : Nat → List (BitVec 384) × State
  | 0 => ([], s)
  | n + 1 =>
    let (w, s) := s.draw
    let (rest, s) := State.drawDigests s n
    (w.setWidth 384 :: rest, s)

/-- The digests of firmware `i`: of the loaded image, or what the shipped one measures. -/
def State.firmwareDigests (s : State) (i n : Nat) : List (BitVec 384) × State :=
  match look s.device.firmware i with
  | some b => (List.replicate n (Config.sha384 b), s)
  | none => s.drawDigests n

def State.measure (s : State) (i n : Nat) : State :=
  let (xs, s) := s.firmwareDigests i n
  s.setDevice (s.device.extendAll i xs)

/-- The same with the digest that the measuring stage reports for an image the device was shipped with. -/
def State.measureAs (s : State) (i : Nat) (x : BitVec 384) : State :=
  match look s.device.firmware i with
  | some b => s.extend i (Config.sha384 b)
  | none => s.extend i x

/-! A start (16 R446, R447). -/

/-- What the non-volatile store keeps: start counts, GEN, owner's key, lifecycle state (DEBUG ends), fuses, firmware, and the
error log. DEDUCED, log entry 10. -/
def Device.atStart (d : Device) : Device :=
  { Device.reset with
    reason := d.reason, fails := d.fails, gen := d.gen, owner := d.owner, lcs := if d.lcs = 2 then 1 else d.lcs, fuses := d.fuses
    firmware := d.staged.foldl (fun l x => put l x.1 x.2) d.firmware, rings := d.rings }

/-- The device at the beginning of a start: everything volatile as after reset. DEDUCED, log entry 10. -/
def State.beginStart (s : State) : State :=
  { State.reset with agenda := s.agenda, out := s.out, draws := s.draws, node := s.node, device := s.device.atStart }

/-- Minimal mode: nothing but the device itself goes on; no launch, ferry or partition is left (16 R447). -/
def State.enterMinimal (s : State) : State :=
  { State.reset with
    agenda := s.agenda, out := s.out, draws := s.draws, node := s.node, device := { s.device with minimal := true, running := [] } }

/-- A cold reset: a start begins, or minimal mode where three have failed; a device that a fault has stopped records reason
10 (18 R469). DEDUCED, log entry 10. -/
def execColdReset (s : State) : Result :=
  let s := if s.device.tripped then s.setDevice { s.device with reason := 10 } else s
  let s := s.beginStart
  settle (if 3 ≤ s.device.fails then s.enterMinimal else s)

/-- A failed start: counted and logged, then another start or minimal mode. -/
def State.startFails (s : State) (reason : Nat) : State :=
  let s := s.setDevice { s.device with fails := s.device.fails + 1, reason := reason }
  let s := s.logDevice 14 16 0 1 0
  if 3 ≤ s.device.fails then s.enterMinimal else s.beginStart

/-- The reasons that a stage may give (16 R446). -/
def stageReasons (stage : Nat) : List Nat :=
  match stage with
  | 0 => [1, 8, 10]
  | 1 => [2, 3, 4, 8, 10]
  | 2 => [5, 6, 8, 10]
  | 3 => [7, 8, 9, 10]
  | 4 => [8, 10, 11]
  | 5 => [10]
  | _ => []

/-- A start is under way. -/
def Device.starting (d : Device) : Bool := !d.minimal && !d.stopped && decide (d.stage < 6)

def execStartStageTimeout (reason : BitVec 8) (s : State) : Result :=
  if s.device.starting ∧ (stageReasons s.device.stage).contains reason.toNat then settle (s.startFails reason.toNat) else settle s

/-- Every link that is down begins to train. DEDUCED, log entry 56. -/
def Fabric.trainPort (f : Fabric) (port : Nat) : Fabric :=
  { f with links := [0, 1, 2, 3].foldl (fun l k =>
      let x := f.link port k
      if x.st = .down then put l (4 * port + k) { x with st := .training, attempts := 0, width := trainWidth x.lanes } else l) f.links }

/-- The slice test: every word found faulty is remapped to a spare (07 R192); which words are is open. -/
def State.sliceTest (s : State) : State :=
  (Config.faultyWords s.draws).foldl (fun s (x : BitVec 9 × BitVec 22) =>
    let a := sliceBase x.1.toNat + 4 * x.2.toNat
    s.remap x.1.toNat a a) { s with draws := s.draws + 1 }

/-- The self-test of every control pair: each starts from reset, and none stands halted or retired (16 R436, R446). -/
def State.pairTest (s : State) : State :=
  { s with
    cores := s.cores.filter fun x => x.1 < 512
    device := { s.device with halts := [], retired := [], held := [] } }

/-- The work of a stage as it ends: what it has measured, the lifecycle state and the fuse count with the first of it
(14 R390, R394), the slice test, the self-tests, and the ports it enables. DEDUCED, log entry 56. -/
def State.stageWork (s : State) (digest : BitVec 384) : State :=
  match s.device.stage with
  | 0 => (s.measureAs 0 digest).extend 4 (Config.lifecycleDigest s.device.lcs s.device.fuses)
  | 1 => ((s.measureAs 1 digest).measure 2 1).measure 3 8
  | 2 => s.sliceTest
  | 3 => s.pairTest
  | 4 => s.setFabric ([0, 1, 2, 3, 4, 5].foldl Fabric.trainPort s.fabric)
  | _ => s

def execStartStageDone (digest : BitVec 384) (s : State) : Result :=
  if s.device.starting then
    let s := s.stageWork digest
    let d := s.device
    let d := { d with stage := d.stage + 1 }
    settle (s.setDevice (if d.stage = 6 then { d with fails := 0, gen := d.gen + 1 } else d))
  else settle s

/-! Clocks and heat (18 R469). -/

/-- A step of 100 MHz down or up; nothing but wall time changes. DESIGN CHOICE, log entry 22. -/
def execClockThrottle (down : Bool) (s : State) : Result :=
  settle (s.setDevice { s.device with throttle := if down then s.device.throttle + 1 else s.device.throttle - 1 })

/-- The device stops; during a start it is that start's failure. -/
def execThermalTrip (s : State) : Result :=
  if s.device.starting then settle (s.startFails 10) else settle (s.setDevice { s.device with stopped := true, tripped := true })

/-! What still happens in minimal mode (16 R447). -/

/-- DEDUCED, log entry 57. -/
def State.admits (s : State) (i : Instr) : Bool :=
  !s.device.minimal ||
    (match i with
     | .coldReset => true
     | .thermalTrip => true
     | .clockThrottle _ => true
     | .statusTimeUpdate _ => true
     | .ptpMessage _ => true
     | .mgmtLinkLoss => true
     | .bar0WriteDiscarded _ _ => true
     | .partWrite .. => true
     | .freezeClear .. => true
     | .elogRead .. => true
     | .portEnable .. => true
     | .linkReset .. => true
     | .imageLoad .. => true
     | .minimalClear _ => true
     | .partSwapOut .. => true
     | .partSwapIn .. => true
     | .partDestroy .. => true
     | .ownerSet .. => true
     | .keyLoad .. => true
     | .getVersion => true
     | .getCapabilities => true
     | .negotiateAlgorithms _ => true
     | .getDigests => true
     | .getCertificate _ => true
     | .challenge .. => true
     | .getMeasurements _ => true
     | .keyExchange .. => true
     | .finish .. => true
     | .keyUpdate _ => true
     | .endSession _ => true
     | .getEncapsulatedRequest _ => true
     | .deliverEncapsulatedResponse .. => true
     | .spdmUnsupported _ => true
     | .doeUnsupported _ => true
     | .debugNonce _ => true
     | .debugToken _ => true
     | .mgmtRequestReject .. => true
     | _ => false)

/-- A stopped device waits for a cold reset; in minimal mode every other move is without effect.
DESIGN CHOICE, log entry 2. DEDUCED, log entry 57. -/
def State.gatedMove (run : Instr → State → Result) (s : State) : Result :=
  match s.agenda with
  | .event i :: rest =>
    if (s.device.stopped && i != .coldReset) || !s.admits i then settle { s with agenda := rest } else s.move run
  | .issue _ :: rest => if s.device.stopped then settle { s with agenda := rest } else s.move run
  | [] => if s.device.stopped then settle s else s.move run

end Sys2Proof.Machine
end

