-- ==== Sys2Proof/Machine/Mgmt.lean ====
section
/-! DEFINITION. Management commands (18 R466) with what they do: partition writes, zeroing, swaps and destruction
(14 R375-R378), freezes (R383), the key store (R391, R392), the error log (16 R440), ports and images. -/

namespace Sys2Proof.Machine

/-! Requests and responses (18 R466). -/

def mgOK : Nat := 0
def mgREFUSED : Nat := 1
def mgDENIED : Nat := 2
def mgBADFORM : Nat := 3
def mgBUSY : Nat := 4

/-- A response: its line, with result operands from byte 16 on, then its payload. DESIGN CHOICE, log entry 53. -/
def response (opc status : Nat) (tag : Word) (results : Word) (payload : List Byte) : List Byte :=
  leBytes opc 2 ++ leBytes status 1 ++ zeros 1 ++ leBytes payload.length 4 ++ leBytes tag.toNat 8 ++ leBytes results.toNat 8 ++
    zeros 40 ++ payload

/-! The management mailbox of BAR0 (18 R463, R466). -/

/-- GO: a command of BAR0 runs. -/
def Device.go (d : Device) : Bool := d.ctl.getLsbD 31

/-- A message over the mailbox's bytes from byte 8 on. -/
def overlay (bs old : List Byte) : List Byte := bs ++ old.drop bs.length

/-- A request as the host has written it: its secured message, then CTL with its length and GO. -/
def State.posted (s : State) (r : MgmtReq) : State :=
  if r.port then s
  else s.setDevice { s.device with mail := overlay r.msg s.device.mail, ctl := BitVec.ofNat 32 (2 ^ 31 + r.msg.length % 8192) }

/-- The secured message of a plaintext, of 1 to 8,184 bytes: what its protection makes of it is open. -/
def State.secure (s : State) (plain : List Byte) : List Byte × State :=
  let b := Config.secured s.draws plain
  ((b.headD 0 :: b.drop 1).take 8184, { s with draws := s.draws + 1 })

/-- The response stands in the mailbox: then CTL with its length, GO and the transport status 0. DESIGN CHOICE, log entry 53. -/
def State.mailed (s : State) (plain : List Byte) : State :=
  let (b, s) := s.secure plain
  s.setDevice { s.device with mail := overlay b s.device.mail, ctl := BitVec.ofNat 32 b.length }

/-- DESIGN CHOICE, log entry 53. -/
def State.respond (s : State) (port : Bool) (opc status : Nat) (tag results : Word) (payload : List Byte) : State :=
  let plain := response opc status tag results payload
  let s := { s with out := s.out ++ [.mgmt port plain] }
  if port then s else s.mailed plain

/-- A request that no session carries: nothing is written but the transport status of BAR0. -/
def State.transport (s : State) (port : Bool) (status : Nat) : State :=
  if port then s else s.setDevice { s.device with ctl := BitVec.ofNat 32 (status * 2 ^ 16) }

def State.session (s : State) (id : BitVec 32) : Option Session := s.device.sessions.find? fun x => x.id = id ∧ x.done

/-- A session authenticated by the owner's key (14 R392). -/
def Device.ownerSession (d : Device) (x : Session) : Bool := x.authed && x.leaf.isSome && x.leaf == d.owner

/-- What a command answers: status, result operands, payload. -/
structure Answer where
  status  : Nat
  results : Word
  payload : List Byte
deriving DecidableEq, Repr

def Answer.of (status : Nat) : Answer := ⟨status, 0, []⟩

/-- A route whose command still runs. -/
def State.routeBusy (s : State) (port : Bool) : Bool := s.device.running.any fun q => q.port == port

/-- A write of CTL while GO is 1 is discarded, so that no request comes by BAR0 then (18 R466). DEDUCED, log entry 53. -/
def State.turnsAway (s : State) (r : MgmtReq) : Bool := !r.port && s.device.go

/-- A command of a session: BUSY, DENIED, BADFORM and its own rule, in this order; `none` answers later, GO standing until then.
DEDUCED, log entry 52. -/
def command (opc : Nat) (r : MgmtReq) (allowed : State → Session → Bool) (form : Bool) (act : State → Option Answer × State) (s : State) :
    Result :=
  if s.turnsAway r then settle s
  else match s.session r.session with
  | none => settle ((s.posted r).transport r.port 1)
  | some x =>
    let s := s.posted r
    let say (s : State) (a : Answer) : Result := settle (s.respond r.port opc a.status r.tag a.results a.payload)
    if s.routeBusy r.port then say s (.of mgBUSY)
    else if (s.device.minimal && !(opc == 3 || opc == 6 || opc == 7)) || !allowed s x then say s (.of mgDENIED)
    else if !form then say s (.of mgBADFORM)
    else match act s with
      | (some a, s) => say s a
      | (none, s) => settle s

def owned (s : State) (x : Session) : Bool := s.device.ownerSession x

/-- Codes that are not a command of the owner's: OWNER_SET, and those of no command. -/
def anySession (opc : Nat) : Bool := opc == 0 || decide (11 ≤ opc) && opc != 12

/-- A request that no command runs: transport errors; a code without a command, or a command's operand out of range; and a route
that is busy. DEDUCED, log entry 52. -/
def execMgmtRequestReject (r : MgmtReq) (opc : BitVec 16) (kind : RejectKind) (s : State) : Result :=
  let lost (code : Nat) : Result := settle (if s.turnsAway r then s else (s.posted r).transport r.port code)
  match kind with
  | .noSession => lost 1
  | .badTag => lost 2
  | .badLen => lost 3
  | .badForm => command opc.toNat r (fun s x => anySession opc.toNat || owned s x) false (fun s => (none, s)) s
  | .busy =>
    settle (if s.turnsAway r ∨ !s.routeBusy r.port then s
      else { s with out := s.out ++ [.mgmt r.port (response opc.toNat mgBUSY r.tag 0 [])] })

/-! Zeroing (14 R378). -/

def Part.ownsPa (p : Part) (a : Nat) : Bool :=
  (isSlice a && Part.ownsCore p (sliceCore a)) || (isIstore a && Part.ownsCore p (istoreCore a)) || (isHbm a && Part.ownsHbm p a)

/-- Stores, queues and banks of a core as zeroed; its context registers are those of no task. -/
def Core.zeroed (k : Core) : Core :=
  { k with
    ctxs := Vector.replicate 4 Context.reset, fis := 0, fences := [], tiles := Vector.replicate 16 Tile.zero, xpose := Tile.zero
    xf := 0, xg := 0, xowner := none, log := { Log.reset with logc := k.log.logc, logx := k.log.logx }, nt := []
    dqs := Vector.replicate 8 DeliveryQueue.empty, image := none }

def State.zeroCores (s : State) (p : Part) : State :=
  { s with cores := s.cores.map fun (n, k) => (n, if Part.ownsCore p n then k.zeroed else k) }

def State.zeroMemory (s : State) (p : Part) : State :=
  { s with
    mem := s.mem.filter fun c => !Part.ownsPa p c.1
    poison := s.poison.filter fun c => !Part.ownsPa p c.1
    lat := s.lat.filter fun c => !Part.ownsPa p c.1 }

/-- The landing store of a tenant: window words, node counters, combine slots. -/
def State.zeroLanding (s : State) (p : Part) : State :=
  s.setRouter { s.router with
    win := s.router.win.filter fun w => !(decide (Part.wbase p ≤ w.1) && decide (w.1 < Part.wbase p + Part.wsize p))
    ctrs := s.router.ctrs.filter fun c => c.1 / 16 ≠ Part.tenant p
    slots := s.router.slots.filter fun x => x.2.tenant.toNat ≠ Part.tenant p }

def State.zeroPart (s : State) (p : Part) : State := ((s.zeroCores p).zeroMemory p).zeroLanding p

/-- A tenant-wide freeze takes the lowest free entry once one frees (14 R382). -/
def State.settlePairs (s : State) : State :=
  (s.pairs.filter fun x => 256 ≤ x.1).foldl (fun s (k, e) =>
    let j := firstFree s.pairs 256 0
    if j < 256 then { s with pairs := put (del s.pairs k) j e } else s) s

/-- Whether a sweep is a partition's. -/
def State.sweepOf (s : State) (n id : Nat) : Bool := (look s.sweeps id).any fun x => x.part == n

/-- The end of a partition: its translations go (log entry 22), and what is left of its launches, ferries, sweeps and counts,
its resources are zeroed, and its entry is FREE (14 R377, R378). -/
def State.freePart (s : State) (n : Nat) : State :=
  let p := s.part n
  let t := Part.tenant p
  let s := s.zeroPart p
  let r := s.router
  let s := (s.setRouter { r with
    stuck := r.stuck.filter fun m => ferryTenant m.ferry ≠ t
    copies := r.copies.filter fun f => ferryTenant f ≠ t
    records := r.records.filter fun x => !Part.ownsCore p (x.queue / 8) }).dropMoored
      (r.moor.filter fun m => ferryTenant m.ferry ≠ t)
  let s := s.dropPart n
  let keep (x : Nat × List Intake) : Nat × List Intake := (x.1, x.2.filter fun y => !s.sweepOf n y.id)
  { s with
    parts := del s.parts n
    launches := s.launches.filter fun l => l.part ≠ n
    compl := s.compl.filter fun c => match c.launch with
      | some (q, _) => decide (q ≠ n)
      | none => true
    parked := s.parked.filter fun x => !Part.ownsCore p (x.num / 4)
    freezes := s.freezes.filter fun f => !Part.ownsCore p (f.1 / 4)
    pairs := s.pairs.filter fun f => f.2.tenant.toNat ≠ t
    sweeps := s.sweeps.filter fun x => x.2.part ≠ n
    bufs := s.bufs.filter fun b => !s.sweepOf n b.id
    intake := s.intake.map keep
    lids := del s.lids n
    pc := del s.pc n
    events := s.events.filter fun x => x.1 / 16 ≠ n
    tlbi := del s.tlbi n }.settlePairs

/-! Partition writes (14 R375, R376). -/

def Part.zeroFields : List (Nat × Nat) :=
  [(5, 11), (28, 4), (37, 27), (64, 12), (112, 16), (158, 34), (236, 20), (263, 9), (287, 33), (608, 416)]

/-- Zero fields and ranges of an entry. -/
def Part.formOk (p : Part) : Bool :=
  Part.zeroFields.all (fun (lo, n) => p.f lo n == 0) && decide (1 ≤ p.tenant) && decide (p.lemin ≤ 24) && decide (p.wsize ≤ 1048576) &&
    decide (p.poolMax ≤ 16384) && [0, 1, 2].all fun a => decide (1 ≤ p.extent a) && decide (p.extent a ≤ 32)

/-- Whether two entries hold a core, granule, sweep id, tenant id or window word together. -/
def Part.meets (p q : Part) : Bool :=
  decide (p.f 1024 1024 &&& q.f 1024 1024 ≠ 0) || p.swmask &&& q.swmask != 0 || p.tenant == q.tenant ||
    (decide (p.wsize ≠ 0) && decide (q.wsize ≠ 0) && rangesMeet p.wbase p.wsize q.wbase q.wsize)

/-- Owned granules of stack d. -/
def Part.granules (p : Part) (d : Nat) : Nat := ((List.range 64).filter fun g => p.getLsbD (1536 + 64 * d + g)).length

/-- The pools of each stack lie within its granules, and so does the page table's root. -/
def Part.poolsFit (p : Part) : Bool :=
  Part.ownsHbm p p.ptroot &&
    (List.range 8).all fun d => decide (p.lpool d * 64 + p.spool d ≤ p.granules d * 1024)

/-- Every IKEY index names an occupied slot of the key store, or none. -/
def State.keysExist (s : State) (p : Part) : Bool :=
  [0, 1, 2, 3].all fun i => p.ikey i == 255 || (look s.device.keys (p.ikey i)).isSome

/-- With SWAP = 1, no core of the partition holds a 16 MiB locked entry. The other half of that row of 14 R376, a prototype
that needs a save region, has no case: nothing in a prototype asks for one. DEDUCED, log entry 52. -/
def State.noWhole (s : State) (p : Part) : Bool :=
  !Part.swap p || s.cores.all fun (n, k) => !Part.ownsCore p n || !(k.ltt.toList.any fun e => Ltt.v e && decide (Ltt.size e = 24))

/-- Whether a FREE entry may become ACTIVE with these fields. -/
def State.partOk (s : State) (p : Part) : Bool :=
  let others := (s.parts.filter fun x => Part.state x.2 ≠ 0).map (·.2)
  p.formOk && others.all (fun q => !p.meets q) &&
    decide ((others.map Part.lemin).foldl (· + ·) p.lemin ≤ 24) && decide ((others.map Part.poolMax).foldl (· + ·) p.poolMax ≤ 16384) &&
    decide (p.wbase + p.wsize ≤ 4194304) && p.poolsFit && s.keysExist p && s.noWhole p

/-- The bits of LMASK, IKEY, SIGNREQ and FMBOX. -/
def Part.writable : Part :=
  BitVec.ofNat 2048 (2 ^ 3 + (2 ^ 12 - 1) * 2 ^ 146 + (2 ^ 16 - 1) * 2 ^ 256 + (2 ^ 32 - 1) * 2 ^ 576)

/-- A write to one entry; what it answers and the state after. DEDUCED, log entry 52. -/
def State.partWrite (s : State) (n : Nat) (image : List Byte) : Option Answer × State :=
  let p : Part := BitVec.ofNat 2048 (ofLE image)
  let old := s.part n
  let ok := match Part.state old with
    | 0 => decide (Part.state p = 1) && decide (s.device.stage = 6) && s.partOk p
    | 1 => (p &&& ~~~Part.writable == old &&& ~~~Part.writable) && p.formOk && s.keysExist p
    | _ => false
  if ok then
    let s := if Part.state old = 0 then (s.zeroPart p).dropPart n else s
    (some (.of mgOK), ({ s with parts := put s.parts n p }).extend 5 (Config.sha384 image))
  else (some (.of mgREFUSED), s)

def execPartWrite (r : MgmtReq) (entry : BitVec 16) (image : List Byte) (s : State) : Result :=
  command 1 r owned (decide (entry.toNat < 64) && decide (image.length = 256)) (fun s => s.partWrite entry.toNat image) s

/-! Freezes (14 R382, R383, 15 R406). -/

/-- Ferries moored FROZEN whose pair is frozen no longer. -/
def State.thawed (s : State) (t : Nat) : List Moored :=
  (s.router.moor ++ s.router.stuck).filter fun m => m.code = 19 && ferryTenant m.ferry == t && !s.pairFrozen (ferryOrig m.ferry) t

def State.discardAll (s : State) : List Moored → State
  | [] => s
  | m :: rest => State.discardAll (s.release fun x => x.stamp == m.stamp) rest

def State.clearPair (s : State) (k : Nat) (e : PairFreeze) (action : Nat) : State :=
  let s := { s with pairs := del s.pairs k }
  let l := s.thawed e.tenant.toNat
  (if action = 0 then s.relandAll l else s.discardAll l).settlePairs

def Context.haltFlag (c : Context) : Bool := c.frozen || c.nested

/-- RESUME of a context: Ready where it stands, in its record while it is saved; a task that has executed EXIT goes on draining
(10 R275). -/
def State.resumeCtx (s : State) (num : Nat) : State :=
  let i := BitVec.ofNat 2 num
  let c := s.ctxAt (num / 4) i
  let thaw (c : Context) : Context := { c with frozen := false, nested := false }
  let s := { s with freezes := del s.freezes num }
  if c.haltFlag then s.setCtxAt (num / 4) i { thaw c with
    st := if c.saved then c.st else if c.exiting then .blocked else .ready, bcause := if c.exiting then 12 else c.bcause }
  else { s with parked := s.parked.map fun x => if x.num = num ∧ x.ctx.haltFlag then { x with ctx := thaw x.ctx } else x }

/-- END of a context's task. -/
def State.endTask (s : State) (num : Nat) : State :=
  let i := BitVec.ofNat 2 num
  let c := s.ctxAt (num / 4) i
  let s := { s with freezes := del s.freezes num }
  if c.haltFlag then
    match c.task with
    | some t => s.killAll [(num / 4, i, t)]
    | none => s
  else s.dropParked (s.parked.filter fun x => x.num = num ∧ x.ctx.haltFlag)

/-- Entry 0 to 255 names a pair freeze, 256 + n the context with number n. -/
def State.freezeClear (s : State) (entry action : Nat) : Option Answer × State :=
  if 2 ≤ action then (some (.of mgREFUSED), s)
  else if entry < 256 then
    match look s.pairs entry with
    | some e => (some (.of mgOK), (s.clearPair entry e action).pump)
    | none => (some (.of mgREFUSED), s)
  else
    let num := entry - 256
    if (s.ctxAt (num / 4) (BitVec.ofNat 2 num)).haltFlag || s.parked.any (fun x => x.num == num && x.ctx.haltFlag) then
      (some (.of mgOK), if action = 0 then s.resumeCtx num else s.endTask num)
    else (some (.of mgREFUSED), s)

/-- PRESUMED, log entry 32. -/
def execFreezeClear (r : MgmtReq) (entry : BitVec 16) (action : Byte) (s : State) : Result :=
  command 2 r owned (decide (entry.toNat < 256 + 2048)) (fun s => s.freezeClear entry.toNat action.toNat) s

/-! The error log (16 R440). -/

/-- Entries `first` on, oldest entry 0, with LOST in the result operands. -/
def execElogRead (r : MgmtReq) (ring first count : BitVec 16) (s : State) : Result :=
  command 3 r owned (decide (ring.toNat ≤ 64) && decide (first.toNat < 1024) && decide (count.toNat ≤ 126))
    (fun s =>
      let x := s.ring ring.toNat
      (some ⟨mgOK, BitVec.ofNat 64 x.lost, ((x.entries.drop first.toNat).take count.toNat).flatMap fun e => leBytes e.toNat 32⟩, s)) s

/-! Ports, links, images (14 R388, 16 R443, R447). -/

def execPortEnable (r : MgmtReq) (port mode : Byte) (s : State) : Result :=
  command 4 r owned (decide (port.toNat < 6) && decide (mode.toNat < 2))
    (fun s =>
      let f := s.fabric.trainPort port.toNat
      let skid := if mode = 1 then f.skid ||| (1#6 <<< port.toNat) else f.skid &&& ~~~(1#6 <<< port.toNat)
      (some (.of mgOK), s.setFabric { f with skid := skid })) s

def execLinkReset (r : MgmtReq) (lid : BitVec 32) (s : State) : Result :=
  let port := fld lid.toNat 14 3
  let l := fld lid.toNat 12 2
  command 5 r owned (decide (fld lid.toNat 0 12 = 0) && decide (port < 6) && decide (fld lid.toNat 17 15 = s.node.toNat))
    (fun s =>
      let x := s.link port l
      if x.st = .failed then (some (.of mgOK), s.setLink port l { Link.reset with lanes := x.lanes }) else (some (.of mgREFUSED), s)) s

/-- A piece of an image, after those already staged for its slot. -/
def execImageLoad (r : MgmtReq) (slot : Byte) (piece : List Byte) (s : State) : Result :=
  command 6 r owned (decide (slot.toNat < 4))
    (fun s =>
      let d := s.device
      (some (.of mgOK), s.setDevice { d with staged := put d.staged slot.toNat ((look d.staged slot.toNat).getD [] ++ piece) })) s

/-- The count of failed starts becomes 0, and the device starts again once it has answered. DEDUCED, log entry 52. -/
def execMinimalClear (r : MgmtReq) (s : State) : Result :=
  match command 7 r owned true (fun s => (some (.of mgOK), s.setDevice { s.device with fails := 0 })) s with
  | .next t => if t.device.fails = 0 ∧ (s.session r.session).any (owned s) ∧ !s.turnsAway r ∧ !s.routeBusy r.port then
      settle t.beginStart else .next t
  | .fault f => .fault f
  | .refused e => .refused e

/-! Swaps and destruction (18 R466). -/

def State.placedOf (s : State) (n : Nat) : List (Word × Nat) :=
  (s.launches.filter fun l => l.part == n).flatMap fun l =>
    (l.groups.mapIdx fun g x => (g, x)).filterMap fun (g, x) => if x.st = .placed then some (l.lid, g) else none

def State.runCommand (s : State) (r : MgmtReq) (opc n : Nat) : State :=
  s.setDevice { s.device with running := s.device.running ++ [⟨r.port, r.tag, opc, n⟩] }

def State.setPartState (s : State) (n st : Nat) : State := { s with parts := put s.parts n (setFld (s.part n) 0 2 st) }

/-- Every placed group is pre-empted; the entry is HALTED when none of its contexts is occupied. -/
def execPartSwapOut (r : MgmtReq) (entry : BitVec 16) (s : State) : Result :=
  let n := entry.toNat
  command 8 r owned (decide (n < 64))
    (fun s =>
      if Part.state (s.part n) = 1 ∧ Part.swap (s.part n) ∧ !(s.device.running.any fun q => q.part == n) then
        (none, (s.preempt n (s.placedOf n)).runCommand r 8 n)
      else (some (.of mgREFUSED), s)) s

/-- Saved groups with the order of their placement. -/
def State.savedOf (s : State) (n : Nat) : List (Nat × Nat × Word × Nat) :=
  ((s.launches.filter fun l => l.part == n).flatMap fun l =>
    (l.groups.mapIdx fun g x => (g, x)).filterMap fun (g, x) => if x.st = .saved then some (0, x.stamp, l.lid, g) else none).foldr
      insertVictim []

/-- Saved groups return to their own contexts, those placed last first, as far as these are free. -/
def State.returnAll (s : State) (n : Nat) : List (Nat × Nat × Word × Nat) → State
  | [] => s
  | (_, _, lid, g) :: rest =>
    let s' := match s.launch n lid with
      | some l => if s.canReturn n (s.part n) l g then s.placeAgain n l g else s
      | none => s
    State.returnAll s' n rest

def execPartSwapIn (r : MgmtReq) (entry : BitVec 16) (s : State) : Result :=
  let n := entry.toNat
  command 9 r owned (decide (n < 64))
    (fun s =>
      if Part.state (s.part n) = 2 then
        let s := (s.setPartState n 1).refreshGroups
        (some (.of mgOK), s.returnAll n (s.savedOf n))
      else (some (.of mgREFUSED), s)) s

/-- KILLED in the records that still wait for their channel. -/
def killRecord (n : Nat) (c : Compl) : Compl :=
  match c.launch with
  | some (q, _) => if q = n then { c with record := setFld c.record 40 8 (max 5 (fld c.record.toNat 40 8)) } else c
  | none => c

def State.killLaunches (s : State) (n : Nat) : List Word → State
  | [] => s
  | lid :: rest => State.killLaunches (s.killLaunch n lid 5) n rest

/-- Every task ends and every launch completes KILLED; the entry is CLOSING until its last task has gone.
DEDUCED, log entry 51. -/
def State.destroyPart (s : State) (n : Nat) : State :=
  let s := { s with compl := s.compl.map (killRecord n) }
  let s := s.setPartState n 3
  s.killLaunches n ((s.launches.filter fun l => l.part == n).map (·.lid))

def execPartDestroy (r : MgmtReq) (entry : BitVec 16) (s : State) : Result :=
  let n := entry.toNat
  command 10 r owned (decide (n < 64))
    (fun s =>
      if (Part.state (s.part n) = 1 ∨ Part.state (s.part n) = 2) ∧ !(s.device.running.any fun q => q.part == n) then
        (none, (s.destroyPart n).runCommand r 10 n)
      else (some (.of mgREFUSED), s)) s

/-- A launch's record whose channel has room is written before its partition ends (11 R283). -/
def State.recordDue (s : State) (n : Nat) (c : Compl) : Bool :=
  let x := s.mbox c.mbox.toNat
  c.launch.any (fun l => l.1 == n) && c.fits c.mbox x.part && x.v && decide (x.unread < 64)

/-- No context of the partition's cores holds a task, and no completion record of a launch of its can be written any more; one
whose channel is full or withdrawn ends with the partition (18 R466). DESIGN CHOICE, log entry 51. -/
def State.partIdle (s : State) (n : Nat) : Bool :=
  (s.cores.all fun (c, k) => !Part.ownsCore (s.part n) c || k.ctxs.toList.all fun x => x.task.isNone) && !s.compl.any (s.recordDue n)

/-- Every context of the partition's cores is saved away or frozen (14 R377). -/
def State.partHalted (s : State) (n : Nat) : Bool :=
  s.cores.all fun (c, k) => !Part.ownsCore (s.part n) c || k.ctxs.toList.all fun x => x.task.isNone || x.frozen

def State.comesToRest (s : State) (q : Running) : Bool := if q.opc = 8 then s.partHalted q.part else s.partIdle q.part

/-- A command whose partition has come to rest answers (18 R466). -/
def State.endCommand (s : State) (q : Running) : State :=
  let s := s.setDevice { s.device with running := s.device.running.filter fun x => x ≠ q }
  let s := if q.opc = 8 then (s.setPartState q.part 2).refreshGroups else s.freePart q.part
  s.respond q.port q.opc mgOK q.tag 0 []

def State.endCommands (s : State) : List Running → State
  | [] => s
  | q :: rest => State.endCommands (if s.comesToRest q then s.endCommand q else s) rest

/-- After every step: commands that have come to their end, then the mailboxes that the step has touched. -/
def State.afterStep (s : State) : State := (s.endCommands s.device.running).afterMove

/-- A step's next state with what follows it in the same step. -/
def closeStep (r : Result) : Result :=
  match r with
  | .next s => .next s.afterStep
  | .fault f => .fault f
  | .refused e => .refused e

/-! Keys (14 R391, R392). -/

def keyBytes (k : BitVec 768) : List Byte := leBytes k.toNat 96

/-- OWNER_SET: the first key in any mutually authenticated session, later ones in the owner's; none on a RETIRED device. -/
def execOwnerSet (r : MgmtReq) (key : BitVec 768) (s : State) : Result :=
  command 11 r (fun s x => match s.device.owner with
      | none => x.authed
      | some _ => s.device.ownerSession x) (Config.onCurve key)
    (fun s =>
      if s.device.lcs = 3 then (some (.of mgREFUSED), s)
      else (some (.of mgOK), (s.setDevice { s.device with owner := some key }).extend 6 (Config.sha384 (keyBytes key)))) s

/-- Whether the IKEY of an entry that is not FREE names a slot. -/
def State.keyInUse (s : State) (k : Nat) : Bool :=
  s.parts.any fun x => decide (Part.state x.2 ≠ 0) && [0, 1, 2, 3].any fun i => Part.ikey x.2 i == k

def State.keyLoad (s : State) (k : Nat) (key : Option (BitVec 768)) : Option Answer × State :=
  let d := s.device
  match key with
  | some x =>
    if (look d.keys k).isSome then (some (.of mgREFUSED), s)
    else (some (.of mgOK), (s.setDevice { d with keys := put d.keys k x }).extend 6 (Config.sha384 (keyBytes x)))
  | none =>
    if s.keyInUse k then (some (.of mgREFUSED), s)
    else
      let (w, s) := s.draw
      (some (.of mgOK), (s.setDevice { s.device with keys := del s.device.keys k }).extend 6 (w.setWidth 384))

def execKeyLoad (r : MgmtReq) (slot : BitVec 16) (key : Option (BitVec 768)) (s : State) : Result :=
  command 12 r owned (decide (slot.toNat < 256)) (fun s => s.keyLoad slot.toNat key) s

end Sys2Proof.Machine
end

