-- ==== Sys2Proof/Machine/Spdm.lean ====
section
/-! DEFINITION. SPDM answers, sessions and mutual authentication (14 R390, R392, R393), unsupported DOE objects (18 R462), and
the debug unlock (14 R394-R397). -/

namespace Sys2Proof.Machine

/-! Answers (14 R393). Codes and error codes are those of DMTF SPDM 1.3. -/

def State.spdm (s : State) (code : Nat) (body : List Byte) : State := { s with out := s.out ++ [.spdm code body] }

/-- An ERROR response with its error code. -/
def State.spdmError (s : State) (e : Nat) : State := s.spdm 0x7F (leBytes e 1)

def unsupportedRequest : Nat := 7
def invalidRequest : Nat := 1

/-- GET_VERSION begins a connection anew: VERSION names 1.3. PRESUMED, log entry 54. -/
def execGetVersion (s : State) : Result :=
  settle ((s.setDevice { s.device with algorithms := false }).spdm 4 (leBytes 0x1300 2))

/-- PRESUMED, log entry 54. -/
def execGetCapabilities (s : State) : Result := settle (s.spdm 0x61 [])

/-! The algorithms offered, as bits of SPDM's algorithm fields: ECDSA over NIST P-384, SHA-384, ephemeral ECDH over P-384 and
AES-256-GCM (14 R393). PRESUMED, log entry 54. -/

def ecdsaP384 : BitVec 32 := 0x80
def hashSha384 : BitVec 32 := 0x2
def ecdhP384 : BitVec 16 := 0x10
def aes256Gcm : BitVec 16 := 0x2

/-- ALGORITHMS: the one choice of each kind. -/
def chosenAlgorithms : List Byte :=
  leBytes ecdsaP384.toNat 4 ++ leBytes hashSha384.toNat 4 ++ leBytes ecdhP384.toNat 2 ++ leBytes aes256Gcm.toNat 2

/-- A requester that does not offer each of the four needs another algorithm, and is refused. PRESUMED, log entry 54. -/
def execNegotiateAlgorithms (supported : SpdmOffer) (s : State) : Result :=
  let x := supported
  if x.asym &&& ecdsaP384 ≠ 0 ∧ x.hash &&& hashSha384 ≠ 0 ∧ x.dhe &&& ecdhP384 ≠ 0 ∧ x.aead &&& aes256Gcm ≠ 0 then
    settle ((s.setDevice { s.device with algorithms := true }).spdm 0x63 chosenAlgorithms)
  else settle (s.spdmError unsupportedRequest)

def execGetDigests (s : State) : Result := settle (s.spdm 1 (leBytes (Config.sha384 Config.certificate).toNat 48))

/-- The device certificate stands in slot 0. -/
def execGetCertificate (slot : Byte) (s : State) : Result :=
  if slot = 0 then settle (s.spdm 2 Config.certificate) else settle (s.spdmError invalidRequest)

/-- A signature of the device over what the requester sent: its bits are the device key's own. -/
def State.signed (s : State) (code : Nat) (body : List Byte) : State :=
  let (w, s) := s.draw
  s.spdm code (body ++ drawBytes w 0 96)

def execChallenge (slot : Byte) (nonce : BitVec 256) (s : State) : Result :=
  if slot = 0 then settle (s.signed 3 (leBytes nonce.toNat 32)) else settle (s.spdmError invalidRequest)

/-- Block i + 1 reports slot i; block 0 the number of blocks and block 255 all of them. -/
def execGetMeasurements (block : Byte) (s : State) : Result :=
  let all := s.device.slots.toList
  let slot (x : BitVec 384) : List Byte := leBytes x.toNat 48
  if block = 0 then settle (s.signed 0x60 (leBytes 8 1))
  else if block = 255 then settle (s.signed 0x60 (all.flatMap slot))
  else match all[block.toNat - 1]? with
    | some x => settle (s.signed 0x60 (slot x))
    | none => settle (s.spdmError invalidRequest)

/-! Sessions (14 R392). -/

def State.putSession (s : State) (x : Session) : State :=
  s.setDevice { s.device with sessions := (s.device.sessions.filter fun y => y.id ≠ x.id) ++ [x] }

def State.dropSession (s : State) (id : BitVec 32) : State :=
  s.setDevice { s.device with sessions := s.device.sessions.filter fun y => y.id ≠ id }

def State.anySession (s : State) (id : BitVec 32) : Option Session := s.device.sessions.find? fun x => x.id = id

/-- The answer's request for mutual authentication, by an encapsulated request (14 R392, R393). PRESUMED, log entry 54. -/
def mutAuthRequested : Nat := 2

/-- A session begins: its id holds the requester's half and the device's, and its keys are the exchange's secret. Mutual
authentication is asked for in every exchange. -/
def execKeyExchange (reqSession : BitVec 16) (random : BitVec 256) (s : State) : Result :=
  let (w, s) := s.draw
  let (k, s) := s.draw
  let id : BitVec 32 := w.setWidth 16 ++ reqSession
  settle ((s.putSession ⟨id, k.setWidth 256, false, false, none⟩).signed 0x64 (leBytes id.toNat 4 ++ leBytes mutAuthRequested 1 ++ leBytes random.toNat 32))

/-- FINISH: a session that verifies is established, mutually authenticated when the requester has shown its certificate. -/
def execFinish (sid : BitVec 32) (verified : Bool) (s : State) : Result :=
  match s.anySession sid with
  | none => settle (s.spdmError invalidRequest)
  | some x =>
    if x.done then settle (s.spdmError invalidRequest)
    else if verified then settle ((s.putSession { x with done := true, authed := x.leaf.isSome }).spdm 0x65 (leBytes sid.toNat 4))
    else settle ((s.dropSession sid).spdmError invalidRequest)

/-- Both directions take new keys. -/
def execKeyUpdate (sid : BitVec 32) (s : State) : Result :=
  match s.session sid with
  | none => settle (s.spdmError invalidRequest)
  | some x =>
    let (k, s) := s.draw
    settle ((s.putSession { x with key := k.setWidth 256 }).spdm 0x69 [])

def execEndSession (sid : BitVec 32) (s : State) : Result :=
  match s.session sid with
  | none => settle (s.spdmError invalidRequest)
  | some _ => settle ((s.dropSession sid).spdm 0x6C [])

/-- The device's own request, for the requester's certificate and signature. -/
def execGetEncapsulatedRequest (sid : BitVec 32) (s : State) : Result :=
  match s.anySession sid with
  | none => settle (s.spdmError invalidRequest)
  | some _ => settle (s.spdm 0x6A (leBytes sid.toNat 4))

/-- The requester's leaf key, kept when its chain and signature verify. -/
def execDeliverEncapsulatedResponse (sid : BitVec 32) (leafKey : BitVec 768) (verified : Bool) (s : State) : Result :=
  match s.anySession sid with
  | none => settle (s.spdmError invalidRequest)
  | some x =>
    if x.done ∨ !verified then settle (s.spdmError invalidRequest)
    else settle ((s.putSession { x with leaf := some leafKey }).spdm 0x6B (leBytes sid.toNat 4))

/-- Any other request or version. -/
def execSpdmUnsupported (_code : Byte) (s : State) : Result := settle (s.spdmError unsupportedRequest)

/-- What the device implements of CXL 3.1, as its DVSEC capabilities advertise it (18 R462). -/
inductive CxlPart where
  | io | mem | cache | backInvalidate | dynamicCapacity | multiLogical | interleave
deriving DecidableEq, Repr

def CxlPart.present (x : CxlPart) : Bool :=
  match x with
  | .io => true
  | .mem => true
  | .cache => false
  | .backInvalidate => false
  | .dynamicCapacity => false
  | .multiLogical => false
  | .interleave => false

/-- The object types of the DOE mailbox by vendor and number, in Discovery's order: Discovery, CMA/SPDM in its plain and its
secured form, and Table Access of CDAT (18 R462). PRESUMED, log entry 61. -/
def doeTypes : List (BitVec 16 × Byte) := [(1, 0), (1, 1), (1, 2), (0x1E98, 2)]

/-- Discovery's answer for an index: the type's vendor and number, and the next index, 0 behind the last.
PRESUMED, log entry 61. -/
def doeDiscovery (i : Nat) : List Byte :=
  let (v, k) := doeTypes.getD i (0xFFFF, 0)
  leBytes v.toNat 2 ++ [k] ++ leBytes (if i + 1 < doeTypes.length then i + 1 else 0) 1

/-- An object of an unsupported type is discarded and the DOE Error bit set; Discovery and Table Access answer, the bytes of the
table being open, and the requests of an SPDM object are steps of their own (18 R462). DESIGN CHOICE, log entry 61. -/
def execDoeUnsupported (obj : DoeObject) (s : State) : Result :=
  let x := obj
  if !doeTypes.contains (x.vendor, x.kind) then settle (s.setDevice { s.device with doeError := true })
  else if x.vendor = 0x1E98 then
    let (w, s) := s.draw
    settle { s with out := s.out ++ [.doe x.vendor x.kind (drawBytes w 0 256)] }
  else if x.kind = 0 then settle { s with out := s.out ++ [.doe x.vendor x.kind (doeDiscovery x.index.toNat)] }
  else settle s

/-! The debug unlock (14 R395-R397). -/

/-- DEVID and a fresh nonce, which replaces the one before. DEDUCED, log entry 55. -/
def execDebugNonce (nonce : BitVec 384) (s : State) : Result :=
  settle ((s.setDevice { s.device with nonce := some nonce }).spdm 0x7E (leBytes Config.deviceId.toNat 16 ++ leBytes nonce.toNat 48))

abbrev Token := BitVec 1408

/-- The first check that fails gives the status; 0 when none does. DEDUCED, log entry 55. -/
def tokenStatus (d : Device) (t : Token) : Nat :=
  let f (byte n : Nat) : Nat := fld t.toNat (8 * byte) (8 * n)
  if f 0 4 ≠ 0x00314755 ∨ f 4 2 ≠ 1 ∨ 4 ≤ f 6 2 ∨ f 25 7 ≠ 0 then 1
  else if f 8 16 ≠ Config.deviceId.toNat then 2
  else if f 24 1 ≠ 1 ∨ d.lcs = 3 then 3
  else if d.nonce.map (·.toNat) ≠ some (f 32 48) then 4
  else if !Config.ecdsaOk Config.authorityKey (Config.sha384 (leBytes (f 0 80) 80)) (BitVec.ofNat 768 (f 80 96)) then 5
  else if 64 ≤ d.fuses then 6
  else 0

def State.freeAll (s : State) : List Nat → State
  | [] => s
  | n :: rest => State.freeAll (s.freePart n) rest

/-- Every link down, without keys. -/
def Fabric.wiped (f : Fabric) : Fabric :=
  { f with links := f.links.map fun (k, x) => (k, { Link.reset with lanes := x.lanes }), resend := [], turn := [], barred := [] }

/-- Steps 3 to 7 of 14 R396. -/
def State.unlock (s : State) (t : Token) : State :=
  let s := s.freeAll (s.parts.map (·.1))
  let r := s.router
  let s := s.setRouter { r with win := [], ctrs := [], slots := [], moor := [], stuck := [], copies := [], pool := [], landing := none, lanes := [], marks := [] }
  let d := s.device
  let s := s.setDevice { d with
    keys := [], sessions := [], running := [], fuses := d.fuses + 1, lcs := 2, scope := some (BitVec.ofNat 16 (fld t.toNat 48 16)) }
  (({ s with sweeps := [], bufs := [], intake := [] }).setFabric s.fabric.wiped).extend 4 (Config.sha384 (leBytes t.toNat 176))

/-- A token: its status is returned, and the nonce is gone whatever the status. DEDUCED, log entry 55. -/
def execDebugToken (token : BitVec 1408) (s : State) : Result :=
  let status := tokenStatus s.device token
  let s := s.setDevice { s.device with nonce := none }
  settle ((if status = 0 then s.unlock token else s).spdm 0x7E (leBytes status 1))

end Sys2Proof.Machine
end

