-- ==== Sys2Proof/Machine/Attach.lean ====
section
/-! DEFINITION. The host's accesses through CXL (18 R463-R465), and the ownership table (07 R202). -/

namespace Sys2Proof.Machine

/-! The CXL.mem window (18 R464, R465). -/

/-- A host access is performed once CXL.mem is enabled, where the granule's partition is ACTIVE or HALTED (16 R446). -/
def State.hdmOpen (s : State) (x : Nat) : Bool :=
  decide (5 ≤ s.device.stage) && isHbm x && s.parts.any fun p => (Part.state p.2 == 1 || Part.state p.2 == 2) && Part.ownsHbm p.2 x

/-- An access that is not performed is logged; its kind is open. DESIGN CHOICE, log entry 61. -/
def State.logHdm (s : State) (x : Nat) : State :=
  let (w, s) := s.draw
  s.logTo 64 (1 + w.toNat % 14) 16 0 1 x

/-- The runs of enabled bytes of a line, each with its first byte. -/
def runsFrom (en : BitVec 64) (data : BitVec 512) (k : Nat) (open' : Option (Nat × List Byte)) : Nat → List (Nat × List Byte)
  | 0 => open'.toList
  | n + 1 =>
    let b : Byte := data.extractLsb' (8 * k) 8
    if en.getLsbD k then
      match open' with
      | some (a, bs) => runsFrom en data (k + 1) (some (a, bs ++ [b])) n
      | none => runsFrom en data (k + 1) (some (k, [b])) n
    else open'.toList ++ runsFrom en data (k + 1) none n

def State.writeRuns (s : State) (line : Nat) : List (Nat × List Byte) → State
  | [] => s
  | (k, bs) :: rest => State.writeRuns (s.writePhys (line + k) bs) line rest

/-- A write of the enabled bytes of a 64-byte line, in one step. DESIGN CHOICE, log entry 61. -/
def execCxlMemWrite (addr : BitVec 48) (data : BitVec 512) (en : BitVec 64) (s : State) : Result :=
  let line := addr.toNat / 64 * 64
  if s.hdmOpen line then settle (s.actAlone.writeRuns line (runsFrom en data 0 none 64)) else settle (s.logHdm line)

/-- A read of a line; poison where any of its bytes is poisoned, and zeros with poison where no partition is.
DESIGN CHOICE, log entry 61. -/
def execCxlMemRead (addr : BitVec 48) (s : State) : Result :=
  let line := addr.toNat / 64 * 64
  if s.hdmOpen line then settle { s with out := s.out ++ [.cxl (Mem.bytes s.mem line 64) (s.badBytes line 64)] }
  else
    let s := s.logHdm line
    settle { s with out := s.out ++ [.cxl (zeros 64) true] }

/-! BAR0 (18 R463): the status page, the control lines and the management mailbox. -/

/-- The header of the status page (16 R448); its other bytes are zero. -/
def State.statusHeader (s : State) : List Byte :=
  let d := s.device
  let x := s.ring 64
  leBytes 0x00395647 4 ++ leBytes d.stage 1 ++ leBytes d.reason 1 ++ leBytes d.fails 1 ++ leBytes d.minimal.toNat 1 ++
    leBytes d.gen.toNat 8 ++ leBytes d.pageTime.toNat 8 ++ leBytes x.written 4 ++ leBytes x.lost 4

/-- PEND: the records held for a channel that is full (16 R449). -/
def State.pending (s : State) (m : Nat) : Nat :=
  let x := s.mbox m
  if x.unread < 64 then 0 else (s.compl.filter fun c => c.fits (BitVec.ofNat 12 m) x.part).length

/-- The control line of a mailbox number (11 R278, 16 R449). -/
def State.mailLine (s : State) (m : Nat) : List Byte :=
  let x := s.mbox m
  leBytes x.nextl.toNat 4 ++ leBytes x.lastc.toNat 4 ++ leBytes x.cack.toNat 4 ++ leBytes (s.pending m) 4 ++ leBytes x.llid.toNat 8 ++
    leBytes x.tacc.toNat 8 ++ leBytes x.tcmp.toNat 8 ++ leBytes x.rgen.toNat 4 ++ zeros 4 ++ leBytes x.sgen.toNat 8 ++ zeros 8

/-- What a host read of a byte of BAR0 returns; it changes nothing, so that no step of the table is needed for it.
DESIGN CHOICE, log entry 61. -/
def State.bar0Byte (s : State) (off : Nat) : Byte :=
  if off < 0x1000 then s.statusHeader.getD off 0
  else if off < 0x41000 then (s.mailLine ((off - 0x1000) / 64)).getD (off % 64) 0
  else if off < 0x41004 then (leBytes s.device.ctl.toNat 4).getD (off - 0x41000) 0
  else if off < 0x41008 then 0
  else if off < 0x43000 then s.device.mail.getD (off - 0x41008) 0
  else 0

def State.bar0Read (s : State) (off n : Nat) : List Byte := (List.range n).map fun k => s.bar0Byte (off + k)

/-- A byte of a list of bytes that is zero behind its end. -/
def putAt (l : List Byte) (k : Nat) (b : Byte) : List Byte := (l ++ zeros (k + 1 - l.length)).set k b

/-- A byte that the host writes: CACK of a registered line and the management mailbox take it; any other is discarded. CTL takes
none while GO is 1, and GO itself starts a command, which is a step of its own (18 R463, R466). DESIGN CHOICE, log entry 61. -/
def State.bar0Put (s : State) (off : Nat) (b : Byte) : State :=
  let d := s.device
  let m := (off - 0x1000) / 64
  if 0x1000 ≤ off ∧ off < 0x41000 ∧ 8 ≤ off % 64 ∧ off % 64 < 12 then
    if (look s.mboxes m).isSome then
      let x := s.mbox m
      s.setMbox m { x with cack := BitVec.ofNat 32 (ofLE ((leBytes x.cack.toNat 4).set (off % 64 - 8) b)) }
    else s
  else if 0x41000 ≤ off ∧ off < 0x41004 then
    if d.go then s
    else s.setDevice { d with ctl := BitVec.ofNat 32 (ofLE ((leBytes d.ctl.toNat 4).set (off - 0x41000) b)) &&& 0x7FFFFFFF }
  else if 0x41008 ≤ off ∧ off < 0x43000 then s.setDevice { d with mail := putAt d.mail (off - 0x41008) b }
  else s

/-- A host write of eight bytes of BAR0: what may not be written is discarded (18 R463). -/
def execBar0WriteDiscarded (off : BitVec 20) (data : BitVec 64) (s : State) : Result :=
  settle ((List.range 8).foldl (fun s k => s.bar0Put (off.toNat + k) ((leBytes data.toNat 8).getD k 0)) s)

/-! The ownership table (07 R202). -/

abbrev OwnerEntry := BitVec 128

def ownBase (e : OwnerEntry) : Nat := fld e.toNat 16 32 * 65536
def ownSize (e : OwnerEntry) : Nat := fld e.toNat 48 6
def ownValid (e : OwnerEntry) : Bool := e.getLsbD 56

/-- Zero fields, and HOME not reserved; bit 15 of bytes 8 to 15, which the table gives to no field, must be zero as well.
DESIGN CHOICE, log entry 93. -/
def ownZerosOk (e : OwnerEntry) : Bool :=
  decide (fld e.toNat 0 16 = 0) && decide (fld e.toNat 57 7 = 0) && decide (fld e.toNat 54 2 ≠ 3) && decide (fld e.toNat 79 1 = 0) &&
    decide (fld e.toNat 92 36 = 0)

/-- The range of a valid entry. -/
def ownRangeOk (e : OwnerEntry) : Bool := decide (16 ≤ ownSize e) && decide (ownSize e ≤ 47) && decide (ownBase e % 2 ^ ownSize e = 0)

/-- Whether a valid entry overlaps another of the same partition. -/
def State.ownClash (s : State) (part idx : Nat) (e : OwnerEntry) : Bool :=
  s.owners.any fun (k, f) => decide (k / 256 = part) && decide (k % 256 ≠ idx) && ownValid f &&
    rangesMeet (ownBase e) (2 ^ ownSize e) (ownBase f) (2 ^ ownSize f)

def execOwnershipTableWrite (part : BitVec 6) (idx : BitVec 8) (entry : BitVec 128) (s : State) : Result :=
  let ok := ownZerosOk entry && (!ownValid entry || (ownRangeOk entry && !s.ownClash part.toNat idx.toNat entry))
  if ok then settle { s with owners := put s.owners (part.toNat * 256 + idx.toNat) entry } else settle s

end Sys2Proof.Machine
end

