-- ==== Sys2Proof/Machine/Measure.lean ====
section
/-! DEFINITION. The timebase (17 R457, R458, 16 R448), counter windows (17 R459, R460), and schedule-cycle stops (17 R461). -/

namespace Sys2Proof.Machine

/-! The timebase (17 R457, R458). -/

/-- The timebase never runs backward. DEDUCED, log entry 58. -/
def State.setTime (s : State) (ns : Word) : State := if s.time < ns then { s with time := ns } else s

/-- The µs update: time passes, and the status page shows it. DEDUCED, log entry 58. -/
def execStatusTimeUpdate (ns : BitVec 64) (s : State) : Result :=
  let s := s.setTime ns
  settle (s.setDevice { s.device with pageTime := s.time })

/-- OFFS of SYS.TSTAT: the offset saturated at ±(2^31 − 1). -/
def offsOf (offset : BitVec 64) : W32 :=
  let x := offset.toInt
  BitVec.ofInt 32 (if x < -(2 ^ 31 - 1) then -(2 ^ 31 - 1) else if 2 ^ 31 - 1 < x then 2 ^ 31 - 1 else x)

def tstatOf (mode : Nat) (offs : W32) : Word := offs ++ BitVec.ofNat 32 mode

/-- A measured offset: above 1 ms a forward step, otherwise slewed over the time that follows. Whether the discipline is then
acquiring or locked is open. DEDUCED, log entry 58. -/
def execPtpMessage (offset : BitVec 64) (s : State) : Result :=
  let (m, s) := s.choose [1, 2]
  let s := { s with tstat := tstatOf (m.getD 1) (offsOf offset) }
  settle (if 1000000 < offset.toInt then s.setTime (s.time + offset) else s)

/-- 18 R467: the timebase enters holdover. -/
def execMgmtLinkLoss (s : State) : Result := settle { s with tstat := tstatOf 3 ((s.tstat >>> 32).setWidth 32) }

/-! Counter windows (17 R460). -/

/-- The selected counters from `k` on, in ascending order and around. -/
def Counters.selected (c : Counters) (k : Nat) : List Nat :=
  ((List.range 16).map fun i => (k + i) % 16).filter fun i => (c.sel[i]?.getD 0) != 0

/-- The counters that the hardware counts now. -/
def Counters.counting (c : Counters) : List Nat := (c.selected c.at'.toNat).take 4

def Counters.addAll (c : Counters) (ns : Word) : List Nat → List Word → Counters
  | k :: ks, x :: xs =>
    Counters.addAll { c with val := vmod c.val k (· + x), ns := vmod c.ns k (· + ns) } ns ks xs
  | k :: ks, [] => Counters.addAll { c with ns := vmod c.ns k (· + ns) } ns ks []
  | [], _ => c

/-- A rotation publishes what was counted and goes on to the next four selections. -/
def Counters.rotate (c : Counters) (counts : List Word) (ns : Word) : Counters :=
  let on := c.counting
  let next := match on.getLast? with
    | some k => if 4 < (c.selected 0).length then (k + 1) % 16 else 0
    | none => 0
  let c := Counters.addAll c ns on counts
  { c with en := c.en + ns, gen := c.gen + 1, at' := BitVec.ofNat 4 next }

/-- What the counters that count now have counted since the last rotation: events as the node has counted them, cycles, and HBM
bytes of other agents, as `open'` gives them, value by value (17 R459). DESIGN CHOICE, log entry 60. -/
def State.windowCounts (s : State) (part : Nat) (open' : List Word) : List Word :=
  let c := s.counters part
  c.counting.mapIdx fun j k =>
    let code := (c.sel[k]?.getD 0).toNat
    BitVec.ofNat 64 ((look s.events (part * 16 + code)).getD 0) + (if [1, 4, 5, 7].contains code then open'.getD j 0 else 0)

def execCounterRotate (part : BitVec 6) (counts : List (BitVec 64)) (ns : BitVec 64) (s : State) : Result :=
  let n := part.toNat
  settle { s with
    pc := put s.pc n ((s.counters n).rotate (s.windowCounts n counts) ns), events := s.events.filter fun x => x.1 / 16 ≠ n }

/-! Schedule-cycle stops (17 R461). -/

def State.debugOpen (s : State) : Bool := s.device.scope.any (·.getLsbD 0)

/-- A stop now, or at the cycle that it names; one that has passed counts as now. DEDUCED, log entry 59. -/
def execScstop (stop : StopAt) (s : State) : Result :=
  let n := stop.core.toNat
  let k := s.core n
  if s.debugOpen ∧ !k.stopped then
    match stop.at' with
    | none => settle (s.stopCore n)
    | some v => settle (if v ≤ k.ccyc then s.stopCore n else s.setCore n { k with stopAt := some v })
  else settle s

/-- Each context stands as at the stop, or as the debugger's record says; issue restarts. DEDUCED, log entry 59. -/
def execScresume (res : ResumeWith) (s : State) : Result :=
  let n := res.core.toNat
  if s.debugOpen ∧ (s.core n).stopped then
    let s := s.reinjectAll n res.records
    settle (s.setCore n { s.core n with stopped := false })
  else settle s

end Sys2Proof.Machine
end

