-- ==== Sys2Proof/Machine/Dispatch.lean ====
section
/-! DEFINITION. The meaning of each instruction, one arm each. -/

namespace Sys2Proof.Machine

def exec (i : Instr) (s : State) : Host.Outcome State Fault Refusal :=
  match i with
  | .nop => Sys2Proof.Machine.execNop s
  | .bprep p bt target => Sys2Proof.Machine.execBprep p bt target s
  | .bpreps p bt a => Sys2Proof.Machine.execBpreps p bt a s
  | .br p bt => Sys2Proof.Machine.execBr p bt s
  | .brl p bt link => Sys2Proof.Machine.execBrl p bt link s
  | .banksw p pd bt => Sys2Proof.Machine.execBanksw p pd bt s
  | .loop p lx a endp => Sys2Proof.Machine.execLoop p lx a endp s
  | .lbrk p lx => Sys2Proof.Machine.execLbrk p lx s
  | .vany p pd ps => Sys2Proof.Machine.execVany p pd ps s
  | .vall p pd ps => Sys2Proof.Machine.execVall p pd ps s
  | .setfmt p val mask => Sys2Proof.Machine.execSetfmt p val mask s
  | .setfmtScalar p a mask => Sys2Proof.Machine.execSetfmtScalar p a mask s
  | .fenceI p pd bank => Sys2Proof.Machine.execFenceI p pd bank s
  | .yield p => Sys2Proof.Machine.execYield p s
  | .exit p => Sys2Proof.Machine.execExit p s
  | .trap p val => Sys2Proof.Machine.execTrap p val s
  | .eret p => Sys2Proof.Machine.execEret p s
  | .crgnOpen p bt mask => Sys2Proof.Machine.execCrgnOpen p bt mask s
  | .crgnClose p => Sys2Proof.Machine.execCrgnClose p s
  | .chkerr p a pd mask => Sys2Proof.Machine.execChkerr p a pd mask s
  | .pmark p marker => Sys2Proof.Machine.execPmark p marker s
  | .add p d a b t => Sys2Proof.Machine.execAdd p d a b t s
  | .sub p d a b t => Sys2Proof.Machine.execSub p d a b t s
  | .and p d a b t => Sys2Proof.Machine.execAnd p d a b t s
  | .or p d a b t => Sys2Proof.Machine.execOr p d a b t s
  | .xor p d a b t => Sys2Proof.Machine.execXor p d a b t s
  | .andn p d a b t => Sys2Proof.Machine.execAndn p d a b t s
  | .shl p d a b t => Sys2Proof.Machine.execShl p d a b t s
  | .shr p d a b t => Sys2Proof.Machine.execShr p d a b t s
  | .rotl p d a b t => Sys2Proof.Machine.execRotl p d a b t s
  | .min p d a b t => Sys2Proof.Machine.execMin p d a b t s
  | .max p d a b t => Sys2Proof.Machine.execMax p d a b t s
  | .mul p d a b t => Sys2Proof.Machine.execMul p d a b t s
  | .mulh p d a b t => Sys2Proof.Machine.execMulh p d a b t s
  | .div p d a b t => Sys2Proof.Machine.execDiv p d a b t s
  | .rem p d a b t => Sys2Proof.Machine.execRem p d a b t s
  | .shra p d a b t => Sys2Proof.Machine.execShra p d a b t s
  | .clz p d a t => Sys2Proof.Machine.execClz p d a t s
  | .ctz p d a t => Sys2Proof.Machine.execCtz p d a t s
  | .popc p d a t => Sys2Proof.Machine.execPopc p d a t s
  | .sext p d a t => Sys2Proof.Machine.execSext p d a t s
  | .zext p d a t => Sys2Proof.Machine.execZext p d a t s
  | .addsh p d a b k t => Sys2Proof.Machine.execAddsh p d a b k t s
  | .sel p d a b c => Sys2Proof.Machine.execSel p d a b c s
  | .cmp p d a b cond t => Sys2Proof.Machine.execCmp p d a b cond t s
  | .addi p d a t imm => Sys2Proof.Machine.execAddi p d a t imm s
  | .andi p d a t imm => Sys2Proof.Machine.execAndi p d a t imm s
  | .ori p d a t imm => Sys2Proof.Machine.execOri p d a t imm s
  | .xori p d a t imm => Sys2Proof.Machine.execXori p d a t imm s
  | .shli p d a t imm => Sys2Proof.Machine.execShli p d a t imm s
  | .shri p d a t imm => Sys2Proof.Machine.execShri p d a t imm s
  | .shrai p d a t imm => Sys2Proof.Machine.execShrai p d a t imm s
  | .movi p d t imm => Sys2Proof.Machine.execMovi p d t imm s
  | .movhi p d a imm => Sys2Proof.Machine.execMovhi p d a imm s
  | .cmpi p d a cond t imm => Sys2Proof.Machine.execCmpi p d a cond t imm s
  | .fadd p d a b t => Sys2Proof.Machine.execFadd p d a b t s
  | .fsub p d a b t => Sys2Proof.Machine.execFsub p d a b t s
  | .fmul p d a b t => Sys2Proof.Machine.execFmul p d a b t s
  | .ffma p d a b c t => Sys2Proof.Machine.execFfma p d a b c t s
  | .fmin p d a b num t => Sys2Proof.Machine.execFmin p d a b num t s
  | .fmax p d a b num t => Sys2Proof.Machine.execFmax p d a b num t s
  | .fcmp p d a b cond t => Sys2Proof.Machine.execFcmp p d a b cond t s
  | .fcvt p d a ts td => Sys2Proof.Machine.execFcvt p d a ts td s
  | .fclass p d a t => Sys2Proof.Machine.execFclass p d a t s
  | .pand p d a b => Sys2Proof.Machine.execPand p d a b s
  | .por p d a b => Sys2Proof.Machine.execPor p d a b s
  | .pxor p d a b => Sys2Proof.Machine.execPxor p d a b s
  | .pandn p d a b => Sys2Proof.Machine.execPandn p d a b s
  | .pcnt p d a => Sys2Proof.Machine.execPcnt p d a s
  | .pfirst p d a => Sys2Proof.Machine.execPfirst p d a s
  | .movps p d a => Sys2Proof.Machine.execMovps p d a s
  | .movsp p d a => Sys2Proof.Machine.execMovsp p d a s
  | .movsys p d num => Sys2Proof.Machine.execMovsys p d num s
  | .setsys p a num => Sys2Proof.Machine.execSetsys p a num s
  | .ld p d a x t sc off => Sys2Proof.Machine.execLd p d a x t sc off s
  | .st p d a x t sc off => Sys2Proof.Machine.execSt p d a x t sc off s
  | .stnt p d a x t sc off => Sys2Proof.Machine.execStnt p d a x t sc off s
  | .stcmb p d a x t sc ms off => Sys2Proof.Machine.execStcmb p d a x t sc ms off s
  | .vadd p d a b sat t => Sys2Proof.Machine.execVadd p d a b sat t s
  | .vsub p d a b sat t => Sys2Proof.Machine.execVsub p d a b sat t s
  | .vmul p d a b t => Sys2Proof.Machine.execVmul p d a b t s
  | .vmulh p d a b t => Sys2Proof.Machine.execVmulh p d a b t s
  | .vshl p d a b t => Sys2Proof.Machine.execVshl p d a b t s
  | .vshr p d a b t => Sys2Proof.Machine.execVshr p d a b t s
  | .vmin p d a b t => Sys2Proof.Machine.execVmin p d a b t s
  | .vmax p d a b t => Sys2Proof.Machine.execVmax p d a b t s
  | .vand p d a b => Sys2Proof.Machine.execVand p d a b s
  | .vor p d a b => Sys2Proof.Machine.execVor p d a b s
  | .vxor p d a b => Sys2Proof.Machine.execVxor p d a b s
  | .vshra p d a b t => Sys2Proof.Machine.execVshra p d a b t s
  | .vabs p d a sat t => Sys2Proof.Machine.execVabs p d a sat t s
  | .vcmp p d a b cond t => Sys2Proof.Machine.execVcmp p d a b cond t s
  | .vsel p d a b c => Sys2Proof.Machine.execVsel p d a b c s
  | .vdot4 p d a b c sat t => Sys2Proof.Machine.execVdot4 p d a b c sat t s
  | .vsatn p d a b uns t => Sys2Proof.Machine.execVsatn p d a b uns t s
  | .vwiden p d a part t => Sys2Proof.Machine.execVwiden p d a part t s
  | .vpack p d a b t => Sys2Proof.Machine.execVpack p d a b t s
  | .vpackT2 p d a part => Sys2Proof.Machine.execVpackT2 p d a part s
  | .vunpack p d a part => Sys2Proof.Machine.execVunpack p d a part s
  | .vfadd p d a b t => Sys2Proof.Machine.execVfadd p d a b t s
  | .vfsub p d a b t => Sys2Proof.Machine.execVfsub p d a b t s
  | .vfmul p d a b t => Sys2Proof.Machine.execVfmul p d a b t s
  | .vffma p d a b c t => Sys2Proof.Machine.execVffma p d a b c t s
  | .vfmin p d a b num t => Sys2Proof.Machine.execVfmin p d a b num t s
  | .vfmax p d a b num t => Sys2Proof.Machine.execVfmax p d a b num t s
  | .vfcmp p d a b cond => Sys2Proof.Machine.execVfcmp p d a b cond s
  | .vfrcp p d a => Sys2Proof.Machine.execVfrcp p d a s
  | .vfrsq p d a => Sys2Proof.Machine.execVfrsq p d a s
  | .vfexp2 p d a => Sys2Proof.Machine.execVfexp2 p d a s
  | .vflog2 p d a => Sys2Proof.Machine.execVflog2 p d a s
  | .vfcvt p d a ts part td => Sys2Proof.Machine.execVfcvt p d a ts part td s
  | .vquant p d a k part td => Sys2Proof.Machine.execVquant p d a k part td s
  | .vdeq p d a k ts part => Sys2Proof.Machine.execVdeq p d a k ts part s
  | .vfclass p d a => Sys2Proof.Machine.execVfclass p d a s
  | .vred p d a op t => Sys2Proof.Machine.execVred p d a op t s
  | .vperm p d a b c => Sys2Proof.Machine.execVperm p d a b c s
  | .vslide p d a b n => Sys2Proof.Machine.execVslide p d a b n s
  | .vbcast p d a => Sys2Proof.Machine.execVbcast p d a s
  | .vbcastLane p d a n => Sys2Proof.Machine.execVbcastLane p d a n s
  | .viota p d a b => Sys2Proof.Machine.execViota p d a b s
  | .vcountge p d a b t => Sys2Proof.Machine.execVcountge p d a b t s
  | .vcompress p d a => Sys2Proof.Machine.execVcompress p d a s
  | .vexpand p d a => Sys2Proof.Machine.execVexpand p d a s
  | .movvs p d a n t => Sys2Proof.Machine.execMovvs p d a n t s
  | .movsv p d a n => Sys2Proof.Machine.execMovsv p d a n s
  | .vld p d a x sc off => Sys2Proof.Machine.execVld p d a x sc off s
  | .vlds p d a x sc off => Sys2Proof.Machine.execVlds p d a x sc off s
  | .vldx p d a x sc off => Sys2Proof.Machine.execVldx p d a x sc off s
  | .vst p d a x sc off => Sys2Proof.Machine.execVst p d a x sc off s
  | .vsts p d a x sc off => Sys2Proof.Machine.execVsts p d a x sc off s
  | .vstx p d a x sc off => Sys2Proof.Machine.execVstx p d a x sc off s
  | .vstnt p d a x sc off => Sys2Proof.Machine.execVstnt p d a x sc off s
  | .vstcmb p d a x t sc ms off => Sys2Proof.Machine.execVstcmb p d a x t sc ms off s
  | .txin p a => Sys2Proof.Machine.execTxin p a s
  | .txout p d => Sys2Proof.Machine.execTxout p d s
  | .txclr p => Sys2Proof.Machine.execTxclr p s
  | .vaccrd p d c a col => Sys2Proof.Machine.execVaccrd p d c a col s
  | .vaccwr p d b a col => Sys2Proof.Machine.execVaccwr p d b a col s
  | .vspill p d a x sc off => Sys2Proof.Machine.execVspill p d a x sc off s
  | .vfill p d a x sc off => Sys2Proof.Machine.execVfill p d a x sc off s
  | .mma p d ta tb => Sys2Proof.Machine.execMma p d ta tb s
  | .mzero p d mask => Sys2Proof.Machine.execMzero p d mask s
  | .mload p d c a b t nrow ncol => Sys2Proof.Machine.execMload p d c a b t nrow ncol s
  | .mstore p d c a b t tt nrow ncol => Sys2Proof.Machine.execMstore p d c a b t tt nrow ncol s
  | .msetp p c a => Sys2Proof.Machine.execMsetp p c a s
  | .mgetp p d c => Sys2Proof.Machine.execMgetp p d c s
  | .seal p d a b => Sys2Proof.Machine.execSeal p d a b s
  | .sealAcc p d c => Sys2Proof.Machine.execSealAcc p d c s
  | .scheck p d a b c => Sys2Proof.Machine.execScheck p d a b c s
  | .scheckAcc p d c a => Sys2Proof.Machine.execScheckAcc p d c a s
  | .sfix p d a b c => Sys2Proof.Machine.execSfix p d a b c s
  | .sfixAcc p d c a => Sys2Proof.Machine.execSfixAcc p d c a s
  | .squery p d a b => Sys2Proof.Machine.execSquery p d a b s
  | .squeryAcc p d c b => Sys2Proof.Machine.execSqueryAcc p d c b s
  | .cpy p d a b c => Sys2Proof.Machine.execCpy p d a b c s
  | .cpy2 p d a b c rows rlen => Sys2Proof.Machine.execCpy2 p d a b c rows rlen s
  | .cpyqIn p d c a b stride => Sys2Proof.Machine.execCpyqIn p d c a b stride s
  | .cpyqOut p d c a b stride => Sys2Proof.Machine.execCpyqOut p d c a b stride s
  | .cpymc p d a b c clusters cores dom => Sys2Proof.Machine.execCpymc p d a b c clusters cores dom s
  | .cpycrc p d a b c => Sys2Proof.Machine.execCpycrc p d a b c s
  | .cpycrcChk p d b c => Sys2Proof.Machine.execCpycrcChk p d b c s
  | .twait p d tl a => Sys2Proof.Machine.execTwait p d tl a s
  | .twaitImm p d tl n => Sys2Proof.Machine.execTwaitImm p d tl n s
  | .treadCnt p d tl => Sys2Proof.Machine.execTreadCnt p d tl s
  | .treadIss p d tl => Sys2Proof.Machine.execTreadIss p d tl s
  | .treadStop p d tl => Sys2Proof.Machine.execTreadStop p d tl s
  | .treadRetire p d tl => Sys2Proof.Machine.execTreadRetire p d tl s
  | .treadProg p d => Sys2Proof.Machine.execTreadProg p d s
  | .treadCrc p d => Sys2Proof.Machine.execTreadCrc p d s
  | .atom p d a b c code => Sys2Proof.Machine.execAtom p d a b c code s
  | .rel p d => Sys2Proof.Machine.execRel p d s
  | .acq p d a b => Sys2Proof.Machine.execAcq p d a b s
  | .acqCur p d a => Sys2Proof.Machine.execAcqCur p d a s
  | .phase p d => Sys2Proof.Machine.execPhase p d s
  | .ntdrain p d => Sys2Proof.Machine.execNtdrain p d s
  | .logstatPub p d => Sys2Proof.Machine.execLogstatPub p d s
  | .logstatTail p d => Sys2Proof.Machine.execLogstatTail p d s
  | .logstatFree p d => Sys2Proof.Machine.execLogstatFree p d s
  | .logstatView p d => Sys2Proof.Machine.execLogstatView p d s
  | .logstatMembers p d => Sys2Proof.Machine.execLogstatMembers p d s
  | .logstatSelf p d => Sys2Proof.Machine.execLogstatSelf p d s
  | .logstatCursor p d a => Sys2Proof.Machine.execLogstatCursor p d a s
  | .logstatRbld p d => Sys2Proof.Machine.execLogstatRbld p d s
  | .fbuild p a b c opts tpl clen => Sys2Proof.Machine.execFbuild p a b c opts tpl clen s
  | .fsend p d => Sys2Proof.Machine.execFsend p d s
  | .dwait p d a dq => Sys2Proof.Machine.execDwait p d a dq s
  | .dreadCnt p d dq => Sys2Proof.Machine.execDreadCnt p d dq s
  | .dreadCons p d dq => Sys2Proof.Machine.execDreadCons p d dq s
  | .dreadDesc0 p d dq => Sys2Proof.Machine.execDreadDesc0 p d dq s
  | .dreadDesc1 p d dq => Sys2Proof.Machine.execDreadDesc1 p d dq s
  | .dreadNum p d dq => Sys2Proof.Machine.execDreadNum p d dq s
  | .frecv p d dq => Sys2Proof.Machine.execFrecv p d dq s
  | .frecvPeek p d dq => Sys2Proof.Machine.execFrecvPeek p d dq s
  | .cslotAlloc p d a b c code tpl => Sys2Proof.Machine.execCslotAlloc p d a b c code tpl s
  | .cslotFree p d a b c tpl => Sys2Proof.Machine.execCslotFree p d a b c tpl s
  | .cslotRead p d a b c tpl => Sys2Proof.Machine.execCslotRead p d a b c tpl s
  | .swopen p d a b c id expect => Sys2Proof.Machine.execSwopen p d a b c id expect s
  | .swsub p d a b c id q => Sys2Proof.Machine.execSwsub p d a b c id q s
  | .swmerge p d a b c id => Sys2Proof.Machine.execSwmerge p d a b c id s
  | .swread p d a id => Sys2Proof.Machine.execSwread p d a id s
  | .swclose p d c id => Sys2Proof.Machine.execSwclose p d c id s
  | .launch p d a c => Sys2Proof.Machine.execLaunch p d a c s
  | .mpostLaunch p d a b c => Sys2Proof.Machine.execMpostLaunch p d a b c s
  | .mpostMsg p d a b c => Sys2Proof.Machine.execMpostMsg p d a b c s
  | .ctxsave p a groups => Sys2Proof.Machine.execCtxsave p a groups s
  | .ctxsaveSr p groups => Sys2Proof.Machine.execCtxsaveSr p groups s
  | .ctxrstr p a groups => Sys2Proof.Machine.execCtxrstr p a groups s
  | .ctxrstrSr p groups => Sys2Proof.Machine.execCtxrstrSr p groups s
  | .kill => Sys2Proof.Machine.execKill s
  | .pushi n => Sys2Proof.Machine.execPushi n s
  | .pushh k => Sys2Proof.Machine.execPushh k s
  | .poph k => Sys2Proof.Machine.execPoph k s
  | .dup k => Sys2Proof.Machine.execDup k s
  | .swap => Sys2Proof.Machine.execSwap s
  | .ferryAdd => Sys2Proof.Machine.execFerryAdd s
  | .ferrySub => Sys2Proof.Machine.execFerrySub s
  | .ferryAnd => Sys2Proof.Machine.execFerryAnd s
  | .ferryOr => Sys2Proof.Machine.execFerryOr s
  | .ferryXor => Sys2Proof.Machine.execFerryXor s
  | .ferryMin f => Sys2Proof.Machine.execFerryMin f s
  | .ferryMax f => Sys2Proof.Machine.execFerryMax f s
  | .amax => Sys2Proof.Machine.execAmax s
  | .eq z => Sys2Proof.Machine.execEq z s
  | .lt u => Sys2Proof.Machine.execLt u s
  | .jz k => Sys2Proof.Machine.execJz k s
  | .jmp k => Sys2Proof.Machine.execJmp k s
  | .ldwImm n => Sys2Proof.Machine.execLdwImm n s
  | .ldw => Sys2Proof.Machine.execLdw s
  | .addwImm n c => Sys2Proof.Machine.execAddwImm n c s
  | .addw c => Sys2Proof.Machine.execAddw c s
  | .cmb => Sys2Proof.Machine.execCmb s
  | .ctr k => Sys2Proof.Machine.execCtr k s
  | .ctrInc k => Sys2Proof.Machine.execCtrInc k s
  | .node m => Sys2Proof.Machine.execNode m s
  | .hops k => Sys2Proof.Machine.execHops k s
  | .loadq k => Sys2Proof.Machine.execLoadq k s
  | .crd k => Sys2Proof.Machine.execCrd k s
  | .cwr k => Sys2Proof.Machine.execCwr k s
  | .clone => Sys2Proof.Machine.execClone s
  | .go port => Sys2Proof.Machine.execGo port s
  | .godst => Sys2Proof.Machine.execGodst s
  | .dlvr => Sys2Proof.Machine.execDlvr s
  | .park => Sys2Proof.Machine.execPark s
  | .cspWrite cluster v => Sys2Proof.Machine.execCspWrite cluster v s
  | .lttCommit core hi => Sys2Proof.Machine.execLttCommit core hi s
  | .logcWrite core v => Sys2Proof.Machine.execLogcWrite core v s
  | .logxWrite core v => Sys2Proof.Machine.execLogxWrite core v s
  | .tlbiWrite part v => Sys2Proof.Machine.execTlbiWrite part v s
  | .smpcWrite core v => Sys2Proof.Machine.execSmpcWrite core v s
  | .smptWrite core v => Sys2Proof.Machine.execSmptWrite core v s
  | .tmrWrite core ctx v => Sys2Proof.Machine.execTmrWrite core ctx v s
  | .pcselWrite part k v => Sys2Proof.Machine.execPcselWrite part k v s
  | .mailboxRegister num desc => Sys2Proof.Machine.execMailboxRegister num desc s
  | .ownershipTableWrite part idx entry => Sys2Proof.Machine.execOwnershipTableWrite part idx entry s
  | .cxlMemWrite addr data en => Sys2Proof.Machine.execCxlMemWrite addr data en s
  | .cxlMemRead addr => Sys2Proof.Machine.execCxlMemRead addr s
  | .launchAccept mbox => Sys2Proof.Machine.execLaunchAccept mbox s
  | .faultReply reply => Sys2Proof.Machine.execFaultReply reply s
  | .faultReplyTimeout fid => Sys2Proof.Machine.execFaultReplyTimeout fid s
  | .cackWrite mbox v => Sys2Proof.Machine.execCackWrite mbox v s
  | .bar0WriteDiscarded off data => Sys2Proof.Machine.execBar0WriteDiscarded off data s
  | .completionWrite mbox => Sys2Proof.Machine.execCompletionWrite mbox s
  | .scheduleDecision part => Sys2Proof.Machine.execScheduleDecision part s
  | .energyCharge part lid uj => Sys2Proof.Machine.execEnergyCharge part lid uj s
  | .agingPromote part lid => Sys2Proof.Machine.execAgingPromote part lid s
  | .torusMemberReport part lid node report => Sys2Proof.Machine.execTorusMemberReport part lid node report s
  | .torusMemberTimeout part lid => Sys2Proof.Machine.execTorusMemberTimeout part lid s
  | .residencyLimit core => Sys2Proof.Machine.execResidencyLimit core s
  | .overdueResult core ctx => Sys2Proof.Machine.execOverdueResult core ctx s
  | .timerExpire core ctx => Sys2Proof.Machine.execTimerExpire core ctx s
  | .logFull core ctx => Sys2Proof.Machine.execLogFull core ctx s
  | .preemptDivert core ctx => Sys2Proof.Machine.execPreemptDivert core ctx s
  | .fullSave core ctx => Sys2Proof.Machine.execFullSave core ctx s
  | .stubAbandon core ctx => Sys2Proof.Machine.execStubAbandon core ctx s
  | .groupSave core part lid grp => Sys2Proof.Machine.execGroupSave core part lid grp s
  | .contextRestore core ctx => Sys2Proof.Machine.execContextRestore core ctx s
  | .exitDrainEnd core ctx => Sys2Proof.Machine.execExitDrainEnd core ctx s
  | .fenceIDone core => Sys2Proof.Machine.execFenceIDone core s
  | .copyComplete core ctx => Sys2Proof.Machine.execCopyComplete core ctx s
  | .ntStorePerform core => Sys2Proof.Machine.execNtStorePerform core s
  | .segmentPublish core => Sys2Proof.Machine.execSegmentPublish core s
  | .phaseComplete part lid grp => Sys2Proof.Machine.execPhaseComplete part lid grp s
  | .mmaRowCommit core => Sys2Proof.Machine.execMmaRowCommit core s
  | .matrixComplete core => Sys2Proof.Machine.execMatrixComplete core s
  | .subnormalAssist core => Sys2Proof.Machine.execSubnormalAssist core s
  | .lockstepSelftest cluster pass => Sys2Proof.Machine.execLockstepSelftest cluster pass s
  | .atomHome core ctx => Sys2Proof.Machine.execAtomHome core ctx s
  | .atomReply core ctx => Sys2Proof.Machine.execAtomReply core ctx s
  | .atomRetransmit core ctx => Sys2Proof.Machine.execAtomRetransmit core ctx s
  | .sweepPageOffer dom => Sys2Proof.Machine.execSweepPageOffer dom s
  | .sweepCatchupPass dom => Sys2Proof.Machine.execSweepCatchupPass dom s
  | .ferryReceive port x => Sys2Proof.Machine.execFerryReceive port x s
  | .landingStart => Sys2Proof.Machine.execLandingStart s
  | .mooringReland => Sys2Proof.Machine.execMooringReland s
  | .escapeTimeout port => Sys2Proof.Machine.execEscapeTimeout port s
  | .combineSlotTimeout slot => Sys2Proof.Machine.execCombineSlotTimeout slot s
  | .reachabilityNotice node live => Sys2Proof.Machine.execReachabilityNotice node live s
  | .frameReceive port link counter tagOk ferries => Sys2Proof.Machine.execFrameReceive port link counter tagOk ferries s
  | .frameClose port link => Sys2Proof.Machine.execFrameClose port link s
  | .verdictMark port f poisoned => Sys2Proof.Machine.execVerdictMark port f poisoned s
  | .retryRequest port link counter => Sys2Proof.Machine.execRetryRequest port link counter s
  | .linkAck port link counter => Sys2Proof.Machine.execLinkAck port link counter s
  | .ackTimeout port link => Sys2Proof.Machine.execAckTimeout port link s
  | .rekeyStart port link => Sys2Proof.Machine.execRekeyStart port link s
  | .rekeyDeadline port link => Sys2Proof.Machine.execRekeyDeadline port link s
  | .laneFault port link lane => Sys2Proof.Machine.execLaneFault port link lane s
  | .linkTrainDone port link ok => Sys2Proof.Machine.execLinkTrainDone port link ok s
  | .linkKeyed port link ok => Sys2Proof.Machine.execLinkKeyed port link ok s
  | .sliceScrub core word err => Sys2Proof.Machine.execSliceScrub core word err s
  | .hbmScrub granule err => Sys2Proof.Machine.execHbmScrub granule err s
  | .hbmRowSpare granule spareLeft => Sys2Proof.Machine.execHbmRowSpare granule spareLeft s
  | .coldReset => Sys2Proof.Machine.execColdReset s
  | .startStageDone digest => Sys2Proof.Machine.execStartStageDone digest s
  | .startStageTimeout reason => Sys2Proof.Machine.execStartStageTimeout reason s
  | .clockThrottle down => Sys2Proof.Machine.execClockThrottle down s
  | .thermalTrip => Sys2Proof.Machine.execThermalTrip s
  | .mgmtLinkLoss => Sys2Proof.Machine.execMgmtLinkLoss s
  | .ptpMessage offset => Sys2Proof.Machine.execPtpMessage offset s
  | .sampleTick core => Sys2Proof.Machine.execSampleTick core s
  | .counterRotate part counts ns => Sys2Proof.Machine.execCounterRotate part counts ns s
  | .scstop stop => Sys2Proof.Machine.execScstop stop s
  | .scresume res => Sys2Proof.Machine.execScresume res s
  | .partWrite r entry image => Sys2Proof.Machine.execPartWrite r entry image s
  | .freezeClear r entry action => Sys2Proof.Machine.execFreezeClear r entry action s
  | .elogRead r ring first count => Sys2Proof.Machine.execElogRead r ring first count s
  | .portEnable r port mode => Sys2Proof.Machine.execPortEnable r port mode s
  | .linkReset r lid => Sys2Proof.Machine.execLinkReset r lid s
  | .imageLoad r slot piece => Sys2Proof.Machine.execImageLoad r slot piece s
  | .minimalClear r => Sys2Proof.Machine.execMinimalClear r s
  | .partSwapOut r entry => Sys2Proof.Machine.execPartSwapOut r entry s
  | .partSwapIn r entry => Sys2Proof.Machine.execPartSwapIn r entry s
  | .partDestroy r entry => Sys2Proof.Machine.execPartDestroy r entry s
  | .ownerSet r key => Sys2Proof.Machine.execOwnerSet r key s
  | .keyLoad r slot key => Sys2Proof.Machine.execKeyLoad r slot key s
  | .getVersion => Sys2Proof.Machine.execGetVersion s
  | .getCapabilities => Sys2Proof.Machine.execGetCapabilities s
  | .negotiateAlgorithms supported => Sys2Proof.Machine.execNegotiateAlgorithms supported s
  | .getDigests => Sys2Proof.Machine.execGetDigests s
  | .getCertificate slot => Sys2Proof.Machine.execGetCertificate slot s
  | .challenge slot nonce => Sys2Proof.Machine.execChallenge slot nonce s
  | .getMeasurements block => Sys2Proof.Machine.execGetMeasurements block s
  | .keyExchange reqSession random => Sys2Proof.Machine.execKeyExchange reqSession random s
  | .finish sid verified => Sys2Proof.Machine.execFinish sid verified s
  | .keyUpdate sid => Sys2Proof.Machine.execKeyUpdate sid s
  | .endSession sid => Sys2Proof.Machine.execEndSession sid s
  | .getEncapsulatedRequest sid => Sys2Proof.Machine.execGetEncapsulatedRequest sid s
  | .deliverEncapsulatedResponse sid leafKey verified => Sys2Proof.Machine.execDeliverEncapsulatedResponse sid leafKey verified s
  | .spdmUnsupported code => Sys2Proof.Machine.execSpdmUnsupported code s
  | .doeUnsupported obj => Sys2Proof.Machine.execDoeUnsupported obj s
  | .debugNonce nonce => Sys2Proof.Machine.execDebugNonce nonce s
  | .debugToken token => Sys2Proof.Machine.execDebugToken token s
  | .fetchTrap core => Sys2Proof.Machine.execFetchTrap core s
  | .mooredFaultService entry reland => Sys2Proof.Machine.execMooredFaultService entry reland s
  | .holdSignal port lane hold => Sys2Proof.Machine.execHoldSignal port lane hold s
  | .statusTimeUpdate ns => Sys2Proof.Machine.execStatusTimeUpdate ns s
  | .mgmtRequestReject r opc kind => Sys2Proof.Machine.execMgmtRequestReject r opc kind s

end Sys2Proof.Machine
end

