-- ==== Sys2Proof/Machine/Step.lean ====
section
/-! DEFINITION. One step of the node: the next operation of a landing in progress, else the next move of the agenda, else an
attempt of the core whose turn it is. -/

namespace Sys2Proof.Machine

/-- DESIGN CHOICE, log entry 2. DESIGN CHOICE, log entry 35. DESIGN CHOICE, log entry 63. -/
def step (s : State) : Host.Outcome State Fault Refusal :=
  closeStep (match s.router.landing with
    | some l => if s.device.stopped then s.gatedMove exec else s.landMove exec l
    | none => s.gatedMove exec)

/-- The ferry whose program holds one operation word at position 0; every other field is 0, so that KILL follows.
DEDUCED, log entry 11. -/
def wordFerry (w : Nat) : Ferry := ⟨0, 0, BitVec.ofNat 256 (w % 2 ^ 16), []⟩

/-- The state with a landing in progress whose next operation is the 16-bit word. DEDUCED, log entry 11. -/
def State.withFetchWord (s : State) (_nbits w : Nat) : State :=
  { s with router := { s.router with landing := some ⟨wordFerry w, 0, [], none⟩ } }

end Sys2Proof.Machine
end

