-- ==== Sys2Proof/Laws/Fields.lean ====
section
/-! SUPPORT. Bit fields of packed words: reading a field of a word that `pack` laid out, and the frame of the decoders. -/

namespace Sys2Proof

theorem fld_above (v lo r a n : Nat) (h : a + n ≤ lo) : fld (v * 2 ^ lo + r) a n = fld r a n := by
  unfold fld
  obtain ⟨k, rfl⟩ := Nat.le.dest h
  have e : v * 2 ^ (a + n + k) + r = r + 2 ^ a * (2 ^ n * (2 ^ k * v)) := by
    rw [Nat.pow_add, Nat.pow_add, Nat.add_comm, Nat.mul_comm v]
    simp only [Nat.mul_assoc]
  rw [e, Nat.add_mul_div_left _ _ (Nat.two_pow_pos a), Nat.add_mul_mod_self_left]

theorem fld_here (v lo r n : Nat) (hv : v < 2 ^ n) (hr : r < 2 ^ lo) : fld (v * 2 ^ lo + r) lo n = v := by
  unfold fld
  rw [Nat.add_comm, Nat.add_mul_div_right _ _ (Nat.two_pow_pos lo), Nat.div_eq_of_lt hr, Nat.zero_add, Nat.mod_eq_of_lt hv]

theorem fld_below (r a n : Nat) (h : r < 2 ^ a) : fld r a n = 0 := by
  unfold fld
  rw [Nat.div_eq_of_lt h, Nat.zero_mod]

theorem pred_toNat_lt (p : Pred) : p.pn.toNat < 2 ∧ p.pi.toNat < 32 := ⟨Bool.toNat_lt p.pn, p.pi.isLt⟩

theorem predOf_eq (w : Nat) (p : Pred) (h1 : fld w 57 1 = p.pn.toNat) (h2 : fld w 52 5 = p.pi.toNat) : predOf w = p := by
  obtain ⟨pn, pi⟩ := p
  simp only [predOf, h1, h2, BitVec.ofNat_toNat, BitVec.setWidth_eq]
  cases pn <;> rfl

/-- What a slot word's header holds, and that every field below it is the body's. -/
theorem header (op : Nat) (p : Pred) (fs : List (Nat × Nat)) (hop : op < 64) (hf : pack fs < 2 ^ 52) :
    let w := pack ([(op, 58), (p.pn.toNat, 57), (p.pi.toNat, 52)] ++ fs)
    w < 2 ^ 64 ∧ fld w 58 6 = op ∧ predOf w = p ∧ ∀ a n, a + n ≤ 52 → fld w a n = fld (pack fs) a n := by
  obtain ⟨hn, hi⟩ := pred_toNat_lt p
  simp only [List.cons_append, List.nil_append, pack]
  refine ⟨by omega, fld_here _ _ _ _ hop (by omega), predOf_eq _ p ?_ ?_, ?_⟩
  · rw [fld_above _ _ _ _ _ (by omega), fld_here _ _ _ _ hn (by omega)]
  · rw [fld_above _ _ _ _ _ (by omega), fld_above _ _ _ _ _ (by omega), fld_here _ _ _ _ hi hf]
  · intro a n h
    rw [fld_above _ _ _ _ _ (by omega), fld_above _ _ _ _ _ (by omega), fld_above _ _ _ _ _ h]

/-- What a landing halfword's opcode field holds, and that every field below it is the operand's. -/
theorem opcode (op : Nat) (fs : List (Nat × Nat)) (hop : op < 64) (hf : pack fs < 2 ^ 10) :
    let w := pack ((op, 10) :: fs)
    w < 2 ^ 16 ∧ fld w 10 6 = op ∧ ∀ a n, a + n ≤ 10 → fld w a n = fld (pack fs) a n := by
  simp only [pack]
  exact ⟨by omega, fld_here _ _ _ _ hop hf, fun a n h => fld_above _ _ _ _ _ h⟩

theorem verdict_ok (i : Instr) (h : i.reason = 0) : verdict true true true i = .ok i := by
  simp [verdict, h]

/-- A legal slot instruction has a legal predicate: its check stands first. -/
theorem ok_of_reason (b : Bool) (rest : List (Nat × Bool)) (h : firstFail ((3, b) :: rest) = 0) : b = true := by
  cases b
  · simp [firstFail] at h
  · rfl

/-- The decoder of a slot's class. -/
def decodeClass (slot w : Nat) : Except Nat Instr :=
  match slotClass slot with
  | .control => decodeControl w
  | .scalar => decodeScalar w
  | .vector => decodeVector w
  | .engine => decodeEngine w

/-- The highest opcode of a slot's class (02 R47-R50). -/
def topOp (slot : Nat) : Nat :=
  match slotClass slot with
  | .control => 19
  | .scalar => 57
  | .vector => 60
  | .engine => 38

/-- In a slot that takes every opcode of its class, a known opcode with a legal predicate reaches the class's decoder. -/
theorem decodeSlot_class (slot w op : Nat) (hs : slot = 0 ∨ slot = 2 ∨ slot = 4 ∨ slot = 5) (h0 : fld w 58 6 = op)
    (hop : 1 ≤ op ∧ op ≤ topOp slot) (hp : (predOf w).ok = true) : decodeSlot slot w = decodeClass slot w := by
  obtain ⟨h1, h2⟩ := hop
  rcases hs with rfl | rfl | rfl | rfl <;> simp_all [decodeSlot, decodeClass, slotClass, topOp]

end Sys2Proof
end

