-- ==== Sys2Proof/Laws/PerInstr.lean ====
section
/-! SUPPORT. The family Encoding: the word of a well-formed instruction decodes to that instruction, one lemma per
constructor (02 R39-R53, 12 R300). -/

set_option linter.unusedSimpArgs false
set_option Elab.async false

namespace Sys2Proof.Laws

namespace Encoding

/-- A word of n bits that decodes to the instruction: a halfword of a landing program, or a word of some slot. -/
def ReadsBack (i : Instr) (n w : Nat) : Prop :=
  (n = 16 ∧ w < 2 ^ 16 ∧ decodeTableWord 16 w = some i) ∨
  (n = 64 ∧ w < 2 ^ 64 ∧ ∃ slot, slot < 6 ∧ decodeSlot slot w = .ok i)

/-- The instruction's own word, if it has one, reads back as the instruction. -/
def Statement (i : Instr) : Prop := i.wf = true → ∀ n w, encode i = some (n, w) → ReadsBack i n w

/-- A slot word reads back when its class's decoder reads it. -/
theorem slot_reads (slot op : Nat) (p : Pred) (fs : List (Nat × Nat)) (i : Instr) (n w : Nat)
    (hs : slot = 0 ∨ slot = 2 ∨ slot = 4 ∨ slot = 5) (hop : 1 ≤ op ∧ op ≤ topOp slot) (hp : p.ok = true)
    (hf : pack fs < 2 ^ 52)
    (hd : ∀ w, fld w 58 6 = op → predOf w = p → (∀ a n, a + n ≤ 52 → fld w a n = fld (pack fs) a n) →
      decodeClass slot w = .ok i)
    (he : slotWord op p fs = some (n, w)) : ReadsBack i n w := by
  have h64 : topOp slot < 64 := by rcases hs with rfl | rfl | rfl | rfl <;> decide
  obtain ⟨hw, h0, h1, h2⟩ := header op p fs (by omega) hf
  simp only [slotWord, Option.some.injEq, Prod.mk.injEq] at he
  obtain ⟨rfl, rfl⟩ := he
  refine .inr ⟨rfl, hw, slot, by omega, ?_⟩
  rw [decodeSlot_class _ _ _ hs h0 hop (by rw [h1]; exact hp)]
  exact hd _ h0 h1 h2

/-- A landing halfword reads back when the landing decoder reads it. -/
theorem land_reads (op : Nat) (fs : List (Nat × Nat)) (i : Instr) (n w : Nat) (hop : op < 64) (hf : pack fs < 2 ^ 10)
    (hd : ∀ w, fld w 10 6 = op → (∀ a n, a + n ≤ 10 → fld w a n = fld (pack fs) a n) → decodeLanding w = some i)
    (he : landWord op fs = some (n, w)) : ReadsBack i n w := by
  obtain ⟨hw, h0, h2⟩ := opcode op fs hop hf
  simp only [landWord, Option.some.injEq, Prod.mk.injEq] at he
  obtain ⟨rfl, rfl⟩ := he
  refine .inl ⟨rfl, hw, ?_⟩
  simp only [decodeTableWord, if_true, Nat.mod_eq_of_lt hw]
  exact hd _ h0 h2

end Encoding

theorem Encoding.nop : Encoding.Statement .nop := by
  intro _ nb wd he; cases he; exact .inr ⟨rfl, by decide, 0, by decide, rfl⟩

theorem Encoding.bprep p bt target : Encoding.Statement (.bprep p bt target) := by
  intro h nb wd he
  have h : (Instr.bprep p bt target).reason = 0 := by simpa [Instr.wf] using h
  refine Encoding.slot_reads 0 1 p [(bt.toNat, 48), (target.toNat, 0)] _ nb wd (by decide) (by decide) (ok_of_reason _ _ h) (by simp only [pack]; omega) ?_ he
  intro w h0 h1 h2
  simp (disch := first | decide | omega) only [slotClass, decodeClass, decodeControl, h0, h1, h2, pack, fld_above, fld_here, fld_below, zeros, decide_true, BitVec.ofNat_toNat, BitVec.setWidth_eq, Bool.and_true, Bool.true_and, if_true]
  exact verdict_ok _ h

theorem Encoding.bpreps p bt a : Encoding.Statement (.bpreps p bt a) := by
  intro h nb wd he
  have h : (Instr.bpreps p bt a).reason = 0 := by simpa [Instr.wf] using h
  refine Encoding.slot_reads 0 2 p [(bt.toNat, 48), (a.toNat, 42)] _ nb wd (by decide) (by decide) (ok_of_reason _ _ h) (by simp only [pack]; omega) ?_ he
  intro w h0 h1 h2
  simp (disch := first | decide | omega) only [slotClass, decodeClass, decodeControl, h0, h1, h2, pack, fld_above, fld_here, fld_below, zeros, decide_true, BitVec.ofNat_toNat, BitVec.setWidth_eq, Bool.and_true, Bool.true_and, if_true]
  exact verdict_ok _ h

theorem Encoding.br p bt : Encoding.Statement (.br p bt) := by
  intro h nb wd he
  have h : (Instr.br p bt).reason = 0 := by simpa [Instr.wf] using h
  refine Encoding.slot_reads 0 3 p [(bt.toNat, 48)] _ nb wd (by decide) (by decide) (ok_of_reason _ _ h) (by simp only [pack]; omega) ?_ he
  intro w h0 h1 h2
  simp (disch := first | decide | omega) only [slotClass, decodeClass, decodeControl, h0, h1, h2, pack, fld_above, fld_here, fld_below, zeros, decide_true, BitVec.ofNat_toNat, BitVec.setWidth_eq, Bool.and_true, Bool.true_and, if_true]
  exact verdict_ok _ h

theorem Encoding.brl p bt link : Encoding.Statement (.brl p bt link) := by
  intro h nb wd he
  have h : (Instr.brl p bt link).reason = 0 := by simpa [Instr.wf] using h
  refine Encoding.slot_reads 0 4 p [(bt.toNat, 48), (link.toNat, 0)] _ nb wd (by decide) (by decide) (ok_of_reason _ _ h) (by simp only [pack]; omega) ?_ he
  intro w h0 h1 h2
  simp (disch := first | decide | omega) only [slotClass, decodeClass, decodeControl, h0, h1, h2, pack, fld_above, fld_here, fld_below, zeros, decide_true, BitVec.ofNat_toNat, BitVec.setWidth_eq, Bool.and_true, Bool.true_and, if_true]
  exact verdict_ok _ h

theorem Encoding.banksw p pd bt : Encoding.Statement (.banksw p pd bt) := by
  intro h nb wd he
  have h : (Instr.banksw p pd bt).reason = 0 := by simpa [Instr.wf] using h
  refine Encoding.slot_reads 0 5 p [(bt.toNat, 48), (pd.toNat, 37)] _ nb wd (by decide) (by decide) (ok_of_reason _ _ h) (by simp only [pack]; omega) ?_ he
  intro w h0 h1 h2
  simp (disch := first | decide | omega) only [slotClass, decodeClass, decodeControl, h0, h1, h2, pack, fld_above, fld_here, fld_below, zeros, decide_true, BitVec.ofNat_toNat, BitVec.setWidth_eq, Bool.and_true, Bool.true_and, if_true]
  exact verdict_ok _ h

theorem Encoding.loop p lx a endp : Encoding.Statement (.loop p lx a endp) := by
  intro h nb wd he
  have h : (Instr.loop p lx a endp).reason = 0 := by simpa [Instr.wf] using h
  refine Encoding.slot_reads 0 6 p [(lx.toNat, 48), (a.toNat, 42), (endp.toNat, 0)] _ nb wd (by decide) (by decide) (ok_of_reason _ _ h) (by simp only [pack]; omega) ?_ he
  intro w h0 h1 h2
  simp (disch := first | decide | omega) only [slotClass, decodeClass, decodeControl, h0, h1, h2, pack, fld_above, fld_here, fld_below, zeros, decide_true, BitVec.ofNat_toNat, BitVec.setWidth_eq, Bool.and_true, Bool.true_and, if_true]
  exact verdict_ok _ h

theorem Encoding.lbrk p lx : Encoding.Statement (.lbrk p lx) := by
  intro h nb wd he
  have h : (Instr.lbrk p lx).reason = 0 := by simpa [Instr.wf] using h
  refine Encoding.slot_reads 0 7 p [(lx.toNat, 48)] _ nb wd (by decide) (by decide) (ok_of_reason _ _ h) (by simp only [pack]; omega) ?_ he
  intro w h0 h1 h2
  simp (disch := first | decide | omega) only [slotClass, decodeClass, decodeControl, h0, h1, h2, pack, fld_above, fld_here, fld_below, zeros, decide_true, BitVec.ofNat_toNat, BitVec.setWidth_eq, Bool.and_true, Bool.true_and, if_true]
  exact verdict_ok _ h

theorem Encoding.vany p pd ps : Encoding.Statement (.vany p pd ps) := by
  intro h nb wd he
  have h : (Instr.vany p pd ps).reason = 0 := by simpa [Instr.wf] using h
  refine Encoding.slot_reads 0 8 p [(pd.toNat, 37), (ps.toNat, 32)] _ nb wd (by decide) (by decide) (ok_of_reason _ _ h) (by simp only [pack]; omega) ?_ he
  intro w h0 h1 h2
  simp (disch := first | decide | omega) only [slotClass, decodeClass, decodeControl, h0, h1, h2, pack, fld_above, fld_here, fld_below, zeros, decide_true, BitVec.ofNat_toNat, BitVec.setWidth_eq, Bool.and_true, Bool.true_and, if_true]
  exact verdict_ok _ h

theorem Encoding.vall p pd ps : Encoding.Statement (.vall p pd ps) := by
  intro h nb wd he
  have h : (Instr.vall p pd ps).reason = 0 := by simpa [Instr.wf] using h
  refine Encoding.slot_reads 0 9 p [(pd.toNat, 37), (ps.toNat, 32)] _ nb wd (by decide) (by decide) (ok_of_reason _ _ h) (by simp only [pack]; omega) ?_ he
  intro w h0 h1 h2
  simp (disch := first | decide | omega) only [slotClass, decodeClass, decodeControl, h0, h1, h2, pack, fld_above, fld_here, fld_below, zeros, decide_true, BitVec.ofNat_toNat, BitVec.setWidth_eq, Bool.and_true, Bool.true_and, if_true]
  exact verdict_ok _ h

theorem Encoding.setfmt p val mask : Encoding.Statement (.setfmt p val mask) := by
  intro h nb wd he
  have h : (Instr.setfmt p val mask).reason = 0 := by simpa [Instr.wf] using h
  refine Encoding.slot_reads 0 10 p [(mask.toNat, 8), (val.toNat, 0)] _ nb wd (by decide) (by decide) (ok_of_reason _ _ h) (by simp only [pack]; omega) ?_ he
  intro w h0 h1 h2
  simp (disch := first | decide | omega) only [slotClass, decodeClass, decodeControl, h0, h1, h2, pack, fld_above, fld_here, fld_below, zeros, decide_true, BitVec.ofNat_toNat, BitVec.setWidth_eq, Bool.and_true, Bool.true_and, if_true]
  exact verdict_ok _ h

theorem Encoding.setfmtScalar p a mask : Encoding.Statement (.setfmtScalar p a mask) := by
  intro h nb wd he
  have h : (Instr.setfmtScalar p a mask).reason = 0 := by simpa [Instr.wf] using h
  refine Encoding.slot_reads 0 10 p [(a.toNat, 42), (1, 16), (mask.toNat, 8)] _ nb wd (by decide) (by decide) (ok_of_reason _ _ h) (by simp only [pack]; omega) ?_ he
  intro w h0 h1 h2
  simp (disch := first | decide | omega) only [slotClass, decodeClass, decodeControl, h0, h1, h2, pack, fld_above, fld_here, fld_below, zeros, decide_true, BitVec.ofNat_toNat, BitVec.setWidth_eq, Bool.and_true, Bool.true_and, if_true]
  exact verdict_ok _ h

theorem Encoding.fenceI p pd bank : Encoding.Statement (.fenceI p pd bank) := by
  intro h nb wd he
  have h : (Instr.fenceI p pd bank).reason = 0 := by simpa [Instr.wf] using h
  refine Encoding.slot_reads 0 11 p [(pd.toNat, 37), (bank.toNat, 0)] _ nb wd (by decide) (by decide) (ok_of_reason _ _ h) (by simp only [pack]; omega) ?_ he
  intro w h0 h1 h2
  simp (disch := first | decide | omega) only [slotClass, decodeClass, decodeControl, h0, h1, h2, pack, fld_above, fld_here, fld_below, zeros, decide_true, BitVec.ofNat_toNat, BitVec.setWidth_eq, Bool.and_true, Bool.true_and, if_true]
  exact verdict_ok _ h

theorem Encoding.yield p : Encoding.Statement (.yield p) := by
  intro h nb wd he
  have h : (Instr.yield p).reason = 0 := by simpa [Instr.wf] using h
  refine Encoding.slot_reads 0 12 p [] _ nb wd (by decide) (by decide) (ok_of_reason _ _ h) (by simp only [pack]; omega) ?_ he
  intro w h0 h1 h2
  simp (disch := first | decide | omega) only [slotClass, decodeClass, decodeControl, h0, h1, h2, pack, fld_above, fld_here, fld_below, zeros, decide_true, BitVec.ofNat_toNat, BitVec.setWidth_eq, Bool.and_true, Bool.true_and, if_true]
  exact verdict_ok _ h

theorem Encoding.exit p : Encoding.Statement (.exit p) := by
  intro h nb wd he
  have h : (Instr.exit p).reason = 0 := by simpa [Instr.wf] using h
  refine Encoding.slot_reads 0 13 p [] _ nb wd (by decide) (by decide) (ok_of_reason _ _ h) (by simp only [pack]; omega) ?_ he
  intro w h0 h1 h2
  simp (disch := first | decide | omega) only [slotClass, decodeClass, decodeControl, h0, h1, h2, pack, fld_above, fld_here, fld_below, zeros, decide_true, BitVec.ofNat_toNat, BitVec.setWidth_eq, Bool.and_true, Bool.true_and, if_true]
  exact verdict_ok _ h

theorem Encoding.trap p val : Encoding.Statement (.trap p val) := by
  intro h nb wd he
  have h : (Instr.trap p val).reason = 0 := by simpa [Instr.wf] using h
  refine Encoding.slot_reads 0 14 p [(val.toNat, 0)] _ nb wd (by decide) (by decide) (ok_of_reason _ _ h) (by simp only [pack]; omega) ?_ he
  intro w h0 h1 h2
  simp (disch := first | decide | omega) only [slotClass, decodeClass, decodeControl, h0, h1, h2, pack, fld_above, fld_here, fld_below, zeros, decide_true, BitVec.ofNat_toNat, BitVec.setWidth_eq, Bool.and_true, Bool.true_and, if_true]
  exact verdict_ok _ h

theorem Encoding.eret p : Encoding.Statement (.eret p) := by
  intro h nb wd he
  have h : (Instr.eret p).reason = 0 := by simpa [Instr.wf] using h
  refine Encoding.slot_reads 0 15 p [] _ nb wd (by decide) (by decide) (ok_of_reason _ _ h) (by simp only [pack]; omega) ?_ he
  intro w h0 h1 h2
  simp (disch := first | decide | omega) only [slotClass, decodeClass, decodeControl, h0, h1, h2, pack, fld_above, fld_here, fld_below, zeros, decide_true, BitVec.ofNat_toNat, BitVec.setWidth_eq, Bool.and_true, Bool.true_and, if_true]
  exact verdict_ok _ h

theorem Encoding.crgnOpen p bt mask : Encoding.Statement (.crgnOpen p bt mask) := by
  intro h nb wd he
  have h : (Instr.crgnOpen p bt mask).reason = 0 := by simpa [Instr.wf] using h
  refine Encoding.slot_reads 0 16 p [(bt.toNat, 48), (mask.toNat, 0)] _ nb wd (by decide) (by decide) (ok_of_reason _ _ h) (by simp only [pack]; omega) ?_ he
  intro w h0 h1 h2
  simp (disch := first | decide | omega) only [slotClass, decodeClass, decodeControl, h0, h1, h2, pack, fld_above, fld_here, fld_below, zeros, decide_true, BitVec.ofNat_toNat, BitVec.setWidth_eq, Bool.and_true, Bool.true_and, if_true]
  exact verdict_ok _ h

theorem Encoding.crgnClose p : Encoding.Statement (.crgnClose p) := by
  intro h nb wd he
  have h : (Instr.crgnClose p).reason = 0 := by simpa [Instr.wf] using h
  refine Encoding.slot_reads 0 17 p [] _ nb wd (by decide) (by decide) (ok_of_reason _ _ h) (by simp only [pack]; omega) ?_ he
  intro w h0 h1 h2
  simp (disch := first | decide | omega) only [slotClass, decodeClass, decodeControl, h0, h1, h2, pack, fld_above, fld_here, fld_below, zeros, decide_true, BitVec.ofNat_toNat, BitVec.setWidth_eq, Bool.and_true, Bool.true_and, if_true]
  exact verdict_ok _ h

theorem Encoding.chkerr p a pd mask : Encoding.Statement (.chkerr p a pd mask) := by
  intro h nb wd he
  have h : (Instr.chkerr p a pd mask).reason = 0 := by simpa [Instr.wf] using h
  refine Encoding.slot_reads 0 18 p [(a.toNat, 42), (pd.toNat, 37), (mask.toNat, 0)] _ nb wd (by decide) (by decide) (ok_of_reason _ _ h) (by simp only [pack]; omega) ?_ he
  intro w h0 h1 h2
  simp (disch := first | decide | omega) only [slotClass, decodeClass, decodeControl, h0, h1, h2, pack, fld_above, fld_here, fld_below, zeros, decide_true, BitVec.ofNat_toNat, BitVec.setWidth_eq, Bool.and_true, Bool.true_and, if_true]
  exact verdict_ok _ h

theorem Encoding.pmark p marker : Encoding.Statement (.pmark p marker) := by
  intro h nb wd he
  have h : (Instr.pmark p marker).reason = 0 := by simpa [Instr.wf] using h
  refine Encoding.slot_reads 0 19 p [(marker.toNat, 0)] _ nb wd (by decide) (by decide) (ok_of_reason _ _ h) (by simp only [pack]; omega) ?_ he
  intro w h0 h1 h2
  simp (disch := first | decide | omega) only [slotClass, decodeClass, decodeControl, h0, h1, h2, pack, fld_above, fld_here, fld_below, zeros, decide_true, BitVec.ofNat_toNat, BitVec.setWidth_eq, Bool.and_true, Bool.true_and, if_true]
  exact verdict_ok _ h

theorem Encoding.add p d a b t : Encoding.Statement (.add p d a b t) := by
  intro h nb wd he
  have h : (Instr.add p d a b t).reason = 0 := by simpa [Instr.wf] using h
  refine Encoding.slot_reads 2 1 p [(d.toNat, 46), (a.toNat, 40), (b.toNat, 34), (t.toNat, 16)] _ nb wd (by decide) (by decide) (ok_of_reason _ _ h) (by simp only [pack]; omega) ?_ he
  intro w h0 h1 h2
  simp (disch := first | decide | omega) only [slotClass, decodeClass, decodeScalar, h0, h1, h2, pack, fld_above, fld_here, fld_below, zeros, decide_true, BitVec.ofNat_toNat, BitVec.setWidth_eq, Bool.and_true, Bool.true_and, if_true]
  exact verdict_ok _ h

theorem Encoding.sub p d a b t : Encoding.Statement (.sub p d a b t) := by
  intro h nb wd he
  have h : (Instr.sub p d a b t).reason = 0 := by simpa [Instr.wf] using h
  refine Encoding.slot_reads 2 2 p [(d.toNat, 46), (a.toNat, 40), (b.toNat, 34), (t.toNat, 16)] _ nb wd (by decide) (by decide) (ok_of_reason _ _ h) (by simp only [pack]; omega) ?_ he
  intro w h0 h1 h2
  simp (disch := first | decide | omega) only [slotClass, decodeClass, decodeScalar, h0, h1, h2, pack, fld_above, fld_here, fld_below, zeros, decide_true, BitVec.ofNat_toNat, BitVec.setWidth_eq, Bool.and_true, Bool.true_and, if_true]
  exact verdict_ok _ h

theorem Encoding.and p d a b t : Encoding.Statement (.and p d a b t) := by
  intro h nb wd he
  have h : (Instr.and p d a b t).reason = 0 := by simpa [Instr.wf] using h
  refine Encoding.slot_reads 2 3 p [(d.toNat, 46), (a.toNat, 40), (b.toNat, 34), (t.toNat, 16)] _ nb wd (by decide) (by decide) (ok_of_reason _ _ h) (by simp only [pack]; omega) ?_ he
  intro w h0 h1 h2
  simp (disch := first | decide | omega) only [slotClass, decodeClass, decodeScalar, h0, h1, h2, pack, fld_above, fld_here, fld_below, zeros, decide_true, BitVec.ofNat_toNat, BitVec.setWidth_eq, Bool.and_true, Bool.true_and, if_true]
  exact verdict_ok _ h

theorem Encoding.or p d a b t : Encoding.Statement (.or p d a b t) := by
  intro h nb wd he
  have h : (Instr.or p d a b t).reason = 0 := by simpa [Instr.wf] using h
  refine Encoding.slot_reads 2 4 p [(d.toNat, 46), (a.toNat, 40), (b.toNat, 34), (t.toNat, 16)] _ nb wd (by decide) (by decide) (ok_of_reason _ _ h) (by simp only [pack]; omega) ?_ he
  intro w h0 h1 h2
  simp (disch := first | decide | omega) only [slotClass, decodeClass, decodeScalar, h0, h1, h2, pack, fld_above, fld_here, fld_below, zeros, decide_true, BitVec.ofNat_toNat, BitVec.setWidth_eq, Bool.and_true, Bool.true_and, if_true]
  exact verdict_ok _ h

theorem Encoding.xor p d a b t : Encoding.Statement (.xor p d a b t) := by
  intro h nb wd he
  have h : (Instr.xor p d a b t).reason = 0 := by simpa [Instr.wf] using h
  refine Encoding.slot_reads 2 5 p [(d.toNat, 46), (a.toNat, 40), (b.toNat, 34), (t.toNat, 16)] _ nb wd (by decide) (by decide) (ok_of_reason _ _ h) (by simp only [pack]; omega) ?_ he
  intro w h0 h1 h2
  simp (disch := first | decide | omega) only [slotClass, decodeClass, decodeScalar, h0, h1, h2, pack, fld_above, fld_here, fld_below, zeros, decide_true, BitVec.ofNat_toNat, BitVec.setWidth_eq, Bool.and_true, Bool.true_and, if_true]
  exact verdict_ok _ h

theorem Encoding.andn p d a b t : Encoding.Statement (.andn p d a b t) := by
  intro h nb wd he
  have h : (Instr.andn p d a b t).reason = 0 := by simpa [Instr.wf] using h
  refine Encoding.slot_reads 2 6 p [(d.toNat, 46), (a.toNat, 40), (b.toNat, 34), (t.toNat, 16)] _ nb wd (by decide) (by decide) (ok_of_reason _ _ h) (by simp only [pack]; omega) ?_ he
  intro w h0 h1 h2
  simp (disch := first | decide | omega) only [slotClass, decodeClass, decodeScalar, h0, h1, h2, pack, fld_above, fld_here, fld_below, zeros, decide_true, BitVec.ofNat_toNat, BitVec.setWidth_eq, Bool.and_true, Bool.true_and, if_true]
  exact verdict_ok _ h

theorem Encoding.shl p d a b t : Encoding.Statement (.shl p d a b t) := by
  intro h nb wd he
  have h : (Instr.shl p d a b t).reason = 0 := by simpa [Instr.wf] using h
  refine Encoding.slot_reads 2 7 p [(d.toNat, 46), (a.toNat, 40), (b.toNat, 34), (t.toNat, 16)] _ nb wd (by decide) (by decide) (ok_of_reason _ _ h) (by simp only [pack]; omega) ?_ he
  intro w h0 h1 h2
  simp (disch := first | decide | omega) only [slotClass, decodeClass, decodeScalar, h0, h1, h2, pack, fld_above, fld_here, fld_below, zeros, decide_true, BitVec.ofNat_toNat, BitVec.setWidth_eq, Bool.and_true, Bool.true_and, if_true]
  exact verdict_ok _ h

theorem Encoding.shr p d a b t : Encoding.Statement (.shr p d a b t) := by
  intro h nb wd he
  have h : (Instr.shr p d a b t).reason = 0 := by simpa [Instr.wf] using h
  refine Encoding.slot_reads 2 8 p [(d.toNat, 46), (a.toNat, 40), (b.toNat, 34), (t.toNat, 16)] _ nb wd (by decide) (by decide) (ok_of_reason _ _ h) (by simp only [pack]; omega) ?_ he
  intro w h0 h1 h2
  simp (disch := first | decide | omega) only [slotClass, decodeClass, decodeScalar, h0, h1, h2, pack, fld_above, fld_here, fld_below, zeros, decide_true, BitVec.ofNat_toNat, BitVec.setWidth_eq, Bool.and_true, Bool.true_and, if_true]
  exact verdict_ok _ h

theorem Encoding.rotl p d a b t : Encoding.Statement (.rotl p d a b t) := by
  intro h nb wd he
  have h : (Instr.rotl p d a b t).reason = 0 := by simpa [Instr.wf] using h
  refine Encoding.slot_reads 2 10 p [(d.toNat, 46), (a.toNat, 40), (b.toNat, 34), (t.toNat, 16)] _ nb wd (by decide) (by decide) (ok_of_reason _ _ h) (by simp only [pack]; omega) ?_ he
  intro w h0 h1 h2
  simp (disch := first | decide | omega) only [slotClass, decodeClass, decodeScalar, h0, h1, h2, pack, fld_above, fld_here, fld_below, zeros, decide_true, BitVec.ofNat_toNat, BitVec.setWidth_eq, Bool.and_true, Bool.true_and, if_true]
  exact verdict_ok _ h

theorem Encoding.min p d a b t : Encoding.Statement (.min p d a b t) := by
  intro h nb wd he
  have h : (Instr.min p d a b t).reason = 0 := by simpa [Instr.wf] using h
  refine Encoding.slot_reads 2 11 p [(d.toNat, 46), (a.toNat, 40), (b.toNat, 34), (t.toNat, 16)] _ nb wd (by decide) (by decide) (ok_of_reason _ _ h) (by simp only [pack]; omega) ?_ he
  intro w h0 h1 h2
  simp (disch := first | decide | omega) only [slotClass, decodeClass, decodeScalar, h0, h1, h2, pack, fld_above, fld_here, fld_below, zeros, decide_true, BitVec.ofNat_toNat, BitVec.setWidth_eq, Bool.and_true, Bool.true_and, if_true]
  exact verdict_ok _ h

theorem Encoding.max p d a b t : Encoding.Statement (.max p d a b t) := by
  intro h nb wd he
  have h : (Instr.max p d a b t).reason = 0 := by simpa [Instr.wf] using h
  refine Encoding.slot_reads 2 12 p [(d.toNat, 46), (a.toNat, 40), (b.toNat, 34), (t.toNat, 16)] _ nb wd (by decide) (by decide) (ok_of_reason _ _ h) (by simp only [pack]; omega) ?_ he
  intro w h0 h1 h2
  simp (disch := first | decide | omega) only [slotClass, decodeClass, decodeScalar, h0, h1, h2, pack, fld_above, fld_here, fld_below, zeros, decide_true, BitVec.ofNat_toNat, BitVec.setWidth_eq, Bool.and_true, Bool.true_and, if_true]
  exact verdict_ok _ h

theorem Encoding.mul p d a b t : Encoding.Statement (.mul p d a b t) := by
  intro h nb wd he
  have h : (Instr.mul p d a b t).reason = 0 := by simpa [Instr.wf] using h
  refine Encoding.slot_reads 2 13 p [(d.toNat, 46), (a.toNat, 40), (b.toNat, 34), (t.toNat, 16)] _ nb wd (by decide) (by decide) (ok_of_reason _ _ h) (by simp only [pack]; omega) ?_ he
  intro w h0 h1 h2
  simp (disch := first | decide | omega) only [slotClass, decodeClass, decodeScalar, h0, h1, h2, pack, fld_above, fld_here, fld_below, zeros, decide_true, BitVec.ofNat_toNat, BitVec.setWidth_eq, Bool.and_true, Bool.true_and, if_true]
  exact verdict_ok _ h

theorem Encoding.mulh p d a b t : Encoding.Statement (.mulh p d a b t) := by
  intro h nb wd he
  have h : (Instr.mulh p d a b t).reason = 0 := by simpa [Instr.wf] using h
  refine Encoding.slot_reads 2 14 p [(d.toNat, 46), (a.toNat, 40), (b.toNat, 34), (t.toNat, 16)] _ nb wd (by decide) (by decide) (ok_of_reason _ _ h) (by simp only [pack]; omega) ?_ he
  intro w h0 h1 h2
  simp (disch := first | decide | omega) only [slotClass, decodeClass, decodeScalar, h0, h1, h2, pack, fld_above, fld_here, fld_below, zeros, decide_true, BitVec.ofNat_toNat, BitVec.setWidth_eq, Bool.and_true, Bool.true_and, if_true]
  exact verdict_ok _ h

theorem Encoding.div p d a b t : Encoding.Statement (.div p d a b t) := by
  intro h nb wd he
  have h : (Instr.div p d a b t).reason = 0 := by simpa [Instr.wf] using h
  refine Encoding.slot_reads 2 15 p [(d.toNat, 46), (a.toNat, 40), (b.toNat, 34), (t.toNat, 16)] _ nb wd (by decide) (by decide) (ok_of_reason _ _ h) (by simp only [pack]; omega) ?_ he
  intro w h0 h1 h2
  simp (disch := first | decide | omega) only [slotClass, decodeClass, decodeScalar, h0, h1, h2, pack, fld_above, fld_here, fld_below, zeros, decide_true, BitVec.ofNat_toNat, BitVec.setWidth_eq, Bool.and_true, Bool.true_and, if_true]
  exact verdict_ok _ h

theorem Encoding.rem p d a b t : Encoding.Statement (.rem p d a b t) := by
  intro h nb wd he
  have h : (Instr.rem p d a b t).reason = 0 := by simpa [Instr.wf] using h
  refine Encoding.slot_reads 2 16 p [(d.toNat, 46), (a.toNat, 40), (b.toNat, 34), (t.toNat, 16)] _ nb wd (by decide) (by decide) (ok_of_reason _ _ h) (by simp only [pack]; omega) ?_ he
  intro w h0 h1 h2
  simp (disch := first | decide | omega) only [slotClass, decodeClass, decodeScalar, h0, h1, h2, pack, fld_above, fld_here, fld_below, zeros, decide_true, BitVec.ofNat_toNat, BitVec.setWidth_eq, Bool.and_true, Bool.true_and, if_true]
  exact verdict_ok _ h

theorem Encoding.shra p d a b t : Encoding.Statement (.shra p d a b t) := by
  intro h nb wd he
  have h : (Instr.shra p d a b t).reason = 0 := by simpa [Instr.wf] using h
  refine Encoding.slot_reads 2 9 p [(d.toNat, 46), (a.toNat, 40), (b.toNat, 34), (t.toNat, 16)] _ nb wd (by decide) (by decide) (ok_of_reason _ _ h) (by simp only [pack]; omega) ?_ he
  intro w h0 h1 h2
  simp (disch := first | decide | omega) only [slotClass, decodeClass, decodeScalar, h0, h1, h2, pack, fld_above, fld_here, fld_below, zeros, decide_true, BitVec.ofNat_toNat, BitVec.setWidth_eq, Bool.and_true, Bool.true_and, if_true]
  exact verdict_ok _ h

theorem Encoding.clz p d a t : Encoding.Statement (.clz p d a t) := by
  intro h nb wd he
  have h : (Instr.clz p d a t).reason = 0 := by simpa [Instr.wf] using h
  refine Encoding.slot_reads 2 17 p [(d.toNat, 46), (a.toNat, 40), (t.toNat, 16)] _ nb wd (by decide) (by decide) (ok_of_reason _ _ h) (by simp only [pack]; omega) ?_ he
  intro w h0 h1 h2
  simp (disch := first | decide | omega) only [slotClass, decodeClass, decodeScalar, h0, h1, h2, pack, fld_above, fld_here, fld_below, zeros, decide_true, BitVec.ofNat_toNat, BitVec.setWidth_eq, Bool.and_true, Bool.true_and, if_true]
  exact verdict_ok _ h

theorem Encoding.ctz p d a t : Encoding.Statement (.ctz p d a t) := by
  intro h nb wd he
  have h : (Instr.ctz p d a t).reason = 0 := by simpa [Instr.wf] using h
  refine Encoding.slot_reads 2 18 p [(d.toNat, 46), (a.toNat, 40), (t.toNat, 16)] _ nb wd (by decide) (by decide) (ok_of_reason _ _ h) (by simp only [pack]; omega) ?_ he
  intro w h0 h1 h2
  simp (disch := first | decide | omega) only [slotClass, decodeClass, decodeScalar, h0, h1, h2, pack, fld_above, fld_here, fld_below, zeros, decide_true, BitVec.ofNat_toNat, BitVec.setWidth_eq, Bool.and_true, Bool.true_and, if_true]
  exact verdict_ok _ h

theorem Encoding.popc p d a t : Encoding.Statement (.popc p d a t) := by
  intro h nb wd he
  have h : (Instr.popc p d a t).reason = 0 := by simpa [Instr.wf] using h
  refine Encoding.slot_reads 2 19 p [(d.toNat, 46), (a.toNat, 40), (t.toNat, 16)] _ nb wd (by decide) (by decide) (ok_of_reason _ _ h) (by simp only [pack]; omega) ?_ he
  intro w h0 h1 h2
  simp (disch := first | decide | omega) only [slotClass, decodeClass, decodeScalar, h0, h1, h2, pack, fld_above, fld_here, fld_below, zeros, decide_true, BitVec.ofNat_toNat, BitVec.setWidth_eq, Bool.and_true, Bool.true_and, if_true]
  exact verdict_ok _ h

theorem Encoding.sext p d a t : Encoding.Statement (.sext p d a t) := by
  intro h nb wd he
  have h : (Instr.sext p d a t).reason = 0 := by simpa [Instr.wf] using h
  refine Encoding.slot_reads 2 20 p [(d.toNat, 46), (a.toNat, 40), (t.toNat, 16)] _ nb wd (by decide) (by decide) (ok_of_reason _ _ h) (by simp only [pack]; omega) ?_ he
  intro w h0 h1 h2
  simp (disch := first | decide | omega) only [slotClass, decodeClass, decodeScalar, h0, h1, h2, pack, fld_above, fld_here, fld_below, zeros, decide_true, BitVec.ofNat_toNat, BitVec.setWidth_eq, Bool.and_true, Bool.true_and, if_true]
  exact verdict_ok _ h

theorem Encoding.zext p d a t : Encoding.Statement (.zext p d a t) := by
  intro h nb wd he
  have h : (Instr.zext p d a t).reason = 0 := by simpa [Instr.wf] using h
  refine Encoding.slot_reads 2 21 p [(d.toNat, 46), (a.toNat, 40), (t.toNat, 16)] _ nb wd (by decide) (by decide) (ok_of_reason _ _ h) (by simp only [pack]; omega) ?_ he
  intro w h0 h1 h2
  simp (disch := first | decide | omega) only [slotClass, decodeClass, decodeScalar, h0, h1, h2, pack, fld_above, fld_here, fld_below, zeros, decide_true, BitVec.ofNat_toNat, BitVec.setWidth_eq, Bool.and_true, Bool.true_and, if_true]
  exact verdict_ok _ h

theorem Encoding.addsh p d a b k t : Encoding.Statement (.addsh p d a b k t) := by
  intro h nb wd he
  have h : (Instr.addsh p d a b k t).reason = 0 := by simpa [Instr.wf] using h
  refine Encoding.slot_reads 2 22 p [(d.toNat, 46), (a.toNat, 40), (b.toNat, 34), (k.toNat, 20), (t.toNat, 16)] _ nb wd (by decide) (by decide) (ok_of_reason _ _ h) (by simp only [pack]; omega) ?_ he
  intro w h0 h1 h2
  simp (disch := first | decide | omega) only [slotClass, decodeClass, decodeScalar, h0, h1, h2, pack, fld_above, fld_here, fld_below, zeros, decide_true, BitVec.ofNat_toNat, BitVec.setWidth_eq, Bool.and_true, Bool.true_and, if_true]
  exact verdict_ok _ h

theorem Encoding.sel p d a b c : Encoding.Statement (.sel p d a b c) := by
  intro h nb wd he
  have h : (Instr.sel p d a b c).reason = 0 := by simpa [Instr.wf] using h
  refine Encoding.slot_reads 2 23 p [(d.toNat, 46), (a.toNat, 40), (b.toNat, 34), (c.toNat, 28), (7, 16)] _ nb wd (by decide) (by decide) (ok_of_reason _ _ h) (by simp only [pack]; omega) ?_ he
  intro w h0 h1 h2
  simp (disch := first | decide | omega) only [slotClass, decodeClass, decodeScalar, h0, h1, h2, pack, fld_above, fld_here, fld_below, zeros, decide_true, BitVec.ofNat_toNat, BitVec.setWidth_eq, Bool.and_true, Bool.true_and, if_true]
  exact verdict_ok _ h

theorem Encoding.cmp p d a b cond t : Encoding.Statement (.cmp p d a b cond t) := by
  intro h nb wd he
  have h : (Instr.cmp p d a b cond t).reason = 0 := by simpa [Instr.wf] using h
  refine Encoding.slot_reads 2 24 p [(d.toNat, 46), (a.toNat, 40), (b.toNat, 34), (cond.toNat, 20), (t.toNat, 16)] _ nb wd (by decide) (by decide) (ok_of_reason _ _ h) (by simp only [pack]; omega) ?_ he
  intro w h0 h1 h2
  simp (disch := first | decide | omega) only [slotClass, decodeClass, decodeScalar, h0, h1, h2, pack, fld_above, fld_here, fld_below, zeros, decide_true, BitVec.ofNat_toNat, BitVec.setWidth_eq, Bool.and_true, Bool.true_and, if_true]
  exact verdict_ok _ h

theorem Encoding.addi p d a t imm : Encoding.Statement (.addi p d a t imm) := by
  intro h nb wd he
  have h : (Instr.addi p d a t imm).reason = 0 := by simpa [Instr.wf] using h
  refine Encoding.slot_reads 2 25 p [(d.toNat, 46), (a.toNat, 40), (t.toNat, 36), (imm.toNat, 0)] _ nb wd (by decide) (by decide) (ok_of_reason _ _ h) (by simp only [pack]; omega) ?_ he
  intro w h0 h1 h2
  simp (disch := first | decide | omega) only [slotClass, decodeClass, decodeScalar, h0, h1, h2, pack, fld_above, fld_here, fld_below, zeros, decide_true, BitVec.ofNat_toNat, BitVec.setWidth_eq, Bool.and_true, Bool.true_and, if_true]
  exact verdict_ok _ h

theorem Encoding.andi p d a t imm : Encoding.Statement (.andi p d a t imm) := by
  intro h nb wd he
  have h : (Instr.andi p d a t imm).reason = 0 := by simpa [Instr.wf] using h
  refine Encoding.slot_reads 2 26 p [(d.toNat, 46), (a.toNat, 40), (t.toNat, 36), (imm.toNat, 0)] _ nb wd (by decide) (by decide) (ok_of_reason _ _ h) (by simp only [pack]; omega) ?_ he
  intro w h0 h1 h2
  simp (disch := first | decide | omega) only [slotClass, decodeClass, decodeScalar, h0, h1, h2, pack, fld_above, fld_here, fld_below, zeros, decide_true, BitVec.ofNat_toNat, BitVec.setWidth_eq, Bool.and_true, Bool.true_and, if_true]
  exact verdict_ok _ h

theorem Encoding.ori p d a t imm : Encoding.Statement (.ori p d a t imm) := by
  intro h nb wd he
  have h : (Instr.ori p d a t imm).reason = 0 := by simpa [Instr.wf] using h
  refine Encoding.slot_reads 2 27 p [(d.toNat, 46), (a.toNat, 40), (t.toNat, 36), (imm.toNat, 0)] _ nb wd (by decide) (by decide) (ok_of_reason _ _ h) (by simp only [pack]; omega) ?_ he
  intro w h0 h1 h2
  simp (disch := first | decide | omega) only [slotClass, decodeClass, decodeScalar, h0, h1, h2, pack, fld_above, fld_here, fld_below, zeros, decide_true, BitVec.ofNat_toNat, BitVec.setWidth_eq, Bool.and_true, Bool.true_and, if_true]
  exact verdict_ok _ h

theorem Encoding.xori p d a t imm : Encoding.Statement (.xori p d a t imm) := by
  intro h nb wd he
  have h : (Instr.xori p d a t imm).reason = 0 := by simpa [Instr.wf] using h
  refine Encoding.slot_reads 2 28 p [(d.toNat, 46), (a.toNat, 40), (t.toNat, 36), (imm.toNat, 0)] _ nb wd (by decide) (by decide) (ok_of_reason _ _ h) (by simp only [pack]; omega) ?_ he
  intro w h0 h1 h2
  simp (disch := first | decide | omega) only [slotClass, decodeClass, decodeScalar, h0, h1, h2, pack, fld_above, fld_here, fld_below, zeros, decide_true, BitVec.ofNat_toNat, BitVec.setWidth_eq, Bool.and_true, Bool.true_and, if_true]
  exact verdict_ok _ h

theorem Encoding.shli p d a t imm : Encoding.Statement (.shli p d a t imm) := by
  intro h nb wd he
  have h : (Instr.shli p d a t imm).reason = 0 := by simpa [Instr.wf] using h
  refine Encoding.slot_reads 2 29 p [(d.toNat, 46), (a.toNat, 40), (t.toNat, 36), (imm.toNat, 0)] _ nb wd (by decide) (by decide) (ok_of_reason _ _ h) (by simp only [pack]; omega) ?_ he
  intro w h0 h1 h2
  simp (disch := first | decide | omega) only [slotClass, decodeClass, decodeScalar, h0, h1, h2, pack, fld_above, fld_here, fld_below, zeros, decide_true, BitVec.ofNat_toNat, BitVec.setWidth_eq, Bool.and_true, Bool.true_and, if_true]
  exact verdict_ok _ h

theorem Encoding.shri p d a t imm : Encoding.Statement (.shri p d a t imm) := by
  intro h nb wd he
  have h : (Instr.shri p d a t imm).reason = 0 := by simpa [Instr.wf] using h
  refine Encoding.slot_reads 2 30 p [(d.toNat, 46), (a.toNat, 40), (t.toNat, 36), (imm.toNat, 0)] _ nb wd (by decide) (by decide) (ok_of_reason _ _ h) (by simp only [pack]; omega) ?_ he
  intro w h0 h1 h2
  simp (disch := first | decide | omega) only [slotClass, decodeClass, decodeScalar, h0, h1, h2, pack, fld_above, fld_here, fld_below, zeros, decide_true, BitVec.ofNat_toNat, BitVec.setWidth_eq, Bool.and_true, Bool.true_and, if_true]
  exact verdict_ok _ h

theorem Encoding.shrai p d a t imm : Encoding.Statement (.shrai p d a t imm) := by
  intro h nb wd he
  have h : (Instr.shrai p d a t imm).reason = 0 := by simpa [Instr.wf] using h
  refine Encoding.slot_reads 2 31 p [(d.toNat, 46), (a.toNat, 40), (t.toNat, 36), (imm.toNat, 0)] _ nb wd (by decide) (by decide) (ok_of_reason _ _ h) (by simp only [pack]; omega) ?_ he
  intro w h0 h1 h2
  simp (disch := first | decide | omega) only [slotClass, decodeClass, decodeScalar, h0, h1, h2, pack, fld_above, fld_here, fld_below, zeros, decide_true, BitVec.ofNat_toNat, BitVec.setWidth_eq, Bool.and_true, Bool.true_and, if_true]
  exact verdict_ok _ h

theorem Encoding.movi p d t imm : Encoding.Statement (.movi p d t imm) := by
  intro h nb wd he
  have h : (Instr.movi p d t imm).reason = 0 := by simpa [Instr.wf] using h
  refine Encoding.slot_reads 2 32 p [(d.toNat, 46), (t.toNat, 36), (imm.toNat, 0)] _ nb wd (by decide) (by decide) (ok_of_reason _ _ h) (by simp only [pack]; omega) ?_ he
  intro w h0 h1 h2
  simp (disch := first | decide | omega) only [slotClass, decodeClass, decodeScalar, h0, h1, h2, pack, fld_above, fld_here, fld_below, zeros, decide_true, BitVec.ofNat_toNat, BitVec.setWidth_eq, Bool.and_true, Bool.true_and, if_true]
  exact verdict_ok _ h

theorem Encoding.movhi p d a imm : Encoding.Statement (.movhi p d a imm) := by
  intro h nb wd he
  have h : (Instr.movhi p d a imm).reason = 0 := by simpa [Instr.wf] using h
  refine Encoding.slot_reads 2 33 p [(d.toNat, 46), (a.toNat, 40), (7, 36), (imm.toNat, 0)] _ nb wd (by decide) (by decide) (ok_of_reason _ _ h) (by simp only [pack]; omega) ?_ he
  intro w h0 h1 h2
  simp (disch := first | decide | omega) only [slotClass, decodeClass, decodeScalar, h0, h1, h2, pack, fld_above, fld_here, fld_below, zeros, decide_true, BitVec.ofNat_toNat, BitVec.setWidth_eq, Bool.and_true, Bool.true_and, if_true]
  exact verdict_ok _ h

theorem Encoding.cmpi p d a cond t imm : Encoding.Statement (.cmpi p d a cond t imm) := by
  intro h nb wd he
  have h : (Instr.cmpi p d a cond t imm).reason = 0 := by simpa [Instr.wf] using h
  refine Encoding.slot_reads 2 34 p [(d.toNat, 46), (a.toNat, 40), (t.toNat, 36), (cond.toNat, 32), (imm.toNat, 0)] _ nb wd (by decide) (by decide) (ok_of_reason _ _ h) (by simp only [pack]; omega) ?_ he
  intro w h0 h1 h2
  simp (disch := first | decide | omega) only [slotClass, decodeClass, decodeScalar, h0, h1, h2, pack, fld_above, fld_here, fld_below, zeros, decide_true, BitVec.ofNat_toNat, BitVec.setWidth_eq, Bool.and_true, Bool.true_and, if_true]
  exact verdict_ok _ h

theorem Encoding.fadd p d a b t : Encoding.Statement (.fadd p d a b t) := by
  intro h nb wd he
  have h : (Instr.fadd p d a b t).reason = 0 := by simpa [Instr.wf] using h
  refine Encoding.slot_reads 2 35 p [(d.toNat, 46), (a.toNat, 40), (b.toNat, 34), (t.toNat, 16)] _ nb wd (by decide) (by decide) (ok_of_reason _ _ h) (by simp only [pack]; omega) ?_ he
  intro w h0 h1 h2
  simp (disch := first | decide | omega) only [slotClass, decodeClass, decodeScalar, h0, h1, h2, pack, fld_above, fld_here, fld_below, zeros, decide_true, BitVec.ofNat_toNat, BitVec.setWidth_eq, Bool.and_true, Bool.true_and, if_true]
  exact verdict_ok _ h

theorem Encoding.fsub p d a b t : Encoding.Statement (.fsub p d a b t) := by
  intro h nb wd he
  have h : (Instr.fsub p d a b t).reason = 0 := by simpa [Instr.wf] using h
  refine Encoding.slot_reads 2 36 p [(d.toNat, 46), (a.toNat, 40), (b.toNat, 34), (t.toNat, 16)] _ nb wd (by decide) (by decide) (ok_of_reason _ _ h) (by simp only [pack]; omega) ?_ he
  intro w h0 h1 h2
  simp (disch := first | decide | omega) only [slotClass, decodeClass, decodeScalar, h0, h1, h2, pack, fld_above, fld_here, fld_below, zeros, decide_true, BitVec.ofNat_toNat, BitVec.setWidth_eq, Bool.and_true, Bool.true_and, if_true]
  exact verdict_ok _ h

theorem Encoding.fmul p d a b t : Encoding.Statement (.fmul p d a b t) := by
  intro h nb wd he
  have h : (Instr.fmul p d a b t).reason = 0 := by simpa [Instr.wf] using h
  refine Encoding.slot_reads 2 37 p [(d.toNat, 46), (a.toNat, 40), (b.toNat, 34), (t.toNat, 16)] _ nb wd (by decide) (by decide) (ok_of_reason _ _ h) (by simp only [pack]; omega) ?_ he
  intro w h0 h1 h2
  simp (disch := first | decide | omega) only [slotClass, decodeClass, decodeScalar, h0, h1, h2, pack, fld_above, fld_here, fld_below, zeros, decide_true, BitVec.ofNat_toNat, BitVec.setWidth_eq, Bool.and_true, Bool.true_and, if_true]
  exact verdict_ok _ h

theorem Encoding.ffma p d a b c t : Encoding.Statement (.ffma p d a b c t) := by
  intro h nb wd he
  have h : (Instr.ffma p d a b c t).reason = 0 := by simpa [Instr.wf] using h
  refine Encoding.slot_reads 2 38 p [(d.toNat, 46), (a.toNat, 40), (b.toNat, 34), (c.toNat, 28), (t.toNat, 16)] _ nb wd (by decide) (by decide) (ok_of_reason _ _ h) (by simp only [pack]; omega) ?_ he
  intro w h0 h1 h2
  simp (disch := first | decide | omega) only [slotClass, decodeClass, decodeScalar, h0, h1, h2, pack, fld_above, fld_here, fld_below, zeros, decide_true, BitVec.ofNat_toNat, BitVec.setWidth_eq, Bool.and_true, Bool.true_and, if_true]
  exact verdict_ok _ h

theorem Encoding.fmin p d a b num t : Encoding.Statement (.fmin p d a b num t) := by
  intro h nb wd he
  have h : (Instr.fmin p d a b num t).reason = 0 := by simpa [Instr.wf] using h
  refine Encoding.slot_reads 2 39 p [(d.toNat, 46), (a.toNat, 40), (b.toNat, 34), (num.toNat, 20), (t.toNat, 16)] _ nb wd (by decide) (by decide) (ok_of_reason _ _ h) (by simp only [pack]; omega) ?_ he
  intro w h0 h1 h2
  simp (disch := first | decide | omega) only [slotClass, decodeClass, decodeScalar, h0, h1, h2, pack, fld_above, fld_here, fld_below, zeros, decide_true, BitVec.ofNat_toNat, BitVec.setWidth_eq, Bool.and_true, Bool.true_and, if_true]
  exact verdict_ok _ h

theorem Encoding.fmax p d a b num t : Encoding.Statement (.fmax p d a b num t) := by
  intro h nb wd he
  have h : (Instr.fmax p d a b num t).reason = 0 := by simpa [Instr.wf] using h
  refine Encoding.slot_reads 2 40 p [(d.toNat, 46), (a.toNat, 40), (b.toNat, 34), (num.toNat, 20), (t.toNat, 16)] _ nb wd (by decide) (by decide) (ok_of_reason _ _ h) (by simp only [pack]; omega) ?_ he
  intro w h0 h1 h2
  simp (disch := first | decide | omega) only [slotClass, decodeClass, decodeScalar, h0, h1, h2, pack, fld_above, fld_here, fld_below, zeros, decide_true, BitVec.ofNat_toNat, BitVec.setWidth_eq, Bool.and_true, Bool.true_and, if_true]
  exact verdict_ok _ h

theorem Encoding.fcmp p d a b cond t : Encoding.Statement (.fcmp p d a b cond t) := by
  intro h nb wd he
  have h : (Instr.fcmp p d a b cond t).reason = 0 := by simpa [Instr.wf] using h
  refine Encoding.slot_reads 2 41 p [(d.toNat, 46), (a.toNat, 40), (b.toNat, 34), (cond.toNat, 20), (t.toNat, 16)] _ nb wd (by decide) (by decide) (ok_of_reason _ _ h) (by simp only [pack]; omega) ?_ he
  intro w h0 h1 h2
  simp (disch := first | decide | omega) only [slotClass, decodeClass, decodeScalar, h0, h1, h2, pack, fld_above, fld_here, fld_below, zeros, decide_true, BitVec.ofNat_toNat, BitVec.setWidth_eq, Bool.and_true, Bool.true_and, if_true]
  exact verdict_ok _ h

theorem Encoding.fcvt p d a ts td : Encoding.Statement (.fcvt p d a ts td) := by
  intro h nb wd he
  have h : (Instr.fcvt p d a ts td).reason = 0 := by simpa [Instr.wf] using h
  refine Encoding.slot_reads 2 42 p [(d.toNat, 46), (a.toNat, 40), (ts.toNat, 20), (td.toNat, 16)] _ nb wd (by decide) (by decide) (ok_of_reason _ _ h) (by simp only [pack]; omega) ?_ he
  intro w h0 h1 h2
  simp (disch := first | decide | omega) only [slotClass, decodeClass, decodeScalar, h0, h1, h2, pack, fld_above, fld_here, fld_below, zeros, decide_true, BitVec.ofNat_toNat, BitVec.setWidth_eq, Bool.and_true, Bool.true_and, if_true]
  exact verdict_ok _ h

theorem Encoding.fclass p d a t : Encoding.Statement (.fclass p d a t) := by
  intro h nb wd he
  have h : (Instr.fclass p d a t).reason = 0 := by simpa [Instr.wf] using h
  refine Encoding.slot_reads 2 43 p [(d.toNat, 46), (a.toNat, 40), (t.toNat, 16)] _ nb wd (by decide) (by decide) (ok_of_reason _ _ h) (by simp only [pack]; omega) ?_ he
  intro w h0 h1 h2
  simp (disch := first | decide | omega) only [slotClass, decodeClass, decodeScalar, h0, h1, h2, pack, fld_above, fld_here, fld_below, zeros, decide_true, BitVec.ofNat_toNat, BitVec.setWidth_eq, Bool.and_true, Bool.true_and, if_true]
  exact verdict_ok _ h

theorem Encoding.pand p d a b : Encoding.Statement (.pand p d a b) := by
  intro h nb wd he
  have h : (Instr.pand p d a b).reason = 0 := by simpa [Instr.wf] using h
  refine Encoding.slot_reads 2 44 p [(d.toNat, 46), (a.toNat, 40), (b.toNat, 34)] _ nb wd (by decide) (by decide) (ok_of_reason _ _ h) (by simp only [pack]; omega) ?_ he
  intro w h0 h1 h2
  simp (disch := first | decide | omega) only [slotClass, decodeClass, decodeScalar, h0, h1, h2, pack, fld_above, fld_here, fld_below, zeros, decide_true, BitVec.ofNat_toNat, BitVec.setWidth_eq, Bool.and_true, Bool.true_and, if_true]
  exact verdict_ok _ h

theorem Encoding.por p d a b : Encoding.Statement (.por p d a b) := by
  intro h nb wd he
  have h : (Instr.por p d a b).reason = 0 := by simpa [Instr.wf] using h
  refine Encoding.slot_reads 2 45 p [(d.toNat, 46), (a.toNat, 40), (b.toNat, 34)] _ nb wd (by decide) (by decide) (ok_of_reason _ _ h) (by simp only [pack]; omega) ?_ he
  intro w h0 h1 h2
  simp (disch := first | decide | omega) only [slotClass, decodeClass, decodeScalar, h0, h1, h2, pack, fld_above, fld_here, fld_below, zeros, decide_true, BitVec.ofNat_toNat, BitVec.setWidth_eq, Bool.and_true, Bool.true_and, if_true]
  exact verdict_ok _ h

theorem Encoding.pxor p d a b : Encoding.Statement (.pxor p d a b) := by
  intro h nb wd he
  have h : (Instr.pxor p d a b).reason = 0 := by simpa [Instr.wf] using h
  refine Encoding.slot_reads 2 46 p [(d.toNat, 46), (a.toNat, 40), (b.toNat, 34)] _ nb wd (by decide) (by decide) (ok_of_reason _ _ h) (by simp only [pack]; omega) ?_ he
  intro w h0 h1 h2
  simp (disch := first | decide | omega) only [slotClass, decodeClass, decodeScalar, h0, h1, h2, pack, fld_above, fld_here, fld_below, zeros, decide_true, BitVec.ofNat_toNat, BitVec.setWidth_eq, Bool.and_true, Bool.true_and, if_true]
  exact verdict_ok _ h

theorem Encoding.pandn p d a b : Encoding.Statement (.pandn p d a b) := by
  intro h nb wd he
  have h : (Instr.pandn p d a b).reason = 0 := by simpa [Instr.wf] using h
  refine Encoding.slot_reads 2 47 p [(d.toNat, 46), (a.toNat, 40), (b.toNat, 34)] _ nb wd (by decide) (by decide) (ok_of_reason _ _ h) (by simp only [pack]; omega) ?_ he
  intro w h0 h1 h2
  simp (disch := first | decide | omega) only [slotClass, decodeClass, decodeScalar, h0, h1, h2, pack, fld_above, fld_here, fld_below, zeros, decide_true, BitVec.ofNat_toNat, BitVec.setWidth_eq, Bool.and_true, Bool.true_and, if_true]
  exact verdict_ok _ h

theorem Encoding.pcnt p d a : Encoding.Statement (.pcnt p d a) := by
  intro h nb wd he
  have h : (Instr.pcnt p d a).reason = 0 := by simpa [Instr.wf] using h
  refine Encoding.slot_reads 2 48 p [(d.toNat, 46), (a.toNat, 40)] _ nb wd (by decide) (by decide) (ok_of_reason _ _ h) (by simp only [pack]; omega) ?_ he
  intro w h0 h1 h2
  simp (disch := first | decide | omega) only [slotClass, decodeClass, decodeScalar, h0, h1, h2, pack, fld_above, fld_here, fld_below, zeros, decide_true, BitVec.ofNat_toNat, BitVec.setWidth_eq, Bool.and_true, Bool.true_and, if_true]
  exact verdict_ok _ h

theorem Encoding.pfirst p d a : Encoding.Statement (.pfirst p d a) := by
  intro h nb wd he
  have h : (Instr.pfirst p d a).reason = 0 := by simpa [Instr.wf] using h
  refine Encoding.slot_reads 2 49 p [(d.toNat, 46), (a.toNat, 40)] _ nb wd (by decide) (by decide) (ok_of_reason _ _ h) (by simp only [pack]; omega) ?_ he
  intro w h0 h1 h2
  simp (disch := first | decide | omega) only [slotClass, decodeClass, decodeScalar, h0, h1, h2, pack, fld_above, fld_here, fld_below, zeros, decide_true, BitVec.ofNat_toNat, BitVec.setWidth_eq, Bool.and_true, Bool.true_and, if_true]
  exact verdict_ok _ h

theorem Encoding.movps p d a : Encoding.Statement (.movps p d a) := by
  intro h nb wd he
  have h : (Instr.movps p d a).reason = 0 := by simpa [Instr.wf] using h
  refine Encoding.slot_reads 2 50 p [(d.toNat, 46), (a.toNat, 40)] _ nb wd (by decide) (by decide) (ok_of_reason _ _ h) (by simp only [pack]; omega) ?_ he
  intro w h0 h1 h2
  simp (disch := first | decide | omega) only [slotClass, decodeClass, decodeScalar, h0, h1, h2, pack, fld_above, fld_here, fld_below, zeros, decide_true, BitVec.ofNat_toNat, BitVec.setWidth_eq, Bool.and_true, Bool.true_and, if_true]
  exact verdict_ok _ h

theorem Encoding.movsp p d a : Encoding.Statement (.movsp p d a) := by
  intro h nb wd he
  have h : (Instr.movsp p d a).reason = 0 := by simpa [Instr.wf] using h
  refine Encoding.slot_reads 2 51 p [(d.toNat, 46), (a.toNat, 40)] _ nb wd (by decide) (by decide) (ok_of_reason _ _ h) (by simp only [pack]; omega) ?_ he
  intro w h0 h1 h2
  simp (disch := first | decide | omega) only [slotClass, decodeClass, decodeScalar, h0, h1, h2, pack, fld_above, fld_here, fld_below, zeros, decide_true, BitVec.ofNat_toNat, BitVec.setWidth_eq, Bool.and_true, Bool.true_and, if_true]
  exact verdict_ok _ h

theorem Encoding.movsys p d num : Encoding.Statement (.movsys p d num) := by
  intro h nb wd he
  have h : (Instr.movsys p d num).reason = 0 := by simpa [Instr.wf] using h
  refine Encoding.slot_reads 2 52 p [(d.toNat, 46), (num.toNat, 0)] _ nb wd (by decide) (by decide) (ok_of_reason _ _ h) (by simp only [pack]; omega) ?_ he
  intro w h0 h1 h2
  simp (disch := first | decide | omega) only [slotClass, decodeClass, decodeScalar, h0, h1, h2, pack, fld_above, fld_here, fld_below, zeros, decide_true, BitVec.ofNat_toNat, BitVec.setWidth_eq, Bool.and_true, Bool.true_and, if_true]
  exact verdict_ok _ h

theorem Encoding.setsys p a num : Encoding.Statement (.setsys p a num) := by
  intro h nb wd he
  have h : (Instr.setsys p a num).reason = 0 := by simpa [Instr.wf] using h
  refine Encoding.slot_reads 2 53 p [(a.toNat, 40), (num.toNat, 0)] _ nb wd (by decide) (by decide) (ok_of_reason _ _ h) (by simp only [pack]; omega) ?_ he
  intro w h0 h1 h2
  simp (disch := first | decide | omega) only [slotClass, decodeClass, decodeScalar, h0, h1, h2, pack, fld_above, fld_here, fld_below, zeros, decide_true, BitVec.ofNat_toNat, BitVec.setWidth_eq, Bool.and_true, Bool.true_and, if_true]
  exact verdict_ok _ h

theorem Encoding.ld p d a x t sc off : Encoding.Statement (.ld p d a x t sc off) := by
  intro h nb wd he
  have h : (Instr.ld p d a x t sc off).reason = 0 := by simpa [Instr.wf] using h
  refine Encoding.slot_reads 2 54 p [(d.toNat, 46), (a.toNat, 40), (x.toNat, 34), (t.toNat, 30), (sc.toNat, 27), (off.toNat, 0)] _ nb wd (by decide) (by decide) (ok_of_reason _ _ h) (by simp only [pack]; omega) ?_ he
  intro w h0 h1 h2
  simp (disch := first | decide | omega) only [slotClass, decodeClass, decodeScalar, h0, h1, h2, pack, fld_above, fld_here, fld_below, zeros, decide_true, BitVec.ofNat_toNat, BitVec.setWidth_eq, Bool.and_true, Bool.true_and, if_true]
  exact verdict_ok _ h

theorem Encoding.st p d a x t sc off : Encoding.Statement (.st p d a x t sc off) := by
  intro h nb wd he
  have h : (Instr.st p d a x t sc off).reason = 0 := by simpa [Instr.wf] using h
  refine Encoding.slot_reads 2 55 p [(d.toNat, 46), (a.toNat, 40), (x.toNat, 34), (t.toNat, 30), (sc.toNat, 27), (off.toNat, 0)] _ nb wd (by decide) (by decide) (ok_of_reason _ _ h) (by simp only [pack]; omega) ?_ he
  intro w h0 h1 h2
  simp (disch := first | decide | omega) only [slotClass, decodeClass, decodeScalar, h0, h1, h2, pack, fld_above, fld_here, fld_below, zeros, decide_true, BitVec.ofNat_toNat, BitVec.setWidth_eq, Bool.and_true, Bool.true_and, if_true]
  exact verdict_ok _ h

theorem Encoding.stnt p d a x t sc off : Encoding.Statement (.stnt p d a x t sc off) := by
  intro h nb wd he
  have h : (Instr.stnt p d a x t sc off).reason = 0 := by simpa [Instr.wf] using h
  refine Encoding.slot_reads 2 56 p [(d.toNat, 46), (a.toNat, 40), (x.toNat, 34), (t.toNat, 30), (sc.toNat, 27), (off.toNat, 0)] _ nb wd (by decide) (by decide) (ok_of_reason _ _ h) (by simp only [pack]; omega) ?_ he
  intro w h0 h1 h2
  simp (disch := first | decide | omega) only [slotClass, decodeClass, decodeScalar, h0, h1, h2, pack, fld_above, fld_here, fld_below, zeros, decide_true, BitVec.ofNat_toNat, BitVec.setWidth_eq, Bool.and_true, Bool.true_and, if_true]
  exact verdict_ok _ h

theorem Encoding.stcmb p d a x t sc ms off : Encoding.Statement (.stcmb p d a x t sc ms off) := by
  intro h nb wd he
  have h : (Instr.stcmb p d a x t sc ms off).reason = 0 := by simpa [Instr.wf] using h
  refine Encoding.slot_reads 2 57 p [(d.toNat, 46), (a.toNat, 40), (x.toNat, 34), (t.toNat, 30), (sc.toNat, 27), (ms.toNat, 24), (off.toNat, 0)] _ nb wd (by decide) (by decide) (ok_of_reason _ _ h) (by simp only [pack]; omega) ?_ he
  intro w h0 h1 h2
  simp (disch := first | decide | omega) only [slotClass, decodeClass, decodeScalar, h0, h1, h2, pack, fld_above, fld_here, fld_below, zeros, decide_true, BitVec.ofNat_toNat, BitVec.setWidth_eq, Bool.and_true, Bool.true_and, if_true]
  exact verdict_ok _ h

theorem Encoding.vadd p d a b sat t : Encoding.Statement (.vadd p d a b sat t) := by
  intro h nb wd he
  have h : (Instr.vadd p d a b sat t).reason = 0 := by simpa [Instr.wf] using h
  refine Encoding.slot_reads 4 1 p [(d.toNat, 46), (a.toNat, 40), (b.toNat, 34), (sat.toNat, 20), (t.toNat, 16)] _ nb wd (by decide) (by decide) (ok_of_reason _ _ h) (by simp only [pack]; omega) ?_ he
  intro w h0 h1 h2
  simp (disch := first | decide | omega) only [slotClass, decodeClass, decodeVector, h0, h1, h2, pack, fld_above, fld_here, fld_below, zeros, decide_true, BitVec.ofNat_toNat, BitVec.setWidth_eq, Bool.and_true, Bool.true_and, if_true]
  exact verdict_ok _ h

theorem Encoding.vsub p d a b sat t : Encoding.Statement (.vsub p d a b sat t) := by
  intro h nb wd he
  have h : (Instr.vsub p d a b sat t).reason = 0 := by simpa [Instr.wf] using h
  refine Encoding.slot_reads 4 2 p [(d.toNat, 46), (a.toNat, 40), (b.toNat, 34), (sat.toNat, 20), (t.toNat, 16)] _ nb wd (by decide) (by decide) (ok_of_reason _ _ h) (by simp only [pack]; omega) ?_ he
  intro w h0 h1 h2
  simp (disch := first | decide | omega) only [slotClass, decodeClass, decodeVector, h0, h1, h2, pack, fld_above, fld_here, fld_below, zeros, decide_true, BitVec.ofNat_toNat, BitVec.setWidth_eq, Bool.and_true, Bool.true_and, if_true]
  exact verdict_ok _ h

theorem Encoding.vmul p d a b t : Encoding.Statement (.vmul p d a b t) := by
  intro h nb wd he
  have h : (Instr.vmul p d a b t).reason = 0 := by simpa [Instr.wf] using h
  refine Encoding.slot_reads 4 3 p [(d.toNat, 46), (a.toNat, 40), (b.toNat, 34), (t.toNat, 16)] _ nb wd (by decide) (by decide) (ok_of_reason _ _ h) (by simp only [pack]; omega) ?_ he
  intro w h0 h1 h2
  simp (disch := first | decide | omega) only [slotClass, decodeClass, decodeVector, h0, h1, h2, pack, fld_above, fld_here, fld_below, zeros, decide_true, BitVec.ofNat_toNat, BitVec.setWidth_eq, Bool.and_true, Bool.true_and, if_true]
  exact verdict_ok _ h

theorem Encoding.vmulh p d a b t : Encoding.Statement (.vmulh p d a b t) := by
  intro h nb wd he
  have h : (Instr.vmulh p d a b t).reason = 0 := by simpa [Instr.wf] using h
  refine Encoding.slot_reads 4 4 p [(d.toNat, 46), (a.toNat, 40), (b.toNat, 34), (t.toNat, 16)] _ nb wd (by decide) (by decide) (ok_of_reason _ _ h) (by simp only [pack]; omega) ?_ he
  intro w h0 h1 h2
  simp (disch := first | decide | omega) only [slotClass, decodeClass, decodeVector, h0, h1, h2, pack, fld_above, fld_here, fld_below, zeros, decide_true, BitVec.ofNat_toNat, BitVec.setWidth_eq, Bool.and_true, Bool.true_and, if_true]
  exact verdict_ok _ h

theorem Encoding.vshl p d a b t : Encoding.Statement (.vshl p d a b t) := by
  intro h nb wd he
  have h : (Instr.vshl p d a b t).reason = 0 := by simpa [Instr.wf] using h
  refine Encoding.slot_reads 4 8 p [(d.toNat, 46), (a.toNat, 40), (b.toNat, 34), (t.toNat, 16)] _ nb wd (by decide) (by decide) (ok_of_reason _ _ h) (by simp only [pack]; omega) ?_ he
  intro w h0 h1 h2
  simp (disch := first | decide | omega) only [slotClass, decodeClass, decodeVector, h0, h1, h2, pack, fld_above, fld_here, fld_below, zeros, decide_true, BitVec.ofNat_toNat, BitVec.setWidth_eq, Bool.and_true, Bool.true_and, if_true]
  exact verdict_ok _ h

theorem Encoding.vshr p d a b t : Encoding.Statement (.vshr p d a b t) := by
  intro h nb wd he
  have h : (Instr.vshr p d a b t).reason = 0 := by simpa [Instr.wf] using h
  refine Encoding.slot_reads 4 9 p [(d.toNat, 46), (a.toNat, 40), (b.toNat, 34), (t.toNat, 16)] _ nb wd (by decide) (by decide) (ok_of_reason _ _ h) (by simp only [pack]; omega) ?_ he
  intro w h0 h1 h2
  simp (disch := first | decide | omega) only [slotClass, decodeClass, decodeVector, h0, h1, h2, pack, fld_above, fld_here, fld_below, zeros, decide_true, BitVec.ofNat_toNat, BitVec.setWidth_eq, Bool.and_true, Bool.true_and, if_true]
  exact verdict_ok _ h

theorem Encoding.vmin p d a b t : Encoding.Statement (.vmin p d a b t) := by
  intro h nb wd he
  have h : (Instr.vmin p d a b t).reason = 0 := by simpa [Instr.wf] using h
  refine Encoding.slot_reads 4 11 p [(d.toNat, 46), (a.toNat, 40), (b.toNat, 34), (t.toNat, 16)] _ nb wd (by decide) (by decide) (ok_of_reason _ _ h) (by simp only [pack]; omega) ?_ he
  intro w h0 h1 h2
  simp (disch := first | decide | omega) only [slotClass, decodeClass, decodeVector, h0, h1, h2, pack, fld_above, fld_here, fld_below, zeros, decide_true, BitVec.ofNat_toNat, BitVec.setWidth_eq, Bool.and_true, Bool.true_and, if_true]
  exact verdict_ok _ h

theorem Encoding.vmax p d a b t : Encoding.Statement (.vmax p d a b t) := by
  intro h nb wd he
  have h : (Instr.vmax p d a b t).reason = 0 := by simpa [Instr.wf] using h
  refine Encoding.slot_reads 4 12 p [(d.toNat, 46), (a.toNat, 40), (b.toNat, 34), (t.toNat, 16)] _ nb wd (by decide) (by decide) (ok_of_reason _ _ h) (by simp only [pack]; omega) ?_ he
  intro w h0 h1 h2
  simp (disch := first | decide | omega) only [slotClass, decodeClass, decodeVector, h0, h1, h2, pack, fld_above, fld_here, fld_below, zeros, decide_true, BitVec.ofNat_toNat, BitVec.setWidth_eq, Bool.and_true, Bool.true_and, if_true]
  exact verdict_ok _ h

theorem Encoding.vand p d a b : Encoding.Statement (.vand p d a b) := by
  intro h nb wd he
  have h : (Instr.vand p d a b).reason = 0 := by simpa [Instr.wf] using h
  refine Encoding.slot_reads 4 5 p [(d.toNat, 46), (a.toNat, 40), (b.toNat, 34), (5, 16)] _ nb wd (by decide) (by decide) (ok_of_reason _ _ h) (by simp only [pack]; omega) ?_ he
  intro w h0 h1 h2
  simp (disch := first | decide | omega) only [slotClass, decodeClass, decodeVector, h0, h1, h2, pack, fld_above, fld_here, fld_below, zeros, decide_true, BitVec.ofNat_toNat, BitVec.setWidth_eq, Bool.and_true, Bool.true_and, if_true]
  exact verdict_ok _ h

theorem Encoding.vor p d a b : Encoding.Statement (.vor p d a b) := by
  intro h nb wd he
  have h : (Instr.vor p d a b).reason = 0 := by simpa [Instr.wf] using h
  refine Encoding.slot_reads 4 6 p [(d.toNat, 46), (a.toNat, 40), (b.toNat, 34), (5, 16)] _ nb wd (by decide) (by decide) (ok_of_reason _ _ h) (by simp only [pack]; omega) ?_ he
  intro w h0 h1 h2
  simp (disch := first | decide | omega) only [slotClass, decodeClass, decodeVector, h0, h1, h2, pack, fld_above, fld_here, fld_below, zeros, decide_true, BitVec.ofNat_toNat, BitVec.setWidth_eq, Bool.and_true, Bool.true_and, if_true]
  exact verdict_ok _ h

theorem Encoding.vxor p d a b : Encoding.Statement (.vxor p d a b) := by
  intro h nb wd he
  have h : (Instr.vxor p d a b).reason = 0 := by simpa [Instr.wf] using h
  refine Encoding.slot_reads 4 7 p [(d.toNat, 46), (a.toNat, 40), (b.toNat, 34), (5, 16)] _ nb wd (by decide) (by decide) (ok_of_reason _ _ h) (by simp only [pack]; omega) ?_ he
  intro w h0 h1 h2
  simp (disch := first | decide | omega) only [slotClass, decodeClass, decodeVector, h0, h1, h2, pack, fld_above, fld_here, fld_below, zeros, decide_true, BitVec.ofNat_toNat, BitVec.setWidth_eq, Bool.and_true, Bool.true_and, if_true]
  exact verdict_ok _ h

theorem Encoding.vshra p d a b t : Encoding.Statement (.vshra p d a b t) := by
  intro h nb wd he
  have h : (Instr.vshra p d a b t).reason = 0 := by simpa [Instr.wf] using h
  refine Encoding.slot_reads 4 10 p [(d.toNat, 46), (a.toNat, 40), (b.toNat, 34), (t.toNat, 16)] _ nb wd (by decide) (by decide) (ok_of_reason _ _ h) (by simp only [pack]; omega) ?_ he
  intro w h0 h1 h2
  simp (disch := first | decide | omega) only [slotClass, decodeClass, decodeVector, h0, h1, h2, pack, fld_above, fld_here, fld_below, zeros, decide_true, BitVec.ofNat_toNat, BitVec.setWidth_eq, Bool.and_true, Bool.true_and, if_true]
  exact verdict_ok _ h

theorem Encoding.vabs p d a sat t : Encoding.Statement (.vabs p d a sat t) := by
  intro h nb wd he
  have h : (Instr.vabs p d a sat t).reason = 0 := by simpa [Instr.wf] using h
  refine Encoding.slot_reads 4 13 p [(d.toNat, 46), (a.toNat, 40), (sat.toNat, 20), (t.toNat, 16)] _ nb wd (by decide) (by decide) (ok_of_reason _ _ h) (by simp only [pack]; omega) ?_ he
  intro w h0 h1 h2
  simp (disch := first | decide | omega) only [slotClass, decodeClass, decodeVector, h0, h1, h2, pack, fld_above, fld_here, fld_below, zeros, decide_true, BitVec.ofNat_toNat, BitVec.setWidth_eq, Bool.and_true, Bool.true_and, if_true]
  exact verdict_ok _ h

theorem Encoding.vcmp p d a b cond t : Encoding.Statement (.vcmp p d a b cond t) := by
  intro h nb wd he
  have h : (Instr.vcmp p d a b cond t).reason = 0 := by simpa [Instr.wf] using h
  refine Encoding.slot_reads 4 14 p [(d.toNat, 46), (a.toNat, 40), (b.toNat, 34), (cond.toNat, 20), (t.toNat, 16)] _ nb wd (by decide) (by decide) (ok_of_reason _ _ h) (by simp only [pack]; omega) ?_ he
  intro w h0 h1 h2
  simp (disch := first | decide | omega) only [slotClass, decodeClass, decodeVector, h0, h1, h2, pack, fld_above, fld_here, fld_below, zeros, decide_true, BitVec.ofNat_toNat, BitVec.setWidth_eq, Bool.and_true, Bool.true_and, if_true]
  exact verdict_ok _ h

theorem Encoding.vsel p d a b c : Encoding.Statement (.vsel p d a b c) := by
  intro h nb wd he
  have h : (Instr.vsel p d a b c).reason = 0 := by simpa [Instr.wf] using h
  refine Encoding.slot_reads 4 15 p [(d.toNat, 46), (a.toNat, 40), (b.toNat, 34), (c.toNat, 28), (5, 16)] _ nb wd (by decide) (by decide) (ok_of_reason _ _ h) (by simp only [pack]; omega) ?_ he
  intro w h0 h1 h2
  simp (disch := first | decide | omega) only [slotClass, decodeClass, decodeVector, h0, h1, h2, pack, fld_above, fld_here, fld_below, zeros, decide_true, BitVec.ofNat_toNat, BitVec.setWidth_eq, Bool.and_true, Bool.true_and, if_true]
  exact verdict_ok _ h

theorem Encoding.vdot4 p d a b c sat t : Encoding.Statement (.vdot4 p d a b c sat t) := by
  intro h nb wd he
  have h : (Instr.vdot4 p d a b c sat t).reason = 0 := by simpa [Instr.wf] using h
  refine Encoding.slot_reads 4 16 p [(d.toNat, 46), (a.toNat, 40), (b.toNat, 34), (c.toNat, 28), (sat.toNat, 20), (t.toNat, 16)] _ nb wd (by decide) (by decide) (ok_of_reason _ _ h) (by simp only [pack]; omega) ?_ he
  intro w h0 h1 h2
  simp (disch := first | decide | omega) only [slotClass, decodeClass, decodeVector, h0, h1, h2, pack, fld_above, fld_here, fld_below, zeros, decide_true, BitVec.ofNat_toNat, BitVec.setWidth_eq, Bool.and_true, Bool.true_and, if_true]
  exact verdict_ok _ h

theorem Encoding.vsatn p d a b uns t : Encoding.Statement (.vsatn p d a b uns t) := by
  intro h nb wd he
  have h : (Instr.vsatn p d a b uns t).reason = 0 := by simpa [Instr.wf] using h
  refine Encoding.slot_reads 4 17 p [(d.toNat, 46), (a.toNat, 40), (b.toNat, 34), (uns.toNat, 20), (t.toNat, 16)] _ nb wd (by decide) (by decide) (ok_of_reason _ _ h) (by simp only [pack]; omega) ?_ he
  intro w h0 h1 h2
  simp (disch := first | decide | omega) only [slotClass, decodeClass, decodeVector, h0, h1, h2, pack, fld_above, fld_here, fld_below, zeros, decide_true, BitVec.ofNat_toNat, BitVec.setWidth_eq, Bool.and_true, Bool.true_and, if_true]
  exact verdict_ok _ h

theorem Encoding.vwiden p d a part t : Encoding.Statement (.vwiden p d a part t) := by
  intro h nb wd he
  have h : (Instr.vwiden p d a part t).reason = 0 := by simpa [Instr.wf] using h
  refine Encoding.slot_reads 4 18 p [(d.toNat, 46), (a.toNat, 40), (part.toNat, 20), (t.toNat, 16)] _ nb wd (by decide) (by decide) (ok_of_reason _ _ h) (by simp only [pack]; omega) ?_ he
  intro w h0 h1 h2
  simp (disch := first | decide | omega) only [slotClass, decodeClass, decodeVector, h0, h1, h2, pack, fld_above, fld_here, fld_below, zeros, decide_true, BitVec.ofNat_toNat, BitVec.setWidth_eq, Bool.and_true, Bool.true_and, if_true]
  exact verdict_ok _ h

theorem Encoding.vpack p d a b t : Encoding.Statement (.vpack p d a b t) := by
  intro h nb wd he
  have h : (Instr.vpack p d a b t).reason = 0 := by simpa [Instr.wf] using h
  refine Encoding.slot_reads 4 19 p [(d.toNat, 46), (a.toNat, 40), (b.toNat, 34), (t.toNat, 16)] _ nb wd (by decide) (by decide) (ok_of_reason _ _ h) (by simp only [pack]; omega) ?_ he
  intro w h0 h1 h2
  have h13 : ¬ t.toNat = 13 := by
    intro e
    have h : firstFail [(3, p.ok), (5, decide (d.toNat < 48)), (6, decide (t.toNat ≤ 3))] = 0 := h
    simp only [firstFail, e] at h
    revert h
    cases p.ok <;> simp <;> split <;> simp
  simp (disch := first | decide | omega) only [slotClass, decodeClass, decodeVector, h0, h1, h2, pack, fld_above, fld_here, fld_below, zeros, decide_true, BitVec.ofNat_toNat, BitVec.setWidth_eq, Bool.and_true, Bool.true_and, if_true, h13, if_false]
  exact verdict_ok _ h

theorem Encoding.vpackT2 p d a part : Encoding.Statement (.vpackT2 p d a part) := by
  intro h nb wd he
  have h : (Instr.vpackT2 p d a part).reason = 0 := by simpa [Instr.wf] using h
  refine Encoding.slot_reads 4 19 p [(d.toNat, 46), (a.toNat, 40), (part.toNat, 20), (13, 16)] _ nb wd (by decide) (by decide) (ok_of_reason _ _ h) (by simp only [pack]; omega) ?_ he
  intro w h0 h1 h2
  simp (disch := first | decide | omega) only [slotClass, decodeClass, decodeVector, h0, h1, h2, pack, fld_above, fld_here, fld_below, zeros, decide_true, BitVec.ofNat_toNat, BitVec.setWidth_eq, Bool.and_true, Bool.true_and, if_true]
  exact verdict_ok _ h

theorem Encoding.vunpack p d a part : Encoding.Statement (.vunpack p d a part) := by
  intro h nb wd he
  have h : (Instr.vunpack p d a part).reason = 0 := by simpa [Instr.wf] using h
  refine Encoding.slot_reads 4 20 p [(d.toNat, 46), (a.toNat, 40), (part.toNat, 20), (13, 16)] _ nb wd (by decide) (by decide) (ok_of_reason _ _ h) (by simp only [pack]; omega) ?_ he
  intro w h0 h1 h2
  simp (disch := first | decide | omega) only [slotClass, decodeClass, decodeVector, h0, h1, h2, pack, fld_above, fld_here, fld_below, zeros, decide_true, BitVec.ofNat_toNat, BitVec.setWidth_eq, Bool.and_true, Bool.true_and, if_true]
  exact verdict_ok _ h

theorem Encoding.vfadd p d a b t : Encoding.Statement (.vfadd p d a b t) := by
  intro h nb wd he
  have h : (Instr.vfadd p d a b t).reason = 0 := by simpa [Instr.wf] using h
  refine Encoding.slot_reads 4 21 p [(d.toNat, 46), (a.toNat, 40), (b.toNat, 34), (t.toNat, 16)] _ nb wd (by decide) (by decide) (ok_of_reason _ _ h) (by simp only [pack]; omega) ?_ he
  intro w h0 h1 h2
  simp (disch := first | decide | omega) only [slotClass, decodeClass, decodeVector, h0, h1, h2, pack, fld_above, fld_here, fld_below, zeros, decide_true, BitVec.ofNat_toNat, BitVec.setWidth_eq, Bool.and_true, Bool.true_and, if_true]
  exact verdict_ok _ h

theorem Encoding.vfsub p d a b t : Encoding.Statement (.vfsub p d a b t) := by
  intro h nb wd he
  have h : (Instr.vfsub p d a b t).reason = 0 := by simpa [Instr.wf] using h
  refine Encoding.slot_reads 4 22 p [(d.toNat, 46), (a.toNat, 40), (b.toNat, 34), (t.toNat, 16)] _ nb wd (by decide) (by decide) (ok_of_reason _ _ h) (by simp only [pack]; omega) ?_ he
  intro w h0 h1 h2
  simp (disch := first | decide | omega) only [slotClass, decodeClass, decodeVector, h0, h1, h2, pack, fld_above, fld_here, fld_below, zeros, decide_true, BitVec.ofNat_toNat, BitVec.setWidth_eq, Bool.and_true, Bool.true_and, if_true]
  exact verdict_ok _ h

theorem Encoding.vfmul p d a b t : Encoding.Statement (.vfmul p d a b t) := by
  intro h nb wd he
  have h : (Instr.vfmul p d a b t).reason = 0 := by simpa [Instr.wf] using h
  refine Encoding.slot_reads 4 23 p [(d.toNat, 46), (a.toNat, 40), (b.toNat, 34), (t.toNat, 16)] _ nb wd (by decide) (by decide) (ok_of_reason _ _ h) (by simp only [pack]; omega) ?_ he
  intro w h0 h1 h2
  simp (disch := first | decide | omega) only [slotClass, decodeClass, decodeVector, h0, h1, h2, pack, fld_above, fld_here, fld_below, zeros, decide_true, BitVec.ofNat_toNat, BitVec.setWidth_eq, Bool.and_true, Bool.true_and, if_true]
  exact verdict_ok _ h

theorem Encoding.vffma p d a b c t : Encoding.Statement (.vffma p d a b c t) := by
  intro h nb wd he
  have h : (Instr.vffma p d a b c t).reason = 0 := by simpa [Instr.wf] using h
  refine Encoding.slot_reads 4 24 p [(d.toNat, 46), (a.toNat, 40), (b.toNat, 34), (c.toNat, 28), (t.toNat, 16)] _ nb wd (by decide) (by decide) (ok_of_reason _ _ h) (by simp only [pack]; omega) ?_ he
  intro w h0 h1 h2
  simp (disch := first | decide | omega) only [slotClass, decodeClass, decodeVector, h0, h1, h2, pack, fld_above, fld_here, fld_below, zeros, decide_true, BitVec.ofNat_toNat, BitVec.setWidth_eq, Bool.and_true, Bool.true_and, if_true]
  exact verdict_ok _ h

theorem Encoding.vfmin p d a b num t : Encoding.Statement (.vfmin p d a b num t) := by
  intro h nb wd he
  have h : (Instr.vfmin p d a b num t).reason = 0 := by simpa [Instr.wf] using h
  refine Encoding.slot_reads 4 25 p [(d.toNat, 46), (a.toNat, 40), (b.toNat, 34), (num.toNat, 20), (t.toNat, 16)] _ nb wd (by decide) (by decide) (ok_of_reason _ _ h) (by simp only [pack]; omega) ?_ he
  intro w h0 h1 h2
  simp (disch := first | decide | omega) only [slotClass, decodeClass, decodeVector, h0, h1, h2, pack, fld_above, fld_here, fld_below, zeros, decide_true, BitVec.ofNat_toNat, BitVec.setWidth_eq, Bool.and_true, Bool.true_and, if_true]
  exact verdict_ok _ h

theorem Encoding.vfmax p d a b num t : Encoding.Statement (.vfmax p d a b num t) := by
  intro h nb wd he
  have h : (Instr.vfmax p d a b num t).reason = 0 := by simpa [Instr.wf] using h
  refine Encoding.slot_reads 4 26 p [(d.toNat, 46), (a.toNat, 40), (b.toNat, 34), (num.toNat, 20), (t.toNat, 16)] _ nb wd (by decide) (by decide) (ok_of_reason _ _ h) (by simp only [pack]; omega) ?_ he
  intro w h0 h1 h2
  simp (disch := first | decide | omega) only [slotClass, decodeClass, decodeVector, h0, h1, h2, pack, fld_above, fld_here, fld_below, zeros, decide_true, BitVec.ofNat_toNat, BitVec.setWidth_eq, Bool.and_true, Bool.true_and, if_true]
  exact verdict_ok _ h

theorem Encoding.vfcmp p d a b cond : Encoding.Statement (.vfcmp p d a b cond) := by
  intro h nb wd he
  have h : (Instr.vfcmp p d a b cond).reason = 0 := by simpa [Instr.wf] using h
  refine Encoding.slot_reads 4 27 p [(d.toNat, 46), (a.toNat, 40), (b.toNat, 34), (cond.toNat, 20), (8, 16)] _ nb wd (by decide) (by decide) (ok_of_reason _ _ h) (by simp only [pack]; omega) ?_ he
  intro w h0 h1 h2
  simp (disch := first | decide | omega) only [slotClass, decodeClass, decodeVector, h0, h1, h2, pack, fld_above, fld_here, fld_below, zeros, decide_true, BitVec.ofNat_toNat, BitVec.setWidth_eq, Bool.and_true, Bool.true_and, if_true]
  exact verdict_ok _ h

theorem Encoding.vfrcp p d a : Encoding.Statement (.vfrcp p d a) := by
  intro h nb wd he
  have h : (Instr.vfrcp p d a).reason = 0 := by simpa [Instr.wf] using h
  refine Encoding.slot_reads 4 28 p [(d.toNat, 46), (a.toNat, 40), (8, 16)] _ nb wd (by decide) (by decide) (ok_of_reason _ _ h) (by simp only [pack]; omega) ?_ he
  intro w h0 h1 h2
  simp (disch := first | decide | omega) only [slotClass, decodeClass, decodeVector, h0, h1, h2, pack, fld_above, fld_here, fld_below, zeros, decide_true, BitVec.ofNat_toNat, BitVec.setWidth_eq, Bool.and_true, Bool.true_and, if_true]
  exact verdict_ok _ h

theorem Encoding.vfrsq p d a : Encoding.Statement (.vfrsq p d a) := by
  intro h nb wd he
  have h : (Instr.vfrsq p d a).reason = 0 := by simpa [Instr.wf] using h
  refine Encoding.slot_reads 4 29 p [(d.toNat, 46), (a.toNat, 40), (8, 16)] _ nb wd (by decide) (by decide) (ok_of_reason _ _ h) (by simp only [pack]; omega) ?_ he
  intro w h0 h1 h2
  simp (disch := first | decide | omega) only [slotClass, decodeClass, decodeVector, h0, h1, h2, pack, fld_above, fld_here, fld_below, zeros, decide_true, BitVec.ofNat_toNat, BitVec.setWidth_eq, Bool.and_true, Bool.true_and, if_true]
  exact verdict_ok _ h

theorem Encoding.vfexp2 p d a : Encoding.Statement (.vfexp2 p d a) := by
  intro h nb wd he
  have h : (Instr.vfexp2 p d a).reason = 0 := by simpa [Instr.wf] using h
  refine Encoding.slot_reads 4 30 p [(d.toNat, 46), (a.toNat, 40), (8, 16)] _ nb wd (by decide) (by decide) (ok_of_reason _ _ h) (by simp only [pack]; omega) ?_ he
  intro w h0 h1 h2
  simp (disch := first | decide | omega) only [slotClass, decodeClass, decodeVector, h0, h1, h2, pack, fld_above, fld_here, fld_below, zeros, decide_true, BitVec.ofNat_toNat, BitVec.setWidth_eq, Bool.and_true, Bool.true_and, if_true]
  exact verdict_ok _ h

theorem Encoding.vflog2 p d a : Encoding.Statement (.vflog2 p d a) := by
  intro h nb wd he
  have h : (Instr.vflog2 p d a).reason = 0 := by simpa [Instr.wf] using h
  refine Encoding.slot_reads 4 31 p [(d.toNat, 46), (a.toNat, 40), (8, 16)] _ nb wd (by decide) (by decide) (ok_of_reason _ _ h) (by simp only [pack]; omega) ?_ he
  intro w h0 h1 h2
  simp (disch := first | decide | omega) only [slotClass, decodeClass, decodeVector, h0, h1, h2, pack, fld_above, fld_here, fld_below, zeros, decide_true, BitVec.ofNat_toNat, BitVec.setWidth_eq, Bool.and_true, Bool.true_and, if_true]
  exact verdict_ok _ h

theorem Encoding.vfcvt p d a ts part td : Encoding.Statement (.vfcvt p d a ts part td) := by
  intro h nb wd he
  have h : (Instr.vfcvt p d a ts part td).reason = 0 := by simpa [Instr.wf] using h
  refine Encoding.slot_reads 4 32 p [(d.toNat, 46), (a.toNat, 40), (part.toNat, 24), (ts.toNat, 20), (td.toNat, 16)] _ nb wd (by decide) (by decide) (ok_of_reason _ _ h) (by simp only [pack]; omega) ?_ he
  intro w h0 h1 h2
  simp (disch := first | decide | omega) only [slotClass, decodeClass, decodeVector, h0, h1, h2, pack, fld_above, fld_here, fld_below, zeros, decide_true, BitVec.ofNat_toNat, BitVec.setWidth_eq, Bool.and_true, Bool.true_and, if_true]
  exact verdict_ok _ h

theorem Encoding.vquant p d a k part td : Encoding.Statement (.vquant p d a k part td) := by
  intro h nb wd he
  have h : (Instr.vquant p d a k part td).reason = 0 := by simpa [Instr.wf] using h
  refine Encoding.slot_reads 4 33 p [(d.toNat, 46), (a.toNat, 40), (k.toNat, 34), (part.toNat, 24), (8, 20), (td.toNat, 16)] _ nb wd (by decide) (by decide) (ok_of_reason _ _ h) (by simp only [pack]; omega) ?_ he
  intro w h0 h1 h2
  simp (disch := first | decide | omega) only [slotClass, decodeClass, decodeVector, h0, h1, h2, pack, fld_above, fld_here, fld_below, zeros, decide_true, BitVec.ofNat_toNat, BitVec.setWidth_eq, Bool.and_true, Bool.true_and, if_true]
  exact verdict_ok _ h

theorem Encoding.vdeq p d a k ts part : Encoding.Statement (.vdeq p d a k ts part) := by
  intro h nb wd he
  have h : (Instr.vdeq p d a k ts part).reason = 0 := by simpa [Instr.wf] using h
  refine Encoding.slot_reads 4 34 p [(d.toNat, 46), (a.toNat, 40), (k.toNat, 34), (part.toNat, 24), (ts.toNat, 20), (8, 16)] _ nb wd (by decide) (by decide) (ok_of_reason _ _ h) (by simp only [pack]; omega) ?_ he
  intro w h0 h1 h2
  simp (disch := first | decide | omega) only [slotClass, decodeClass, decodeVector, h0, h1, h2, pack, fld_above, fld_here, fld_below, zeros, decide_true, BitVec.ofNat_toNat, BitVec.setWidth_eq, Bool.and_true, Bool.true_and, if_true]
  exact verdict_ok _ h

theorem Encoding.vfclass p d a : Encoding.Statement (.vfclass p d a) := by
  intro h nb wd he
  have h : (Instr.vfclass p d a).reason = 0 := by simpa [Instr.wf] using h
  refine Encoding.slot_reads 4 35 p [(d.toNat, 46), (a.toNat, 40), (8, 16)] _ nb wd (by decide) (by decide) (ok_of_reason _ _ h) (by simp only [pack]; omega) ?_ he
  intro w h0 h1 h2
  simp (disch := first | decide | omega) only [slotClass, decodeClass, decodeVector, h0, h1, h2, pack, fld_above, fld_here, fld_below, zeros, decide_true, BitVec.ofNat_toNat, BitVec.setWidth_eq, Bool.and_true, Bool.true_and, if_true]
  exact verdict_ok _ h

theorem Encoding.vred p d a op t : Encoding.Statement (.vred p d a op t) := by
  intro h nb wd he
  have h : (Instr.vred p d a op t).reason = 0 := by simpa [Instr.wf] using h
  refine Encoding.slot_reads 4 36 p [(d.toNat, 46), (a.toNat, 40), (op.toNat, 20), (t.toNat, 16)] _ nb wd (by decide) (by decide) (ok_of_reason _ _ h) (by simp only [pack]; omega) ?_ he
  intro w h0 h1 h2
  simp (disch := first | decide | omega) only [slotClass, decodeClass, decodeVector, h0, h1, h2, pack, fld_above, fld_here, fld_below, zeros, decide_true, BitVec.ofNat_toNat, BitVec.setWidth_eq, Bool.and_true, Bool.true_and, if_true]
  exact verdict_ok _ h

theorem Encoding.vperm p d a b c : Encoding.Statement (.vperm p d a b c) := by
  intro h nb wd he
  have h : (Instr.vperm p d a b c).reason = 0 := by simpa [Instr.wf] using h
  refine Encoding.slot_reads 4 37 p [(d.toNat, 46), (a.toNat, 40), (b.toNat, 34), (c.toNat, 28), (5, 16)] _ nb wd (by decide) (by decide) (ok_of_reason _ _ h) (by simp only [pack]; omega) ?_ he
  intro w h0 h1 h2
  simp (disch := first | decide | omega) only [slotClass, decodeClass, decodeVector, h0, h1, h2, pack, fld_above, fld_here, fld_below, zeros, decide_true, BitVec.ofNat_toNat, BitVec.setWidth_eq, Bool.and_true, Bool.true_and, if_true]
  exact verdict_ok _ h

theorem Encoding.vslide p d a b n : Encoding.Statement (.vslide p d a b n) := by
  intro h nb wd he
  have h : (Instr.vslide p d a b n).reason = 0 := by simpa [Instr.wf] using h
  refine Encoding.slot_reads 4 38 p [(d.toNat, 46), (a.toNat, 40), (b.toNat, 34), (n.toNat, 20), (5, 16)] _ nb wd (by decide) (by decide) (ok_of_reason _ _ h) (by simp only [pack]; omega) ?_ he
  intro w h0 h1 h2
  simp (disch := first | decide | omega) only [slotClass, decodeClass, decodeVector, h0, h1, h2, pack, fld_above, fld_here, fld_below, zeros, decide_true, BitVec.ofNat_toNat, BitVec.setWidth_eq, Bool.and_true, Bool.true_and, if_true]
  exact verdict_ok _ h

theorem Encoding.vbcast p d a : Encoding.Statement (.vbcast p d a) := by
  intro h nb wd he
  have h : (Instr.vbcast p d a).reason = 0 := by simpa [Instr.wf] using h
  refine Encoding.slot_reads 4 39 p [(d.toNat, 46), (a.toNat, 40), (5, 16)] _ nb wd (by decide) (by decide) (ok_of_reason _ _ h) (by simp only [pack]; omega) ?_ he
  intro w h0 h1 h2
  simp (disch := first | decide | omega) only [slotClass, decodeClass, decodeVector, h0, h1, h2, pack, fld_above, fld_here, fld_below, zeros, decide_true, BitVec.ofNat_toNat, BitVec.setWidth_eq, Bool.and_true, Bool.true_and, if_true]
  exact verdict_ok _ h

theorem Encoding.vbcastLane p d a n : Encoding.Statement (.vbcastLane p d a n) := by
  intro h nb wd he
  have h : (Instr.vbcastLane p d a n).reason = 0 := by simpa [Instr.wf] using h
  refine Encoding.slot_reads 4 39 p [(d.toNat, 46), (a.toNat, 40), (n.toNat, 28), (1, 20), (5, 16)] _ nb wd (by decide) (by decide) (ok_of_reason _ _ h) (by simp only [pack]; omega) ?_ he
  intro w h0 h1 h2
  simp (disch := first | decide | omega) only [slotClass, decodeClass, decodeVector, h0, h1, h2, pack, fld_above, fld_here, fld_below, zeros, decide_true, BitVec.ofNat_toNat, BitVec.setWidth_eq, Bool.and_true, Bool.true_and, if_true]
  exact verdict_ok _ h

theorem Encoding.viota p d a b : Encoding.Statement (.viota p d a b) := by
  intro h nb wd he
  have h : (Instr.viota p d a b).reason = 0 := by simpa [Instr.wf] using h
  refine Encoding.slot_reads 4 40 p [(d.toNat, 46), (a.toNat, 40), (b.toNat, 34), (5, 16)] _ nb wd (by decide) (by decide) (ok_of_reason _ _ h) (by simp only [pack]; omega) ?_ he
  intro w h0 h1 h2
  simp (disch := first | decide | omega) only [slotClass, decodeClass, decodeVector, h0, h1, h2, pack, fld_above, fld_here, fld_below, zeros, decide_true, BitVec.ofNat_toNat, BitVec.setWidth_eq, Bool.and_true, Bool.true_and, if_true]
  exact verdict_ok _ h

theorem Encoding.vcountge p d a b t : Encoding.Statement (.vcountge p d a b t) := by
  intro h nb wd he
  have h : (Instr.vcountge p d a b t).reason = 0 := by simpa [Instr.wf] using h
  refine Encoding.slot_reads 4 41 p [(d.toNat, 46), (a.toNat, 40), (b.toNat, 34), (t.toNat, 16)] _ nb wd (by decide) (by decide) (ok_of_reason _ _ h) (by simp only [pack]; omega) ?_ he
  intro w h0 h1 h2
  simp (disch := first | decide | omega) only [slotClass, decodeClass, decodeVector, h0, h1, h2, pack, fld_above, fld_here, fld_below, zeros, decide_true, BitVec.ofNat_toNat, BitVec.setWidth_eq, Bool.and_true, Bool.true_and, if_true]
  exact verdict_ok _ h

theorem Encoding.vcompress p d a : Encoding.Statement (.vcompress p d a) := by
  intro h nb wd he
  have h : (Instr.vcompress p d a).reason = 0 := by simpa [Instr.wf] using h
  refine Encoding.slot_reads 4 42 p [(d.toNat, 46), (a.toNat, 40), (5, 16)] _ nb wd (by decide) (by decide) (ok_of_reason _ _ h) (by simp only [pack]; omega) ?_ he
  intro w h0 h1 h2
  simp (disch := first | decide | omega) only [slotClass, decodeClass, decodeVector, h0, h1, h2, pack, fld_above, fld_here, fld_below, zeros, decide_true, BitVec.ofNat_toNat, BitVec.setWidth_eq, Bool.and_true, Bool.true_and, if_true]
  exact verdict_ok _ h

theorem Encoding.vexpand p d a : Encoding.Statement (.vexpand p d a) := by
  intro h nb wd he
  have h : (Instr.vexpand p d a).reason = 0 := by simpa [Instr.wf] using h
  refine Encoding.slot_reads 4 43 p [(d.toNat, 46), (a.toNat, 40), (5, 16)] _ nb wd (by decide) (by decide) (ok_of_reason _ _ h) (by simp only [pack]; omega) ?_ he
  intro w h0 h1 h2
  simp (disch := first | decide | omega) only [slotClass, decodeClass, decodeVector, h0, h1, h2, pack, fld_above, fld_here, fld_below, zeros, decide_true, BitVec.ofNat_toNat, BitVec.setWidth_eq, Bool.and_true, Bool.true_and, if_true]
  exact verdict_ok _ h

theorem Encoding.movvs p d a n t : Encoding.Statement (.movvs p d a n t) := by
  intro h nb wd he
  have h : (Instr.movvs p d a n t).reason = 0 := by simpa [Instr.wf] using h
  refine Encoding.slot_reads 4 44 p [(d.toNat, 46), (a.toNat, 40), (n.toNat, 28), (t.toNat, 16)] _ nb wd (by decide) (by decide) (ok_of_reason _ _ h) (by simp only [pack]; omega) ?_ he
  intro w h0 h1 h2
  simp (disch := first | decide | omega) only [slotClass, decodeClass, decodeVector, h0, h1, h2, pack, fld_above, fld_here, fld_below, zeros, decide_true, BitVec.ofNat_toNat, BitVec.setWidth_eq, Bool.and_true, Bool.true_and, if_true]
  exact verdict_ok _ h

theorem Encoding.movsv p d a n : Encoding.Statement (.movsv p d a n) := by
  intro h nb wd he
  have h : (Instr.movsv p d a n).reason = 0 := by simpa [Instr.wf] using h
  refine Encoding.slot_reads 4 45 p [(d.toNat, 46), (a.toNat, 40), (n.toNat, 28), (5, 16)] _ nb wd (by decide) (by decide) (ok_of_reason _ _ h) (by simp only [pack]; omega) ?_ he
  intro w h0 h1 h2
  simp (disch := first | decide | omega) only [slotClass, decodeClass, decodeVector, h0, h1, h2, pack, fld_above, fld_here, fld_below, zeros, decide_true, BitVec.ofNat_toNat, BitVec.setWidth_eq, Bool.and_true, Bool.true_and, if_true]
  exact verdict_ok _ h

theorem Encoding.vld p d a x sc off : Encoding.Statement (.vld p d a x sc off) := by
  intro h nb wd he
  have h : (Instr.vld p d a x sc off).reason = 0 := by simpa [Instr.wf] using h
  refine Encoding.slot_reads 4 46 p [(d.toNat, 46), (a.toNat, 40), (x.toNat, 34), (5, 30), (sc.toNat, 27), (off.toNat, 0)] _ nb wd (by decide) (by decide) (ok_of_reason _ _ h) (by simp only [pack]; omega) ?_ he
  intro w h0 h1 h2
  simp (disch := first | decide | omega) only [slotClass, decodeClass, decodeVector, h0, h1, h2, pack, fld_above, fld_here, fld_below, zeros, decide_true, BitVec.ofNat_toNat, BitVec.setWidth_eq, Bool.and_true, Bool.true_and, if_true]
  exact verdict_ok _ h

theorem Encoding.vlds p d a x sc off : Encoding.Statement (.vlds p d a x sc off) := by
  intro h nb wd he
  have h : (Instr.vlds p d a x sc off).reason = 0 := by simpa [Instr.wf] using h
  refine Encoding.slot_reads 4 47 p [(d.toNat, 46), (a.toNat, 40), (x.toNat, 34), (5, 30), (sc.toNat, 27), (off.toNat, 0)] _ nb wd (by decide) (by decide) (ok_of_reason _ _ h) (by simp only [pack]; omega) ?_ he
  intro w h0 h1 h2
  simp (disch := first | decide | omega) only [slotClass, decodeClass, decodeVector, h0, h1, h2, pack, fld_above, fld_here, fld_below, zeros, decide_true, BitVec.ofNat_toNat, BitVec.setWidth_eq, Bool.and_true, Bool.true_and, if_true]
  exact verdict_ok _ h

theorem Encoding.vldx p d a x sc off : Encoding.Statement (.vldx p d a x sc off) := by
  intro h nb wd he
  have h : (Instr.vldx p d a x sc off).reason = 0 := by simpa [Instr.wf] using h
  refine Encoding.slot_reads 4 48 p [(d.toNat, 46), (a.toNat, 40), (x.toNat, 34), (5, 30), (sc.toNat, 27), (off.toNat, 0)] _ nb wd (by decide) (by decide) (ok_of_reason _ _ h) (by simp only [pack]; omega) ?_ he
  intro w h0 h1 h2
  simp (disch := first | decide | omega) only [slotClass, decodeClass, decodeVector, h0, h1, h2, pack, fld_above, fld_here, fld_below, zeros, decide_true, BitVec.ofNat_toNat, BitVec.setWidth_eq, Bool.and_true, Bool.true_and, if_true]
  exact verdict_ok _ h

theorem Encoding.vst p d a x sc off : Encoding.Statement (.vst p d a x sc off) := by
  intro h nb wd he
  have h : (Instr.vst p d a x sc off).reason = 0 := by simpa [Instr.wf] using h
  refine Encoding.slot_reads 4 49 p [(d.toNat, 46), (a.toNat, 40), (x.toNat, 34), (5, 30), (sc.toNat, 27), (off.toNat, 0)] _ nb wd (by decide) (by decide) (ok_of_reason _ _ h) (by simp only [pack]; omega) ?_ he
  intro w h0 h1 h2
  simp (disch := first | decide | omega) only [slotClass, decodeClass, decodeVector, h0, h1, h2, pack, fld_above, fld_here, fld_below, zeros, decide_true, BitVec.ofNat_toNat, BitVec.setWidth_eq, Bool.and_true, Bool.true_and, if_true]
  exact verdict_ok _ h

theorem Encoding.vsts p d a x sc off : Encoding.Statement (.vsts p d a x sc off) := by
  intro h nb wd he
  have h : (Instr.vsts p d a x sc off).reason = 0 := by simpa [Instr.wf] using h
  refine Encoding.slot_reads 4 50 p [(d.toNat, 46), (a.toNat, 40), (x.toNat, 34), (5, 30), (sc.toNat, 27), (off.toNat, 0)] _ nb wd (by decide) (by decide) (ok_of_reason _ _ h) (by simp only [pack]; omega) ?_ he
  intro w h0 h1 h2
  simp (disch := first | decide | omega) only [slotClass, decodeClass, decodeVector, h0, h1, h2, pack, fld_above, fld_here, fld_below, zeros, decide_true, BitVec.ofNat_toNat, BitVec.setWidth_eq, Bool.and_true, Bool.true_and, if_true]
  exact verdict_ok _ h

theorem Encoding.vstx p d a x sc off : Encoding.Statement (.vstx p d a x sc off) := by
  intro h nb wd he
  have h : (Instr.vstx p d a x sc off).reason = 0 := by simpa [Instr.wf] using h
  refine Encoding.slot_reads 4 51 p [(d.toNat, 46), (a.toNat, 40), (x.toNat, 34), (5, 30), (sc.toNat, 27), (off.toNat, 0)] _ nb wd (by decide) (by decide) (ok_of_reason _ _ h) (by simp only [pack]; omega) ?_ he
  intro w h0 h1 h2
  simp (disch := first | decide | omega) only [slotClass, decodeClass, decodeVector, h0, h1, h2, pack, fld_above, fld_here, fld_below, zeros, decide_true, BitVec.ofNat_toNat, BitVec.setWidth_eq, Bool.and_true, Bool.true_and, if_true]
  exact verdict_ok _ h

theorem Encoding.vstnt p d a x sc off : Encoding.Statement (.vstnt p d a x sc off) := by
  intro h nb wd he
  have h : (Instr.vstnt p d a x sc off).reason = 0 := by simpa [Instr.wf] using h
  refine Encoding.slot_reads 4 52 p [(d.toNat, 46), (a.toNat, 40), (x.toNat, 34), (5, 30), (sc.toNat, 27), (off.toNat, 0)] _ nb wd (by decide) (by decide) (ok_of_reason _ _ h) (by simp only [pack]; omega) ?_ he
  intro w h0 h1 h2
  simp (disch := first | decide | omega) only [slotClass, decodeClass, decodeVector, h0, h1, h2, pack, fld_above, fld_here, fld_below, zeros, decide_true, BitVec.ofNat_toNat, BitVec.setWidth_eq, Bool.and_true, Bool.true_and, if_true]
  exact verdict_ok _ h

theorem Encoding.vstcmb p d a x t sc ms off : Encoding.Statement (.vstcmb p d a x t sc ms off) := by
  intro h nb wd he
  have h : (Instr.vstcmb p d a x t sc ms off).reason = 0 := by simpa [Instr.wf] using h
  refine Encoding.slot_reads 4 53 p [(d.toNat, 46), (a.toNat, 40), (x.toNat, 34), (t.toNat, 30), (sc.toNat, 27), (ms.toNat, 24), (off.toNat, 0)] _ nb wd (by decide) (by decide) (ok_of_reason _ _ h) (by simp only [pack]; omega) ?_ he
  intro w h0 h1 h2
  simp (disch := first | decide | omega) only [slotClass, decodeClass, decodeVector, h0, h1, h2, pack, fld_above, fld_here, fld_below, zeros, decide_true, BitVec.ofNat_toNat, BitVec.setWidth_eq, Bool.and_true, Bool.true_and, if_true]
  exact verdict_ok _ h

theorem Encoding.txin p a : Encoding.Statement (.txin p a) := by
  intro h nb wd he
  have h : (Instr.txin p a).reason = 0 := by simpa [Instr.wf] using h
  refine Encoding.slot_reads 4 54 p [(a.toNat, 40), (5, 16)] _ nb wd (by decide) (by decide) (ok_of_reason _ _ h) (by simp only [pack]; omega) ?_ he
  intro w h0 h1 h2
  simp (disch := first | decide | omega) only [slotClass, decodeClass, decodeVector, h0, h1, h2, pack, fld_above, fld_here, fld_below, zeros, decide_true, BitVec.ofNat_toNat, BitVec.setWidth_eq, Bool.and_true, Bool.true_and, if_true]
  exact verdict_ok _ h

theorem Encoding.txout p d : Encoding.Statement (.txout p d) := by
  intro h nb wd he
  have h : (Instr.txout p d).reason = 0 := by simpa [Instr.wf] using h
  refine Encoding.slot_reads 4 55 p [(d.toNat, 46), (5, 16)] _ nb wd (by decide) (by decide) (ok_of_reason _ _ h) (by simp only [pack]; omega) ?_ he
  intro w h0 h1 h2
  simp (disch := first | decide | omega) only [slotClass, decodeClass, decodeVector, h0, h1, h2, pack, fld_above, fld_here, fld_below, zeros, decide_true, BitVec.ofNat_toNat, BitVec.setWidth_eq, Bool.and_true, Bool.true_and, if_true]
  exact verdict_ok _ h

theorem Encoding.txclr p : Encoding.Statement (.txclr p) := by
  intro h nb wd he
  have h : (Instr.txclr p).reason = 0 := by simpa [Instr.wf] using h
  refine Encoding.slot_reads 4 56 p [] _ nb wd (by decide) (by decide) (ok_of_reason _ _ h) (by simp only [pack]; omega) ?_ he
  intro w h0 h1 h2
  simp (disch := first | decide | omega) only [slotClass, decodeClass, decodeVector, h0, h1, h2, pack, fld_above, fld_here, fld_below, zeros, decide_true, BitVec.ofNat_toNat, BitVec.setWidth_eq, Bool.and_true, Bool.true_and, if_true]
  exact verdict_ok _ h

theorem Encoding.vaccrd p d c a col : Encoding.Statement (.vaccrd p d c a col) := by
  intro h nb wd he
  have h : (Instr.vaccrd p d c a col).reason = 0 := by simpa [Instr.wf] using h
  refine Encoding.slot_reads 4 57 p [(d.toNat, 46), (a.toNat, 40), (c.toNat, 28), (col.toNat, 20), (5, 16)] _ nb wd (by decide) (by decide) (ok_of_reason _ _ h) (by simp only [pack]; omega) ?_ he
  intro w h0 h1 h2
  simp (disch := first | decide | omega) only [slotClass, decodeClass, decodeVector, h0, h1, h2, pack, fld_above, fld_here, fld_below, zeros, decide_true, BitVec.ofNat_toNat, BitVec.setWidth_eq, Bool.and_true, Bool.true_and, if_true]
  exact verdict_ok _ h

theorem Encoding.vaccwr p d b a col : Encoding.Statement (.vaccwr p d b a col) := by
  intro h nb wd he
  have h : (Instr.vaccwr p d b a col).reason = 0 := by simpa [Instr.wf] using h
  refine Encoding.slot_reads 4 58 p [(d.toNat, 46), (a.toNat, 40), (b.toNat, 34), (col.toNat, 20), (5, 16)] _ nb wd (by decide) (by decide) (ok_of_reason _ _ h) (by simp only [pack]; omega) ?_ he
  intro w h0 h1 h2
  simp (disch := first | decide | omega) only [slotClass, decodeClass, decodeVector, h0, h1, h2, pack, fld_above, fld_here, fld_below, zeros, decide_true, BitVec.ofNat_toNat, BitVec.setWidth_eq, Bool.and_true, Bool.true_and, if_true]
  exact verdict_ok _ h

theorem Encoding.vspill p d a x sc off : Encoding.Statement (.vspill p d a x sc off) := by
  intro h nb wd he
  have h : (Instr.vspill p d a x sc off).reason = 0 := by simpa [Instr.wf] using h
  refine Encoding.slot_reads 4 59 p [(d.toNat, 46), (a.toNat, 40), (x.toNat, 34), (5, 30), (sc.toNat, 27), (off.toNat, 0)] _ nb wd (by decide) (by decide) (ok_of_reason _ _ h) (by simp only [pack]; omega) ?_ he
  intro w h0 h1 h2
  simp (disch := first | decide | omega) only [slotClass, decodeClass, decodeVector, h0, h1, h2, pack, fld_above, fld_here, fld_below, zeros, decide_true, BitVec.ofNat_toNat, BitVec.setWidth_eq, Bool.and_true, Bool.true_and, if_true]
  exact verdict_ok _ h

theorem Encoding.vfill p d a x sc off : Encoding.Statement (.vfill p d a x sc off) := by
  intro h nb wd he
  have h : (Instr.vfill p d a x sc off).reason = 0 := by simpa [Instr.wf] using h
  refine Encoding.slot_reads 4 60 p [(d.toNat, 46), (a.toNat, 40), (x.toNat, 34), (5, 30), (sc.toNat, 27), (off.toNat, 0)] _ nb wd (by decide) (by decide) (ok_of_reason _ _ h) (by simp only [pack]; omega) ?_ he
  intro w h0 h1 h2
  simp (disch := first | decide | omega) only [slotClass, decodeClass, decodeVector, h0, h1, h2, pack, fld_above, fld_here, fld_below, zeros, decide_true, BitVec.ofNat_toNat, BitVec.setWidth_eq, Bool.and_true, Bool.true_and, if_true]
  exact verdict_ok _ h

theorem Encoding.mma p d ta tb : Encoding.Statement (.mma p d ta tb) := by
  intro h nb wd he
  have h : (Instr.mma p d ta tb).reason = 0 := by simpa [Instr.wf] using h
  refine Encoding.slot_reads 5 1 p [(d.toNat, 46), (tb.toNat, 24), (ta.toNat, 20)] _ nb wd (by decide) (by decide) (ok_of_reason _ _ h) (by simp only [pack]; omega) ?_ he
  intro w h0 h1 h2
  simp (disch := first | decide | omega) only [slotClass, decodeClass, decodeEngine, h0, h1, h2, pack, fld_above, fld_here, fld_below, zeros, decide_true, BitVec.ofNat_toNat, BitVec.setWidth_eq, Bool.and_true, Bool.true_and, if_true]
  exact verdict_ok _ h

theorem Encoding.mzero p d mask : Encoding.Statement (.mzero p d mask) := by
  intro h nb wd he
  have h : (Instr.mzero p d mask).reason = 0 := by simpa [Instr.wf] using h
  refine Encoding.slot_reads 5 2 p [(d.toNat, 46), (mask.toNat, 0)] _ nb wd (by decide) (by decide) (ok_of_reason _ _ h) (by simp only [pack]; omega) ?_ he
  intro w h0 h1 h2
  simp (disch := first | decide | omega) only [slotClass, decodeClass, decodeEngine, h0, h1, h2, pack, fld_above, fld_here, fld_below, zeros, decide_true, BitVec.ofNat_toNat, BitVec.setWidth_eq, Bool.and_true, Bool.true_and, if_true]
  exact verdict_ok _ h

theorem Encoding.mload p d c a b t nrow ncol : Encoding.Statement (.mload p d c a b t nrow ncol) := by
  intro h nb wd he
  have h : (Instr.mload p d c a b t nrow ncol).reason = 0 := by simpa [Instr.wf] using h
  refine Encoding.slot_reads 5 3 p [(d.toNat, 46), (a.toNat, 40), (b.toNat, 34), (c.toNat, 28), (t.toNat, 20), (ncol.toNat, 7), (nrow.toNat, 0)] _ nb wd (by decide) (by decide) (ok_of_reason _ _ h) (by simp only [pack]; omega) ?_ he
  intro w h0 h1 h2
  simp (disch := first | decide | omega) only [slotClass, decodeClass, decodeEngine, h0, h1, h2, pack, fld_above, fld_here, fld_below, zeros, decide_true, BitVec.ofNat_toNat, BitVec.setWidth_eq, Bool.and_true, Bool.true_and, if_true]
  exact verdict_ok _ h

theorem Encoding.mstore p d c a b t tt nrow ncol : Encoding.Statement (.mstore p d c a b t tt nrow ncol) := by
  intro h nb wd he
  have h : (Instr.mstore p d c a b t tt nrow ncol).reason = 0 := by simpa [Instr.wf] using h
  refine Encoding.slot_reads 5 4 p [(d.toNat, 46), (a.toNat, 40), (b.toNat, 34), (c.toNat, 28), (tt.toNat, 24), (t.toNat, 20), (ncol.toNat, 7), (nrow.toNat, 0)] _ nb wd (by decide) (by decide) (ok_of_reason _ _ h) (by simp only [pack]; omega) ?_ he
  intro w h0 h1 h2
  simp (disch := first | decide | omega) only [slotClass, decodeClass, decodeEngine, h0, h1, h2, pack, fld_above, fld_here, fld_below, zeros, decide_true, BitVec.ofNat_toNat, BitVec.setWidth_eq, Bool.and_true, Bool.true_and, if_true]
  exact verdict_ok _ h

theorem Encoding.msetp p c a : Encoding.Statement (.msetp p c a) := by
  intro h nb wd he
  have h : (Instr.msetp p c a).reason = 0 := by simpa [Instr.wf] using h
  refine Encoding.slot_reads 5 5 p [(a.toNat, 40), (c.toNat, 28)] _ nb wd (by decide) (by decide) (ok_of_reason _ _ h) (by simp only [pack]; omega) ?_ he
  intro w h0 h1 h2
  simp (disch := first | decide | omega) only [slotClass, decodeClass, decodeEngine, h0, h1, h2, pack, fld_above, fld_here, fld_below, zeros, decide_true, BitVec.ofNat_toNat, BitVec.setWidth_eq, Bool.and_true, Bool.true_and, if_true]
  exact verdict_ok _ h

theorem Encoding.mgetp p d c : Encoding.Statement (.mgetp p d c) := by
  intro h nb wd he
  have h : (Instr.mgetp p d c).reason = 0 := by simpa [Instr.wf] using h
  refine Encoding.slot_reads 5 6 p [(d.toNat, 46), (c.toNat, 28)] _ nb wd (by decide) (by decide) (ok_of_reason _ _ h) (by simp only [pack]; omega) ?_ he
  intro w h0 h1 h2
  simp (disch := first | decide | omega) only [slotClass, decodeClass, decodeEngine, h0, h1, h2, pack, fld_above, fld_here, fld_below, zeros, decide_true, BitVec.ofNat_toNat, BitVec.setWidth_eq, Bool.and_true, Bool.true_and, if_true]
  exact verdict_ok _ h

theorem Encoding.seal p d a b : Encoding.Statement (.seal p d a b) := by
  intro h nb wd he
  have h : (Instr.seal p d a b).reason = 0 := by simpa [Instr.wf] using h
  refine Encoding.slot_reads 5 7 p [(d.toNat, 46), (a.toNat, 40), (b.toNat, 34)] _ nb wd (by decide) (by decide) (ok_of_reason _ _ h) (by simp only [pack]; omega) ?_ he
  intro w h0 h1 h2
  simp (disch := first | decide | omega) only [slotClass, decodeClass, decodeEngine, h0, h1, h2, pack, fld_above, fld_here, fld_below, zeros, decide_true, BitVec.ofNat_toNat, BitVec.setWidth_eq, Bool.and_true, Bool.true_and, if_true]
  exact verdict_ok _ h

theorem Encoding.sealAcc p d c : Encoding.Statement (.sealAcc p d c) := by
  intro h nb wd he
  have h : (Instr.sealAcc p d c).reason = 0 := by simpa [Instr.wf] using h
  refine Encoding.slot_reads 5 7 p [(d.toNat, 46), (c.toNat, 28), (1, 20)] _ nb wd (by decide) (by decide) (ok_of_reason _ _ h) (by simp only [pack]; omega) ?_ he
  intro w h0 h1 h2
  simp (disch := first | decide | omega) only [slotClass, decodeClass, decodeEngine, h0, h1, h2, pack, fld_above, fld_here, fld_below, zeros, decide_true, BitVec.ofNat_toNat, BitVec.setWidth_eq, Bool.and_true, Bool.true_and, if_true]
  exact verdict_ok _ h

theorem Encoding.scheck p d a b c : Encoding.Statement (.scheck p d a b c) := by
  intro h nb wd he
  have h : (Instr.scheck p d a b c).reason = 0 := by simpa [Instr.wf] using h
  refine Encoding.slot_reads 5 8 p [(d.toNat, 46), (a.toNat, 40), (b.toNat, 34), (c.toNat, 28)] _ nb wd (by decide) (by decide) (ok_of_reason _ _ h) (by simp only [pack]; omega) ?_ he
  intro w h0 h1 h2
  simp (disch := first | decide | omega) only [slotClass, decodeClass, decodeEngine, h0, h1, h2, pack, fld_above, fld_here, fld_below, zeros, decide_true, BitVec.ofNat_toNat, BitVec.setWidth_eq, Bool.and_true, Bool.true_and, if_true]
  exact verdict_ok _ h

theorem Encoding.scheckAcc p d c a : Encoding.Statement (.scheckAcc p d c a) := by
  intro h nb wd he
  have h : (Instr.scheckAcc p d c a).reason = 0 := by simpa [Instr.wf] using h
  refine Encoding.slot_reads 5 8 p [(d.toNat, 46), (a.toNat, 40), (c.toNat, 28), (1, 20)] _ nb wd (by decide) (by decide) (ok_of_reason _ _ h) (by simp only [pack]; omega) ?_ he
  intro w h0 h1 h2
  simp (disch := first | decide | omega) only [slotClass, decodeClass, decodeEngine, h0, h1, h2, pack, fld_above, fld_here, fld_below, zeros, decide_true, BitVec.ofNat_toNat, BitVec.setWidth_eq, Bool.and_true, Bool.true_and, if_true]
  exact verdict_ok _ h

theorem Encoding.sfix p d a b c : Encoding.Statement (.sfix p d a b c) := by
  intro h nb wd he
  have h : (Instr.sfix p d a b c).reason = 0 := by simpa [Instr.wf] using h
  refine Encoding.slot_reads 5 9 p [(d.toNat, 46), (a.toNat, 40), (b.toNat, 34), (c.toNat, 28)] _ nb wd (by decide) (by decide) (ok_of_reason _ _ h) (by simp only [pack]; omega) ?_ he
  intro w h0 h1 h2
  simp (disch := first | decide | omega) only [slotClass, decodeClass, decodeEngine, h0, h1, h2, pack, fld_above, fld_here, fld_below, zeros, decide_true, BitVec.ofNat_toNat, BitVec.setWidth_eq, Bool.and_true, Bool.true_and, if_true]
  exact verdict_ok _ h

theorem Encoding.sfixAcc p d c a : Encoding.Statement (.sfixAcc p d c a) := by
  intro h nb wd he
  have h : (Instr.sfixAcc p d c a).reason = 0 := by simpa [Instr.wf] using h
  refine Encoding.slot_reads 5 9 p [(d.toNat, 46), (a.toNat, 40), (c.toNat, 28), (1, 20)] _ nb wd (by decide) (by decide) (ok_of_reason _ _ h) (by simp only [pack]; omega) ?_ he
  intro w h0 h1 h2
  simp (disch := first | decide | omega) only [slotClass, decodeClass, decodeEngine, h0, h1, h2, pack, fld_above, fld_here, fld_below, zeros, decide_true, BitVec.ofNat_toNat, BitVec.setWidth_eq, Bool.and_true, Bool.true_and, if_true]
  exact verdict_ok _ h

theorem Encoding.squery p d a b : Encoding.Statement (.squery p d a b) := by
  intro h nb wd he
  have h : (Instr.squery p d a b).reason = 0 := by simpa [Instr.wf] using h
  refine Encoding.slot_reads 5 10 p [(d.toNat, 46), (a.toNat, 40), (b.toNat, 34)] _ nb wd (by decide) (by decide) (ok_of_reason _ _ h) (by simp only [pack]; omega) ?_ he
  intro w h0 h1 h2
  simp (disch := first | decide | omega) only [slotClass, decodeClass, decodeEngine, h0, h1, h2, pack, fld_above, fld_here, fld_below, zeros, decide_true, BitVec.ofNat_toNat, BitVec.setWidth_eq, Bool.and_true, Bool.true_and, if_true]
  exact verdict_ok _ h

theorem Encoding.squeryAcc p d c b : Encoding.Statement (.squeryAcc p d c b) := by
  intro h nb wd he
  have h : (Instr.squeryAcc p d c b).reason = 0 := by simpa [Instr.wf] using h
  refine Encoding.slot_reads 5 10 p [(d.toNat, 46), (b.toNat, 34), (c.toNat, 28), (1, 20)] _ nb wd (by decide) (by decide) (ok_of_reason _ _ h) (by simp only [pack]; omega) ?_ he
  intro w h0 h1 h2
  simp (disch := first | decide | omega) only [slotClass, decodeClass, decodeEngine, h0, h1, h2, pack, fld_above, fld_here, fld_below, zeros, decide_true, BitVec.ofNat_toNat, BitVec.setWidth_eq, Bool.and_true, Bool.true_and, if_true]
  exact verdict_ok _ h

theorem Encoding.cpy p d a b c : Encoding.Statement (.cpy p d a b c) := by
  intro h nb wd he
  have h : (Instr.cpy p d a b c).reason = 0 := by simpa [Instr.wf] using h
  refine Encoding.slot_reads 5 11 p [(d.toNat, 46), (a.toNat, 40), (b.toNat, 34), (c.toNat, 28)] _ nb wd (by decide) (by decide) (ok_of_reason _ _ h) (by simp only [pack]; omega) ?_ he
  intro w h0 h1 h2
  simp (disch := first | decide | omega) only [slotClass, decodeClass, decodeEngine, h0, h1, h2, pack, fld_above, fld_here, fld_below, zeros, decide_true, BitVec.ofNat_toNat, BitVec.setWidth_eq, Bool.and_true, Bool.true_and, if_true]
  exact verdict_ok _ h

theorem Encoding.cpy2 p d a b c rows rlen : Encoding.Statement (.cpy2 p d a b c rows rlen) := by
  intro h nb wd he
  have h : (Instr.cpy2 p d a b c rows rlen).reason = 0 := by simpa [Instr.wf] using h
  refine Encoding.slot_reads 5 12 p [(d.toNat, 46), (a.toNat, 40), (b.toNat, 34), (c.toNat, 28), (rlen.toNat, 10), (rows.toNat, 0)] _ nb wd (by decide) (by decide) (ok_of_reason _ _ h) (by simp only [pack]; omega) ?_ he
  intro w h0 h1 h2
  simp (disch := first | decide | omega) only [slotClass, decodeClass, decodeEngine, h0, h1, h2, pack, fld_above, fld_here, fld_below, zeros, decide_true, BitVec.ofNat_toNat, BitVec.setWidth_eq, Bool.and_true, Bool.true_and, if_true]
  exact verdict_ok _ h

theorem Encoding.cpyqIn p d c a b stride : Encoding.Statement (.cpyqIn p d c a b stride) := by
  intro h nb wd he
  have h : (Instr.cpyqIn p d c a b stride).reason = 0 := by simpa [Instr.wf] using h
  refine Encoding.slot_reads 5 13 p [(d.toNat, 46), (a.toNat, 40), (b.toNat, 34), (c.toNat, 28), (stride.toNat, 0)] _ nb wd (by decide) (by decide) (ok_of_reason _ _ h) (by simp only [pack]; omega) ?_ he
  intro w h0 h1 h2
  simp (disch := first | decide | omega) only [slotClass, decodeClass, decodeEngine, h0, h1, h2, pack, fld_above, fld_here, fld_below, zeros, decide_true, BitVec.ofNat_toNat, BitVec.setWidth_eq, Bool.and_true, Bool.true_and, if_true]
  exact verdict_ok _ h

theorem Encoding.cpyqOut p d c a b stride : Encoding.Statement (.cpyqOut p d c a b stride) := by
  intro h nb wd he
  have h : (Instr.cpyqOut p d c a b stride).reason = 0 := by simpa [Instr.wf] using h
  refine Encoding.slot_reads 5 13 p [(d.toNat, 46), (a.toNat, 40), (b.toNat, 34), (c.toNat, 28), (1, 20), (stride.toNat, 0)] _ nb wd (by decide) (by decide) (ok_of_reason _ _ h) (by simp only [pack]; omega) ?_ he
  intro w h0 h1 h2
  simp (disch := first | decide | omega) only [slotClass, decodeClass, decodeEngine, h0, h1, h2, pack, fld_above, fld_here, fld_below, zeros, decide_true, BitVec.ofNat_toNat, BitVec.setWidth_eq, Bool.and_true, Bool.true_and, if_true]
  exact verdict_ok _ h

theorem Encoding.cpymc p d a b c clusters cores dom : Encoding.Statement (.cpymc p d a b c clusters cores dom) := by
  intro h nb wd he
  have h : (Instr.cpymc p d a b c clusters cores dom).reason = 0 := by simpa [Instr.wf] using h
  refine Encoding.slot_reads 5 14 p [(d.toNat, 46), (a.toNat, 40), (b.toNat, 34), (c.toNat, 28), (dom.toNat, 16), (cores.toNat, 8), (clusters.toNat, 0)] _ nb wd (by decide) (by decide) (ok_of_reason _ _ h) (by simp only [pack]; omega) ?_ he
  intro w h0 h1 h2
  simp (disch := first | decide | omega) only [slotClass, decodeClass, decodeEngine, h0, h1, h2, pack, fld_above, fld_here, fld_below, zeros, decide_true, BitVec.ofNat_toNat, BitVec.setWidth_eq, Bool.and_true, Bool.true_and, if_true]
  exact verdict_ok _ h

theorem Encoding.cpycrc p d a b c : Encoding.Statement (.cpycrc p d a b c) := by
  intro h nb wd he
  have h : (Instr.cpycrc p d a b c).reason = 0 := by simpa [Instr.wf] using h
  refine Encoding.slot_reads 5 15 p [(d.toNat, 46), (a.toNat, 40), (b.toNat, 34), (c.toNat, 28)] _ nb wd (by decide) (by decide) (ok_of_reason _ _ h) (by simp only [pack]; omega) ?_ he
  intro w h0 h1 h2
  simp (disch := first | decide | omega) only [slotClass, decodeClass, decodeEngine, h0, h1, h2, pack, fld_above, fld_here, fld_below, zeros, decide_true, BitVec.ofNat_toNat, BitVec.setWidth_eq, Bool.and_true, Bool.true_and, if_true]
  exact verdict_ok _ h

theorem Encoding.cpycrcChk p d b c : Encoding.Statement (.cpycrcChk p d b c) := by
  intro h nb wd he
  have h : (Instr.cpycrcChk p d b c).reason = 0 := by simpa [Instr.wf] using h
  refine Encoding.slot_reads 5 15 p [(d.toNat, 46), (b.toNat, 34), (c.toNat, 28), (1, 20)] _ nb wd (by decide) (by decide) (ok_of_reason _ _ h) (by simp only [pack]; omega) ?_ he
  intro w h0 h1 h2
  simp (disch := first | decide | omega) only [slotClass, decodeClass, decodeEngine, h0, h1, h2, pack, fld_above, fld_here, fld_below, zeros, decide_true, BitVec.ofNat_toNat, BitVec.setWidth_eq, Bool.and_true, Bool.true_and, if_true]
  exact verdict_ok _ h

theorem Encoding.twait p d tl a : Encoding.Statement (.twait p d tl a) := by
  intro h nb wd he
  have h : (Instr.twait p d tl a).reason = 0 := by simpa [Instr.wf] using h
  refine Encoding.slot_reads 5 16 p [(d.toNat, 46), (a.toNat, 40), (tl.toNat, 20)] _ nb wd (by decide) (by decide) (ok_of_reason _ _ h) (by simp only [pack]; omega) ?_ he
  intro w h0 h1 h2
  simp (disch := first | decide | omega) only [slotClass, decodeClass, decodeEngine, h0, h1, h2, pack, fld_above, fld_here, fld_below, zeros, decide_true, BitVec.ofNat_toNat, BitVec.setWidth_eq, Bool.and_true, Bool.true_and, if_true]
  exact verdict_ok _ h

theorem Encoding.twaitImm p d tl n : Encoding.Statement (.twaitImm p d tl n) := by
  intro h nb wd he
  have h : (Instr.twaitImm p d tl n).reason = 0 := by simpa [Instr.wf] using h
  refine Encoding.slot_reads 5 16 p [(d.toNat, 46), (1, 23), (tl.toNat, 20), (n.toNat, 0)] _ nb wd (by decide) (by decide) (ok_of_reason _ _ h) (by simp only [pack]; omega) ?_ he
  intro w h0 h1 h2
  simp (disch := first | decide | omega) only [slotClass, decodeClass, decodeEngine, h0, h1, h2, pack, fld_above, fld_here, fld_below, zeros, decide_true, BitVec.ofNat_toNat, BitVec.setWidth_eq, Bool.and_true, Bool.true_and, if_true]
  exact verdict_ok _ h

theorem Encoding.treadCnt p d tl : Encoding.Statement (.treadCnt p d tl) := by
  intro h nb wd he
  have h : (Instr.treadCnt p d tl).reason = 0 := by simpa [Instr.wf] using h
  refine Encoding.slot_reads 5 17 p [(d.toNat, 46), (tl.toNat, 20)] _ nb wd (by decide) (by decide) (ok_of_reason _ _ h) (by simp only [pack]; omega) ?_ he
  intro w h0 h1 h2
  simp (disch := first | decide | omega) only [slotClass, decodeClass, decodeEngine, h0, h1, h2, pack, fld_above, fld_here, fld_below, zeros, decide_true, BitVec.ofNat_toNat, BitVec.setWidth_eq, Bool.and_true, Bool.true_and, if_true]
  exact verdict_ok _ h

theorem Encoding.treadIss p d tl : Encoding.Statement (.treadIss p d tl) := by
  intro h nb wd he
  have h : (Instr.treadIss p d tl).reason = 0 := by simpa [Instr.wf] using h
  refine Encoding.slot_reads 5 17 p [(d.toNat, 46), (1, 24), (tl.toNat, 20)] _ nb wd (by decide) (by decide) (ok_of_reason _ _ h) (by simp only [pack]; omega) ?_ he
  intro w h0 h1 h2
  simp (disch := first | decide | omega) only [slotClass, decodeClass, decodeEngine, h0, h1, h2, pack, fld_above, fld_here, fld_below, zeros, decide_true, BitVec.ofNat_toNat, BitVec.setWidth_eq, Bool.and_true, Bool.true_and, if_true]
  exact verdict_ok _ h

theorem Encoding.treadStop p d tl : Encoding.Statement (.treadStop p d tl) := by
  intro h nb wd he
  have h : (Instr.treadStop p d tl).reason = 0 := by simpa [Instr.wf] using h
  refine Encoding.slot_reads 5 17 p [(d.toNat, 46), (3, 24), (tl.toNat, 20)] _ nb wd (by decide) (by decide) (ok_of_reason _ _ h) (by simp only [pack]; omega) ?_ he
  intro w h0 h1 h2
  simp (disch := first | decide | omega) only [slotClass, decodeClass, decodeEngine, h0, h1, h2, pack, fld_above, fld_here, fld_below, zeros, decide_true, BitVec.ofNat_toNat, BitVec.setWidth_eq, Bool.and_true, Bool.true_and, if_true]
  exact verdict_ok _ h

theorem Encoding.treadRetire p d tl : Encoding.Statement (.treadRetire p d tl) := by
  intro h nb wd he
  have h : (Instr.treadRetire p d tl).reason = 0 := by simpa [Instr.wf] using h
  refine Encoding.slot_reads 5 17 p [(d.toNat, 46), (4, 24), (tl.toNat, 20)] _ nb wd (by decide) (by decide) (ok_of_reason _ _ h) (by simp only [pack]; omega) ?_ he
  intro w h0 h1 h2
  simp (disch := first | decide | omega) only [slotClass, decodeClass, decodeEngine, h0, h1, h2, pack, fld_above, fld_here, fld_below, zeros, decide_true, BitVec.ofNat_toNat, BitVec.setWidth_eq, Bool.and_true, Bool.true_and, if_true]
  exact verdict_ok _ h

theorem Encoding.treadProg p d : Encoding.Statement (.treadProg p d) := by
  intro h nb wd he
  have h : (Instr.treadProg p d).reason = 0 := by simpa [Instr.wf] using h
  refine Encoding.slot_reads 5 17 p [(d.toNat, 46), (2, 24)] _ nb wd (by decide) (by decide) (ok_of_reason _ _ h) (by simp only [pack]; omega) ?_ he
  intro w h0 h1 h2
  simp (disch := first | decide | omega) only [slotClass, decodeClass, decodeEngine, h0, h1, h2, pack, fld_above, fld_here, fld_below, zeros, decide_true, BitVec.ofNat_toNat, BitVec.setWidth_eq, Bool.and_true, Bool.true_and, if_true]
  exact verdict_ok _ h

theorem Encoding.treadCrc p d : Encoding.Statement (.treadCrc p d) := by
  intro h nb wd he
  have h : (Instr.treadCrc p d).reason = 0 := by simpa [Instr.wf] using h
  refine Encoding.slot_reads 5 17 p [(d.toNat, 46), (5, 24)] _ nb wd (by decide) (by decide) (ok_of_reason _ _ h) (by simp only [pack]; omega) ?_ he
  intro w h0 h1 h2
  simp (disch := first | decide | omega) only [slotClass, decodeClass, decodeEngine, h0, h1, h2, pack, fld_above, fld_here, fld_below, zeros, decide_true, BitVec.ofNat_toNat, BitVec.setWidth_eq, Bool.and_true, Bool.true_and, if_true]
  exact verdict_ok _ h

theorem Encoding.atom p d a b c code : Encoding.Statement (.atom p d a b c code) := by
  intro h nb wd he
  have h : (Instr.atom p d a b c code).reason = 0 := by simpa [Instr.wf] using h
  refine Encoding.slot_reads 5 18 p [(d.toNat, 46), (a.toNat, 40), (b.toNat, 34), (c.toNat, 28), (code.toNat, 20)] _ nb wd (by decide) (by decide) (ok_of_reason _ _ h) (by simp only [pack]; omega) ?_ he
  intro w h0 h1 h2
  simp (disch := first | decide | omega) only [slotClass, decodeClass, decodeEngine, h0, h1, h2, pack, fld_above, fld_here, fld_below, zeros, decide_true, BitVec.ofNat_toNat, BitVec.setWidth_eq, Bool.and_true, Bool.true_and, if_true]
  exact verdict_ok _ h

theorem Encoding.rel p d : Encoding.Statement (.rel p d) := by
  intro h nb wd he
  have h : (Instr.rel p d).reason = 0 := by simpa [Instr.wf] using h
  refine Encoding.slot_reads 5 19 p [(d.toNat, 46)] _ nb wd (by decide) (by decide) (ok_of_reason _ _ h) (by simp only [pack]; omega) ?_ he
  intro w h0 h1 h2
  simp (disch := first | decide | omega) only [slotClass, decodeClass, decodeEngine, h0, h1, h2, pack, fld_above, fld_here, fld_below, zeros, decide_true, BitVec.ofNat_toNat, BitVec.setWidth_eq, Bool.and_true, Bool.true_and, if_true]
  exact verdict_ok _ h

theorem Encoding.acq p d a b : Encoding.Statement (.acq p d a b) := by
  intro h nb wd he
  have h : (Instr.acq p d a b).reason = 0 := by simpa [Instr.wf] using h
  refine Encoding.slot_reads 5 20 p [(d.toNat, 46), (a.toNat, 40), (b.toNat, 34)] _ nb wd (by decide) (by decide) (ok_of_reason _ _ h) (by simp only [pack]; omega) ?_ he
  intro w h0 h1 h2
  simp (disch := first | decide | omega) only [slotClass, decodeClass, decodeEngine, h0, h1, h2, pack, fld_above, fld_here, fld_below, zeros, decide_true, BitVec.ofNat_toNat, BitVec.setWidth_eq, Bool.and_true, Bool.true_and, if_true]
  exact verdict_ok _ h

theorem Encoding.acqCur p d a : Encoding.Statement (.acqCur p d a) := by
  intro h nb wd he
  have h : (Instr.acqCur p d a).reason = 0 := by simpa [Instr.wf] using h
  refine Encoding.slot_reads 5 20 p [(d.toNat, 46), (a.toNat, 40), (1, 20)] _ nb wd (by decide) (by decide) (ok_of_reason _ _ h) (by simp only [pack]; omega) ?_ he
  intro w h0 h1 h2
  simp (disch := first | decide | omega) only [slotClass, decodeClass, decodeEngine, h0, h1, h2, pack, fld_above, fld_here, fld_below, zeros, decide_true, BitVec.ofNat_toNat, BitVec.setWidth_eq, Bool.and_true, Bool.true_and, if_true]
  exact verdict_ok _ h

theorem Encoding.phase p d : Encoding.Statement (.phase p d) := by
  intro h nb wd he
  have h : (Instr.phase p d).reason = 0 := by simpa [Instr.wf] using h
  refine Encoding.slot_reads 5 21 p [(d.toNat, 46)] _ nb wd (by decide) (by decide) (ok_of_reason _ _ h) (by simp only [pack]; omega) ?_ he
  intro w h0 h1 h2
  simp (disch := first | decide | omega) only [slotClass, decodeClass, decodeEngine, h0, h1, h2, pack, fld_above, fld_here, fld_below, zeros, decide_true, BitVec.ofNat_toNat, BitVec.setWidth_eq, Bool.and_true, Bool.true_and, if_true]
  exact verdict_ok _ h

theorem Encoding.ntdrain p d : Encoding.Statement (.ntdrain p d) := by
  intro h nb wd he
  have h : (Instr.ntdrain p d).reason = 0 := by simpa [Instr.wf] using h
  refine Encoding.slot_reads 5 22 p [(d.toNat, 46)] _ nb wd (by decide) (by decide) (ok_of_reason _ _ h) (by simp only [pack]; omega) ?_ he
  intro w h0 h1 h2
  simp (disch := first | decide | omega) only [slotClass, decodeClass, decodeEngine, h0, h1, h2, pack, fld_above, fld_here, fld_below, zeros, decide_true, BitVec.ofNat_toNat, BitVec.setWidth_eq, Bool.and_true, Bool.true_and, if_true]
  exact verdict_ok _ h

theorem Encoding.logstatPub p d : Encoding.Statement (.logstatPub p d) := by
  intro h nb wd he
  have h : (Instr.logstatPub p d).reason = 0 := by simpa [Instr.wf] using h
  refine Encoding.slot_reads 5 23 p [(d.toNat, 46)] _ nb wd (by decide) (by decide) (ok_of_reason _ _ h) (by simp only [pack]; omega) ?_ he
  intro w h0 h1 h2
  simp (disch := first | decide | omega) only [slotClass, decodeClass, decodeEngine, h0, h1, h2, pack, fld_above, fld_here, fld_below, zeros, decide_true, BitVec.ofNat_toNat, BitVec.setWidth_eq, Bool.and_true, Bool.true_and, if_true]
  exact verdict_ok _ h

theorem Encoding.logstatTail p d : Encoding.Statement (.logstatTail p d) := by
  intro h nb wd he
  have h : (Instr.logstatTail p d).reason = 0 := by simpa [Instr.wf] using h
  refine Encoding.slot_reads 5 23 p [(d.toNat, 46), (1, 20)] _ nb wd (by decide) (by decide) (ok_of_reason _ _ h) (by simp only [pack]; omega) ?_ he
  intro w h0 h1 h2
  simp (disch := first | decide | omega) only [slotClass, decodeClass, decodeEngine, h0, h1, h2, pack, fld_above, fld_here, fld_below, zeros, decide_true, BitVec.ofNat_toNat, BitVec.setWidth_eq, Bool.and_true, Bool.true_and, if_true]
  exact verdict_ok _ h

theorem Encoding.logstatFree p d : Encoding.Statement (.logstatFree p d) := by
  intro h nb wd he
  have h : (Instr.logstatFree p d).reason = 0 := by simpa [Instr.wf] using h
  refine Encoding.slot_reads 5 23 p [(d.toNat, 46), (2, 20)] _ nb wd (by decide) (by decide) (ok_of_reason _ _ h) (by simp only [pack]; omega) ?_ he
  intro w h0 h1 h2
  simp (disch := first | decide | omega) only [slotClass, decodeClass, decodeEngine, h0, h1, h2, pack, fld_above, fld_here, fld_below, zeros, decide_true, BitVec.ofNat_toNat, BitVec.setWidth_eq, Bool.and_true, Bool.true_and, if_true]
  exact verdict_ok _ h

theorem Encoding.logstatView p d : Encoding.Statement (.logstatView p d) := by
  intro h nb wd he
  have h : (Instr.logstatView p d).reason = 0 := by simpa [Instr.wf] using h
  refine Encoding.slot_reads 5 23 p [(d.toNat, 46), (3, 20)] _ nb wd (by decide) (by decide) (ok_of_reason _ _ h) (by simp only [pack]; omega) ?_ he
  intro w h0 h1 h2
  simp (disch := first | decide | omega) only [slotClass, decodeClass, decodeEngine, h0, h1, h2, pack, fld_above, fld_here, fld_below, zeros, decide_true, BitVec.ofNat_toNat, BitVec.setWidth_eq, Bool.and_true, Bool.true_and, if_true]
  exact verdict_ok _ h

theorem Encoding.logstatMembers p d : Encoding.Statement (.logstatMembers p d) := by
  intro h nb wd he
  have h : (Instr.logstatMembers p d).reason = 0 := by simpa [Instr.wf] using h
  refine Encoding.slot_reads 5 23 p [(d.toNat, 46), (4, 20)] _ nb wd (by decide) (by decide) (ok_of_reason _ _ h) (by simp only [pack]; omega) ?_ he
  intro w h0 h1 h2
  simp (disch := first | decide | omega) only [slotClass, decodeClass, decodeEngine, h0, h1, h2, pack, fld_above, fld_here, fld_below, zeros, decide_true, BitVec.ofNat_toNat, BitVec.setWidth_eq, Bool.and_true, Bool.true_and, if_true]
  exact verdict_ok _ h

theorem Encoding.logstatSelf p d : Encoding.Statement (.logstatSelf p d) := by
  intro h nb wd he
  have h : (Instr.logstatSelf p d).reason = 0 := by simpa [Instr.wf] using h
  refine Encoding.slot_reads 5 23 p [(d.toNat, 46), (5, 20)] _ nb wd (by decide) (by decide) (ok_of_reason _ _ h) (by simp only [pack]; omega) ?_ he
  intro w h0 h1 h2
  simp (disch := first | decide | omega) only [slotClass, decodeClass, decodeEngine, h0, h1, h2, pack, fld_above, fld_here, fld_below, zeros, decide_true, BitVec.ofNat_toNat, BitVec.setWidth_eq, Bool.and_true, Bool.true_and, if_true]
  exact verdict_ok _ h

theorem Encoding.logstatCursor p d a : Encoding.Statement (.logstatCursor p d a) := by
  intro h nb wd he
  have h : (Instr.logstatCursor p d a).reason = 0 := by simpa [Instr.wf] using h
  refine Encoding.slot_reads 5 23 p [(d.toNat, 46), (a.toNat, 40), (6, 20)] _ nb wd (by decide) (by decide) (ok_of_reason _ _ h) (by simp only [pack]; omega) ?_ he
  intro w h0 h1 h2
  simp (disch := first | decide | omega) only [slotClass, decodeClass, decodeEngine, h0, h1, h2, pack, fld_above, fld_here, fld_below, zeros, decide_true, BitVec.ofNat_toNat, BitVec.setWidth_eq, Bool.and_true, Bool.true_and, if_true]
  exact verdict_ok _ h

theorem Encoding.logstatRbld p d : Encoding.Statement (.logstatRbld p d) := by
  intro h nb wd he
  have h : (Instr.logstatRbld p d).reason = 0 := by simpa [Instr.wf] using h
  refine Encoding.slot_reads 5 23 p [(d.toNat, 46), (7, 20)] _ nb wd (by decide) (by decide) (ok_of_reason _ _ h) (by simp only [pack]; omega) ?_ he
  intro w h0 h1 h2
  simp (disch := first | decide | omega) only [slotClass, decodeClass, decodeEngine, h0, h1, h2, pack, fld_above, fld_here, fld_below, zeros, decide_true, BitVec.ofNat_toNat, BitVec.setWidth_eq, Bool.and_true, Bool.true_and, if_true]
  exact verdict_ok _ h

theorem Encoding.fbuild p a b c opts tpl clen : Encoding.Statement (.fbuild p a b c opts tpl clen) := by
  intro h nb wd he
  have h : (Instr.fbuild p a b c opts tpl clen).reason = 0 := by simpa [Instr.wf] using h
  refine Encoding.slot_reads 5 24 p [(a.toNat, 40), (b.toNat, 34), (c.toNat, 28), (opts.toNat, 20), (clen.toNat, 8), (tpl.toNat, 0)] _ nb wd (by decide) (by decide) (ok_of_reason _ _ h) (by simp only [pack]; omega) ?_ he
  intro w h0 h1 h2
  simp (disch := first | decide | omega) only [slotClass, decodeClass, decodeEngine, h0, h1, h2, pack, fld_above, fld_here, fld_below, zeros, decide_true, BitVec.ofNat_toNat, BitVec.setWidth_eq, Bool.and_true, Bool.true_and, if_true]
  exact verdict_ok _ h

theorem Encoding.fsend p d : Encoding.Statement (.fsend p d) := by
  intro h nb wd he
  have h : (Instr.fsend p d).reason = 0 := by simpa [Instr.wf] using h
  refine Encoding.slot_reads 5 25 p [(d.toNat, 46)] _ nb wd (by decide) (by decide) (ok_of_reason _ _ h) (by simp only [pack]; omega) ?_ he
  intro w h0 h1 h2
  simp (disch := first | decide | omega) only [slotClass, decodeClass, decodeEngine, h0, h1, h2, pack, fld_above, fld_here, fld_below, zeros, decide_true, BitVec.ofNat_toNat, BitVec.setWidth_eq, Bool.and_true, Bool.true_and, if_true]
  exact verdict_ok _ h

theorem Encoding.dwait p d a dq : Encoding.Statement (.dwait p d a dq) := by
  intro h nb wd he
  have h : (Instr.dwait p d a dq).reason = 0 := by simpa [Instr.wf] using h
  refine Encoding.slot_reads 5 26 p [(d.toNat, 46), (a.toNat, 40), (dq.toNat, 0)] _ nb wd (by decide) (by decide) (ok_of_reason _ _ h) (by simp only [pack]; omega) ?_ he
  intro w h0 h1 h2
  simp (disch := first | decide | omega) only [slotClass, decodeClass, decodeEngine, h0, h1, h2, pack, fld_above, fld_here, fld_below, zeros, decide_true, BitVec.ofNat_toNat, BitVec.setWidth_eq, Bool.and_true, Bool.true_and, if_true]
  exact verdict_ok _ h

theorem Encoding.dreadCnt p d dq : Encoding.Statement (.dreadCnt p d dq) := by
  intro h nb wd he
  have h : (Instr.dreadCnt p d dq).reason = 0 := by simpa [Instr.wf] using h
  refine Encoding.slot_reads 5 27 p [(d.toNat, 46), (dq.toNat, 0)] _ nb wd (by decide) (by decide) (ok_of_reason _ _ h) (by simp only [pack]; omega) ?_ he
  intro w h0 h1 h2
  simp (disch := first | decide | omega) only [slotClass, decodeClass, decodeEngine, h0, h1, h2, pack, fld_above, fld_here, fld_below, zeros, decide_true, BitVec.ofNat_toNat, BitVec.setWidth_eq, Bool.and_true, Bool.true_and, if_true]
  exact verdict_ok _ h

theorem Encoding.dreadCons p d dq : Encoding.Statement (.dreadCons p d dq) := by
  intro h nb wd he
  have h : (Instr.dreadCons p d dq).reason = 0 := by simpa [Instr.wf] using h
  refine Encoding.slot_reads 5 27 p [(d.toNat, 46), (1, 20), (dq.toNat, 0)] _ nb wd (by decide) (by decide) (ok_of_reason _ _ h) (by simp only [pack]; omega) ?_ he
  intro w h0 h1 h2
  simp (disch := first | decide | omega) only [slotClass, decodeClass, decodeEngine, h0, h1, h2, pack, fld_above, fld_here, fld_below, zeros, decide_true, BitVec.ofNat_toNat, BitVec.setWidth_eq, Bool.and_true, Bool.true_and, if_true]
  exact verdict_ok _ h

theorem Encoding.dreadDesc0 p d dq : Encoding.Statement (.dreadDesc0 p d dq) := by
  intro h nb wd he
  have h : (Instr.dreadDesc0 p d dq).reason = 0 := by simpa [Instr.wf] using h
  refine Encoding.slot_reads 5 27 p [(d.toNat, 46), (2, 20), (dq.toNat, 0)] _ nb wd (by decide) (by decide) (ok_of_reason _ _ h) (by simp only [pack]; omega) ?_ he
  intro w h0 h1 h2
  simp (disch := first | decide | omega) only [slotClass, decodeClass, decodeEngine, h0, h1, h2, pack, fld_above, fld_here, fld_below, zeros, decide_true, BitVec.ofNat_toNat, BitVec.setWidth_eq, Bool.and_true, Bool.true_and, if_true]
  exact verdict_ok _ h

theorem Encoding.dreadDesc1 p d dq : Encoding.Statement (.dreadDesc1 p d dq) := by
  intro h nb wd he
  have h : (Instr.dreadDesc1 p d dq).reason = 0 := by simpa [Instr.wf] using h
  refine Encoding.slot_reads 5 27 p [(d.toNat, 46), (3, 20), (dq.toNat, 0)] _ nb wd (by decide) (by decide) (ok_of_reason _ _ h) (by simp only [pack]; omega) ?_ he
  intro w h0 h1 h2
  simp (disch := first | decide | omega) only [slotClass, decodeClass, decodeEngine, h0, h1, h2, pack, fld_above, fld_here, fld_below, zeros, decide_true, BitVec.ofNat_toNat, BitVec.setWidth_eq, Bool.and_true, Bool.true_and, if_true]
  exact verdict_ok _ h

theorem Encoding.dreadNum p d dq : Encoding.Statement (.dreadNum p d dq) := by
  intro h nb wd he
  have h : (Instr.dreadNum p d dq).reason = 0 := by simpa [Instr.wf] using h
  refine Encoding.slot_reads 5 27 p [(d.toNat, 46), (4, 20), (dq.toNat, 0)] _ nb wd (by decide) (by decide) (ok_of_reason _ _ h) (by simp only [pack]; omega) ?_ he
  intro w h0 h1 h2
  simp (disch := first | decide | omega) only [slotClass, decodeClass, decodeEngine, h0, h1, h2, pack, fld_above, fld_here, fld_below, zeros, decide_true, BitVec.ofNat_toNat, BitVec.setWidth_eq, Bool.and_true, Bool.true_and, if_true]
  exact verdict_ok _ h

theorem Encoding.frecv p d dq : Encoding.Statement (.frecv p d dq) := by
  intro h nb wd he
  have h : (Instr.frecv p d dq).reason = 0 := by simpa [Instr.wf] using h
  refine Encoding.slot_reads 5 28 p [(d.toNat, 46), (dq.toNat, 0)] _ nb wd (by decide) (by decide) (ok_of_reason _ _ h) (by simp only [pack]; omega) ?_ he
  intro w h0 h1 h2
  simp (disch := first | decide | omega) only [slotClass, decodeClass, decodeEngine, h0, h1, h2, pack, fld_above, fld_here, fld_below, zeros, decide_true, BitVec.ofNat_toNat, BitVec.setWidth_eq, Bool.and_true, Bool.true_and, if_true]
  exact verdict_ok _ h

theorem Encoding.frecvPeek p d dq : Encoding.Statement (.frecvPeek p d dq) := by
  intro h nb wd he
  have h : (Instr.frecvPeek p d dq).reason = 0 := by simpa [Instr.wf] using h
  refine Encoding.slot_reads 5 28 p [(d.toNat, 46), (1, 20), (dq.toNat, 0)] _ nb wd (by decide) (by decide) (ok_of_reason _ _ h) (by simp only [pack]; omega) ?_ he
  intro w h0 h1 h2
  simp (disch := first | decide | omega) only [slotClass, decodeClass, decodeEngine, h0, h1, h2, pack, fld_above, fld_here, fld_below, zeros, decide_true, BitVec.ofNat_toNat, BitVec.setWidth_eq, Bool.and_true, Bool.true_and, if_true]
  exact verdict_ok _ h

theorem Encoding.cslotAlloc p d a b c code tpl : Encoding.Statement (.cslotAlloc p d a b c code tpl) := by
  intro h nb wd he
  have h : (Instr.cslotAlloc p d a b c code tpl).reason = 0 := by simpa [Instr.wf] using h
  refine Encoding.slot_reads 5 29 p [(d.toNat, 46), (a.toNat, 40), (b.toNat, 34), (c.toNat, 28), (code.toNat, 24), (tpl.toNat, 0)] _ nb wd (by decide) (by decide) (ok_of_reason _ _ h) (by simp only [pack]; omega) ?_ he
  intro w h0 h1 h2
  simp (disch := first | decide | omega) only [slotClass, decodeClass, decodeEngine, h0, h1, h2, pack, fld_above, fld_here, fld_below, zeros, decide_true, BitVec.ofNat_toNat, BitVec.setWidth_eq, Bool.and_true, Bool.true_and, if_true]
  exact verdict_ok _ h

theorem Encoding.cslotFree p d a b c tpl : Encoding.Statement (.cslotFree p d a b c tpl) := by
  intro h nb wd he
  have h : (Instr.cslotFree p d a b c tpl).reason = 0 := by simpa [Instr.wf] using h
  refine Encoding.slot_reads 5 29 p [(d.toNat, 46), (a.toNat, 40), (b.toNat, 34), (c.toNat, 28), (1, 20), (tpl.toNat, 0)] _ nb wd (by decide) (by decide) (ok_of_reason _ _ h) (by simp only [pack]; omega) ?_ he
  intro w h0 h1 h2
  simp (disch := first | decide | omega) only [slotClass, decodeClass, decodeEngine, h0, h1, h2, pack, fld_above, fld_here, fld_below, zeros, decide_true, BitVec.ofNat_toNat, BitVec.setWidth_eq, Bool.and_true, Bool.true_and, if_true]
  exact verdict_ok _ h

theorem Encoding.cslotRead p d a b c tpl : Encoding.Statement (.cslotRead p d a b c tpl) := by
  intro h nb wd he
  have h : (Instr.cslotRead p d a b c tpl).reason = 0 := by simpa [Instr.wf] using h
  refine Encoding.slot_reads 5 29 p [(d.toNat, 46), (a.toNat, 40), (b.toNat, 34), (c.toNat, 28), (2, 20), (tpl.toNat, 0)] _ nb wd (by decide) (by decide) (ok_of_reason _ _ h) (by simp only [pack]; omega) ?_ he
  intro w h0 h1 h2
  simp (disch := first | decide | omega) only [slotClass, decodeClass, decodeEngine, h0, h1, h2, pack, fld_above, fld_here, fld_below, zeros, decide_true, BitVec.ofNat_toNat, BitVec.setWidth_eq, Bool.and_true, Bool.true_and, if_true]
  exact verdict_ok _ h

theorem Encoding.swopen p d a b c id expect : Encoding.Statement (.swopen p d a b c id expect) := by
  intro h nb wd he
  have h : (Instr.swopen p d a b c id expect).reason = 0 := by simpa [Instr.wf] using h
  refine Encoding.slot_reads 5 30 p [(d.toNat, 46), (a.toNat, 40), (b.toNat, 34), (c.toNat, 28), (expect.toNat, 6), (id.toNat, 0)] _ nb wd (by decide) (by decide) (ok_of_reason _ _ h) (by simp only [pack]; omega) ?_ he
  intro w h0 h1 h2
  simp (disch := first | decide | omega) only [slotClass, decodeClass, decodeEngine, h0, h1, h2, pack, fld_above, fld_here, fld_below, zeros, decide_true, BitVec.ofNat_toNat, BitVec.setWidth_eq, Bool.and_true, Bool.true_and, if_true]
  exact verdict_ok _ h

theorem Encoding.swsub p d a b c id q : Encoding.Statement (.swsub p d a b c id q) := by
  intro h nb wd he
  have h : (Instr.swsub p d a b c id q).reason = 0 := by simpa [Instr.wf] using h
  refine Encoding.slot_reads 5 31 p [(d.toNat, 46), (a.toNat, 40), (b.toNat, 34), (c.toNat, 28), (q.toNat, 6), (id.toNat, 0)] _ nb wd (by decide) (by decide) (ok_of_reason _ _ h) (by simp only [pack]; omega) ?_ he
  intro w h0 h1 h2
  simp (disch := first | decide | omega) only [slotClass, decodeClass, decodeEngine, h0, h1, h2, pack, fld_above, fld_here, fld_below, zeros, decide_true, BitVec.ofNat_toNat, BitVec.setWidth_eq, Bool.and_true, Bool.true_and, if_true]
  exact verdict_ok _ h

theorem Encoding.swmerge p d a b c id : Encoding.Statement (.swmerge p d a b c id) := by
  intro h nb wd he
  have h : (Instr.swmerge p d a b c id).reason = 0 := by simpa [Instr.wf] using h
  refine Encoding.slot_reads 5 32 p [(d.toNat, 46), (a.toNat, 40), (b.toNat, 34), (c.toNat, 28), (id.toNat, 0)] _ nb wd (by decide) (by decide) (ok_of_reason _ _ h) (by simp only [pack]; omega) ?_ he
  intro w h0 h1 h2
  simp (disch := first | decide | omega) only [slotClass, decodeClass, decodeEngine, h0, h1, h2, pack, fld_above, fld_here, fld_below, zeros, decide_true, BitVec.ofNat_toNat, BitVec.setWidth_eq, Bool.and_true, Bool.true_and, if_true]
  exact verdict_ok _ h

theorem Encoding.swread p d a id : Encoding.Statement (.swread p d a id) := by
  intro h nb wd he
  have h : (Instr.swread p d a id).reason = 0 := by simpa [Instr.wf] using h
  refine Encoding.slot_reads 5 33 p [(d.toNat, 46), (a.toNat, 40), (id.toNat, 0)] _ nb wd (by decide) (by decide) (ok_of_reason _ _ h) (by simp only [pack]; omega) ?_ he
  intro w h0 h1 h2
  simp (disch := first | decide | omega) only [slotClass, decodeClass, decodeEngine, h0, h1, h2, pack, fld_above, fld_here, fld_below, zeros, decide_true, BitVec.ofNat_toNat, BitVec.setWidth_eq, Bool.and_true, Bool.true_and, if_true]
  exact verdict_ok _ h

theorem Encoding.swclose p d c id : Encoding.Statement (.swclose p d c id) := by
  intro h nb wd he
  have h : (Instr.swclose p d c id).reason = 0 := by simpa [Instr.wf] using h
  refine Encoding.slot_reads 5 34 p [(d.toNat, 46), (c.toNat, 28), (id.toNat, 0)] _ nb wd (by decide) (by decide) (ok_of_reason _ _ h) (by simp only [pack]; omega) ?_ he
  intro w h0 h1 h2
  simp (disch := first | decide | omega) only [slotClass, decodeClass, decodeEngine, h0, h1, h2, pack, fld_above, fld_here, fld_below, zeros, decide_true, BitVec.ofNat_toNat, BitVec.setWidth_eq, Bool.and_true, Bool.true_and, if_true]
  exact verdict_ok _ h

theorem Encoding.launch p d a c : Encoding.Statement (.launch p d a c) := by
  intro h nb wd he
  have h : (Instr.launch p d a c).reason = 0 := by simpa [Instr.wf] using h
  refine Encoding.slot_reads 5 35 p [(d.toNat, 46), (a.toNat, 40), (c.toNat, 28)] _ nb wd (by decide) (by decide) (ok_of_reason _ _ h) (by simp only [pack]; omega) ?_ he
  intro w h0 h1 h2
  simp (disch := first | decide | omega) only [slotClass, decodeClass, decodeEngine, h0, h1, h2, pack, fld_above, fld_here, fld_below, zeros, decide_true, BitVec.ofNat_toNat, BitVec.setWidth_eq, Bool.and_true, Bool.true_and, if_true]
  exact verdict_ok _ h

theorem Encoding.mpostLaunch p d a b c : Encoding.Statement (.mpostLaunch p d a b c) := by
  intro h nb wd he
  have h : (Instr.mpostLaunch p d a b c).reason = 0 := by simpa [Instr.wf] using h
  refine Encoding.slot_reads 5 36 p [(d.toNat, 46), (a.toNat, 40), (b.toNat, 34), (c.toNat, 28)] _ nb wd (by decide) (by decide) (ok_of_reason _ _ h) (by simp only [pack]; omega) ?_ he
  intro w h0 h1 h2
  simp (disch := first | decide | omega) only [slotClass, decodeClass, decodeEngine, h0, h1, h2, pack, fld_above, fld_here, fld_below, zeros, decide_true, BitVec.ofNat_toNat, BitVec.setWidth_eq, Bool.and_true, Bool.true_and, if_true]
  exact verdict_ok _ h

theorem Encoding.mpostMsg p d a b c : Encoding.Statement (.mpostMsg p d a b c) := by
  intro h nb wd he
  have h : (Instr.mpostMsg p d a b c).reason = 0 := by simpa [Instr.wf] using h
  refine Encoding.slot_reads 5 36 p [(d.toNat, 46), (a.toNat, 40), (b.toNat, 34), (c.toNat, 28), (1, 20)] _ nb wd (by decide) (by decide) (ok_of_reason _ _ h) (by simp only [pack]; omega) ?_ he
  intro w h0 h1 h2
  simp (disch := first | decide | omega) only [slotClass, decodeClass, decodeEngine, h0, h1, h2, pack, fld_above, fld_here, fld_below, zeros, decide_true, BitVec.ofNat_toNat, BitVec.setWidth_eq, Bool.and_true, Bool.true_and, if_true]
  exact verdict_ok _ h

theorem Encoding.ctxsave p a groups : Encoding.Statement (.ctxsave p a groups) := by
  intro h nb wd he
  have h : (Instr.ctxsave p a groups).reason = 0 := by simpa [Instr.wf] using h
  refine Encoding.slot_reads 5 37 p [(a.toNat, 40), (groups.toNat, 0)] _ nb wd (by decide) (by decide) (ok_of_reason _ _ h) (by simp only [pack]; omega) ?_ he
  intro w h0 h1 h2
  simp (disch := first | decide | omega) only [slotClass, decodeClass, decodeEngine, h0, h1, h2, pack, fld_above, fld_here, fld_below, zeros, decide_true, BitVec.ofNat_toNat, BitVec.setWidth_eq, Bool.and_true, Bool.true_and, if_true]
  exact verdict_ok _ h

theorem Encoding.ctxsaveSr p groups : Encoding.Statement (.ctxsaveSr p groups) := by
  intro h nb wd he
  have h : (Instr.ctxsaveSr p groups).reason = 0 := by simpa [Instr.wf] using h
  refine Encoding.slot_reads 5 37 p [(1, 20), (groups.toNat, 0)] _ nb wd (by decide) (by decide) (ok_of_reason _ _ h) (by simp only [pack]; omega) ?_ he
  intro w h0 h1 h2
  simp (disch := first | decide | omega) only [slotClass, decodeClass, decodeEngine, h0, h1, h2, pack, fld_above, fld_here, fld_below, zeros, decide_true, BitVec.ofNat_toNat, BitVec.setWidth_eq, Bool.and_true, Bool.true_and, if_true]
  exact verdict_ok _ h

theorem Encoding.ctxrstr p a groups : Encoding.Statement (.ctxrstr p a groups) := by
  intro h nb wd he
  have h : (Instr.ctxrstr p a groups).reason = 0 := by simpa [Instr.wf] using h
  refine Encoding.slot_reads 5 38 p [(a.toNat, 40), (groups.toNat, 0)] _ nb wd (by decide) (by decide) (ok_of_reason _ _ h) (by simp only [pack]; omega) ?_ he
  intro w h0 h1 h2
  simp (disch := first | decide | omega) only [slotClass, decodeClass, decodeEngine, h0, h1, h2, pack, fld_above, fld_here, fld_below, zeros, decide_true, BitVec.ofNat_toNat, BitVec.setWidth_eq, Bool.and_true, Bool.true_and, if_true]
  exact verdict_ok _ h

theorem Encoding.ctxrstrSr p groups : Encoding.Statement (.ctxrstrSr p groups) := by
  intro h nb wd he
  have h : (Instr.ctxrstrSr p groups).reason = 0 := by simpa [Instr.wf] using h
  refine Encoding.slot_reads 5 38 p [(1, 20), (groups.toNat, 0)] _ nb wd (by decide) (by decide) (ok_of_reason _ _ h) (by simp only [pack]; omega) ?_ he
  intro w h0 h1 h2
  simp (disch := first | decide | omega) only [slotClass, decodeClass, decodeEngine, h0, h1, h2, pack, fld_above, fld_here, fld_below, zeros, decide_true, BitVec.ofNat_toNat, BitVec.setWidth_eq, Bool.and_true, Bool.true_and, if_true]
  exact verdict_ok _ h

theorem Encoding.kill  : Encoding.Statement (.kill) := by
  intro h nb wd he
  refine Encoding.land_reads 0 [] _ nb wd (by decide) (by simp only [pack]; omega) ?_ he
  intro w h0 h2
  simp (disch := first | decide | omega) only [decodeLanding, landOk, h, h0, h2, pack, fld_above, fld_here, fld_below, zeros, decide_true, BitVec.ofNat_toNat, BitVec.setWidth_eq, Bool.and_true, Bool.true_and, if_true]

theorem Encoding.pushi i : Encoding.Statement (.pushi i) := by
  intro h nb wd he
  refine Encoding.land_reads 1 [(i.toNat, 0)] _ nb wd (by decide) (by simp only [pack]; omega) ?_ he
  intro w h0 h2
  simp (disch := first | decide | omega) only [decodeLanding, landOk, h, h0, h2, pack, fld_above, fld_here, fld_below, zeros, decide_true, BitVec.ofNat_toNat, BitVec.setWidth_eq, Bool.and_true, Bool.true_and, if_true]

theorem Encoding.pushh k : Encoding.Statement (.pushh k) := by
  intro h nb wd he
  refine Encoding.land_reads 2 [(k.toNat, 0)] _ nb wd (by decide) (by simp only [pack]; omega) ?_ he
  intro w h0 h2
  simp (disch := first | decide | omega) only [decodeLanding, landOk, h, h0, h2, pack, fld_above, fld_here, fld_below, zeros, decide_true, BitVec.ofNat_toNat, BitVec.setWidth_eq, Bool.and_true, Bool.true_and, if_true]

theorem Encoding.poph k : Encoding.Statement (.poph k) := by
  intro h nb wd he
  refine Encoding.land_reads 3 [(k.toNat, 0)] _ nb wd (by decide) (by simp only [pack]; omega) ?_ he
  intro w h0 h2
  simp (disch := first | decide | omega) only [decodeLanding, landOk, h, h0, h2, pack, fld_above, fld_here, fld_below, zeros, decide_true, BitVec.ofNat_toNat, BitVec.setWidth_eq, Bool.and_true, Bool.true_and, if_true]

theorem Encoding.dup k : Encoding.Statement (.dup k) := by
  intro h nb wd he
  refine Encoding.land_reads 4 [(k.toNat, 0)] _ nb wd (by decide) (by simp only [pack]; omega) ?_ he
  intro w h0 h2
  simp (disch := first | decide | omega) only [decodeLanding, landOk, h, h0, h2, pack, fld_above, fld_here, fld_below, zeros, decide_true, BitVec.ofNat_toNat, BitVec.setWidth_eq, Bool.and_true, Bool.true_and, if_true]

theorem Encoding.swap  : Encoding.Statement (.swap) := by
  intro h nb wd he
  refine Encoding.land_reads 5 [] _ nb wd (by decide) (by simp only [pack]; omega) ?_ he
  intro w h0 h2
  simp (disch := first | decide | omega) only [decodeLanding, landOk, h, h0, h2, pack, fld_above, fld_here, fld_below, zeros, decide_true, BitVec.ofNat_toNat, BitVec.setWidth_eq, Bool.and_true, Bool.true_and, if_true]

theorem Encoding.ferryAdd  : Encoding.Statement (.ferryAdd) := by
  intro h nb wd he
  refine Encoding.land_reads 6 [] _ nb wd (by decide) (by simp only [pack]; omega) ?_ he
  intro w h0 h2
  simp (disch := first | decide | omega) only [decodeLanding, landOk, h, h0, h2, pack, fld_above, fld_here, fld_below, zeros, decide_true, BitVec.ofNat_toNat, BitVec.setWidth_eq, Bool.and_true, Bool.true_and, if_true]

theorem Encoding.ferrySub  : Encoding.Statement (.ferrySub) := by
  intro h nb wd he
  refine Encoding.land_reads 7 [] _ nb wd (by decide) (by simp only [pack]; omega) ?_ he
  intro w h0 h2
  simp (disch := first | decide | omega) only [decodeLanding, landOk, h, h0, h2, pack, fld_above, fld_here, fld_below, zeros, decide_true, BitVec.ofNat_toNat, BitVec.setWidth_eq, Bool.and_true, Bool.true_and, if_true]

theorem Encoding.ferryAnd  : Encoding.Statement (.ferryAnd) := by
  intro h nb wd he
  refine Encoding.land_reads 8 [] _ nb wd (by decide) (by simp only [pack]; omega) ?_ he
  intro w h0 h2
  simp (disch := first | decide | omega) only [decodeLanding, landOk, h, h0, h2, pack, fld_above, fld_here, fld_below, zeros, decide_true, BitVec.ofNat_toNat, BitVec.setWidth_eq, Bool.and_true, Bool.true_and, if_true]

theorem Encoding.ferryOr  : Encoding.Statement (.ferryOr) := by
  intro h nb wd he
  refine Encoding.land_reads 9 [] _ nb wd (by decide) (by simp only [pack]; omega) ?_ he
  intro w h0 h2
  simp (disch := first | decide | omega) only [decodeLanding, landOk, h, h0, h2, pack, fld_above, fld_here, fld_below, zeros, decide_true, BitVec.ofNat_toNat, BitVec.setWidth_eq, Bool.and_true, Bool.true_and, if_true]

theorem Encoding.ferryXor  : Encoding.Statement (.ferryXor) := by
  intro h nb wd he
  refine Encoding.land_reads 10 [] _ nb wd (by decide) (by simp only [pack]; omega) ?_ he
  intro w h0 h2
  simp (disch := first | decide | omega) only [decodeLanding, landOk, h, h0, h2, pack, fld_above, fld_here, fld_below, zeros, decide_true, BitVec.ofNat_toNat, BitVec.setWidth_eq, Bool.and_true, Bool.true_and, if_true]

theorem Encoding.ferryMin f : Encoding.Statement (.ferryMin f) := by
  intro h nb wd he
  refine Encoding.land_reads 11 [(f.toNat, 0)] _ nb wd (by decide) (by simp only [pack]; omega) ?_ he
  intro w h0 h2
  simp (disch := first | decide | omega) only [decodeLanding, landOk, h, h0, h2, pack, fld_above, fld_here, fld_below, zeros, decide_true, BitVec.ofNat_toNat, BitVec.setWidth_eq, Bool.and_true, Bool.true_and, if_true]

theorem Encoding.ferryMax f : Encoding.Statement (.ferryMax f) := by
  intro h nb wd he
  refine Encoding.land_reads 12 [(f.toNat, 0)] _ nb wd (by decide) (by simp only [pack]; omega) ?_ he
  intro w h0 h2
  simp (disch := first | decide | omega) only [decodeLanding, landOk, h, h0, h2, pack, fld_above, fld_here, fld_below, zeros, decide_true, BitVec.ofNat_toNat, BitVec.setWidth_eq, Bool.and_true, Bool.true_and, if_true]

theorem Encoding.amax  : Encoding.Statement (.amax) := by
  intro h nb wd he
  refine Encoding.land_reads 13 [] _ nb wd (by decide) (by simp only [pack]; omega) ?_ he
  intro w h0 h2
  simp (disch := first | decide | omega) only [decodeLanding, landOk, h, h0, h2, pack, fld_above, fld_here, fld_below, zeros, decide_true, BitVec.ofNat_toNat, BitVec.setWidth_eq, Bool.and_true, Bool.true_and, if_true]

theorem Encoding.eq z : Encoding.Statement (.eq z) := by
  intro h nb wd he
  refine Encoding.land_reads 14 [(z.toNat, 0)] _ nb wd (by decide) (by simp only [pack]; omega) ?_ he
  intro w h0 h2
  simp (disch := first | decide | omega) only [decodeLanding, landOk, h, h0, h2, pack, fld_above, fld_here, fld_below, zeros, decide_true, BitVec.ofNat_toNat, BitVec.setWidth_eq, Bool.and_true, Bool.true_and, if_true]

theorem Encoding.lt u : Encoding.Statement (.lt u) := by
  intro h nb wd he
  refine Encoding.land_reads 15 [(u.toNat, 0)] _ nb wd (by decide) (by simp only [pack]; omega) ?_ he
  intro w h0 h2
  simp (disch := first | decide | omega) only [decodeLanding, landOk, h, h0, h2, pack, fld_above, fld_here, fld_below, zeros, decide_true, BitVec.ofNat_toNat, BitVec.setWidth_eq, Bool.and_true, Bool.true_and, if_true]

theorem Encoding.jz k : Encoding.Statement (.jz k) := by
  intro h nb wd he
  refine Encoding.land_reads 16 [(k.toNat, 0)] _ nb wd (by decide) (by simp only [pack]; omega) ?_ he
  intro w h0 h2
  simp (disch := first | decide | omega) only [decodeLanding, landOk, h, h0, h2, pack, fld_above, fld_here, fld_below, zeros, decide_true, BitVec.ofNat_toNat, BitVec.setWidth_eq, Bool.and_true, Bool.true_and, if_true]

theorem Encoding.jmp k : Encoding.Statement (.jmp k) := by
  intro h nb wd he
  refine Encoding.land_reads 17 [(k.toNat, 0)] _ nb wd (by decide) (by simp only [pack]; omega) ?_ he
  intro w h0 h2
  simp (disch := first | decide | omega) only [decodeLanding, landOk, h, h0, h2, pack, fld_above, fld_here, fld_below, zeros, decide_true, BitVec.ofNat_toNat, BitVec.setWidth_eq, Bool.and_true, Bool.true_and, if_true]

theorem Encoding.ldwImm i : Encoding.Statement (.ldwImm i) := by
  intro h nb wd he
  refine Encoding.land_reads 18 [(1, 9), (i.toNat, 0)] _ nb wd (by decide) (by simp only [pack]; omega) ?_ he
  intro w h0 h2
  simp (disch := first | decide | omega) only [decodeLanding, landOk, h, h0, h2, pack, fld_above, fld_here, fld_below, zeros, decide_true, BitVec.ofNat_toNat, BitVec.setWidth_eq, Bool.and_true, Bool.true_and, if_true]

theorem Encoding.ldw  : Encoding.Statement (.ldw) := by
  intro h nb wd he
  refine Encoding.land_reads 18 [] _ nb wd (by decide) (by simp only [pack]; omega) ?_ he
  intro w h0 h2
  simp (disch := first | decide | omega) only [decodeLanding, landOk, h, h0, h2, pack, fld_above, fld_here, fld_below, zeros, decide_true, BitVec.ofNat_toNat, BitVec.setWidth_eq, Bool.and_true, Bool.true_and, if_true, Nat.zero_ne_one, Nat.one_ne_zero, if_false]

theorem Encoding.addwImm i c : Encoding.Statement (.addwImm i c) := by
  intro h nb wd he
  refine Encoding.land_reads 19 [(1, 9), (i.toNat, 4), (c.toNat, 0)] _ nb wd (by decide) (by simp only [pack]; omega) ?_ he
  intro w h0 h2
  simp (disch := first | decide | omega) only [decodeLanding, landOk, h, h0, h2, pack, fld_above, fld_here, fld_below, zeros, decide_true, BitVec.ofNat_toNat, BitVec.setWidth_eq, Bool.and_true, Bool.true_and, if_true]

theorem Encoding.addw c : Encoding.Statement (.addw c) := by
  intro h nb wd he
  refine Encoding.land_reads 19 [(c.toNat, 0)] _ nb wd (by decide) (by simp only [pack]; omega) ?_ he
  intro w h0 h2
  simp (disch := first | decide | omega) only [decodeLanding, landOk, h, h0, h2, pack, fld_above, fld_here, fld_below, zeros, decide_true, BitVec.ofNat_toNat, BitVec.setWidth_eq, Bool.and_true, Bool.true_and, if_true, Nat.zero_ne_one, Nat.one_ne_zero, if_false]

theorem Encoding.cmb  : Encoding.Statement (.cmb) := by
  intro h nb wd he
  refine Encoding.land_reads 20 [] _ nb wd (by decide) (by simp only [pack]; omega) ?_ he
  intro w h0 h2
  simp (disch := first | decide | omega) only [decodeLanding, landOk, h, h0, h2, pack, fld_above, fld_here, fld_below, zeros, decide_true, BitVec.ofNat_toNat, BitVec.setWidth_eq, Bool.and_true, Bool.true_and, if_true]

theorem Encoding.ctr k : Encoding.Statement (.ctr k) := by
  intro h nb wd he
  refine Encoding.land_reads 21 [(k.toNat, 0)] _ nb wd (by decide) (by simp only [pack]; omega) ?_ he
  intro w h0 h2
  simp (disch := first | decide | omega) only [decodeLanding, landOk, h, h0, h2, pack, fld_above, fld_here, fld_below, zeros, decide_true, BitVec.ofNat_toNat, BitVec.setWidth_eq, Bool.and_true, Bool.true_and, if_true]

theorem Encoding.ctrInc k : Encoding.Statement (.ctrInc k) := by
  intro h nb wd he
  refine Encoding.land_reads 21 [(1, 4), (k.toNat, 0)] _ nb wd (by decide) (by simp only [pack]; omega) ?_ he
  intro w h0 h2
  simp (disch := first | decide | omega) only [decodeLanding, landOk, h, h0, h2, pack, fld_above, fld_here, fld_below, zeros, decide_true, BitVec.ofNat_toNat, BitVec.setWidth_eq, Bool.and_true, Bool.true_and, if_true, Nat.zero_ne_one, Nat.one_ne_zero, if_false]

theorem Encoding.node m : Encoding.Statement (.node m) := by
  intro h nb wd he
  refine Encoding.land_reads 22 [(m.toNat, 0)] _ nb wd (by decide) (by simp only [pack]; omega) ?_ he
  intro w h0 h2
  simp (disch := first | decide | omega) only [decodeLanding, landOk, h, h0, h2, pack, fld_above, fld_here, fld_below, zeros, decide_true, BitVec.ofNat_toNat, BitVec.setWidth_eq, Bool.and_true, Bool.true_and, if_true]

theorem Encoding.hops s : Encoding.Statement (.hops s) := by
  intro h nb wd he
  refine Encoding.land_reads 23 [(s.toNat, 0)] _ nb wd (by decide) (by simp only [pack]; omega) ?_ he
  intro w h0 h2
  simp (disch := first | decide | omega) only [decodeLanding, landOk, h, h0, h2, pack, fld_above, fld_here, fld_below, zeros, decide_true, BitVec.ofNat_toNat, BitVec.setWidth_eq, Bool.and_true, Bool.true_and, if_true]

theorem Encoding.loadq k : Encoding.Statement (.loadq k) := by
  intro h nb wd he
  refine Encoding.land_reads 24 [(k.toNat, 0)] _ nb wd (by decide) (by simp only [pack]; omega) ?_ he
  intro w h0 h2
  simp (disch := first | decide | omega) only [decodeLanding, landOk, h, h0, h2, pack, fld_above, fld_here, fld_below, zeros, decide_true, BitVec.ofNat_toNat, BitVec.setWidth_eq, Bool.and_true, Bool.true_and, if_true]

theorem Encoding.crd k : Encoding.Statement (.crd k) := by
  intro h nb wd he
  refine Encoding.land_reads 25 [(k.toNat, 0)] _ nb wd (by decide) (by simp only [pack]; omega) ?_ he
  intro w h0 h2
  simp (disch := first | decide | omega) only [decodeLanding, landOk, h, h0, h2, pack, fld_above, fld_here, fld_below, zeros, decide_true, BitVec.ofNat_toNat, BitVec.setWidth_eq, Bool.and_true, Bool.true_and, if_true]

theorem Encoding.cwr k : Encoding.Statement (.cwr k) := by
  intro h nb wd he
  refine Encoding.land_reads 26 [(k.toNat, 0)] _ nb wd (by decide) (by simp only [pack]; omega) ?_ he
  intro w h0 h2
  simp (disch := first | decide | omega) only [decodeLanding, landOk, h, h0, h2, pack, fld_above, fld_here, fld_below, zeros, decide_true, BitVec.ofNat_toNat, BitVec.setWidth_eq, Bool.and_true, Bool.true_and, if_true]

theorem Encoding.clone  : Encoding.Statement (.clone) := by
  intro h nb wd he
  refine Encoding.land_reads 27 [] _ nb wd (by decide) (by simp only [pack]; omega) ?_ he
  intro w h0 h2
  simp (disch := first | decide | omega) only [decodeLanding, landOk, h, h0, h2, pack, fld_above, fld_here, fld_below, zeros, decide_true, BitVec.ofNat_toNat, BitVec.setWidth_eq, Bool.and_true, Bool.true_and, if_true]

theorem Encoding.go port : Encoding.Statement (.go port) := by
  intro h nb wd he
  refine Encoding.land_reads 28 [(port.toNat, 0)] _ nb wd (by decide) (by simp only [pack]; omega) ?_ he
  intro w h0 h2
  simp (disch := first | decide | omega) only [decodeLanding, landOk, h, h0, h2, pack, fld_above, fld_here, fld_below, zeros, decide_true, BitVec.ofNat_toNat, BitVec.setWidth_eq, Bool.and_true, Bool.true_and, if_true]

theorem Encoding.godst  : Encoding.Statement (.godst) := by
  intro h nb wd he
  refine Encoding.land_reads 29 [] _ nb wd (by decide) (by simp only [pack]; omega) ?_ he
  intro w h0 h2
  simp (disch := first | decide | omega) only [decodeLanding, landOk, h, h0, h2, pack, fld_above, fld_here, fld_below, zeros, decide_true, BitVec.ofNat_toNat, BitVec.setWidth_eq, Bool.and_true, Bool.true_and, if_true]

theorem Encoding.dlvr  : Encoding.Statement (.dlvr) := by
  intro h nb wd he
  refine Encoding.land_reads 30 [] _ nb wd (by decide) (by simp only [pack]; omega) ?_ he
  intro w h0 h2
  simp (disch := first | decide | omega) only [decodeLanding, landOk, h, h0, h2, pack, fld_above, fld_here, fld_below, zeros, decide_true, BitVec.ofNat_toNat, BitVec.setWidth_eq, Bool.and_true, Bool.true_and, if_true]

theorem Encoding.park  : Encoding.Statement (.park) := by
  intro h nb wd he
  refine Encoding.land_reads 31 [] _ nb wd (by decide) (by simp only [pack]; omega) ?_ he
  intro w h0 h2
  simp (disch := first | decide | omega) only [decodeLanding, landOk, h, h0, h2, pack, fld_above, fld_here, fld_below, zeros, decide_true, BitVec.ofNat_toNat, BitVec.setWidth_eq, Bool.and_true, Bool.true_and, if_true]

theorem Encoding.cspWrite x0 x1 : Encoding.Statement (.cspWrite x0 x1) := by
  intro _ nb wd he; cases he

theorem Encoding.lttCommit x0 x1 : Encoding.Statement (.lttCommit x0 x1) := by
  intro _ nb wd he; cases he

theorem Encoding.logcWrite x0 x1 : Encoding.Statement (.logcWrite x0 x1) := by
  intro _ nb wd he; cases he

theorem Encoding.logxWrite x0 x1 : Encoding.Statement (.logxWrite x0 x1) := by
  intro _ nb wd he; cases he

theorem Encoding.tlbiWrite x0 x1 : Encoding.Statement (.tlbiWrite x0 x1) := by
  intro _ nb wd he; cases he

theorem Encoding.smpcWrite x0 x1 : Encoding.Statement (.smpcWrite x0 x1) := by
  intro _ nb wd he; cases he

theorem Encoding.smptWrite x0 x1 : Encoding.Statement (.smptWrite x0 x1) := by
  intro _ nb wd he; cases he

theorem Encoding.tmrWrite x0 x1 x2 : Encoding.Statement (.tmrWrite x0 x1 x2) := by
  intro _ nb wd he; cases he

theorem Encoding.pcselWrite x0 x1 x2 : Encoding.Statement (.pcselWrite x0 x1 x2) := by
  intro _ nb wd he; cases he

theorem Encoding.mailboxRegister x0 x1 : Encoding.Statement (.mailboxRegister x0 x1) := by
  intro _ nb wd he; cases he

theorem Encoding.ownershipTableWrite x0 x1 x2 : Encoding.Statement (.ownershipTableWrite x0 x1 x2) := by
  intro _ nb wd he; cases he

theorem Encoding.cxlMemWrite x0 x1 x2 : Encoding.Statement (.cxlMemWrite x0 x1 x2) := by
  intro _ nb wd he; cases he

theorem Encoding.cxlMemRead x0 : Encoding.Statement (.cxlMemRead x0) := by
  intro _ nb wd he; cases he

theorem Encoding.launchAccept x0 : Encoding.Statement (.launchAccept x0) := by
  intro _ nb wd he; cases he

theorem Encoding.faultReply x0 : Encoding.Statement (.faultReply x0) := by
  intro _ nb wd he; cases he

theorem Encoding.faultReplyTimeout x0 : Encoding.Statement (.faultReplyTimeout x0) := by
  intro _ nb wd he; cases he

theorem Encoding.cackWrite x0 x1 : Encoding.Statement (.cackWrite x0 x1) := by
  intro _ nb wd he; cases he

theorem Encoding.bar0WriteDiscarded x0 x1 : Encoding.Statement (.bar0WriteDiscarded x0 x1) := by
  intro _ nb wd he; cases he

theorem Encoding.completionWrite x0 : Encoding.Statement (.completionWrite x0) := by
  intro _ nb wd he; cases he

theorem Encoding.scheduleDecision x0 : Encoding.Statement (.scheduleDecision x0) := by
  intro _ nb wd he; cases he

theorem Encoding.energyCharge x0 x1 x2 : Encoding.Statement (.energyCharge x0 x1 x2) := by
  intro _ nb wd he; cases he

theorem Encoding.agingPromote x0 x1 : Encoding.Statement (.agingPromote x0 x1) := by
  intro _ nb wd he; cases he

theorem Encoding.torusMemberReport x0 x1 x2 x3 : Encoding.Statement (.torusMemberReport x0 x1 x2 x3) := by
  intro _ nb wd he; cases he

theorem Encoding.torusMemberTimeout x0 x1 : Encoding.Statement (.torusMemberTimeout x0 x1) := by
  intro _ nb wd he; cases he

theorem Encoding.residencyLimit x0 : Encoding.Statement (.residencyLimit x0) := by
  intro _ nb wd he; cases he

theorem Encoding.overdueResult x0 x1 : Encoding.Statement (.overdueResult x0 x1) := by
  intro _ nb wd he; cases he

theorem Encoding.timerExpire x0 x1 : Encoding.Statement (.timerExpire x0 x1) := by
  intro _ nb wd he; cases he

theorem Encoding.logFull x0 x1 : Encoding.Statement (.logFull x0 x1) := by
  intro _ nb wd he; cases he

theorem Encoding.preemptDivert x0 x1 : Encoding.Statement (.preemptDivert x0 x1) := by
  intro _ nb wd he; cases he

theorem Encoding.fullSave x0 x1 : Encoding.Statement (.fullSave x0 x1) := by
  intro _ nb wd he; cases he

theorem Encoding.stubAbandon x0 x1 : Encoding.Statement (.stubAbandon x0 x1) := by
  intro _ nb wd he; cases he

theorem Encoding.groupSave x0 x1 x2 x3 : Encoding.Statement (.groupSave x0 x1 x2 x3) := by
  intro _ nb wd he; cases he

theorem Encoding.contextRestore x0 x1 : Encoding.Statement (.contextRestore x0 x1) := by
  intro _ nb wd he; cases he

theorem Encoding.exitDrainEnd x0 x1 : Encoding.Statement (.exitDrainEnd x0 x1) := by
  intro _ nb wd he; cases he

theorem Encoding.fenceIDone x0 : Encoding.Statement (.fenceIDone x0) := by
  intro _ nb wd he; cases he

theorem Encoding.copyComplete x0 x1 : Encoding.Statement (.copyComplete x0 x1) := by
  intro _ nb wd he; cases he

theorem Encoding.ntStorePerform x0 : Encoding.Statement (.ntStorePerform x0) := by
  intro _ nb wd he; cases he

theorem Encoding.segmentPublish x0 : Encoding.Statement (.segmentPublish x0) := by
  intro _ nb wd he; cases he

theorem Encoding.phaseComplete x0 x1 x2 : Encoding.Statement (.phaseComplete x0 x1 x2) := by
  intro _ nb wd he; cases he

theorem Encoding.mmaRowCommit x0 : Encoding.Statement (.mmaRowCommit x0) := by
  intro _ nb wd he; cases he

theorem Encoding.matrixComplete x0 : Encoding.Statement (.matrixComplete x0) := by
  intro _ nb wd he; cases he

theorem Encoding.subnormalAssist x0 : Encoding.Statement (.subnormalAssist x0) := by
  intro _ nb wd he; cases he

theorem Encoding.lockstepSelftest x0 x1 : Encoding.Statement (.lockstepSelftest x0 x1) := by
  intro _ nb wd he; cases he

theorem Encoding.atomHome x0 x1 : Encoding.Statement (.atomHome x0 x1) := by
  intro _ nb wd he; cases he

theorem Encoding.atomReply x0 x1 : Encoding.Statement (.atomReply x0 x1) := by
  intro _ nb wd he; cases he

theorem Encoding.atomRetransmit x0 x1 : Encoding.Statement (.atomRetransmit x0 x1) := by
  intro _ nb wd he; cases he

theorem Encoding.sweepPageOffer x0 : Encoding.Statement (.sweepPageOffer x0) := by
  intro _ nb wd he; cases he

theorem Encoding.sweepCatchupPass x0 : Encoding.Statement (.sweepCatchupPass x0) := by
  intro _ nb wd he; cases he

theorem Encoding.ferryReceive x0 x1 : Encoding.Statement (.ferryReceive x0 x1) := by
  intro _ nb wd he; cases he

theorem Encoding.landingStart  : Encoding.Statement (.landingStart) := by
  intro _ nb wd he; cases he

theorem Encoding.mooringReland  : Encoding.Statement (.mooringReland) := by
  intro _ nb wd he; cases he

theorem Encoding.escapeTimeout x0 : Encoding.Statement (.escapeTimeout x0) := by
  intro _ nb wd he; cases he

theorem Encoding.combineSlotTimeout x0 : Encoding.Statement (.combineSlotTimeout x0) := by
  intro _ nb wd he; cases he

theorem Encoding.reachabilityNotice x0 x1 : Encoding.Statement (.reachabilityNotice x0 x1) := by
  intro _ nb wd he; cases he

theorem Encoding.frameReceive x0 x1 x2 x3 x4 : Encoding.Statement (.frameReceive x0 x1 x2 x3 x4) := by
  intro _ nb wd he; cases he

theorem Encoding.frameClose x0 x1 : Encoding.Statement (.frameClose x0 x1) := by
  intro _ nb wd he; cases he

theorem Encoding.verdictMark x0 x1 x2 : Encoding.Statement (.verdictMark x0 x1 x2) := by
  intro _ nb wd he; cases he

theorem Encoding.retryRequest x0 x1 x2 : Encoding.Statement (.retryRequest x0 x1 x2) := by
  intro _ nb wd he; cases he

theorem Encoding.linkAck x0 x1 x2 : Encoding.Statement (.linkAck x0 x1 x2) := by
  intro _ nb wd he; cases he

theorem Encoding.ackTimeout x0 x1 : Encoding.Statement (.ackTimeout x0 x1) := by
  intro _ nb wd he; cases he

theorem Encoding.rekeyStart x0 x1 : Encoding.Statement (.rekeyStart x0 x1) := by
  intro _ nb wd he; cases he

theorem Encoding.rekeyDeadline x0 x1 : Encoding.Statement (.rekeyDeadline x0 x1) := by
  intro _ nb wd he; cases he

theorem Encoding.laneFault x0 x1 x2 : Encoding.Statement (.laneFault x0 x1 x2) := by
  intro _ nb wd he; cases he

theorem Encoding.linkTrainDone x0 x1 x2 : Encoding.Statement (.linkTrainDone x0 x1 x2) := by
  intro _ nb wd he; cases he

theorem Encoding.linkKeyed x0 x1 x2 : Encoding.Statement (.linkKeyed x0 x1 x2) := by
  intro _ nb wd he; cases he

theorem Encoding.sliceScrub x0 x1 x2 : Encoding.Statement (.sliceScrub x0 x1 x2) := by
  intro _ nb wd he; cases he

theorem Encoding.hbmScrub x0 x1 : Encoding.Statement (.hbmScrub x0 x1) := by
  intro _ nb wd he; cases he

theorem Encoding.hbmRowSpare x0 x1 : Encoding.Statement (.hbmRowSpare x0 x1) := by
  intro _ nb wd he; cases he

theorem Encoding.coldReset  : Encoding.Statement (.coldReset) := by
  intro _ nb wd he; cases he

theorem Encoding.startStageDone x0 : Encoding.Statement (.startStageDone x0) := by
  intro _ nb wd he; cases he

theorem Encoding.startStageTimeout x0 : Encoding.Statement (.startStageTimeout x0) := by
  intro _ nb wd he; cases he

theorem Encoding.clockThrottle x0 : Encoding.Statement (.clockThrottle x0) := by
  intro _ nb wd he; cases he

theorem Encoding.thermalTrip  : Encoding.Statement (.thermalTrip) := by
  intro _ nb wd he; cases he

theorem Encoding.mgmtLinkLoss  : Encoding.Statement (.mgmtLinkLoss) := by
  intro _ nb wd he; cases he

theorem Encoding.ptpMessage x0 : Encoding.Statement (.ptpMessage x0) := by
  intro _ nb wd he; cases he

theorem Encoding.sampleTick x0 : Encoding.Statement (.sampleTick x0) := by
  intro _ nb wd he; cases he

theorem Encoding.counterRotate x0 x1 x2 : Encoding.Statement (.counterRotate x0 x1 x2) := by
  intro _ nb wd he; cases he

theorem Encoding.scstop x0 : Encoding.Statement (.scstop x0) := by
  intro _ nb wd he; cases he

theorem Encoding.scresume x0 : Encoding.Statement (.scresume x0) := by
  intro _ nb wd he; cases he

theorem Encoding.partWrite x0 x1 x2 : Encoding.Statement (.partWrite x0 x1 x2) := by
  intro _ nb wd he; cases he

theorem Encoding.freezeClear x0 x1 x2 : Encoding.Statement (.freezeClear x0 x1 x2) := by
  intro _ nb wd he; cases he

theorem Encoding.elogRead x0 x1 x2 x3 : Encoding.Statement (.elogRead x0 x1 x2 x3) := by
  intro _ nb wd he; cases he

theorem Encoding.portEnable x0 x1 x2 : Encoding.Statement (.portEnable x0 x1 x2) := by
  intro _ nb wd he; cases he

theorem Encoding.linkReset x0 x1 : Encoding.Statement (.linkReset x0 x1) := by
  intro _ nb wd he; cases he

theorem Encoding.imageLoad x0 x1 x2 : Encoding.Statement (.imageLoad x0 x1 x2) := by
  intro _ nb wd he; cases he

theorem Encoding.minimalClear x0 : Encoding.Statement (.minimalClear x0) := by
  intro _ nb wd he; cases he

theorem Encoding.partSwapOut x0 x1 : Encoding.Statement (.partSwapOut x0 x1) := by
  intro _ nb wd he; cases he

theorem Encoding.partSwapIn x0 x1 : Encoding.Statement (.partSwapIn x0 x1) := by
  intro _ nb wd he; cases he

theorem Encoding.partDestroy x0 x1 : Encoding.Statement (.partDestroy x0 x1) := by
  intro _ nb wd he; cases he

theorem Encoding.ownerSet x0 x1 : Encoding.Statement (.ownerSet x0 x1) := by
  intro _ nb wd he; cases he

theorem Encoding.keyLoad x0 x1 x2 : Encoding.Statement (.keyLoad x0 x1 x2) := by
  intro _ nb wd he; cases he

theorem Encoding.getVersion  : Encoding.Statement (.getVersion) := by
  intro _ nb wd he; cases he

theorem Encoding.getCapabilities  : Encoding.Statement (.getCapabilities) := by
  intro _ nb wd he; cases he

theorem Encoding.negotiateAlgorithms x0 : Encoding.Statement (.negotiateAlgorithms x0) := by
  intro _ nb wd he; cases he

theorem Encoding.getDigests  : Encoding.Statement (.getDigests) := by
  intro _ nb wd he; cases he

theorem Encoding.getCertificate x0 : Encoding.Statement (.getCertificate x0) := by
  intro _ nb wd he; cases he

theorem Encoding.challenge x0 x1 : Encoding.Statement (.challenge x0 x1) := by
  intro _ nb wd he; cases he

theorem Encoding.getMeasurements x0 : Encoding.Statement (.getMeasurements x0) := by
  intro _ nb wd he; cases he

theorem Encoding.keyExchange x0 x1 : Encoding.Statement (.keyExchange x0 x1) := by
  intro _ nb wd he; cases he

theorem Encoding.finish x0 x1 : Encoding.Statement (.finish x0 x1) := by
  intro _ nb wd he; cases he

theorem Encoding.keyUpdate x0 : Encoding.Statement (.keyUpdate x0) := by
  intro _ nb wd he; cases he

theorem Encoding.endSession x0 : Encoding.Statement (.endSession x0) := by
  intro _ nb wd he; cases he

theorem Encoding.getEncapsulatedRequest x0 : Encoding.Statement (.getEncapsulatedRequest x0) := by
  intro _ nb wd he; cases he

theorem Encoding.deliverEncapsulatedResponse x0 x1 x2 : Encoding.Statement (.deliverEncapsulatedResponse x0 x1 x2) := by
  intro _ nb wd he; cases he

theorem Encoding.spdmUnsupported x0 : Encoding.Statement (.spdmUnsupported x0) := by
  intro _ nb wd he; cases he

theorem Encoding.doeUnsupported x0 : Encoding.Statement (.doeUnsupported x0) := by
  intro _ nb wd he; cases he

theorem Encoding.debugNonce x0 : Encoding.Statement (.debugNonce x0) := by
  intro _ nb wd he; cases he

theorem Encoding.debugToken x0 : Encoding.Statement (.debugToken x0) := by
  intro _ nb wd he; cases he

theorem Encoding.fetchTrap x0 : Encoding.Statement (.fetchTrap x0) := by
  intro _ nb wd he; cases he

theorem Encoding.mooredFaultService x0 x1 : Encoding.Statement (.mooredFaultService x0 x1) := by
  intro _ nb wd he; cases he

theorem Encoding.holdSignal x0 x1 x2 : Encoding.Statement (.holdSignal x0 x1 x2) := by
  intro _ nb wd he; cases he

theorem Encoding.statusTimeUpdate x0 : Encoding.Statement (.statusTimeUpdate x0) := by
  intro _ nb wd he; cases he

theorem Encoding.mgmtRequestReject x0 x1 x2 : Encoding.Statement (.mgmtRequestReject x0 x1 x2) := by
  intro _ nb wd he; cases he

end Sys2Proof.Laws
end

