-- ==== Sys2Proof/Safety.lean ====
section
/-! DEFINITION. The terms that claims use: the canonical memory, the conditions under which a slot runs to its end, the
states that a slot, an event and a landing operation leave, and what two states share. -/

namespace Sys2Proof.Machine

/-- Memory keeps its one canonical form. -/
def State.MemOk (s : State) : Prop := Mem.wf s.mem = true

/-! What a move leaves. -/

/-- The state in which a slot's body starts. -/
def State.clear (s : State) : State := { s with raised := 0 }

/-- The state after a slot that has done its work. -/
def State.done (s : State) : State := { s with last := none, raised := 0 }

/-- The state after an event. -/
def State.rest (s : State) : State :=
  { s with last := none, ended := false, raised := 0, cur := { s.cur with slot := noSlot, cmd := none } }

/-- The state after a slot that a trap of a code, a cause and an address stops. -/
def State.stoppedBy (s : State) (code cause : Nat) (addr : Word) : State :=
  { s.takeTrap s.cur.core s.cur.ctx ⟨code, cause, s.cur.slot, 0, addr, 0, 0⟩ with
    last := some (.trap code cause s.cur.slot addr), raised := 0 }

/-- The state after a slot that blocks with a cause. -/
def State.blockedBy (s : State) (b : Nat) : State :=
  { s.setCx { s.cx with st := .blocked, bcause := BitVec.ofNat 4 b } with last := some (.block b), raised := 0 }

/-! When a slot runs (10 R251, R256, 01 R23). -/

/-- No register of a list waits for an overdue write, and under SHCHK none has a write pending. -/
def State.CanRead (s : State) (rs : List Reg) : Prop :=
  rs.any s.cx.overdue = false ∧ (s.cx.shchk = true → rs.any s.cx.pending = false)

/-- A slot of slots 0, 1, 2 and 5: its predicate's test holds and it can read its registers. -/
def State.Runs (s : State) (p : Pred) (rs : List Reg) : Prop :=
  s.test p = true ∧ s.CanRead (predReads p ++ rs)

/-- A slot of slots 3 and 4 (04 R113-R116): a lane is active, its stream elements have arrived, the stream it pushes to has
room, the old register it keeps lanes of is not overdue, its registers can be read and their rows match their sums. -/
structure State.RunsVec (s : State) (p : Pred) (srcs : List (BitVec 6)) (regs : List Reg) (dst : Option (BitVec 6))
    (keptP : Option (BitVec 5)) (keeps : Word → Bool) : Prop where
  active : s.mask p ≠ 0
  arrived : s.cx.arrived srcs = true
  room : (dst.bind pushOf).any (fun n => !s.cx.pushRoom n) = false
  kept : keeps (s.mask p) = true → (keptRegs dst keptP).any s.cx.overdue = false
  reads : s.CanRead (predReads p ++ vregsOf srcs ++ regs)
  sound : (srcs.map s.cx.vsrc).all Elem.ok = true

/-- A slot of slot 5 that reads vector sources: its predicate's test holds, the elements have arrived, its registers can be
read and its rows match their sums (02 R40, 04 R114, R116). -/
structure State.RunsRows (s : State) (p : Pred) (srcs : List (BitVec 6)) (regs : List Reg) : Prop where
  test : s.test p = true
  arrived : s.cx.arrived srcs = true
  reads : s.CanRead (predReads p ++ vregsOf srcs ++ regs)
  sound : (srcs.map s.cx.vsrc).all Elem.ok = true

/-- The rows of a list of vector sources. -/
def State.vals (s : State) (srcs : List (BitVec 6)) : List VReg := (srcs.map s.cx.vsrc).map (·.val)

/-- The row of one vector source. -/
def State.row (s : State) (a : BitVec 6) : VReg := (s.cx.vsrc a).val

/-- The state after the stream elements that the sources pop have been taken. -/
def State.popped (s : State) (srcs : List (BitVec 6)) : State := s.setCx ((popsOf srcs).foldl Context.popOne s.cx)

/-! Separate lanes (07 R188). -/

/-- Lane i is the first active lane whose address the table does not translate, and c is the cause. -/
def State.LaneMiss (s : State) (ad : Nat → Word) (write : Bool) (m : Word) (i c : Nat) : Prop :=
  i ∈ activeList m ∧ s.xlate (ad i).toNat 4 4 write = .error c ∧
    ∀ j ∈ activeList m, j < i → ∃ q, s.xlate (ad j).toNat 4 4 write = .ok q

/-- Every active lane's address translates, lane f is the first of them and lane i the first whose entry is of another KIND
than lane f's. -/
def State.LaneDiffers (s : State) (ad : Nat → Word) (write : Bool) (m : Word) (f i : Nat) : Prop :=
  (activeList m).head? = some f ∧ i ∈ activeList m ∧
    ∃ q r, s.xlate (ad f).toNat 4 4 write = .ok q ∧ s.xlate (ad i).toNat 4 4 write = .ok r ∧ r.kind ≠ q.kind ∧
      ∀ j ∈ activeList m, ∃ x, s.xlate (ad j).toNat 4 4 write = .ok x ∧ (j < i → x.kind = q.kind)

/-! Landings. -/

/-- The landing in progress moves on to a position with a ferry. -/
def State.landed (s : State) (l : Landing) (f : Ferry) (pos : Nat) : State :=
  (s.setRouter { s.router with landing := some { l with ferry := f, pos := pos } }).rest

/-- The landing is over: its copies depart and its FSEND is complete. -/
def State.landOver (s : State) (l : Landing) : State :=
  ((((s.setRouter { s.router with landing := none }).depart l.clones).fryDone l.fsend).pump).rest

/-! Destinations. -/

/-- The register that an instruction of slots 0, 1 and 2 between registers alone writes; none for any other instruction. -/
def scalarDest (i : Instr) : Option Reg :=
  match i with
  | .bprep _ bt _ | .bpreps _ bt _ => some (.b (bt.setWidth 3))
  | .vany _ pd _ | .vall _ pd _ => some (.p pd)
  | .setfmt .. | .setfmtScalar .. => some .fmt
  | .pmark .. => some (.sys 0x005)
  | .add _ d _ _ _ | .sub _ d _ _ _ | .and _ d _ _ _ | .or _ d _ _ _ | .xor _ d _ _ _ | .andn _ d _ _ _ | .shl _ d _ _ _
  | .shr _ d _ _ _ | .shra _ d _ _ _ | .rotl _ d _ _ _ | .min _ d _ _ _ | .max _ d _ _ _ | .mul _ d _ _ _
  | .mulh _ d _ _ _ | .div _ d _ _ _ | .rem _ d _ _ _ => some (.s d)
  | .clz _ d _ _ | .ctz _ d _ _ | .popc _ d _ _ | .sext _ d _ _ | .zext _ d _ _ => some (.s d)
  | .addsh _ d _ _ _ _ | .sel _ d _ _ _ => some (.s d)
  | .addi _ d _ _ _ | .andi _ d _ _ _ | .ori _ d _ _ _ | .xori _ d _ _ _ | .shli _ d _ _ _ | .shri _ d _ _ _
  | .shrai _ d _ _ _ => some (.s d)
  | .movi _ d _ _ | .movhi _ d _ _ => some (.s d)
  | .fadd _ d _ _ _ | .fsub _ d _ _ _ | .fmul _ d _ _ _ | .ffma _ d _ _ _ _ | .fmin _ d _ _ _ _ | .fmax _ d _ _ _ _
  | .fcvt _ d _ _ _ | .fclass _ d _ _ => some (.s d)
  | .cmp _ d _ _ _ _ | .cmpi _ d _ _ _ _ | .fcmp _ d _ _ _ _ | .pand _ d _ _ | .por _ d _ _ | .pxor _ d _ _
  | .pandn _ d _ _ | .movps _ d _ => some (.p (d.setWidth 5))
  | .pcnt _ d _ | .pfirst _ d _ | .movsp _ d _ => some (.s d)
  | .setsys _ _ n => some (.sys (n.setWidth 12))
  | _ => none

/-- The register or stream that an instruction of slots 3 and 4 between registers and streams alone writes; none for any
other instruction. -/
def vectorDest (i : Instr) : Option Reg :=
  match i with
  | .vadd _ d _ _ _ _ | .vsub _ d _ _ _ _ | .vmul _ d _ _ _ | .vmulh _ d _ _ _ | .vshl _ d _ _ _ | .vshr _ d _ _ _
  | .vshra _ d _ _ _ | .vmin _ d _ _ _ | .vmax _ d _ _ _ | .vand _ d _ _ | .vor _ d _ _ | .vxor _ d _ _
  | .vabs _ d _ _ _ | .vsel _ d _ _ _ | .vdot4 _ d _ _ _ _ _ | .vsatn _ d _ _ _ _ | .vwiden _ d _ _ _
  | .vpack _ d _ _ _ | .vpackT2 _ d _ _ | .vunpack _ d _ _ => some (dstReg d)
  | .vfadd _ d _ _ _ | .vfsub _ d _ _ _ | .vfmul _ d _ _ _ | .vffma _ d _ _ _ _ | .vfmin _ d _ _ _ _ | .vfmax _ d _ _ _ _
  | .vfrcp _ d _ | .vfrsq _ d _ | .vfexp2 _ d _ | .vflog2 _ d _ | .vfcvt _ d _ _ _ _ | .vquant _ d _ _ _ _
  | .vdeq _ d _ _ _ _ | .vfclass _ d _ => some (dstReg d)
  | .vred _ d _ _ _ | .vperm _ d _ _ _ | .vslide _ d _ _ _ | .vbcast _ d _ | .vbcastLane _ d _ _ | .viota _ d _ _
  | .vcompress _ d _ | .vexpand _ d _ | .movsv _ d _ _ => some (dstReg d)
  | .vcmp _ d _ _ _ _ | .vfcmp _ d _ _ _ => some (.p (d.setWidth 5))
  | .vcountge _ d _ _ _ | .movvs _ d _ _ _ => some (.s d)
  | _ => none

/-! What two states share. -/

/-- Every byte of memory reads the same. -/
def SameMem (s t : State) : Prop := ∀ a, Mem.read t.mem a = Mem.read s.mem a

/-- Every context but the executing one is the same. -/
def SameOthers (s t : State) : Prop :=
  ∀ n i, (n ≠ s.cur.core ∨ i ≠ s.cur.ctx) → t.ctxAt n i = s.ctxAt n i

/-- Two states that differ at most in their cores' contexts and the transient fields of a slot. -/
def SameNode (s t : State) : Prop :=
  t = { s with cores := t.cores, last := t.last, raised := t.raised } ∧
  ∀ n, t.core n = { s.core n with ctxs := (t.core n).ctxs }

end Sys2Proof.Machine
end

