-- ==== Sys2Proof/Certificates/Slice0/Obligations.lean ====
section
/-! DEFINITION. The statements for the provers. A statement that an instruction completes gives the state in which it ends;
`Runs` and `RunsVec` are conditions on the state and the operands alone. -/

open Sys2Proof Sys2Proof.Machine

/-! Encoding (02 R38-R53, 12 R300). -/

/-- The word of every well-formed instruction, with every operand at every value that the encoding admits, decodes to that
instruction (02 R39, R42, R43, R51, 12 R300). -/
def Obligations.EncodeThenDecodeGivesBack : Prop := ∀ i : Instr, Laws.Encoding.Statement i

/-- Nothing else decodes: a word that a slot or the landing decoder accepts is the word of the instruction it answers, so no
bit of an accepted word is dropped and no reserved value is taken for its neighbour (02 R44, R45, R53, 12 R300). -/
def Obligations.DecodeThenEncodeGivesBack : Prop :=
  (∀ slot w i, slot < 6 → w < 2 ^ 64 → decodeSlot slot w = .ok i → i.wf = true ∧ encode i = some (64, w)) ∧
  (∀ w i, w < 2 ^ 16 → decodeTableWord 16 w = some i → i.wf = true ∧ encode i = some (16, w))

/-- Words written out from the encodings of the spec decode to the instructions they stand for: ADDI.S64 s4, s4, 64; LD; VADD;
CPY; BPREP; GODST; PUSHI 1; HOPS. -/
def Obligations.SpecWordsDecode : Prop :=
  decodeSlot 1 0x65F1046000000040 = .ok (.addi ⟨false, 31⟩ 4 4 6 64) ∧
  decodeSlot 2 0xD821C40100000000 = .ok (.ld ⟨false, 2⟩ 7 4 0 4 0 0) ∧
  decodeSlot 3 0x05F0420C00040000 = .ok (.vadd ⟨false, 31⟩ 1 2 3 0 4) ∧
  decodeSlot 5 0x2DF2841460000000 = .ok (.cpy ⟨false, 31⟩ 10 4 5 6) ∧
  decodeSlot 0 0x05F1000000000008 = .ok (.bprep ⟨false, 31⟩ 1 8) ∧
  decodeTableWord 16 0x7400 = some .godst ∧
  decodeTableWord 16 0x0401 = some (.pushi 1) ∧
  decodeTableWord 16 0x5C00 = some (.hops 0)

/-- A slot word that is not a NOP with PI 24 to 30, or with PI 31 and PN 1, is not legal in any slot (02 R39); a memory
instruction of the scalar class is not legal in slot 1, and opcodes 46 to 60 of the vector class are not legal in slot 3
(02 R52, R60). -/
def Obligations.ReservedHeadersAndPlacesRejected : Prop :=
  (∀ slot w, slot < 6 → fld w 58 6 ≠ 0 →
    (24 ≤ fld w 52 5 ∧ fld w 52 5 ≤ 30) ∨ (fld w 52 5 = 31 ∧ fld w 57 1 = 1) →
    ∃ r, r ≤ 3 ∧ decodeSlot slot w = .error r) ∧
  (∀ w, 54 ≤ fld w 58 6 → fld w 58 6 ≤ 57 → decodeSlot 1 w = .error 2) ∧
  (∀ w, 46 ≤ fld w 58 6 → fld w 58 6 ≤ 60 → decodeSlot 3 w = .error 2)

/-! Steps. -/

/-- The next operation of a landing in progress is the one that its halfword decodes to, and the step is that operation's
meaning, then what every step ends with; at position 16 and on a reserved halfword it is ILLEGAL (12 R300, R304).
That nothing moves between two operations of a landing is the model's choice, log entry 35. -/
def Obligations.StepRunsTheLandingOperation : Prop :=
  ∀ s l, s.router.landing = some l → s.device.stopped = false →
    (∀ i, l.pos < 16 → decodeTableWord 16 (ferryOp l.ferry l.pos) = some i → step s = closeStep (exec i s)) ∧
    (16 ≤ l.pos ∨ decodeTableWord 16 (ferryOp l.ferry l.pos) = none →
      step s = .next (((s.landFault l 1).pump).rest).afterStep)

/-- With no landing in progress, the step is the meaning of the agenda's first event at the rest of the agenda; an agenda
that asks a core to issue, or an empty one, is an attempt of that core.
Which agent moves next is the model's choice, log entry 2. -/
def Obligations.StepRunsTheNextMove : Prop :=
  ∀ s, s.router.landing = none → s.device.stopped = false →
    (∀ i rest, s.agenda = .event i :: rest → s.admits i = true → step s = closeStep (exec i { s with agenda := rest })) ∧
    (∀ n rest, s.agenda = .issue n :: rest → step s = closeStep ({ s with agenda := rest }.issueCore exec n)) ∧
    (s.agenda = [] → step s = closeStep ({ s with turn := nextCore s.cores s.turn }.issueCore exec s.turn))

/-- An attempt runs the decoded bundle: where the words at the context's IP decode to a bundle, each of its instructions is
run by its meaning, in the order in which its effects are worked out, and where none is stopped the bundle issues
(10 R251, R252); its partition counts it and its slots (17 R459). The order of the slots is the model's reading, log entries
13 and 14. -/
def Obligations.AttemptRunsTheDecodedBundle : Prop :=
  (∀ (s : State) (core : Nat) (i : BitVec 2) (f : Fetched) (l : List (Nat × Instr)) (t u : State),
    (s.ctxAt core i).efaults = [] →
    let s0 : State := { s with cur := ⟨core, i, 0, none⟩, last := none, ended := false, raised := 0 }
    s0.fetchBundle core (s0.ctxAt core i) = .ok (f, l) →
    runSlots exec s0 (slotOrder l) = .next (t, []) →
    t.ended = false → t.endBundle = .ok u →
    s.attempt exec core i = .issued ((u.countBundle core l).afterBundle core i (s.ctxAt core i).svc)) ∧
  (∀ (s : State) (k : Nat) (i : Instr) (rest : List (Nat × Instr)) (t : State), exec i { s with cur := { s.cur with slot := k }, last := none } = .next t → t.last = none →
    runSlots exec s ((k, i) :: rest) = runSlots exec t rest) ∧
  (∀ (s : State) (core : Nat) (c : Context) (ws : Fetched × List (Nat × Instr)), s.fetchBundle core c = .ok ws →
    ∀ k i, (k, i) ∈ ws.2 → ∃ w, ws.1.slots[k]? = some w ∧ decodeSlot k w = .ok i)

/-- No step stops: every state has a next state, since whatever the spec calls a fault of a program is a trap, a mooring,
a stopped command or a freeze, each of which a next state holds (15 R402, 12 R304, 09 R236).
That no rule stops the machine is the model's reading, log entry 63. -/
def Obligations.EveryStepAnswersNext : Prop := ∀ s, ∃ t, step s = .next t

/-! Reset. -/

/-- What the spec gives at reset: every context Free and out of service mode (15 R400, R401) and no bank armed (02 R58), every
partition entry FREE and the memory zero (14 R378), the log's sizes (08 R211), no landing, no slot, the mooring open.
The zeros of memory are the model's choice and LOGSZ its reading, log entries 5 and 7. -/
def Obligations.ResetLeavesTheNodeEmpty : Prop :=
  (∀ n i, (State.reset.ctxAt n i).st = .free ∧ (State.reset.ctxAt n i).svc = false) ∧
  (∀ n, (State.reset.core n).fis = 0 ∧ (State.reset.core n).log.logc = 0x1B14E0) ∧
  (∀ n, Part.state (State.reset.part n) = 0) ∧
  (∀ a, Mem.read State.reset.mem a = 0) ∧ State.reset.MemOk ∧
  State.reset.router.landing = none ∧ State.reset.router.full = false ∧ ∀ k, look State.reset.router.slots k = none

/-! Slot 0 (10 R258-R276, 15 R424-R430). -/

/-- A NOP does nothing (02 R41). BPREP and BPREP.S write a branch register, VANY and VALL a predicate that is all ones or all
zeros, SETFMT and SETFMT.S merge FMT under their mask with landing count 4, and PMARK writes SYS.PMK (10 R268, R271, R273,
R276). The classes of SETFMT and PMARK are the model's reading, log entry 19. -/
def Obligations.ControlMovesComplete : Prop :=
  ∀ (s : State) (p : Pred) (bt : BitVec 4) (target : BitVec 14) (a : BitVec 6) (pd ps : BitVec 5) (val mask : BitVec 6)
    (marker : BitVec 16),
    exec .nop s = .next s.clear.done ∧
    (s.Runs p [] → exec (.bprep p bt target) s = .next (s.clear.landB (bt.setWidth 3) target).done) ∧
    (s.Runs p [.s a] → exec (.bpreps p bt a) s =
      .next (s.clear.landB (bt.setWidth 3) ((s.cx.rs a).setWidth 14)).done) ∧
    (s.Runs p [.p ps] → exec (.vany p pd ps) s =
      .next (s.clear.landP .pred pd (if s.cx.rp ps = 0 then 0 else BitVec.allOnes 64)).done) ∧
    (s.Runs p [.p ps] → exec (.vall p pd ps) s =
      .next (s.clear.landP .pred pd (if s.cx.rp ps = BitVec.allOnes 64 then BitVec.allOnes 64 else 0)).done) ∧
    (s.Runs p [] → exec (.setfmt p val mask) s = .next
      (s.clear.landF .setfmt .fmt (((s.cx.fmtLast &&& ~~~mask) ||| (val &&& mask)).setWidth 2048) 0 0 0).done) ∧
    (s.Runs p [.s a] → exec (.setfmtScalar p a mask) s = .next
      (s.clear.landF .setfmt .fmt (((s.cx.fmtLast &&& ~~~mask) ||| ((s.cx.rs a).setWidth 6 &&& mask)).setWidth 2048)
        0 0 0).done) ∧
    (s.Runs p [] → exec (.pmark p marker) s = .next
      (s.clear.landF .salu (.sys 0x005) (marker.setWidth 2048) 0 0 0).done)

/-- A taken BR redirects fetch for the third bundle from here to b[BT]; BRL also writes the return point into b[L]; BANKSW to
an armed bank branches into it and writes all ones, to an unarmed one it writes zeros and does not branch; LBRK pops l[t]
and every deeper loop once its bundle's slots have read them (10 R252, R259, R261, R265, R269, R270). The link is the model's
reading, log entry 17. -/
def Obligations.BranchesComplete : Prop :=
  ∀ (s : State) (p : Pred) (bt lx : BitVec 4) (pd : BitVec 5) (link : BitVec 3),
    (s.Runs p [.b (bt.setWidth 3)] →
      exec (.br p bt) s =
        .next (s.clear.setCx { s.cx with redir := s.cx.redir ++ [(3, s.cx.rb (bt.setWidth 3))] }).done) ∧
    (s.Runs p [.b (bt.setWidth 3)] →
      let t := s.clear.landB link (s.clear.linkIp s.cur.core s.cx)
      exec (.brl p bt link) s = .next (t.setCx { t.cx with redir := t.cx.redir ++ [(3, s.cx.rb (bt.setWidth 3))] }).done) ∧
    (s.Runs p [.b (bt.setWidth 3)] → s.cx.svc = false →
      let k := 1 - s.cx.ip.toNat / 8192
      (s.co.fis.getLsbD k = true →
        let t := s.clear.landP .pred pd (BitVec.allOnes 64)
        exec (.banksw p pd bt) s = .next (t.setCx { t.cx with
          redir := t.cx.redir ++ [(3, BitVec.ofNat 14 (k * 8192 + (s.cx.rb (bt.setWidth 3)).toNat % 8192))] }).done) ∧
      (s.co.fis.getLsbD k = false → exec (.banksw p pd bt) s = .next (s.clear.landP .pred pd 0).done)) ∧
    (s.Runs p [] →
      let c := { s.cx with loopOp := some (lx.toNat, none) }
      exec (.lbrk p lx) s = .next (s.clear.setCx c).done ∧ c.loopsDone = popFrom' s.cx.loops lx.toNat)

/-- LOOP (10 R264): with a count below 2^32, the body's end at or after its start, no redirection pending and the body inside
the innermost loop, a count of 0 sends fetch past the body and any other count makes l[t] the innermost loop, with that
count, once the bundle's slots have read the loops (10 R252); where one of these fails it traps with LOOP_PARAM, code 6.
The bundle after a body with count 0 is the model's reading, log entry 17. -/
def Obligations.LoopSetsUpOrTraps : Prop :=
  ∀ (s : State) (p : Pred) (lx : BitVec 4) (a : BitVec 6) (endp : BitVec 13), s.Runs p [.s a] →
    let n := s.cx.rs a
    let start := s.seqAfter s.cur.core s.cx s.cx.ip
    let fin := BitVec.ofNat 14 (s.cx.ip.toNat / 8192 * 8192 + endp.toNat)
    let nest := popFrom' s.cx.loops lx.toNat
    let inside := ∀ e, innermost nest = some e →
      (nest[e]?.getD Loop.idle).holds start = true ∧ (nest[e]?.getD Loop.idle).holds fin = true
    let legal := n.toNat < 2 ^ 32 ∧ start.toNat % 8192 ≤ fin.toNat % 8192 ∧ s.cx.redir = [] ∧ inside
    (legal → n = 0 →
      let c := { s.cx with loopOp := some (lx.toNat, none), skip := some fin }
      exec (.loop p lx a endp) s = .next (s.clear.setCx c).done ∧ c.loopsDone = nest) ∧
    (legal → n ≠ 0 →
      let l : Loop := ⟨start, fin, true, BitVec.ofNat 2 (nest.toList.filter (·.act)).length, n.setWidth 32, Vector.replicate 6 0,
        Vector.replicate 6 0⟩
      let c := { s.cx with loopOp := some (lx.toNat, some l) }
      exec (.loop p lx a endp) s = .next (s.clear.setCx c).done ∧ c.loopsDone = vmod nest lx.toNat fun _ => l) ∧
    (¬legal → exec (.loop p lx a endp) s =
      .next (s.stoppedBy 6 0 0))

/-- CRGN.OPEN keeps the handler's IP, the class mask, the scalar registers and the log's tail token; CRGN.CLOSE discards the
region, both once the bundle's slots have read it (10 R252); CHKERR reads SYS.CKI into s[A], writes p[PD] from the masked bits and clears those it read at the boundary; FENCE.I
queues a validation of its bank, p[PD] waiting for it (15 R424, R427, R430, 10 R272).
When a validation ends is an event, log entry 20. -/
def Obligations.RegionsAndFencesComplete : Prop :=
  ∀ (s : State) (p : Pred) (bt mask : BitVec 4) (a : BitVec 6) (pd : BitVec 5) (m : BitVec 11) (bank : BitVec 2),
    (s.Runs p [.b (bt.setWidth 3)] →
      let r : Region := ⟨s.cx.rb (bt.setWidth 3), mask, s.cx.s, token s.co.log.phase s.co.log.tail⟩
      let c := { s.cx with regionOp := some (some r) }
      exec (.crgnOpen p bt mask) s = .next (s.clear.setCx c).done ∧ c.actDone.region = some r) ∧
    (s.Runs p [] →
      let c := { s.cx with regionOp := some none }
      exec (.crgnClose p) s = .next (s.clear.setCx c).done ∧ c.actDone.region = none) ∧
    (s.Runs p [] →
      let t := (s.clear.landS .salu a (s.cx.cki.setWidth 64)).landP .pred pd
        (if s.cx.cki &&& m = 0 then 0 else BitVec.allOnes 64)
      exec (.chkerr p a pd m) s = .next (t.setCx { t.cx with ckiClr := s.cx.cki &&& m }).done) ∧
    (s.Runs p [] → ¬(bank = 2 ∧ s.cx.svc = false) →
      let t := s.clear.landLat (s.latency .pred) false (.p pd) 0 0 0 0
      exec (.fenceI p pd bank) s =
        .next (t.setCo { t.co with fences := t.co.fences ++ [⟨s.cur.ctx, pd, bank, false, s.cx.ic⟩] }).done)

/-- Instructions that end their bundle: where the bundle issues, YIELD lets the next context in and EXIT ends the task with
nothing pending (10 R274, R275), a region that the bundle's own boundary rolls back keeping its handler's IP beside YIELD (15
R426); TRAP takes code 48 with its value once its bundle has issued (15 R428) but ends a
drain stub of a pre-empted context instead (15 R420), and ERET in service mode lands what the
handler has pending and returns to the program at SYS.TIP (15 R429).
A TRAP in service mode is the model's reading, log entry 18. -/
def Obligations.BundleEndersComplete : Prop :=
  ∀ (s : State) (p : Pred) (val : BitVec 16) (u : State), s.Runs p [] →
    (s.clear.endBundle = .ok u →
      (let y := u.cx.afterYield
       exec (.yield p) s = .next { u.setCx (if s.clear.rollsBack then { y with ip := u.cx.ip } else y) with
          ended := true, last := none, raised := 0 }) ∧
      exec (.exit p) s = .next { u.setCx { u.cx with
        landing := [], redir := [], skip := none, region := none, exiting := true, trapped := u.cx.svc, st := .blocked, bcause := 12 } with
        ended := true, last := none, raised := 0 } ∧
      (s.cx.stubEnds = false →
        let t := u.takeTrap s.cur.core s.cur.ctx ⟨48, 0, 7, 0, 0, 0, val⟩
        exec (.trap p val) s =
          .next { (if s.cx.svc then t.setCx { t.cx with ip := s.cx.ip } else t) with ended := true, last := none, raised := 0 })) ∧
    (s.cx.stubEnds = true → exec (.trap p val) s = .next (s.stoppedBy 48 0 0)) ∧
    (s.cx.svc = true →
      let c := s.clear.afterIssue s.cur.core s.cur.ctx s.clear.isLiteral
      (c.landing.all (·.ready) = true →
        let k := s.co
        let t := (s.clear.setCore s.cur.core ({ k with bundles := k.bundles + 1 }.setCtx s.cur.ctx c)).landAll
          s.cur.core s.cur.ctx
        exec (.eret p) s = .next { t.setCx t.cx.leaveService with ended := true, last := none, raised := 0 })) ∧
    (s.cx.svc = false → exec (.eret p) s =
      .next (s.stoppedBy 19 0 0))

/-! Slots 1 and 2 (04 R98-R112). -/

/-- Integer results of two registers (04 R100-R103): s[D] := put(T, y), with y the exact sum, difference, bitwise function,
shift, extremum, product, high product, quotient or remainder of val(T, s[A]) and val(T, s[B]); a quotient by zero is all
ones and its remainder the dividend, and the most negative value over -1 is itself with remainder 0. -/
def Obligations.IntegerResultsComplete : Prop :=
  ∀ (s : State) (p : Pred) (d a b : BitVec 6) (t : BitVec 4), s.Runs p [.s a, .s b] →
    let w := typeWidth t.toNat
    let x := s.cx.rs a
    let y := s.cx.rs b
    let vx := valT t.toNat x.toNat
    let vy := valT t.toNat y.toNat
    let px := x.toNat % 2 ^ w
    let n := y.toNat % w
    let res (c : LatClass) (v : Int) : Result := .next (s.clear.landS c d (putT t.toNat v)).done
    exec (.add p d a b t) s = res .salu (vx + vy) ∧
    exec (.sub p d a b t) s = res .salu (vx - vy) ∧
    exec (.and p d a b t) s = res .salu (x &&& y).toNat ∧
    exec (.or p d a b t) s = res .salu (x ||| y).toNat ∧
    exec (.xor p d a b t) s = res .salu (x ^^^ y).toNat ∧
    exec (.andn p d a b t) s = res .salu (x &&& ~~~y).toNat ∧
    exec (.shl p d a b t) s = res .salu (vx * (2 ^ n : Nat)) ∧
    exec (.shr p d a b t) s = res .salu (px / 2 ^ n : Nat) ∧
    exec (.shra p d a b t) s = res .salu (vx / (2 ^ n : Nat)) ∧
    exec (.rotl p d a b t) s = res .salu (px * 2 ^ n % 2 ^ w + px / 2 ^ (w - n) : Nat) ∧
    exec (.min p d a b t) s = res .salu (min vx vy) ∧
    exec (.max p d a b t) s = res .salu (max vx vy) ∧
    exec (.mul p d a b t) s = res .smul (vx * vy) ∧
    exec (.mulh p d a b t) s = res .smul (vx * vy / (2 ^ w : Nat)) ∧
    (vy ≠ 0 → ¬(signedT t.toNat = true ∧ vx = -(2 ^ (w - 1) : Nat) ∧ vy = -1) →
      exec (.div p d a b t) s = res .sdiv (vx.tdiv vy) ∧ exec (.rem p d a b t) s = res .sdiv (vx - vx.tdiv vy * vy)) ∧
    (vy = 0 → exec (.div p d a b t) s = res .sdiv (if signedT t.toNat then -1 else (2 ^ w : Nat) - 1) ∧
      exec (.rem p d a b t) s = res .sdiv vx) ∧
    (signedT t.toNat = true ∧ vx = -(2 ^ (w - 1) : Nat) ∧ vy = -1 →
      exec (.div p d a b t) s = res .sdiv vx ∧ exec (.rem p d a b t) s = res .sdiv 0)

/-- Bit counts, extensions, ADDSH, SEL and CMP (04 R101-R104); the counts are the zero bits above the highest set bit, the
zero bits below the lowest, and the set bits (04 R102). -/
def Obligations.BitCountsAndSelectsComplete : Prop :=
  ∀ (s : State) (p : Pred) (d a b c : BitVec 6) (k cond : BitVec 8) (t : BitVec 4),
    let w := typeWidth t.toNat
    let x := s.cx.rs a
    let y := s.cx.rs b
    let px := x.toNat % 2 ^ w
    let vx := valT t.toNat x.toNat
    let vy := valT t.toNat y.toNat
    let res (v : Int) : Result := .next (s.clear.landS .salu d (putT t.toNat v)).done
    (s.Runs p [.s a] →
      exec (.clz p d a t) s = res (clzFrom px w : Nat) ∧
      exec (.ctz p d a t) s = res (ctzFrom px w : Nat) ∧
      exec (.popc p d a t) s = res (popFrom px w : Nat) ∧
      exec (.sext p d a t) s = res vx ∧
      exec (.zext p d a t) s = res vx) ∧
    (s.Runs p [.s a, .s b] →
      exec (.addsh p d a b k t) s = res (vx + vy * (2 ^ k.toNat : Nat)) ∧
      exec (.cmp p d a b cond t) s = .next (s.clear.landP .pred (d.setWidth 5)
        (if condInt cond.toNat vx vy then BitVec.allOnes 64 else 0)).done) ∧
    (s.Runs p [.s a, .s b, .p (c.setWidth 5)] →
      exec (.sel p d a b c) s =
        .next (s.clear.landS .salu d (if (s.cx.rp (c.setWidth 5)).getLsbD 0 then x else y)).done) ∧
    (px = 0 → clzFrom px w = w ∧ ctzFrom px w = w) ∧
    (px ≠ 0 → 2 ^ (w - 1 - clzFrom px w) ≤ px ∧ px < 2 ^ (w - clzFrom px w) ∧
      px % 2 ^ ctzFrom px w = 0 ∧ px / 2 ^ ctzFrom px w % 2 = 1) ∧
    popFrom px w = ((List.range w).filter fun i => px.testBit i).length

/-- Immediate forms (04 R105): the immediate is sign-extended for the arithmetic, bitwise and compare forms and for MOVI;
the shifts count by it modulo the width; MOVHI keeps the low half of s[A]. -/
def Obligations.ImmediateResultsComplete : Prop :=
  ∀ (s : State) (p : Pred) (d a : BitVec 6) (t cond : BitVec 4) (imm : BitVec 32),
    let w := typeWidth t.toNat
    let x := s.cx.rs a
    let y : Word := imm.signExtend 64
    let vx := valT t.toNat x.toNat
    let vy := valT t.toNat y.toNat
    let n := imm.toNat % w
    let res (v : Int) : Result := .next (s.clear.landS .salu d (putT t.toNat v)).done
    (s.Runs p [.s a] →
      exec (.addi p d a t imm) s = res (vx + vy) ∧
      exec (.andi p d a t imm) s = res (x &&& y).toNat ∧
      exec (.ori p d a t imm) s = res (x ||| y).toNat ∧
      exec (.xori p d a t imm) s = res (x ^^^ y).toNat ∧
      exec (.shli p d a t imm) s = res (vx * (2 ^ n : Nat)) ∧
      exec (.shri p d a t imm) s = res (x.toNat % 2 ^ w / 2 ^ n : Nat) ∧
      exec (.shrai p d a t imm) s = res (vx / (2 ^ n : Nat)) ∧
      exec (.movhi p d a imm) s = .next (s.clear.landS .salu d (imm ++ x.setWidth 32)).done ∧
      exec (.cmpi p d a cond t imm) s = .next (s.clear.landP .pred (d.setWidth 5)
        (if condInt cond.toNat vx vy then BitVec.allOnes 64 else 0)).done) ∧
    (s.Runs p [] → exec (.movi p d t imm) s = res vy)

/-- Floating-point results (04 R106-R110): the value of the operation under FMT with the flags it raises landing with it;
FMIN and FMAX raise none; FCMP writes a predicate; FCVT converts by 03 R90 and raises T2RSV for a reserved T2 element. -/
def Obligations.ScalarFloatsComplete : Prop :=
  ∀ (s : State) (p : Pred) (d a b c : BitVec 6) (num cond : BitVec 8) (t ts td : BitVec 4),
    let F := fmtOf t.toNat
    let fm := s.cx.fmt
    let x := (s.cx.rs a).toNat
    let y := (s.cx.rs b).toNat
    let res (c : LatClass) (r : Nat × Flag5) : Result := .next (s.clear.landF c (.s d) (BitVec.ofNat 2048 r.1) 0 r.2 0).done
    (s.Runs p [.s a, .s b] →
      exec (.fadd p d a b t) s = res .smul (fAdd F fm x y) ∧
      exec (.fsub p d a b t) s = res .smul (fSub F fm x y) ∧
      exec (.fmul p d a b t) s = res .smul (fMul F fm x y) ∧
      exec (.fmin p d a b num t) s = res .salu (fMinMax F (num == 1) false x y, 0) ∧
      exec (.fmax p d a b num t) s = res .salu (fMinMax F (num == 1) true x y, 0) ∧
      exec (.fcmp p d a b cond t) s = .next (s.clear.landP .pred (d.setWidth 5)
        (if condFloat F cond.toNat x y then BitVec.allOnes 64 else 0)).done) ∧
    (s.Runs p [.s a, .s b, .s c] →
      exec (.ffma p d a b c t) s = res .smul (fFma F fm x y (s.cx.rs c).toNat)) ∧
    (s.Runs p [.s a] →
      exec (.fcvt p d a ts td) s = .next (s.clear.landF .smul (.s d)
        ((fcvtWord td.toNat (convert ts.toNat td.toNat fm x).1).setWidth 2048) 0 (convert ts.toNat td.toNat fm x).2.1
        (if (convert ts.toNat td.toNat fm x).2.2 then ckiT2RSV else 0)).done ∧
      exec (.fclass p d a t) s = .next (s.clear.landS .salu d (BitVec.ofNat 64 (fClass F x))).done)

/-- Predicate operations and moves (04 R111). -/
def Obligations.PredicatesComplete : Prop :=
  ∀ (s : State) (p : Pred) (d a b : BitVec 6),
    let x := s.cx.rp (a.setWidth 5)
    let y := s.cx.rp (b.setWidth 5)
    let res (v : Word) : Result := .next (s.clear.landP .pred (d.setWidth 5) v).done
    (s.Runs p [.p (a.setWidth 5), .p (b.setWidth 5)] →
      exec (.pand p d a b) s = res (x &&& y) ∧
      exec (.por p d a b) s = res (x ||| y) ∧
      exec (.pxor p d a b) s = res (x ^^^ y) ∧
      exec (.pandn p d a b) s = res (x &&& ~~~y)) ∧
    (s.Runs p [.p (a.setWidth 5)] →
      exec (.pcnt p d a) s = .next (s.clear.landS .salu d (BitVec.ofNat 64 (popFrom x.toNat 64))).done ∧
      exec (.pfirst p d a) s = .next (s.clear.landS .salu d (BitVec.ofNat 64 (ctzFrom x.toNat 64))).done ∧
      exec (.movsp p d a) s = .next (s.clear.landS .salu d x).done) ∧
    (s.Runs p [.s a] → exec (.movps p d a) s = res (s.cx.rs a))

/-- MOVSYS reads a system register that exists and may be read, SETSYS writes one that exists and may be written; a number
that is not assigned, and a write of a read-only register, trap with code 20; a service register outside service mode traps
with code 19 (04 R112, 15 R407). SYS.CCYC, left out here, is log entry 21. -/
def Obligations.SystemMovesCompleteOrTrap : Prop :=
  ∀ (s : State) (p : Pred) (d a : BitVec 6) (num : BitVec 32),
    let trap (c : Nat) : Result := .next (s.stoppedBy c 0 0)
    (s.Runs p [] →
      (∀ i, sysInfo s.onControl num.toNat = some i → (i.readSvc = true → s.cx.svc = true) → num ≠ 0x120 →
        exec (.movsys p d num) s = .next (s.clear.landS .sysrd d (s.clear.sysRead num.toNat)).done) ∧
      (∀ i, sysInfo s.onControl num.toNat = some i → i.readSvc = true → s.cx.svc = false →
        exec (.movsys p d num) s = trap 19) ∧
      (sysInfo s.onControl num.toNat = none → exec (.movsys p d num) s = trap 20)) ∧
    (s.Runs p [.s a] →
      (∀ i, sysInfo s.onControl num.toNat = some i → (i.write = .any ∨ (i.write = .service ∧ s.cx.svc = true)) →
        exec (.setsys p a num) s =
          .next (s.clear.landF .salu (.sys (num.setWidth 12)) ((s.cx.rs a).setWidth 2048) 0 0 0).done) ∧
      (∀ i, sysInfo s.onControl num.toNat = some i → i.write = .service → s.cx.svc = false →
        exec (.setsys p a num) s = trap 19) ∧
      (∀ i, sysInfo s.onControl num.toNat = some i → i.write = .ro → exec (.setsys p a num) s = trap 20) ∧
      (sysInfo s.onControl num.toNat = none → exec (.setsys p a num) s = trap 20))

/-! Loads and stores (07 R185-R196, 08 R207-R227). -/

/-- LD on a compute core (07 R187): s[D] is the value at the address in its format, read from the slice for every KIND but
LMS, and through the overlay for LMS; consumed poison lands with it in CKI. An access that the table does not translate
traps with XLATE_MISS, code 7, and its cause (07 R185). What unwritten memory reads as is log entry 5. -/
def Obligations.ScalarLoadsComplete : Prop :=
  ∀ (s : State) (p : Pred) (d a x : BitVec 6) (t : BitVec 4) (sc : BitVec 3) (off : BitVec 24),
    s.Runs p [.s a, .s x] → s.onControl = false →
    let va := s.cx.rs a + (s.cx.rs x <<< sc.toNat) + off.signExtend 64
    let n := typeWidth t.toNat / 8
    (∀ acc, s.access va n n false = .ok acc → acc.loc.kind ≠ 2 →
      exec (.ld p d a x t sc off) s = .next (s.clear.landF .sld (.s d)
        ((fcvtWord t.toNat (Mem.readLE s.mem (sliceBase s.cur.core + acc.loc.off) n)).setWidth 2048) 0 0
        (if s.badBytes (sliceBase s.cur.core + acc.loc.off) n then ckiPOISON else 0)).done) ∧
    (∀ acc v bad u, s.access va n n false = .ok acc → acc.loc.kind = 2 → s.clear.localRead acc n = (v, bad, u) →
      exec (.ld p d a x t sc off) s = .next (u.landF .sld (.s d) ((fcvtWord t.toNat v).setWidth 2048) 0 0
        (if bad then ckiPOISON else 0)).done) ∧
    (∀ c, s.xlate va.toNat n n false = .error c → exec (.ld p d a x t sc off) s = .next (s.stoppedBy 7 c va))

/-- ST, STNT and STCMB on a compute core (07 R186, 08 R212, R218, R223, R227): to a PRIVATE or CORE entry the low bytes of
s[D] are written at their slice address, or combined there; to an LMS one log entry is appended; STNT takes a DIRECT entry
alone and hands its words to the copy engine. ST and STCMB to DIRECT, and STNT to any other KIND, are KIND_FAULT, code 8; an
address that the table does not translate is XLATE_MISS, code 7 (07 R185). That what a repair of the old containers corrects
lands as LCORR with the bundle (`landRaised`) is the model's choice, log entry 31. -/
def Obligations.ScalarStoresCompleteOrFault : Prop :=
  ∀ (s : State) (p : Pred) (d a x : BitVec 6) (t : BitVec 4) (sc ms : BitVec 3) (off : BitVec 24),
    s.Runs p [.s d, .s a, .s x] → s.onControl = false →
    let va := s.cx.rs a + (s.cx.rs x <<< sc.toNat) + off.signExtend 64
    let v := s.cx.rs d
    let n := typeWidth t.toNat / 8
    let code := combineCode ms.toNat t.toNat
    let m := codeBytes code
    (∀ acc, s.access va n n true = .ok acc →
      let pa := sliceBase s.cur.core + acc.loc.off
      (acc.loc.kind ≤ 1 → exec (.st p d a x t sc off) s = .next (s.clear.storeAt pa (leBytes v.toNat n)).landRaised.done) ∧
      (acc.loc.kind = 2 → ∀ l, Log.store s.co.log (s.lmsBase s.cur.core) s.floorOf
          [s.entry 1 (sizeLog n) acc.loc.lms (s.accessLms acc) v.toNat] = .ok l →
        exec (.st p d a x t sc off) s = .next (s.clear.putLog s.cur.core l).landRaised.done) ∧
      (acc.loc.kind = 3 → exec (.st p d a x t sc off) s = .next (s.stoppedBy 8 0 va)) ∧
      (acc.loc.kind = 3 → s.co.nt.length < 32 → exec (.stnt p d a x t sc off) s = .next (s.clear.setCo { s.co with
        nt := s.co.nt ++ [⟨s.co.ntNum, s.cur.ctx, ntWords acc.loc.off n v.toNat⟩], ntNum := s.co.ntNum + 1 }).done) ∧
      (acc.loc.kind ≠ 3 → exec (.stnt p d a x t sc off) s = .next (s.stoppedBy 8 0 va))) ∧
    (∀ c, s.xlate va.toNat n n true = .error c →
      exec (.st p d a x t sc off) s = .next (s.stoppedBy 7 c va) ∧ exec (.stnt p d a x t sc off) s = .next (s.stoppedBy 7 c va)) ∧
    (∀ c, s.xlate va.toNat m m true = .error c → exec (.stcmb p d a x t sc ms off) s = .next (s.stoppedBy 7 c va)) ∧
    (∀ acc, s.access va m m true = .ok acc →
      let pa := sliceBase s.cur.core + acc.loc.off
      (acc.loc.kind ≤ 1 →
        let r := s.clear.mend pa m
        let old := Mem.readLE r.mem pa m
        exec (.stcmb p d a x t sc ms off) s = .next ((r.storeAt pa (leBytes (combine code old (v.toNat % 2 ^ (8 * m))) m)).landFlag
          (if r.badBytes pa m then ckiPOISON else 0)).landRaised.done) ∧
      (acc.loc.kind = 2 → ∀ w, s.clear.logStore [s.entry (16 + code) (sizeLog m) acc.loc.lms (s.accessLms acc) v.toNat] = .ok w →
        exec (.stcmb p d a x t sc ms off) s = .next w.landRaised.done) ∧
      (acc.loc.kind = 3 → exec (.stcmb p d a x t sc ms off) s = .next (s.stoppedBy 8 0 va)))

/-- A write of bytes at a physical address leaves exactly those bytes there, leaves every byte outside the aligned words it
touches as it was, leaves the other bytes of those words too where none of them is poisoned, and keeps memory in its
canonical form; the image of a tile, read back from where it was written, is the tile with no container marked and no value
of its own for a lost one (05 R153).
Poison and the rebuilding of words follow log entry 31. -/
def Obligations.StoredBytesReadBack : Prop :=
  ∀ (s : State) (pa : Nat) (bs : List Byte),
    let t := s.writePhys pa bs
    Mem.bytes t.mem pa bs.length = bs ∧
    (∀ a, (a / 4 < pa / 4 ∨ (pa + bs.length - 1) / 4 < a / 4) → Mem.read t.mem a = Mem.read s.mem a) ∧
    ((∀ a, pa / 4 ≤ a / 4 → a / 4 ≤ (pa + bs.length - 1) / 4 → s.badByte a = false) →
      ∀ a, (a < pa ∨ pa + bs.length ≤ a) → Mem.read t.mem a = Mem.read s.mem a) ∧
    (s.MemOk → t.MemOk) ∧
    ∀ y : Tile, (s.writePhys pa y.image).imageAt pa = { y with bad := [], good := [] }

/-- The frame of a scalar store to a PRIVATE or CORE entry: the bytes stored are those at the slice address that the
instruction's own address translates to; every byte outside the aligned words that hold them reads as before, and no
register of any context changes or has a write queued (a correction's LCORR lands with s[0]). The aligned words are those of
log entry 31. -/
def Obligations.ScalarStoreFrame : Prop :=
  ∀ (s u : State) (p : Pred) (d a x : BitVec 6) (t : BitVec 4) (sc : BitVec 3) (off : BitVec 24) (acc : Access),
    let n := typeWidth t.toNat / 8
    s.Runs p [.s d, .s a, .s x] → s.onControl = false →
    s.access (s.cx.addrM a x sc off) n n true = .ok acc → acc.loc.kind ≤ 1 →
    exec (.st p d a x t sc off) s = .next u →
    let pa := s.accessPa acc
    Mem.bytes u.mem pa n = leBytes (s.cx.rs d).toNat n ∧
    (∀ c, (c / 4 < pa / 4 ∨ (pa + n - 1) / 4 < c / 4) → Mem.read u.mem c = Mem.read s.mem c) ∧
    (∀ k i, let c := s.ctxAt k i
      let c' := u.ctxAt k i
      c'.s = c.s ∧ c'.v = c.v ∧ c'.p = c.p ∧ c'.b = c.b ∧ c'.m = c.m ∧ c'.k = c.k ∧ c'.fmt = c.fmt ∧ c'.fpf = c.fpf ∧
        c'.cki = c.cki ∧ c'.ip = c.ip ∧ ∀ e ∈ c'.landing, e ∈ c.landing ∨ e.reg = .s 0)

/-- VLD, VLDS and VLDX (07 R188): one row of 256 bytes under the mask, or separate lanes at the base plus i times the scaled
s[X], or at the base plus the scaled container i of a row; an address that the table does not translate is XLATE_MISS, code
7, for separate lanes at the lowest such lane (07 R189), and a lane of another KIND is KIND_FAULT, code 8. That a miss in any
lane comes before KIND_FAULT, and that this one carries the address of the first lane that differs, is the model's choice,
log entry 15. -/
def Obligations.VectorLoadsComplete : Prop :=
  ∀ (s : State) (p : Pred) (d a x : BitVec 6) (sc : BitVec 3) (off : BitVec 24),
    let m := s.mask p
    let base := s.cx.rs a + off.signExtend 64
    (s.RunsVec p [] [.s a, .s x] (some d) none maskKeeps →
      let u := s.clear.popped []
      (∀ acc, s.access (s.cx.addrM a x sc off) 256 4 false = .ok acc →
        exec (.vld p d a x sc off) s = .next (u.loadRow d m acc).done) ∧
      (∀ c, s.xlate (s.cx.addrM a x sc off).toNat 256 4 false = .error c →
        exec (.vld p d a x sc off) s = .next (s.stoppedBy 7 c (s.cx.addrM a x sc off))) ∧
      (∀ l, u.sepAccesses (fun i => base + BitVec.ofNat 64 i * (s.cx.rs x <<< sc.toNat)) false m = .ok l →
        exec (.vlds p d a x sc off) s = .next (u.loadLanes d l).done) ∧
      (∀ f i c, let ad := fun i => base + BitVec.ofNat 64 i * (s.cx.rs x <<< sc.toNat)
        (u.LaneMiss ad false m i c → exec (.vlds p d a x sc off) s = .next (s.stoppedBy 7 c (ad i))) ∧
        (u.LaneDiffers ad false m f i → exec (.vlds p d a x sc off) s = .next (s.stoppedBy 8 0 (ad i))))) ∧
    (s.RunsVec p [x] [.s a] (some d) none maskKeeps →
      let u := s.clear.popped [x]
      (∀ l, u.sepAccesses (fun i => base + ((lane (s.row x) i).setWidth 64 <<< sc.toNat)) false m = .ok l →
        exec (.vldx p d a x sc off) s = .next (u.loadLanes d l).done) ∧
      (∀ f i c, let ad := fun i => base + ((lane (s.row x) i).setWidth 64 <<< sc.toNat)
        (u.LaneMiss ad false m i c → exec (.vldx p d a x sc off) s = .next (s.stoppedBy 7 c (ad i))) ∧
        (u.LaneDiffers ad false m f i → exec (.vldx p d a x sc off) s = .next (s.stoppedBy 8 0 (ad i)))))

/-- VST, VSTS, VSTX, VSTNT and VSTCMB (07 R188, R189, 08 R212, R223, R227): the active lanes of the source row stored, as one
row or as separate lanes, to the slice or through the log; VSTNT hands them to the copy engine; VSTCMB combines them in
place, in ascending order. VSTNT takes a DIRECT entry alone and the others none, or KIND_FAULT, code 8; a lane of another
KIND is KIND_FAULT too, and an address that the table does not translate XLATE_MISS, code 7, for separate lanes at the lowest
such lane (07 R189). That a miss in any lane comes before KIND_FAULT, and that this one carries the address of the first lane
that differs, is the model's choice, log entry 15; that what a repair of the old containers corrects lands as LCORR with the
bundle (`landRaised`) is its choice too, log entry 31. -/
def Obligations.VectorStoresComplete : Prop :=
  ∀ (s : State) (p : Pred) (d a x : BitVec 6) (t : BitVec 4) (sc ms : BitVec 3) (off : BitVec 24),
    let m := s.mask p
    let v := s.row d
    let base := s.cx.rs a + off.signExtend 64
    let code := combineCode ms.toNat t.toNat
    (s.RunsVec p [d] [.s a, .s x] none none neverKeeps →
      let u := s.clear.popped [d]
      let lanes (acc : Access) := (activeList m).map fun i => (i, laneOfRow acc i)
      (∀ acc, u.access (s.cx.addrM a x sc off) 256 4 true = .ok acc →
        (acc.loc.kind ≤ 1 → exec (.vst p d a x sc off) s = .next (u.writeLanes v (lanes acc)).landRaised.done) ∧
        (acc.loc.kind = 2 → ∀ w, u.logStore (u.rowEntries 1 acc.loc.lms (u.accessLms acc) m v) = .ok w →
          exec (.vst p d a x sc off) s = .next w.landRaised.done) ∧
        (acc.loc.kind = 3 → ∀ w, u.handOver ((activeList m).map fun i => (acc.loc.off + 4 * i, 15, lane v i)) = .ok w →
          exec (.vstnt p d a x sc off) s = .next w.landRaised.done) ∧
        (acc.loc.kind ≤ 1 → exec (.vstcmb p d a x t sc ms off) s = .next ((u.combineLanes code v (lanes acc)).1.landFlag
          (if (u.combineLanes code v (lanes acc)).2 then ckiPOISON else 0)).landRaised.done) ∧
        (acc.loc.kind = 2 → ∀ w, u.logStore (u.rowEntries (16 + code) acc.loc.lms (u.accessLms acc) m v) = .ok w →
          exec (.vstcmb p d a x t sc ms off) s = .next w.landRaised.done) ∧
        (acc.loc.kind = 3 → exec (.vst p d a x sc off) s = .next (s.stoppedBy 8 0 acc.va) ∧
          exec (.vstcmb p d a x t sc ms off) s = .next (s.stoppedBy 8 0 acc.va)) ∧
        (acc.loc.kind ≠ 3 → exec (.vstnt p d a x sc off) s = .next (s.stoppedBy 8 0 acc.va))) ∧
      (∀ c, let va := s.cx.addrM a x sc off
        u.xlate va.toNat 256 4 true = .error c →
        exec (.vst p d a x sc off) s = .next (s.stoppedBy 7 c va) ∧ exec (.vstnt p d a x sc off) s = .next (s.stoppedBy 7 c va) ∧
        exec (.vstcmb p d a x t sc ms off) s = .next (s.stoppedBy 7 c va)) ∧
      (∀ f i c q, let ad := fun i => base + BitVec.ofNat 64 i * (s.cx.rs x <<< sc.toNat)
        (u.LaneMiss ad true m i c → exec (.vsts p d a x sc off) s = .next (s.stoppedBy 7 c (ad i))) ∧
        (u.LaneDiffers ad true m f i → exec (.vsts p d a x sc off) s = .next (s.stoppedBy 8 0 (ad i))) ∧
        (∀ l, u.sepAccesses ad true m = .ok ((f, q) :: l) → q.loc.kind = 3 →
          exec (.vsts p d a x sc off) s = .next (s.stoppedBy 8 0 q.va))) ∧
      (∀ l w, u.sepAccesses (fun i => base + BitVec.ofNat 64 i * (s.cx.rs x <<< sc.toNat)) true m = .ok l →
        u.storeLanes v l = .ok w → exec (.vsts p d a x sc off) s = .next w.landRaised.done)) ∧
    (s.RunsVec p [d, x] [.s a] none none neverKeeps →
      let u := s.clear.popped [d, x]
      (∀ l w, u.sepAccesses (fun i => base + ((lane (s.row x) i).setWidth 64 <<< sc.toNat)) true m = .ok l →
        u.storeLanes v l = .ok w → exec (.vstx p d a x sc off) s = .next w.landRaised.done) ∧
      (∀ f i c q, let ad := fun i => base + ((lane (s.row x) i).setWidth 64 <<< sc.toNat)
        (u.LaneMiss ad true m i c → exec (.vstx p d a x sc off) s = .next (s.stoppedBy 7 c (ad i))) ∧
        (u.LaneDiffers ad true m f i → exec (.vstx p d a x sc off) s = .next (s.stoppedBy 8 0 (ad i))) ∧
        (∀ l, u.sepAccesses ad true m = .ok ((f, q) :: l) → q.loc.kind = 3 →
          exec (.vstx p d a x sc off) s = .next (s.stoppedBy 8 0 q.va))))

/-! Slots 3 and 4 (04 R113-R133). -/

/-- Integer and bitwise element operations (04 R118, R119): element j of D is the value of elements j of the sources where its
lane is active and the old element elsewhere; the result wraps, or saturates where the instruction says so; VCMP writes
predicate bits and keeps the inactive ones. -/
def Obligations.VectorIntegersComplete : Prop :=
  ∀ (s : State) (p : Pred) (d a b : BitVec 6) (sat cond : BitVec 8) (t : BitVec 4),
    let w := typeWidth t.toNat
    let A := elem (s.row a) w
    let B := elem (s.row b) w
    let val (x : Nat) : Int := valT t.toNat x
    let low (y : Int) : Nat := lowBits w y
    let clip (y : Int) : Int := if sat = 1 then (saturate t.toNat y).1 else y
    let u := s.clear.popped [a, b]
    let res (c : LatClass) (w : Nat) (f : Nat → Nat) : Result :=
      .next (u.landElems c d w (elemOn (s.mask p) w) (fun j => (f j, 0)) 0).done
    (s.RunsVec p [a, b] [] (some d) none maskKeeps →
      exec (.vadd p d a b sat t) s = res .valu w (fun j => low (clip (val (A j) + val (B j)))) ∧
      exec (.vsub p d a b sat t) s = res .valu w (fun j => low (clip (val (A j) - val (B j)))) ∧
      exec (.vmul p d a b t) s = res .vfma w (fun j => low (val (A j) * val (B j))) ∧
      exec (.vmulh p d a b t) s = res .vfma w (fun j => low (val (A j) * val (B j) / (2 ^ w : Nat))) ∧
      exec (.vshl p d a b t) s = res .valu w (fun j => A j * 2 ^ (B j % w) % 2 ^ w) ∧
      exec (.vshr p d a b t) s = res .valu w (fun j => A j / 2 ^ (B j % w)) ∧
      exec (.vshra p d a b t) s = res .valu w (fun j => low (val (A j) / (2 ^ (B j % w) : Nat))) ∧
      exec (.vmin p d a b t) s = res .valu w (fun j => low (min (val (A j)) (val (B j)))) ∧
      exec (.vmax p d a b t) s = res .valu w (fun j => low (max (val (A j)) (val (B j)))) ∧
      exec (.vand p d a b) s = res .valu 32 (fun j => elem (s.row a) 32 j &&& elem (s.row b) 32 j) ∧
      exec (.vor p d a b) s = res .valu 32 (fun j => elem (s.row a) 32 j ||| elem (s.row b) 32 j) ∧
      exec (.vxor p d a b) s = res .valu 32 (fun j => elem (s.row a) 32 j ^^^ elem (s.row b) 32 j)) ∧
    (s.RunsVec p [a] [] (some d) none maskKeeps → exec (.vabs p d a sat t) s =
      .next ((s.clear.popped [a]).landElems .valu d w (elemOn (s.mask p) w)
        (fun j => (low (clip (if val (A j) < 0 then -(val (A j)) else val (A j))), 0)) 0).done) ∧
    (s.RunsVec p [a, b] [] none (some (d.setWidth 5)) maskKeeps → exec (.vcmp p d a b cond t) s =
      .next (u.landBits .valu (d.setWidth 5) (s.mask p) fun j => condInt cond.toNat (val (elem (s.row a) 32 j))
        (val (elem (s.row b) 32 j))).done)

/-- Selections, dot products, width changes and packing (04 R118, R120-R124). -/
def Obligations.VectorSelectsAndWidthsComplete : Prop :=
  ∀ (s : State) (p : Pred) (d a b c : BitVec 6) (sat uns part : BitVec 8) (t : BitVec 4),
    let w := typeWidth t.toNat
    let m := s.mask p
    (s.RunsVec p [a, b] [.p (c.setWidth 5)] (some d) none maskKeeps → exec (.vsel p d a b c) s =
      .next ((s.clear.popped [a, b]).landLanes .valu d m fun i =>
        if laneOn (s.cx.rp (c.setWidth 5)) i then lane (s.row a) i else lane (s.row b) i).done) ∧
    (s.RunsVec p [a, b, c] [] (some d) none maskKeeps → exec (.vdot4 p d a b c sat t) s =
      .next ((s.clear.popped [a, b, c]).landElems .vfma d 32 (elemOn m 32) (fun j =>
        (dot4 t.toNat (sat == 1) (elem (s.row a) 32 j) (elem (s.row b) 32 j) (elem (s.row c) 32 j), 0)) 0).done) ∧
    (s.RunsVec p [a, b] [] (some d) none maskKeeps →
      let wide (x : Nat) : Int := if uns = 1 then (x : Int) else valT (if w = 8 then 2 else 4) x
      exec (.vsatn p d a b uns t) s = .next ((s.clear.popped [a, b]).landElems .valu d w (elemOn m w) (fun j =>
        (lowBits w (saturate t.toNat (wide (wideElem w (s.row a) (s.row b) j))).1, 0)) 0).done ∧
      exec (.vpack p d a b t) s = .next ((s.clear.popped [a, b]).landElems .valu d w (elemOn m w) (fun j =>
        (wideElem w (s.row a) (s.row b) j, 0)) 0).done) ∧
    (s.RunsVec p [a] [] (some d) none maskKeeps →
      exec (.vwiden p d a part t) s = .next ((s.clear.popped [a]).landElems .valu d (2 * w) (elemOn m (2 * w)) (fun j =>
        (lowBits (2 * w) (valT t.toNat (elem (s.row a) w (part.toNat * (2048 / (2 * w)) + j))), 0)) 0).done ∧
      exec (.vunpack p d a part) s = .next ((s.clear.popped [a]).landElems .valu d 8 (elemOn m 8)
        (fun j => (lowBits 8 (t2Val (elem (s.row a) 2 (256 * part.toNat + j))).1, 0))
        (if (List.range 256).any (fun j => elemOn m 8 j && elem (s.row a) 2 (256 * part.toNat + j) == 2)
          then ckiT2RSV else 0)).done) ∧
    (s.RunsVec p [a] [] (some d) none alwaysKeeps → exec (.vpackT2 p d a part) s =
      .next ((s.clear.popped [a]).landElems .valu d 2 (fun j => elemOn m 2 j && decide (j / 256 = part.toNat))
        (fun j => clampT2 (valT 0 (elem (s.row a) 8 (j % 256)))) 0).done)

/-- Floating-point element operations and conversions (04 R123-R127): each active element's value and its flags.
The last place of the elementary functions follows log entry 29. -/
def Obligations.VectorFloatsComplete : Prop :=
  ∀ (s : State) (p : Pred) (d a b c k : BitVec 6) (num cond : BitVec 8) (t ts td : BitVec 4) (part : BitVec 2),
    let w := typeWidth t.toNat
    let F := fmtOf t.toNat
    let fm := s.cx.fmt
    let m := s.mask p
    let A := elem (s.row a) w
    let B := elem (s.row b) w
    let S := elem (s.row a) 32
    let u := s.clear.popped [a, b]
    let u1 := s.clear.popped [a]
    let two (c : LatClass) (f : Nat → Nat × Flag5) : Result := .next (u.landElems c d w (elemOn m w) f 0).done
    let one (c : LatClass) (f : Nat → Nat × Flag5) : Result := .next (u1.landElems c d 32 (elemOn m 32) f 0).done
    let cvt (ts td : Nat) (f : Nat → Nat × Flag5) : Result :=
      .next (u1.landElems .vfma d (typeWidth td)
        (fun j => elemOn m (typeWidth td) j && cvtWrites (typeWidth ts) (typeWidth td) part.toNat j)
        (fun j => f (elem (s.row a) (typeWidth ts) (cvtSource (typeWidth ts) (typeWidth td) part.toNat j))) 0).done
    let keeps (ts td : Nat) := if typeWidth td < typeWidth ts then alwaysKeeps else maskKeeps
    (s.RunsVec p [a, b] [] (some d) none maskKeeps →
      exec (.vfadd p d a b t) s = two .vfma (fun j => fAdd F fm (A j) (B j)) ∧
      exec (.vfsub p d a b t) s = two .vfma (fun j => fSub F fm (A j) (B j)) ∧
      exec (.vfmul p d a b t) s = two .vfma (fun j => fMul F fm (A j) (B j)) ∧
      exec (.vfmin p d a b num t) s = two .valu (fun j => (fMinMax F (num == 1) false (A j) (B j), 0)) ∧
      exec (.vfmax p d a b num t) s = two .valu (fun j => (fMinMax F (num == 1) true (A j) (B j), 0))) ∧
    (s.RunsVec p [a, b, c] [] (some d) none maskKeeps → exec (.vffma p d a b c t) s =
      .next ((s.clear.popped [a, b, c]).landElems .vfma d w (elemOn m w)
        (fun j => fFma F fm (A j) (B j) (elem (s.row c) w j)) 0).done) ∧
    (s.RunsVec p [a, b] [] none (some (d.setWidth 5)) maskKeeps → exec (.vfcmp p d a b cond) s =
      .next (u.landBits .valu (d.setWidth 5) m fun j => condFloat fp32 cond.toNat (S j) (elem (s.row b) 32 j)).done) ∧
    (s.RunsVec p [a] [] (some d) none maskKeeps →
      exec (.vfrcp p d a) s = one .vtrans (fun j => fRcp fm (S j)) ∧
      exec (.vfrsq p d a) s = one .vtrans (fun j => fRsq fm (S j)) ∧
      exec (.vfexp2 p d a) s = one .vtrans (fun j => fExp2 fm (S j)) ∧
      exec (.vflog2 p d a) s = one .vtrans (fun j => fLog2 fm (S j)) ∧
      exec (.vfclass p d a) s = one .valu (fun j => (fClass fp32 (S j), 0))) ∧
    (s.RunsVec p [a] [] (some d) none (keeps ts.toNat td.toNat) → exec (.vfcvt p d a ts part td) s =
      cvt ts.toNat td.toNat fun x => ((convert ts.toNat td.toNat fm x).1, (convert ts.toNat td.toNat fm x).2.1)) ∧
    (s.RunsVec p [a] [.k (k.setWidth 3)] (some d) none (keeps 8 td.toNat) → exec (.vquant p d a k part td) s =
      cvt 8 td.toNat fun x => convertScaled 8 td.toNat fm x (s.cx.rk (k.setWidth 3)).toNat) ∧
    (s.RunsVec p [a] [.k (k.setWidth 3)] (some d) none (keeps ts.toNat 8) → exec (.vdeq p d a k ts part) s =
      cvt ts.toNat 8 fun x => convertScaled ts.toNat 8 fm x (s.cx.rk (k.setWidth 3)).toNat)

/-- Reductions, permutations, broadcasts and lane moves (04 R128-R133). -/
def Obligations.LaneOperationsComplete : Prop :=
  ∀ (s : State) (p : Pred) (d a b c : BitVec 6) (op n : BitVec 8) (ln : BitVec 6) (t : BitVec 4),
    let m := s.mask p
    let A := lane (s.row a)
    let u1 := s.clear.popped [a]
    let u0 := s.clear.popped []
    (s.RunsVec p [a] [] (some d) none neverKeeps →
      exec (.vred p d a op t) s = .next (u1.landRow .vtrans d
        (ofLanes fun _ => BitVec.ofNat 32 (reduceOf op.toNat t.toNat s.cx.fmt (activeLanes m (s.row a))).1)
        (reduceOf op.toNat t.toNat s.cx.fmt (activeLanes m (s.row a))).2 0).done ∧
      exec (.vcompress p d a) s = .next (u1.landRow .valu d
        (ofLanes fun i => BitVec.ofNat 32 ((activeLanes m (s.row a)).getD i 0)) 0 0).done) ∧
    (s.RunsVec p [a, b, c] [] (some d) none maskKeeps → exec (.vperm p d a b c) s =
      .next ((s.clear.popped [a, b, c]).landLanes .valu d m fun i =>
        window (s.row a) (s.row c) ((lane (s.row b) i).toNat % 128)).done) ∧
    (s.RunsVec p [a, b] [] (some d) none maskKeeps → exec (.vslide p d a b n) s =
      .next ((s.clear.popped [a, b]).landLanes .valu d m fun i =>
        window (s.row a) (s.row b) (((i : Int) + n.toInt) % 128).toNat).done) ∧
    (s.RunsVec p [] [.s a] (some d) none maskKeeps → exec (.vbcast p d a) s =
      .next (u0.landLanes .movx d m fun _ => (s.cx.rs a).setWidth 32).done) ∧
    (s.RunsVec p [a] [] (some d) none maskKeeps →
      exec (.vbcastLane p d a ln) s = .next (u1.landLanes .movx d m fun _ => A ln.toNat).done ∧
      exec (.vexpand p d a) s = .next (u1.landLanes .valu d m fun i => A (activeBelow m i)).done) ∧
    (s.RunsVec p [] [.s a, .s b] (some d) none maskKeeps → exec (.viota p d a b) s =
      .next (u0.landLanes .movx d m fun i => (s.cx.rs a + BitVec.ofNat 64 i * s.cx.rs b).setWidth 32).done) ∧
    (s.RunsVec p [a] [.s b] none none maskKeeps → exec (.vcountge p d a b t) s =
      .next (u1.landS .valu d (BitVec.ofNat 64
        ((activeLanes m (s.row a)).filter fun x => countsGe t.toNat x (s.cx.rs b).toNat).length)).done) ∧
    (laneOn m ln.toNat = true → s.RunsVec p [a] [] none none maskKeeps → exec (.movvs p d a ln t) s =
      .next (u1.landS .movx d (if t = 4 then (A ln.toNat).signExtend 64 else (A ln.toNat).setWidth 64)).done) ∧
    (laneOn m ln.toNat = true → s.RunsVec p [] [.s a] (some d) none alwaysKeeps → exec (.movsv p d a ln) s =
      .next (u0.landLanes .movx d (1#64 <<< ln.toNat) fun _ => (s.cx.rs a).setWidth 32).done)

/-- A vector slot with no active lane has no effect: no register, memory or accumulator is written and no element is popped
(04 R113). Stated of one instruction of each shape. -/
def Obligations.NoActiveLaneNoEffect : Prop :=
  ∀ (s : State) (p : Pred) (d a b x : BitVec 6) (sat : BitVec 8) (t : BitVec 4) (sc : BitVec 3) (off : BitVec 24),
    s.mask p = 0 → s.CanRead (predReads p) →
    exec (.vadd p d a b sat t) s = .next s.clear.done ∧
    exec (.vcmp p d a b sat t) s = .next s.clear.done ∧
    exec (.vred p d a sat t) s = .next s.clear.done ∧
    exec (.vld p d a x sc off) s = .next s.clear.done ∧
    exec (.vst p d a x sc off) s = .next s.clear.done ∧
    exec (.txin p a) s = .next s.clear.done

/-! Accumulator tiles and the transposer (05 R144, R152-R154). -/

/-- TXIN, TXOUT, TXCLR, VACCRD, VACCWR, VSPILL and VFILL on granted resources: a line is delivered or replaced under the mask
with the sums kept exact, the transposer fills and empties, and a tile goes to its 16,896-byte image and back; what can be
repaired of a tile's poisoned containers is repaired first (06 R165).
The order of the checks follows log entry 28; that what a repair in a store corrects lands with the bundle is the model's
choice, log entry 31. -/
def Obligations.AccumulatorAccessCompletes : Prop :=
  ∀ (s : State) (p : Pred) (d a b c x : BitVec 6) (col : BitVec 8) (sc : BitVec 3) (off : BitVec 24),
    let m := s.mask p
    let r := (s.cx.rs a).toNat % 64
    (s.RunsVec p [a] [] none none neverKeeps → s.co.xowner = some s.cur.ctx → s.co.xf.toNat < 64 →
      let u := s.clear.popped [a]
      exec (.txin p a) s = .next (u.setCo { u.co with
        xpose := s.co.xpose.setRow s.co.xf.toNat (s.row a) fun i => m.getLsbD i, xf := s.co.xf + 1 }).done) ∧
    (s.RunsVec p [] [] (some d) none maskKeeps → s.co.xowner = some s.cur.ctx → s.co.xf = 64 →
      ∀ y fixed, s.co.xpose.checkLine true s.co.xg.toNat = some (y, fixed) →
        let last := decide (s.co.xg.toNat = 63)
        let w := ((s.clear.popped []).corrected fixed).1
        let u := w.setCo { w.co with xpose := y, xf := if last then 0 else s.co.xf, xg := if last then 0 else s.co.xg + 1 }
        exec (.txout p d) s = .next (u.landElems .xpose d 32 (laneOn m)
          (fun i => ((lane (y.line true s.co.xg.toNat) i).toNat, 0)) ((s.clear.popped []).corrected fixed).2).done) ∧
    (s.RunsVec p [] [] none none neverKeeps → s.co.xowner = some s.cur.ctx →
      let u := s.clear.popped []
      exec (.txclr p) s = .next (u.setCo { u.co with xpose := Tile.zero, xf := 0, xg := 0 }).done) ∧
    (s.RunsVec p [] [.s a] (some d) none maskKeeps →
      let u := s.clear.popped []
      let t : BitVec 4 := c.setWidth 4
      let w := u.mendTile s.cur.core t.toNat
      u.tileCheck t = .ok () → ∀ y fixed, (w.tile t).checkLine (col == 1) r = some (y, fixed) →
        let z := { w with raised := 0 }.corrected fixed
        exec (.vaccrd p d c a col) s = .next ((z.1.setTile t y).landElems .vacc d 32 (laneOn m)
          (fun i => ((lane (y.line (col == 1) r) i).toNat, 0))
          (z.2 ||| (w.raised ||| (if (w.tile t).badLine (col == 1) r then ckiPOISON else 0)))).done) ∧
    (s.RunsVec p [b] [.s a] none none neverKeeps →
      let u := s.clear.popped [b]
      let t : BitVec 4 := d.setWidth 4
      let w := u.mendTile s.cur.core t.toNat
      u.tileCheck t = .ok () →
        (col ≠ 1 → exec (.vaccwr p d b a col) s =
          .next (w.setTile t ((w.tile t).setRow r (s.row b) fun i => m.getLsbD i)).landRaised.done) ∧
        (col = 1 → exec (.vaccwr p d b a col) s =
          .next (w.setTile t ((activeList m).foldl (fun y i => y.set i r (lane (s.row b) i)) (w.tile t))).landRaised.done)) ∧
    (s.RunsVec p [] [.s a, .s x] none none neverKeeps →
      let u := s.clear.popped []
      let t : BitVec 4 := d.setWidth 4
      let va := s.cx.addrM a x sc off
      let w := u.mendTile s.cur.core t.toNat
      u.tileCheck t = .ok () →
        (∀ acc, u.spillAccess va true = .ok acc →
          exec (.vspill p d a x sc off) s = .next (((w.storeAt (w.accessPa acc) (w.tile t).image).landRaised).landFlag
            (if (w.tile t).bad = [] then 0 else ckiPOISON)).done) ∧
        (∀ acc y fixed, u.spillAccess va false = .ok acc → (u.imageAt (u.accessPa acc)).checkImage = some (y, fixed) →
          exec (.vfill p d a x sc off) s = .next (((u.corrected fixed).1.setTile t { y with bad := [], good := [] }).landFlag
            ((u.corrected fixed).2 ||| (if u.badBytes (u.accessPa acc) 16896 then ckiPOISON else 0))).done))

/-! Engine commands (01 R28, R29, 05 R134-R151, 08 R223, 09 R232-R249). -/

/-- What issuing a command does (01 R28): it takes the next number of its timeline and the last place in it, the core's
issue count rises, the number lands in s[D] with the latency of a sequence return, and nothing of memory, of the other
timelines or of the counter changes. -/
def Obligations.IssueNumbersTheCommand : Prop :=
  ∀ (s : State) (tl : Tl) (d : BitVec 6) (cmd : Cmd) (prog : Nat),
    let t := s.cx.tl tl
    let u := s.issue tl d cmd prog
    (u.cx.tl tl).issued = t.issued + 1 ∧ (u.cx.tl tl).count = t.count ∧
    (u.cx.tl tl).cmds = t.cmds ++ [newPending (t.issued + 1) s.co.order cmd s.cx.fmt prog] ∧
    (∀ o, o ≠ tl → u.cx.tl o = s.cx.tl o) ∧
    u.co.order = s.co.order + 1 ∧
    u.cx.landing = (s.landS .seqret d (t.issued + 1)).cx.landing ∧
    u.mem = s.mem ∧ SameOthers s u

/-- Matrix commands on granted tiles and legal parameters issue on mtx with everything they capture; MMA, MLOAD and MSTORE
also reset START of m7. MSETP and MGETP write and read the m registers. For every matrix command a tile outside the task's
mask is RESOURCE_DENIED, code 9, and an illegal parameter MATRIX_PARAM, code 11; neither is issued (05 R134-R151, 06 R176,
R177). That RESOURCE_DENIED comes first where both fail is the model's choice, log entry 81; the order of the other checks
follows log entry 28. -/
def Obligations.MatrixCommandsIssue : Prop :=
  ∀ (s : State) (p : Pred) (d a b c : BitVec 6) (ta tb t tt : BitVec 4) (nrow ncol : BitVec 7) (mask : BitVec 16),
    let x := s.cx.rs a
    let y := s.cx.rs b
    let free := slotBlock .mtx s = none
    let ok (cmd : Cmd) := Cmd.tiles cmd &&& ~~~s.tileMask = 0
    let stops (i : Instr) (cmd : Cmd) (bad : Prop) :=
      (¬ok cmd → exec i s = .next (s.stoppedBy 9 0 0)) ∧ (ok cmd → bad → exec i s = .next (s.stoppedBy 11 0 0))
    let run (cmd : Cmd) : Result := .next (s.clear.issue .mtx d cmd 0).done
    let q := mmaPar s.cx.m
    let start := fld (s.cx.rm 7).toNat 0 7
    let m6 := s.cx.rm 6
    (s.Runs p [.s a] → exec (.msetp p c a) s = .next (s.clear.landLat 1 true (.m (c.setWidth 3))
      ((x &&& mWritable c.toNat).setWidth 2048) 0 0 0).done) ∧
    (s.Runs p [.m (c.setWidth 3)] → exec (.mgetp p d c) s = .next (s.clear.landS .sysrd d (s.cx.mword (c.setWidth 3))).done) ∧
    (s.Runs p (mRegs ++ if q.chain then scaleRegs q.rowsc q.ksel q.start q.m else []) → free →
      let cmd := Cmd.mma ta.toNat tb.toNat s.cx.m s.cx.k
      stops (.mma p d ta tb) cmd (q.bad = true) ∧
      (q.bad = false → ok cmd → exec (.mma p d ta tb) s =
        .next ((s.clear.issue .mtx d cmd q.start).rowBased q.start).done)) ∧
    (s.Runs p [.s a, .s b, .m 7] → free →
      let cmd := Cmd.mload (c.setWidth 4) x y t.toNat nrow.toNat ncol.toNat start
      stops (.mload p d c a b t nrow ncol) cmd (rowsBad nrow.toNat ncol.toNat start x y = true) ∧
      (rowsBad nrow.toNat ncol.toNat start x y = false → ok cmd →
        exec (.mload p d c a b t nrow ncol) s = .next ((s.clear.issue .mtx d cmd start).rowBased start).done)) ∧
    (s.Runs p ([.s a, .s b, .m 6, .m 7] ++ scaleRegs (m6.getLsbD 51) (fld m6.toNat 48 3) start nrow.toNat) → free →
      let cmd := Cmd.mstore (c.setWidth 4) x y t.toNat tt.toNat nrow.toNat ncol.toNat start m6 s.cx.k
      stops (.mstore p d c a b t tt nrow ncol) cmd (rowsBad nrow.toNat ncol.toNat start x y = true) ∧
      (rowsBad nrow.toNat ncol.toNat start x y = false → ok cmd →
        exec (.mstore p d c a b t tt nrow ncol) s = .next ((s.clear.issue .mtx d cmd start).rowBased start).done)) ∧
    (s.Runs p [] → free →
      stops (.mzero p d mask) (.mzero mask) False ∧ stops (.sealAcc p d c) (.sealAcc (c.setWidth 4)) False ∧
      (ok (.mzero mask) → exec (.mzero p d mask) s = run (.mzero mask)) ∧
      (ok (.sealAcc (c.setWidth 4)) → exec (.sealAcc p d c) s = run (.sealAcc (c.setWidth 4)))) ∧
    (s.Runs p [.s a, .s b] → free →
      stops (.seal p d a b) (.seal x y.toNat) (tileAligned x 16384 = false ∨ 2 ^ 24 < y.toNat) ∧
      stops (.squery p d a b) (.squery x y) (tileAligned x 16384 = false ∨ tileAligned y 64 = false) ∧
      (tileAligned x 16384 = true →
        (y.toNat ≤ 2 ^ 24 → exec (.seal p d a b) s = run (.seal x y.toNat)) ∧
        (tileAligned y 64 = true → exec (.squery p d a b) s = run (.squery x y)))) ∧
    (s.Runs p [.s b] → free →
      let cmd := Cmd.squeryAcc (c.setWidth 4) y
      stops (.squeryAcc p d c b) cmd (tileAligned y 64 = false) ∧
      (tileAligned y 64 = true → ok cmd → exec (.squeryAcc p d c b) s = run cmd)) ∧
    (s.Runs p [.s a, .s b, .s c] → free →
      let bad := tileAligned x 16384 = false ∨ 2 ^ 24 < y.toNat ∨ tileAligned (s.cx.rs c) 32 = false
      let cmd := Cmd.scheck x y.toNat (s.cx.rs c)
      stops (.scheck p d a b c) (cmd false) bad ∧ stops (.sfix p d a b c) (cmd true) bad ∧
      (¬bad → exec (.scheck p d a b c) s = run (cmd false) ∧ exec (.sfix p d a b c) s = run (cmd true))) ∧
    (s.Runs p [.s a] → free →
      let cmd := Cmd.scheckAcc (c.setWidth 4) x
      stops (.scheckAcc p d c a) (cmd false) (tileAligned x 32 = false) ∧
      stops (.sfixAcc p d c a) (cmd true) (tileAligned x 32 = false) ∧
      (tileAligned x 32 = true →
        (ok (cmd false) → exec (.scheckAcc p d c a) s = run (cmd false)) ∧
        (ok (cmd true) → exec (.sfixAcc p d c a) s = run (cmd true))))

/-- Copy commands with legal parameters issue on cpy: CPY, CPY2, CPYMC, CPYCRC and its checking form, NTDRAIN with the count
of stores handed over so far; CPYQ issues and binds its stream (09 R240-R245, 08 R223). An illegal parameter is COPY_PARAM,
code 13, and a CPYQ on a stream that a binding holds STREAM_BUSY, code 14; neither is issued. That the parameters decide
where both hold, and that the ranges of CPY2 are its rows' bytes, are the model's choices, log entry 95. -/
def Obligations.CopyCommandsIssue : Prop :=
  ∀ (s : State) (p : Pred) (d a b c : BitVec 6) (rows rlen : BitVec 10) (stride : BitVec 20) (clusters cores : BitVec 8)
    (dom : BitVec 3),
    let x := s.cx.rs a
    let y := s.cx.rs b
    let z := s.cx.rs c
    let free := slotBlock .cpy s = none
    let run (cmd : Cmd) : Result := .next (s.clear.issue .cpy d cmd 0).done
    let bound (q : BitVec 4) (k : BindKind) (cmd : Cmd) : Result :=
      let u := s.clear.issue .cpy d cmd 0
      .next (u.setCx (u.cx.setStream q ((u.cx.stream q).bindTo ⟨k, s.cx.cpy.issued + 1⟩))).done
    let param : Result := .next (s.stoppedBy 13 0 0)
    (s.Runs p [.s a, .s b, .s c] → free →
      (lenBad x y z = false → exec (.cpy p d a b c) s = run (.cpy x y z.toNat) ∧
        exec (.cpycrc p d a b c) s = run (.cpycrc x y z.toNat true) ∧
        (mcTargets clusters cores dom ≠ [] →
          exec (.cpymc p d a b c clusters cores dom) s = run (.cpymc x y z.toNat clusters cores dom))) ∧
      (lenBad x y z = true → exec (.cpy p d a b c) s = param ∧ exec (.cpycrc p d a b c) s = param) ∧
      (lenBad x y z = true ∨ mcTargets clusters cores dom = [] → exec (.cpymc p d a b c clusters cores dom) s = param) ∧
      (let ds : W32 := z.setWidth 32
       let ss : W32 := (z >>> 32).setWidth 32
       let legal := x.toNat % 16 = 0 ∧ y.toNat % 16 = 0 ∧ ds.toNat % 16 = 0 ∧ ss.toNat % 16 = 0 ∧
        rowsShare x y (rows.toNat + 1) (16 * (rlen.toNat + 1)) ds ss = false
       (legal →
        exec (.cpy2 p d a b c rows rlen) s = run (.cpy2 x y (rows.toNat + 1) (16 * (rlen.toNat + 1)) ds ss)) ∧
       (¬legal → exec (.cpy2 p d a b c rows rlen) s = param))) ∧
    (s.Runs p [.s b, .s c] → free →
      (z.toNat < 2 ^ 40 → exec (.cpycrcChk p d b c) s = run (.cpycrc 0 y z.toNat false)) ∧
      (2 ^ 40 ≤ z.toNat → exec (.cpycrcChk p d b c) s = param)) ∧
    (s.Runs p [] → free → exec (.ntdrain p d) s = run (.ntdrain s.co.ntNum)) ∧
    (s.Runs p [.s a, .s b] →
      let q : BitVec 4 := c.setWidth 4
      let legal := x.toNat % 16 = 0 ∧ y ≠ 0 ∧ y.toNat < 2 ^ 32
      (legal → (s.cx.stream q).held = false →
        exec (.cpyqIn p d c a b stride) s = bound q .cpyqIn (.cpyqIn q x y.toNat stride) ∧
        exec (.cpyqOut p d c a b stride) s = bound q .cpyqOut (.cpyqOut q x y.toNat stride)) ∧
      (¬legal → exec (.cpyqIn p d c a b stride) s = param ∧ exec (.cpyqOut p d c a b stride) s = param) ∧
      (legal → (s.cx.stream q).held = true →
        exec (.cpyqIn p d c a b stride) s = .next (s.stoppedBy 14 0 0) ∧
        exec (.cpyqOut p d c a b stride) s = .next (s.stoppedBy 14 0 0)))

/-- TWAIT blocks with cause 4 until its counter has reached the number and then delivers the counter; a number never issued
is ORDER_PARAM, code 15; TREAD reads the counter, the last number issued, the stopped command's number, the first unfinished
copy's offset and the last CRC, and TREAD.RETIRE lets the counter pass the stopped command (09 R233, R236, R246, R247).
That ORDER_PARAM stands even where an earlier command stopped is the model's choice, log entry 86; that an NTDRAIN's offset is
0 is its choice too, log entry 95. -/
def Obligations.TimelineReadsComplete : Prop :=
  ∀ (s : State) (p : Pred) (d a : BitVec 6) (tl : BitVec 3) (n : BitVec 20),
    let t := s.cx.tl (tlOf tl.toNat)
    let num : Word := n.setWidth 64
    (s.Runs p [.s a] → (s.cx.rs a).toNat ≤ t.issued.toNat → t.stopBefore (s.cx.rs a) = none →
      ((s.cx.rs a).toNat ≤ t.count.toNat → exec (.twait p d tl a) s = .next (s.clear.landS .seqret d t.count).done) ∧
      (t.count.toNat < (s.cx.rs a).toNat → exec (.twait p d tl a) s = .next (s.blockedBy 4))) ∧
    (s.Runs p [.s a] → t.issued.toNat < (s.cx.rs a).toNat → exec (.twait p d tl a) s = .next (s.stoppedBy 15 0 0)) ∧
    (s.Runs p [] → t.issued.toNat < num.toNat → exec (.twaitImm p d tl n) s = .next (s.stoppedBy 15 0 0)) ∧
    (s.Runs p [] → num.toNat ≤ t.issued.toNat → t.stopBefore num = none → num.toNat ≤ t.count.toNat →
      exec (.twaitImm p d tl n) s = .next (s.clear.landS .seqret d t.count).done) ∧
    (s.Runs p [] →
      exec (.treadCnt p d tl) s = .next (s.clear.landS .sysrd d t.count).done ∧
      exec (.treadIss p d tl) s = .next (s.clear.landS .sysrd d t.issued).done ∧
      exec (.treadStop p d tl) s = .next (s.clear.landS .sysrd d t.stopNum).done ∧
      (let u := s.clear.landS .sysrd d t.stopNum
       exec (.treadRetire p d tl) s = .next (u.setCx (u.cx.retire (tlOf tl.toNat))).done) ∧
      (∀ q, s.cx.cpy.cmds.find? (fun q => q.phase ≠ .done) = some q →
        exec (.treadProg p d) s = .next (s.clear.landS .sysrd d (BitVec.ofNat 64 (q.offset % 2 ^ 40))).done) ∧
      (s.cx.cpy.cmds.find? (fun q => q.phase ≠ .done) = none →
        exec (.treadProg p d) s = .next (s.clear.landS .sysrd d (BitVec.allOnes 64)).done) ∧
      exec (.treadCrc p d) s = .next (s.clear.landS .sysrd d s.cx.cpy.crc).done)

/-- REL closes the open segment and delivers its token, PHASE issues once the group's phase is over, an acquire of the own
log delivers what it has published, one of another member replays its log up to the token, with SHORT where every task of
the writer has left before publishing so much and blocked until then, and a token of an older phase asks for nothing; LOGSTAT
reads the log (08 R214-R217, R228-R231). A writer index that is no member's, a token of a later phase and a token with bit 63
are ORDER_PARAM, code 15 (08 R230). Replay follows log entry 68. -/
def Obligations.OrderingInstructionsComplete : Prop :=
  ∀ (s : State) (p : Pred) (d a b : BitVec 6), s.declares = true →
    let l := s.co.log
    let res (v : Word) : Result := .next (s.clear.landS .seqret d v).done
    (s.Runs p [] →
      (let u := s.clear.closeSegment s.cur.core
       exec (.rel p d) s = .next (u.landS .seqret d (token u.co.log.phase u.co.log.tail)).done) ∧
      (∀ t, s.cx.task = some t → t.released = true → exec (.phase p d) s =
        .next ((s.clear.setCx { s.cx with task := some { t with released := false } }).landS .seqret d (token t.phases 0)).done) ∧
      exec (.logstatPub p d) s = res (token l.phase l.published) ∧
      exec (.logstatTail p d) s = res (token l.phase l.tail) ∧
      exec (.logstatFree p d) s = res (BitVec.ofNat 64 (l.capacity - l.tail)) ∧
      exec (.logstatView p d) s = res (BitVec.ofNat 64 l.view.length) ∧
      exec (.logstatMembers p d) s = res (BitVec.ofNat 64 l.members.length) ∧
      exec (.logstatSelf p d) s = res (BitVec.ofNat 64 (s.selfIndex s.cur.core)) ∧
      exec (.logstatRbld p d) s = res (BitVec.ofNat 64 l.rebuilt)) ∧
    (s.Runs p [.s a] → (s.cx.rs a).toNat < l.members.length →
      let w := (s.cx.rs a).toNat
      exec (.logstatCursor p d a) s =
        res (token l.phase (if w = s.selfIndex s.cur.core then l.published else l.cursors.getD w 0)) ∧
      (w = s.selfIndex s.cur.core → exec (.acqCur p d a) s = res (token l.phase l.published)) ∧
      (w ≠ s.selfIndex s.cur.core → ∀ t u cur bad, s.clear.acqTarget w none = .ok (false, t) → s.clear.replayTo w t = (u, cur, bad) →
        t ≤ cur → exec (.acqCur p d a) s =
          .next ((u.landS .seqret d (token l.phase cur)).landFlag (if bad then ckiPOISON else 0)).done)) ∧
    (s.Runs p [.s a] → l.members.length ≤ (s.cx.rs a).toNat →
      exec (.logstatCursor p d a) s = .next (s.stoppedBy 15 0 0) ∧ exec (.acqCur p d a) s = .next (s.stoppedBy 15 0 0)) ∧
    (s.Runs p [.s a, .s b] →
      l.members.length ≤ (s.cx.rs a).toNat ∨ (s.cx.rs b).getLsbD 63 = true ∨ l.phase.toNat < tokenPhase (s.cx.rs b) →
      exec (.acq p d a b) s = .next (s.stoppedBy 15 0 0)) ∧
    (s.Runs p [.s a, .s b] → (s.cx.rs a).toNat < l.members.length → (s.cx.rs b).getLsbD 63 = false →
      tokenPhase (s.cx.rs b) ≤ l.phase.toNat →
      let w := (s.cx.rs a).toNat
      (w = s.selfIndex s.cur.core → exec (.acq p d a b) s = res (token l.phase l.published)) ∧
      (w ≠ s.selfIndex s.cur.core → tokenPhase (s.cx.rs b) < l.phase.toNat →
        exec (.acq p d a b) s = res (token l.phase (l.cursors.getD w 0))) ∧
      (w ≠ s.selfIndex s.cur.core → tokenPhase (s.cx.rs b) = l.phase.toNat →
        let tail := tokenTail (s.cx.rs b)
        let m := l.members.getD w 0
        let pub := s.memberPublished l.group m
        let answers (short : Bool) (t : Nat) := ∀ u cur bad, s.clear.replayTo w t = (u, cur, bad) → t ≤ cur →
          exec (.acq p d a b) s = .next ((u.landS .seqret d
            (token l.phase cur ||| if short then 0x8000000000000000 else 0)).landFlag (if bad then ckiPOISON else 0)).done
        (tail ≤ pub → answers false tail) ∧
        (pub < tail → s.writerGone l m = true → answers true pub) ∧
        (pub < tail → s.writerGone l m = false → exec (.acq p d a b) s = .next (s.blockedBy 6))))

/-! Atomics, ferries, sweeps, launches and saved contexts (09 R248-R250, 12 R338-R345, 13 R346-R367, 11 R294-R296,
15 R431-R433). -/

/-- ATOM with an aligned target and a writable PRIVATE record issues on atm with what it captures, a CAS with the record's
first word as its expectation (09 R248); the home of this node performs it in one step and holds the old value as its
reply (09 R249); the reply writes the record and completes it; without a reply a request beyond the package is sent again
to the same home seven times and then stops with cause 10 (09 R250); a code that the host's window does not take there stops
with cause 4 (18 R465). Far homes follow log entry 26. -/
def Obligations.AtomicsIssueAndComplete : Prop :=
  ∀ (s : State) (p : Pred) (d a b c : BitVec 6) (code : BitVec 4) (core : BitVec 9) (ctx : BitVec 2),
    let w := codeBytes code.toNat
    let n := core.toNat
    let cmds := (s.ctxAt n ctx).atm.cmds
    (s.Runs p [.s a, .s b, .s c] → slotBlock .atm s = none → (s.cx.rs a).toNat % w = 0 →
      ∀ l, s.atomRecord (s.cx.rs c) = .ok l →
        let r := sliceBase s.cur.core + l.off
        let cas := code = 11
        let expected : Word := if cas then BitVec.ofNat 64 (Mem.readLE s.mem r 8) else 0
        let cmd := Cmd.atom code.toNat (s.cx.rs a) (BitVec.ofNat 64 ((s.cx.rs b).toNat % 2 ^ (8 * w))) (BitVec.ofNat 64 r) expected
        exec (.atom p d a b c code) s = .next (((s.clear.issue .atm d cmd 0).takeReqId (s.nextSeq .atm)).landFlag
          (if cas ∧ s.badBytes r 8 = true then ckiPOISON else 0)).done) ∧
    (s.Runs p [.s a, .s b, .s c] → slotBlock .atm s = none → (s.cx.rs a).toNat % w ≠ 0 →
      exec (.atom p d a b c code) s = .next (s.stoppedBy 7 5 (s.cx.rs a))) ∧
    (∀ q u k x v r e, s.choose (s.atomTurn n ctx) = (some q, u) → q.cmd = .atom k x v r e →
      let z := u.actFor n ctx
      (q.stage ≠ 1 → ∀ y t, z.atomXlat n x (codeBytes k) = .ok y t →
        (homeOf y = 0 → hostAtom k = false →
          exec (.atomHome core ctx) s = .next (t.stopCmd n ctx .atm (q.take t) 4 x).rest) ∧
        (farHome (homeOf y) = false → ∀ old z, t.atomHere y k x v e = .ok old z →
          exec (.atomHome core ctx) s = .next (z.setCmd n ctx .atm { q.take z with
            phase := .reqSent, stage := 1, prog := homeOf y, reply := some (0, BitVec.ofNat 64 old) }).rest) ∧
        (farHome (homeOf y) = true → (homeOf y = 0 → hostAtom k = true) → ∀ z st old, t.atomFar n q (homeOf y) y.pa k v e = (z, st, old) →
          exec (.atomHome core ctx) s = .next (z.setCmd n ctx .atm { q.take z with
            phase := .reqSent, stage := 1, prog := homeOf y, faddr := BitVec.ofNat 64 y.pa, reply := some (st, old) }).rest)) ∧
      (q.stage = 1 → ∀ t st old, z.atomFar n q q.prog q.faddr.toNat k v e = (t, st, old) →
        exec (.atomHome core ctx) s = .next (t.setCmd n ctx .atm { q with reply := some (st, old) }).rest)) ∧
    (∀ q u k x v r e st old, s.choose (cmds.filter fun q => q.phase == .reqSent && q.reply.isSome) = (some q, u) →
      q.cmd = .atom k x v r e → q.reply = some (st, old) →
      let z := (u.actCmd n ctx q).writePart' ⟨r.toNat, false, none, 0⟩ (clean (leBytes (old.toNat + st * 2 ^ 64) 16))
      exec (.atomReply core ctx) s = .next (z.complete n ctx .atm (q.take z)).rest) ∧
    (∀ q u, s.choose (cmds.filter Pending.sentFar) = (some q, u) →
      ∀ k x v r e, q.cmd = .atom k x v r e →
      (q.sends < 7 → let p := { q with sends := q.sends + 1, reply := none }
        ∀ t st old, (u.actFor n ctx).atomFar n p q.prog q.faddr.toNat k v e = (t, st, old) →
          exec (.atomRetransmit core ctx) s = .next (t.setCmd n ctx .atm { p with reply := some (st, old) }).rest) ∧
      (7 ≤ q.sends → exec (.atomRetransmit core ctx) s = .next ((u.actCmd n ctx q).stopCmd n ctx .atm q 10 x).rest))

/-- FBUILD forms the staging buffer from a template of the task's image, the options and the cargo row, FSEND issues it on
fry with the identity fields of its issuer and no flag set, and CSLOT issues with its slot, its parameter and its record's
address; without a staging buffer or a template each of them traps with FERRY_PARAM, code 16. That FSEND clears ESC, VLH,
FBACK, CLONED, POISON and SYS is the model's choice, log entry 72. DWAIT blocks with cause 5 until a delivery queue has
received the count, and delivers it; DREAD reads the counts and the oldest entry's descriptor, FRECV delivers its cargo with
its lane sum and takes it, FRECV.PEEK leaves it; on an empty queue they trap with QUEUE_EMPTY, code 17 (12 R338-R344). -/
def Obligations.FerryInstructionsComplete : Prop :=
  ∀ (s : State) (p : Pred) (d a b c : BitVec 6) (opts : BitVec 5) (tpl : BitVec 8) (clen : BitVec 9) (code : BitVec 4)
    (dq : BitVec 3),
    let srcs := if clen = 0 then [] else [c]
    let x := s.cx.rs a
    let ok := clen.toNat ≤ 256 ∧ clen.toNat % 4 = 0 ∧ (opts.getLsbD 0 = true → s.domainNode (fld x.toNat 0 15) = true) ∧
      (opts.getLsbD 1 = true → s.domainNode (fld x.toNat 15 15) = true) ∧
      (opts.getLsbD 2 = true → s.ownsCoreHere (fld x.toNat 30 9) = true)
    (s.RunsRows p srcs [.s a, .s b] →
      let u := s.clear.popped srcs
      (ok → ∀ t, s.template tpl.toNat = some t → exec (.fbuild p a b c opts tpl clen) s = .next (u.setCx { u.cx with
        staging := some (buildFerry t opts x (s.cx.rs b) ((s.vals srcs).headD 0) clen.toNat) }).done) ∧
      (¬ok ∨ s.template tpl.toNat = none → exec (.fbuild p a b c opts tpl clen) s = .next (s.stoppedBy 16 0 0))) ∧
    (s.Runs p [] → slotBlock .fry s = none →
      (∀ f, s.cx.staging = some f →
        let lid := match s.cx.task with
          | some t => t.lid.toNat
          | none => 0
        let g := setHdr (setHdr (setHdr (setHdr (setHdr (setHdr (setHdr f 0 15 s.node.toNat) 48 12
          (s.tenantOfCore s.cur.core)) 64 8 0) 81 6 0) 128 32 (s.nextSeq .fry).toNat) 176 11 (s.cur.core * 4 + s.cur.ctx.toNat)) 192 16 lid
        exec (.fsend p d) s = .next (s.clear.issueFry d (.fsend g)).done) ∧
      (s.cx.staging = none → exec (.fsend p d) s = .next (s.stoppedBy 16 0 0))) ∧
    (s.Runs p [.s a, .s b, .s c] → slotBlock .fry s = none →
      (∀ t pa, s.template tpl.toNat = some t → s.recordAt (s.cx.rs b) 64 64 false false = .ok pa →
        let cmd (form code : Nat) := Cmd.cslot form code x (s.cx.rs c) tpl t pa
        exec (.cslotAlloc p d a b c code tpl) s = .next (s.clear.issueFry d (cmd 0 code.toNat)).done ∧
        exec (.cslotFree p d a b c tpl) s = .next (s.clear.issueFry d (cmd 1 0)).done ∧
        exec (.cslotRead p d a b c tpl) s = .next (s.clear.issueFry d (cmd 2 0)).done) ∧
      (s.template tpl.toNat = none → exec (.cslotAlloc p d a b c code tpl) s = .next (s.stoppedBy 16 0 0) ∧
        exec (.cslotFree p d a b c tpl) s = .next (s.stoppedBy 16 0 0) ∧
        exec (.cslotRead p d a b c tpl) s = .next (s.stoppedBy 16 0 0))) ∧
    let q := s.co.dq dq
    (s.Runs p [.s a] →
      ((s.cx.rs a).toNat ≤ q.count.toNat → exec (.dwait p d a dq) s = .next (s.clear.landS .seqret d q.count).done) ∧
      (q.count.toNat < (s.cx.rs a).toNat → exec (.dwait p d a dq) s = .next (s.blockedBy 5))) ∧
    (s.Runs p [] →
      exec (.dreadCnt p d dq) s = .next (s.clear.landS .sysrd d q.count).done ∧
      exec (.dreadCons p d dq) s = .next (s.clear.landS .sysrd d q.cons).done ∧
      (∀ x rest, q.items = x :: rest →
        let u := s.clear.landF .vld (.v (d.setWidth 5)) x.cargo (laneSum x.cargo) 0 0
        exec (.dreadDesc0 p d dq) s = .next (s.clear.landS .sysrd d x.desc0).done ∧
        exec (.dreadDesc1 p d dq) s = .next (s.clear.landS .sysrd d x.desc1).done ∧
        exec (.dreadNum p d dq) s = .next (s.clear.landS .sysrd d (q.cons + 1)).done ∧
        exec (.frecvPeek p d dq) s = .next u.done ∧
        exec (.frecv p d dq) s = .next (u.setCo (u.co.setDq dq { q with items := rest, cons := q.cons + 1 })).done) ∧
      (q.items = [] → exec (.frecv p d dq) s = .next (s.stoppedBy 17 0 0) ∧
        exec (.frecvPeek p d dq) s = .next (s.stoppedBy 17 0 0) ∧ exec (.dreadDesc0 p d dq) s = .next (s.stoppedBy 17 0 0) ∧
        exec (.dreadDesc1 p d dq) s = .next (s.stoppedBy 17 0 0) ∧ exec (.dreadNum p d dq) s = .next (s.stoppedBy 17 0 0)))

/-- Sweep commands with legal parameters and a record issue on swp, SWSUB with its stream bound to it; SWMERGE puts the
partial of its query's oldest page that has none into the domain's intake, and blocks with cause 10 where that holds 64
(13 R365, 01 R18); a parameter of SWOPEN or SWSUB out of its range, and a SWMERGE with no such page, trap with SWEEP_PARAM,
code 18 (13 R358, R363-R367). When an intake is applied is open, log entry 89. -/
def Obligations.SweepCommandsIssue : Prop :=
  ∀ (s : State) (p : Pred) (d a b c id : BitVec 6) (expect : BitVec 12) (q : BitVec 4),
    let x := s.cx.rs a
    let n := (s.cx.rs b).toNat
    let free := slotBlock .swp s = none
    (s.Runs p [.s a, .s b, .s c] → free →
      (∀ stat, s.recordAt (s.cx.rs c) 8 8 false true = .ok stat →
        (0 < n → n ≤ 0x100000 → expect.toNat ≤ 2048 → x.toNat % 8 = 0 → exec (.swopen p d a b c id expect) s =
          .next (s.clear.issueSwp d (.swopen x n stat id expect.toNat)).done) ∧
        (0 < n → n ≤ 4096 → x.toNat % 4 = 0 → (s.cx.stream q).held = false →
          let u := s.clear.setCx (s.cx.setStream q ((s.cx.stream q).bindTo ⟨.swsub, s.nextSeq .swp⟩))
          exec (.swsub p d a b c id q) s = .next (u.issueSwp d (.swsub q x n stat id)).done)) ∧
      (n = 0 ∨ 0x100000 < n ∨ 2048 < expect.toNat ∨ x.toNat % 8 ≠ 0 →
        exec (.swopen p d a b c id expect) s = .next (s.stoppedBy 18 0 0)) ∧
      (n = 0 ∨ 4096 < n ∨ x.toNat % 4 ≠ 0 → exec (.swsub p d a b c id q) s = .next (s.stoppedBy 18 0 0))) ∧
    (s.RunsRows p [a, b] [.s c] → let held := (s.intakeOf (homeDomain (s.cur.core * 4))).length
      (64 ≤ held → exec (.swmerge p d a b c id) s = .next (s.blockedBy 10)) ∧
      (held < 64 → (s.clear.popped [a, b]).mergeFor id = none →
        exec (.swmerge p d a b c id) s = .next (s.stoppedBy 18 0 0)) ∧
      (held < 64 → ∀ z k page, (s.clear.popped [a, b]).mergeFor id = some (z, k, page) →
        let w := s.cx.rs c
        let part : Partial := ⟨w.setWidth 32, (w >>> 32).setWidth 32, s.row b ++ s.row a⟩
        let v := s.clear.popped [a, b]
        let u := (v.issue .swp d (.swmerge page part id) 0).setSweep id.toNat (z.setQuery { k with supplied := k.supplied + 1 })
        let e := homeDomain k.ctxn
        let t := (u.setIntake e (u.intakeOf e ++ [⟨id.toNat, k.ctxn, k.task, page, v.nextSeq .swp, part⟩])).mergeSome e
        exec (.swmerge p d a b c id) s = .next (t.pumpSwp t.cur.core).done)) ∧
    (s.Runs p [.s a] → free → ∀ pa, s.recordAt x 528 16 true true = .ok pa →
      exec (.swread p d a id) s = .next (s.clear.issueSwp d (.swread pa id)).done) ∧
    (s.Runs p [.s c] → free → ∀ stat, s.recordAt (s.cx.rs c) 8 8 false true = .ok stat →
      exec (.swclose p d c id) s = .next (s.clear.issueSwp d (.swclose stat id)).done)

/-- LAUNCH accepts its record into its own partition as a child where entries are to be had, from the parent's reservation
or from the pool, delivers the launch id and sets p[C], or delivers 0 and clears it; MPOST.LAUNCH writes the record into the
next slot of a producer mailbox of the partition with its SEQ and CRC, MPOST.MSG posts a TYPE 2 record (11 R292-R296).
RSV and the moment of acceptance follow log entry 47. -/
def Obligations.LaunchesAndPostsComplete : Prop :=
  ∀ (s : State) (p : Pred) (d a b c : BitVec 6),
    (s.Runs p [.s a] → ∀ r u n pt t, s.clear.launchRecord (s.cx.rs a) = .ok (r, u) → u.partOfCore u.cur.core = some (n, pt) →
      u.cx.task = some t →
      let need := 1 + recRsv r
      (u.takeEntries n pt t.lid need = none → exec (.launch p d a c) s = .next (u.landBoth d c 0 false).done) ∧
      (∀ own, u.takeEntries n pt t.lid need = some own →
        let v := if own then u.modLaunch n t.lid fun l => { l with resUsed := l.resUsed + need } else u
        let mine := match v.launch n t.lid with
          | some l => l.image
          | none => 0
        exec (.launch p d a c) s = .next ((v.landBoth d c (v.nextLid n) true).acceptLaunch n r none none
          (if recImage r = 0 then mine else recImage r) (some t.lid) own true).done)) ∧
    (s.Runs p [.s a, .s b] → ∀ r u, s.clear.launchRecord (s.cx.rs b) = .ok (r, u) →
      (u.postBox (u.cx.rs a) = none → exec (.mpostLaunch p d a b c) s = .next (u.landStatus d c 2).done ∧
        exec (.mpostMsg p d a b c) s = .next (u.landStatus d c 2).done) ∧
      (∀ n x, u.postBox (u.cx.rs a) = some (n, x) →
        (x.prod = false → exec (.mpostLaunch p d a b c) s = .next (u.landStatus d c 2).done) ∧
        (x.prod = true → 64 ≤ x.posts → exec (.mpostLaunch p d a b c) s = .next (u.landStatus d c 1).done) ∧
        (x.prod = true → x.posts < 64 →
          let seq := x.nextl + BitVec.ofNat 32 x.posts
          let v := u.writePhys (x.base + 64 * (seq.toNat % 64)) (leBytes (withCrc (setFld r 0 32 seq.toNat)).toNat 64)
          let z := (v.setMbox n { v.mbox n with posts := x.posts + 1 }).landStatus d c 0
          exec (.mpostLaunch p d a b c) s = .next (z.examineSlot (BitVec.ofNat 12 n) 65).done) ∧
        (64 ≤ x.unread → exec (.mpostMsg p d a b c) s = .next (u.landStatus d c 1).done) ∧
        (x.unread < 64 → exec (.mpostMsg p d a b c) s =
          .next ((u.post (BitVec.ofNat 12 n) (BitVec.ofNat 512 (2 * 2 ^ 32 + rf r 64 432 * 2 ^ 64))).landStatus d c 0).done)))

/-- CTXSAVE writes the context's record of 32,768 bytes at a translated address, CTXSAVE.SR at its place in the save region
in service mode or in a stub; CTXRSTR and CTXRSTR.SR restore the groups that the record and the instruction name from a record
that begins with its signature; a place that does not translate for a write is XLATE_MISS, code 7, one of KIND LMS or DIRECT, a
region that the partition has not got and a record without the signature KIND_FAULT, code 8, and .SR outside service mode
traps with code 19 (15 R431-R433). Open results follow log entry 65. -/
def Obligations.SavedContextsComplete : Prop :=
  ∀ (s : State) (p : Pred) (a : BitVec 6) (groups : BitVec 10),
    (s.Runs p [.s a] → ∀ acc, s.access (s.cx.rs a) 32768 64 true = .ok acc → acc.loc.kind < 2 →
      exec (.ctxsave p a groups) s = .next (s.clear.saveNow groups (s.accessPa acc)).done ∧
      (Mem.readLE s.mem (s.accessPa acc) 4 = 0x00585443 →
        exec (.ctxrstr p a groups) s = .next (s.clear.restoreNow groups (s.accessPa acc)).done) ∧
      (Mem.readLE s.mem (s.accessPa acc) 4 ≠ 0x00585443 → exec (.ctxrstr p a groups) s = .next (s.stoppedBy 8 0 (s.cx.rs a)))) ∧
    (s.Runs p [.s a] → let va := s.cx.rs a
      (∀ c, s.xlate va.toNat 32768 64 true = .error c → exec (.ctxsave p a groups) s = .next (s.stoppedBy 7 c va) ∧
        exec (.ctxrstr p a groups) s = .next (s.stoppedBy 7 c va)) ∧
      (∀ acc, s.access va 32768 64 true = .ok acc → 2 ≤ acc.loc.kind →
        exec (.ctxsave p a groups) s = .next (s.stoppedBy 8 0 va) ∧
        exec (.ctxrstr p a groups) s = .next (s.stoppedBy 8 0 va))) ∧
    (s.Runs p [] → s.hasSaves s.cur.core = true →
      let pa := recordBase s.cur.core s.cur.ctx
      (s.cx.svc = true ∨ s.cx.drain = true →
        exec (.ctxsaveSr p groups) s = .next (s.clear.saveNow groups pa).done) ∧
      (s.cx.svc = true → Mem.readLE s.mem pa 4 = 0x00585443 →
        exec (.ctxrstrSr p groups) s = .next (s.clear.restoreNow groups pa).done) ∧
      (s.cx.svc = true → Mem.readLE s.mem pa 4 ≠ 0x00585443 →
        exec (.ctxrstrSr p groups) s = .next (s.stoppedBy 8 0 0))) ∧
    (s.Runs p [] → s.hasSaves s.cur.core = false →
      (s.cx.svc = true ∨ s.cx.drain = true → exec (.ctxsaveSr p groups) s = .next (s.stoppedBy 8 0 0)) ∧
      (s.cx.svc = true → exec (.ctxrstrSr p groups) s = .next (s.stoppedBy 8 0 0))) ∧
    (s.Runs p [] → s.cx.svc = false → exec (.ctxrstrSr p groups) s = .next (s.stoppedBy 19 0 0) ∧
      (s.cx.drain = false → exec (.ctxsaveSr p groups) s = .next (s.stoppedBy 19 0 0)))

/-! Landings (12 R299-R315). -/

/-- The ferry's stack holds four entries: a push onto fewer raises SP by one and a pop then takes the pushed value, leaving
the entries below it and SP as they were; a push onto four is OVER, code 2, and a pop of none UNDER, code 3 (12 R299). -/
def Obligations.LandingStackHoldsFour : Prop :=
  ∀ (f : Ferry) (x : W32),
    (ferrySp f < 4 → ∃ g h, pushW f x = .ok g ∧ ferrySp g = ferrySp f + 1 ∧ popW g = .ok (x, h) ∧ ferrySp h = ferrySp f ∧
      (∀ k, k < ferrySp f → ferryE g k = ferryE f k ∧ ferryE h k = ferryE f k) ∧ g.program = f.program ∧ g.cargo = f.cargo ∧
      ∀ k, k < 4 → ferryH g k = ferryH f k) ∧
    (4 ≤ ferrySp f → pushW f x = .error 2) ∧ (ferrySp f = 0 → popW f = .error 3)

/-- Stack and arithmetic operations (12 R305, R306): each takes its entries, writes its result and goes on to the next
position; where one of the entries it takes or the room it needs is missing, the ferry is moored as it stood before the
operation, with the fault's code (12 R304).
What is moored follows log entry 36. -/
def Obligations.LandingArithmeticCompletes : Prop :=
  ∀ (s : State) (l : Landing) (i : BitVec 10) (k2 : BitVec 2) (k3 : BitVec 3) (u : BitVec 1), s.router.landing = some l →
    let f := l.ferry
    let on (g : Ferry) : Result := .next (s.landed l g (l.pos + 1))
    let moored (e : Nat) : Result := .next ((s.landFault l e).pump).rest
    (∀ g, (pushW f (i.signExtend 32) = .ok g → exec (.pushi i) s = on g) ∧
      (pushW f (ferryH f k2.toNat) = .ok g → exec (.pushh k2) s = on g) ∧
      (k2.toNat < ferrySp f → pushW f (ferryE f (ferrySp f - 1 - k2.toNat)) = .ok g → exec (.dup k2) s = on g)) ∧
    (∀ e, (pushW f (i.signExtend 32) = .error e → exec (.pushi i) s = moored e) ∧
      (pushW f (ferryH f k2.toNat) = .error e → exec (.pushh k2) s = moored e)) ∧
    (ferrySp f ≤ k2.toNat → exec (.dup k2) s = moored 3) ∧
    (∀ x g, popW f = .ok (x, g) →
      exec (.poph k3) s = on (if k3 = 4 then g else setH g k3.toNat x) ∧
      (∀ h, pushW g (if x = 0 then 1 else 0) = .ok h → exec (.eq 1) s = on h)) ∧
    (let two : List Instr := [.swap, .ferryAdd, .ferrySub, .ferryAnd, .ferryOr, .ferryXor, .ferryMin u, .ferryMax u, .amax, .eq 0,
      .lt u]
     (∀ e, popW f = .error e → exec (.poph k3) s = moored e ∧ exec (.eq 1) s = moored e ∧ ∀ op ∈ two, exec op s = moored e) ∧
     (∀ e b f1, popW f = .ok (b, f1) → popW f1 = .error e → ∀ op ∈ two, exec op s = moored e)) ∧
    (∀ b f1 a f2, popW f = .ok (b, f1) → popW f1 = .ok (a, f2) →
      (∀ f3 g, pushW f2 b = .ok f3 → pushW f3 a = .ok g → exec .swap s = on g) ∧
      ∀ g,
        (pushW f2 (a + b) = .ok g → exec .ferryAdd s = on g) ∧
        (pushW f2 (a - b) = .ok g → exec .ferrySub s = on g) ∧
        (pushW f2 (a &&& b) = .ok g → exec .ferryAnd s = on g) ∧
        (pushW f2 (a ||| b) = .ok g → exec .ferryOr s = on g) ∧
        (pushW f2 (a ^^^ b) = .ok g → exec .ferryXor s = on g) ∧
        (pushW f2 (if a.toInt ≤ b.toInt then a else b) = .ok g → exec (.ferryMin 0) s = on g) ∧
        (pushW f2 (if a.toInt < b.toInt then b else a) = .ok g → exec (.ferryMax 0) s = on g) ∧
        (pushW f2 (BitVec.ofNat 32 (fMinMax fp32 false false a.toNat b.toNat)) = .ok g → exec (.ferryMin 1) s = on g) ∧
        (pushW f2 (BitVec.ofNat 32 (fMinMax fp32 false true a.toNat b.toNat)) = .ok g → exec (.ferryMax 1) s = on g) ∧
        (pushW f2 (BitVec.ofNat 32 (combine 7 a.toNat b.toNat)) = .ok g → exec .amax s = on g) ∧
        (pushW f2 (if a = b then 1 else 0) = .ok g → exec (.eq 0) s = on g) ∧
        (pushW f2 (if (if u = 1 then (a.toNat : Int) < b.toNat else a.toInt < b.toInt) then 1 else 0) = .ok g →
          exec (.lt u) s = on g))

/-- Branches and ends (12 R305, R311-R315): a forward branch to a position up to 15, taken or not, and ILLEGAL, code 1, to one
above it; KILL; CLONE below its three copies; GODST at the target goes on and elsewhere sends the ferry off on the escape
lanes; GO leaves by its port, on the adaptive lane, or by the escape lanes where the port is dead; DLVR delivers to a queue
of the ferry's tenant; PARK waits on an armed slot. A ferry at its budget is moored with code 5, its landing having ended
(12 R325); GO, CLONE, DLVR and PARK without their permission, and DLVR or PARK on a core or a slot of another tenant, are
PERM, code 4 (12 R331). Faults, missing partitions, parking and the spent budget follow log entries
36, 38, 39 and 73. -/
def Obligations.LandingBranchesAndEndsComplete : Prop :=
  ∀ (s : State) (l : Landing) (k : BitVec 4) (port : BitVec 3), s.router.landing = some l →
    let f := l.ferry
    let on (g : Ferry) (pos : Nat) : Result := .next (s.landed l g pos)
    let moored (e : Nat) : Result := .next ((s.landFault l e).pump).rest
    let ends (t : State) : Result := .next (t.landOver l)
    let t := l.pos + 1 + k.toNat
    (t ≤ 15 → exec (.jmp k) s = on f t ∧
      ∀ x g, popW f = .ok (x, g) → exec (.jz k) s = on g (if x = 0 then t else l.pos + 1)) ∧
    (15 < t → exec (.jmp k) s = moored 1 ∧ ∀ x g, popW f = .ok (x, g) → exec (.jz k) s = moored 1) ∧
    exec .kill s = ends s ∧
    (s.granted f 5 = true → l.clones.length < 3 → ∀ d g own copy, s.popCoord f = .ok (d, g) → pushW g 0 = .ok own →
      pushW g 1 = .ok copy → exec .clone s = .next (s.landed { l with
        clones := l.clones ++ [setHdr (setHdr copy 16 15 d.toNat) 83 2 2] } own (l.pos + 1))) ∧
    (s.granted f 5 = true → 3 ≤ l.clones.length → exec .clone s = moored 1) ∧
    (ferryTarget f = s.node → exec .godst s = on f (l.pos + 1)) ∧
    (ferryTarget f ≠ s.node → exec .godst s = ends (s.route f none l.pos)) ∧
    (ferryTarget f ≠ s.node → s.reaches (ferryTenant f) (ferryTarget f) = true →
      dimPort (s.extent (ferryTenant f)) s.node (ferryTarget f) ≠ none → ferryHops f = ferryBudget f →
        exec .godst s = ends (s.moor f 5 l.pos 0 0)) ∧
    (∀ q : Nat, (port ≠ 6 ∧ s.granted f 6 = true ∧ q = port.toNat) ∨ (port = 6 ∧ s.adaptivePort f = some q) →
      s.extent (ferryTenant f) (axisPort q) ≠ 1 →
        (s.deadPort q = false → ferryHops f ≠ ferryBudget f → exec (.go port) s = ends (s.enqueue q 2 f)) ∧
        (s.deadPort q = false → ferryHops f = ferryBudget f → exec (.go port) s = ends (s.moor f 5 l.pos 0 0)) ∧
        (s.deadPort q = true → exec (.go port) s =
          ends (if ferryTarget f = s.node then s.arrive f 6 none else s.route f none l.pos))) ∧
    (port ≠ 6 → s.granted f 6 = false → exec (.go port) s = moored 4) ∧
    (s.granted f 5 = false → exec .clone s = moored 4) ∧
    (s.granted f 4 = false → exec .dlvr s = moored 4) ∧
    (s.granted f 2 = false → exec .park s = moored 4) ∧
    (s.granted f 4 = true → ∀ x g, popW f = .ok (x, g) → 2 ^ 12 ≤ x.toNat → exec .dlvr s = moored 1) ∧
    (s.granted f 2 = true → ∀ x g e, popW f = .ok (x, g) → s.slotFor g x.toNat = .error e → exec .park s = moored e) ∧
    (∀ x y, x < 8192 → look s.router.slots x = some y → y.tenant.toNat ≠ ferryTenant f → s.slotFor f x = .error 4) ∧
    (s.granted f 4 = true → ∀ x g, popW f = .ok (x, g) → x.toNat < 2 ^ 12 →
      let v := (popOrZero g).1
      let h := (popOrZero g).2
      (s.ownsLandCore h (x.toNat % 512) = true →
        exec .dlvr s = ends (s.deliverFerry h (x.toNat % 512 * 8 + x.toNat / 512) v)) ∧
      (s.ownsLandCore h (x.toNat % 512) = false → exec .dlvr s = moored 4)) ∧
    (s.granted f 2 = true → ∀ x g y, popW f = .ok (x, g) → s.slotFor g x.toNat = .ok y →
      (y.st = 1 → exec .park s = ends (s.moor g 18 0 x.toNat 0)) ∧
      (y.st ≠ 1 → exec .park s = ends (s.arrive g 7 none)))

/-- Windows, counters, slots, coordinates and cargo (12 R307-R310, R315): a word of the tenant's window read, or changed and
its old value pushed; a counter read, or raised; a contribution to an armed slot; the node's and the ferry's coordinates,
its count and budget, a port's load, a cargo word. LDW, ADDW, CTR, CMB and LOADQ without their permission, LDW and ADDW
outside the window, in either form, and CMB on a slot of another tenant are PERM, code 4 (12 R331); CRD and CWR, which need no
permission, are ILLEGAL, code 1, beyond the cargo.
The order of the checks follows log entry 36. -/
def Obligations.LandingResourcesComplete : Prop :=
  ∀ (s : State) (l : Landing) (i9 : BitVec 9) (i5 : BitVec 5) (c k : BitVec 4) (m : BitVec 3) (k6 : BitVec 6) (b : BitVec 1),
    s.router.landing = some l →
    let f := l.ferry
    let on (t : State) (g : Ferry) : Result := .next (t.landed l g (l.pos + 1))
    let moored (e : Nat) : Result := .next ((s.landFault l e).pump).rest
    let key := ferryTenant f * 16 + k.toNat
    let ctr := (look s.router.ctrs key).getD 0
    (s.granted f 0 = true →
      (∀ w g, s.windowWord f i9.toNat = some w → pushW f (s.winGet w) = .ok g → exec (.ldwImm i9) s = on s g) ∧
      (s.windowWord f i9.toNat = none → exec (.ldwImm i9) s = moored 4) ∧
      (∀ x f1 w g, popW f = .ok (x, f1) → s.windowWord f1 x.toNat = some w → pushW f1 (s.winGet w) = .ok g →
        exec .ldw s = on s g) ∧
      (∀ x f1, popW f = .ok (x, f1) → s.windowWord f1 x.toNat = none → exec .ldw s = moored 4)) ∧
    (s.granted f 1 = false → exec (.addwImm i5 c) s = moored 4 ∧ exec (.addw c) s = moored 4) ∧
    (s.granted f 3 = false → exec (.ctr k) s = moored 4 ∧ exec (.ctrInc k) s = moored 4) ∧
    (s.granted f 2 = false → exec .cmb s = moored 4) ∧
    (s.granted f 6 = false → exec (.loadq m) s = moored 4) ∧
    (s.granted f 0 = false → exec (.ldwImm i9) s = moored 4 ∧ exec .ldw s = moored 4) ∧
    (s.granted f 1 = true → ∀ v f1, popW f = .ok (v, f1) →
      let put (w : Nat) := s.winSet w (BitVec.ofNat 32 (combine c.toNat (s.winGet w).toNat v.toNat))
      (∀ w g, s.windowWord f1 i5.toNat = some w → pushW f1 (s.winGet w) = .ok g → exec (.addwImm i5 c) s = on (put w) g) ∧
      (∀ x f2 w g, popW f1 = .ok (x, f2) → s.windowWord f2 x.toNat = some w → pushW f2 (s.winGet w) = .ok g →
        exec (.addw c) s = on (put w) g) ∧
      (s.windowWord f1 i5.toNat = none → exec (.addwImm i5 c) s = moored 4) ∧
      (∀ x f2, popW f1 = .ok (x, f2) → s.windowWord f2 x.toNat = none → exec (.addw c) s = moored 4)) ∧
    (s.granted f 2 = true → ∀ v f1 x f2 e, popW f = .ok (v, f1) → popW f1 = .ok (x, f2) → s.slotFor f2 x.toNat = .error e →
      exec .cmb s = moored e) ∧
    (s.granted f 3 = true → ∀ g, pushW f ctr = .ok g → exec (.ctr k) s = on s g ∧
      exec (.ctrInc k) s = on (s.setRouter { s.router with ctrs := put s.router.ctrs key (ctr + 1) }) g) ∧
    (s.granted f 2 = true → ∀ v f1 x f2 y, popW f = .ok (v, f1) → popW f1 = .ok (x, f2) → s.slotFor f2 x.toNat = .ok y →
      (y.st = 1 → ∀ z flag g, y.combine v = (z, flag) → push2 f2 flag z.value = .ok g →
        exec .cmb s = on (if z.st = 2 then (s.setSlot x.toNat z).slotLeft x.toNat else s.setSlot x.toNat z) g) ∧
      (y.st ≠ 1 → ∀ g, push2 f2 2 y.value = .ok g →
        exec .cmb s = on (s.setSlot x.toNat { y with flags := y.flags ||| 4, late := y.late + 1 }) g)) ∧
    (∀ g, (pushW f (s.node.setWidth 32) = .ok g → exec (.node 0) s = on s g) ∧
      (pushW f ((ferryDest f).setWidth 32) = .ok g → exec (.node 1) s = on s g) ∧
      (pushW f ((ferryOrig f).setWidth 32) = .ok g → exec (.node 2) s = on s g) ∧
      (pushW f ((ferryFall f).setWidth 32) = .ok g → exec (.node 3) s = on s g) ∧
      (pushW f (BitVec.ofNat 32 (if b = 1 then ferryBudget f else ferryHops f)) = .ok g → exec (.hops b) s = on s g) ∧
      (s.granted f 6 = true → pushW f (BitVec.ofNat 32 (s.loadq m.toNat)) = .ok g → exec (.loadq m) s = on s g) ∧
      (k6.toNat < ferryClen f / 4 → pushW f (cargoWord f k6.toNat) = .ok g → exec (.crd k6) s = on s g)) ∧
    (∀ x g, popW f = .ok (x, g) → k6.toNat < ferryClen f / 4 → exec (.cwr k6) s = on s (setCargoWord g k6.toNat x)) ∧
    (ferryClen f / 4 ≤ k6.toNat → exec (.crd k6) s = moored 1 ∧ exec (.cwr k6) s = moored 1) ∧
    (∀ x g, s.popCoord f = .ok (x, g) → exec (.node 4) s = on s (setHdr (setHdr g 16 15 x.toNat) 83 1 0) ∧
      exec (.node 5) s = on s (setHdr g 32 15 x.toNat))

/-! Events: writes from outside a bundle, steps of the core's own engines, of the router and of the links. -/

/-- Register writes that arrive as steps (07 R183, R201, 08 R211, 15 R411, 17 R453-R460): an accepted entry of the locked
table stands in its place and clears REJ, a refused one sets it; a legal log or sample control takes effect whole, any other
not at all; a tail above the head, an unknown selection and an invalidation of another node's scope are discarded.
LOGSZ, RSZ and the windows follow log entries 7, 8 and 67; that the pair of a cluster's control cores is core 512 + its number
is the model's choice, log entry 12. -/
def Obligations.RegisterWriteEventsComplete : Prop :=
  ∀ (s : State) (core : BitVec 9) (cluster part : BitVec 6) (ctx : BitVec 2) (k : BitVec 4) (v : BitVec 64),
    let n := core.toNat
    let c := s.core n
    let on (t : State) : Result := .next t.rest
    let logged (l : Log) : State := s.setCore n { c with log := l }
    (s.lttAccepts n c.ltti.toNat (v ++ c.lttaNew) = true → exec (.lttCommit core v) s =
      on (s.setCore n { c with ltt := vmod c.ltt c.ltti.toNat fun _ => v ++ c.lttaNew, lttRej := false })) ∧
    (s.lttAccepts n c.ltti.toNat (v ++ c.lttaNew) = false →
      exec (.lttCommit core v) s = on (s.setCore n { c with lttRej := true })) ∧
    (let sz := fld v.toNat 8 5
     let off := fld v.toNat 0 8 * 0x10000
     let view := fld v.toNat 16 5 * 0x80000
     let xs := fld v.toNat 32 9
     let legal := 16 ≤ sz ∧ sz ≤ 23 ∧ xs ≤ 256 ∧ v &&& 0x7FFFFE00FFE0E000 = 0 ∧ s.logRangeOk n off (2 ^ sz) = true ∧
       s.logRangeOk n view 0x80000 = true ∧
       (c.log.tail = 0 ∨ (off = c.log.logOff ∧ 2 ^ sz = c.log.logSize ∧ view = c.log.viewOff)) ∧
       (c.log.extHolds = false ∨ c.log.xsize ≤ xs * 0x100000) ∧ s.extOk n c.log.xbase (xs * 0x100000) = true
     (legal → exec (.logcWrite core v) s = on (logged { c.log with logc := v &&& 0x1FF001F1FFF, logRej := false })) ∧
     (¬legal → exec (.logcWrite core v) s = on (logged { c.log with logRej := true }))) ∧
    (let base := fld v.toNat 20 28 * 0x100000
     let legal := v &&& 0xFFFF0000000FFFFF = 0 ∧ (c.log.extHolds = false ∨ base = c.log.xbase) ∧ s.extOk n base c.log.xsize = true
     (legal → exec (.logxWrite core v) s = on (logged { c.log with logx := v &&& 0xFFFFFFF00000, logRej := false })) ∧
     (¬legal → exec (.logxWrite core v) s = on (logged { c.log with logRej := true }))) ∧
    (fld v.toNat 48 2 < 2 → exec (.tlbiWrite part v) s = 
      on { s.tlbiDone part.toNat with
        tlbi := put (s.tlbiDone part.toNat).tlbi part.toNat ((v &&& 0x3FFFFFFFF0000) ||| 0x8000000000000000) }) ∧
    (2 ≤ fld v.toNat 48 2 → exec (.tlbiWrite part v) s = on s) ∧
    (let int := fld v.toNat 1 5
     let rsz := fld v.toNat 8 4
     let base := fld v.toNat 12 12 * 4096
     let legal := 8 ≤ int ∧ int ≤ 20 ∧ 8 ≤ rsz ∧ rsz ≤ 16 ∧ base + 16 * 2 ^ rsz ≤ 0x1000000 ∧
       s.hitsReserved n base (16 * 2 ^ rsz) = false
     (legal → exec (.smpcWrite core v) s =
       on (s.setCore n { c with smpc := v.setWidth 24 &&& 0xFFFF3F, smph := 0, smpt := 0, smpd := 0 })) ∧
     (¬legal → exec (.smpcWrite core v) s = on s)) ∧
    (v ≤ c.smph → exec (.smptWrite core v) s = on (s.setCore n { c with smpt := v })) ∧
    (c.smph < v → exec (.smptWrite core v) s = on s) ∧
    exec (.tmrWrite core ctx v) s = on (s.setCtxAt n ctx { s.ctxAt n ctx with tmr := v, tpend := false }) ∧
    exec (.cspWrite cluster v) s =
      on (s.setCore (512 + cluster.toNat) { s.core (512 + cluster.toNat) with csp := v.setWidth 9 &&& 0x13F }) ∧
    (let w := s.counters part.toNat
     let same := (w.sel[k.toNat]?.getD 0) = v.setWidth 8
     let w' : Counters := { Counters.zero with sel := vmod w.sel k.toNat fun _ => v.setWidth 8, gen := w.gen }
     (v.toNat < 11 → ¬same → exec (.pcselWrite part k v) s = 
       on { s with pc := put s.pc part.toNat w', events := s.events.filter fun x => x.1 / 16 ≠ part.toNat }) ∧
     (11 ≤ v.toNat ∨ same → exec (.pcselWrite part k v) s = on s))

/-- What the host does at the node (07 R202, R204, 11 R277-R284, 18 R463-R465): a mailbox descriptor registers its number
afresh with empty channels, what was written or held for it before being void, or withdraws it; posted records are examined; a held completion record is written; CACK is
taken; an ownership entry that passes its checks stands; a line in a partition that is ACTIVE or HALTED is written and read,
another is logged and reads as poison; a byte of BAR0 that is no register is discarded, and a write of the management mailbox
or of a CACK is taken; a fault's reply resumes or stops its command, and is held while the cluster of its core is halted (16
R436). Withdrawn mailboxes, BAR0 and foreign lines follow log entries 47, 48 and 61. -/
def Obligations.HostEventsComplete : Prop :=
  ∀ (s : State) (num : BitVec 12) (desc : BitVec 256) (v : BitVec 32) (w : BitVec 64) (addr : BitVec 48) (data : BitVec 512)
    (off : BitVec 20) (part : BitVec 6) (idx : BitVec 8) (entry : BitVec 128),
    let on (t : State) : Result := .next t.rest
    let n := num.toNat
    let old := s.mbox n
    let st := Part.state (s.part (fld desc.toNat 128 6))
    let line := addr.toNat / 64 * 64
    (descOk desc = true → desc.getLsbD 0 = true → (st = 1 ∨ st = 2) → (old.v = true → old.part = fld desc.toNat 128 6) →
      exec (.mailboxRegister num desc) s =
        on ((s.voidRecords num).setMbox n
          ⟨desc, 0, 0xFFFFFFFF, 0xFFFFFFFF, 0, 0, 0, old.rgen + 1, s.device.gen, 0, 0xFFFFFFFFFFFFFFFF⟩)) ∧
    (descOk desc = true → desc.getLsbD 0 = false → exec (.mailboxRegister num desc) s = on (s.setMbox n { old with desc := desc })) ∧
    (descOk desc = false → exec (.mailboxRegister num desc) s = on s) ∧
    exec (.launchAccept num) s = on (s.examineSlot num 65) ∧
    exec (.completionWrite num) s = on (s.writeCompletion num).pump ∧
    ((look s.mboxes n).isSome = true → exec (.cackWrite num v) s = on (s.setMbox n { old with cack := v })) ∧
    (ownZerosOk entry = true → (ownValid entry = true → ownRangeOk entry = true ∧
      s.ownClash part.toNat idx.toNat entry = false) → exec (.ownershipTableWrite part idx entry) s =
        on { s with owners := put s.owners (part.toNat * 256 + idx.toNat) entry }) ∧
    (ownZerosOk entry = false → exec (.ownershipTableWrite part idx entry) s = on s) ∧
    (s.hdmOpen line = true →
      exec (.cxlMemWrite addr data w) s = on (s.actAlone.writeRuns line (runsFrom w data 0 none 64)) ∧
      exec (.cxlMemRead addr) s = on { s with out := s.out ++ [.cxl (Mem.bytes s.mem line 64) (s.badBytes line 64)] }) ∧
    (s.hdmOpen line = false →
      exec (.cxlMemWrite addr data w) s = on (s.logHdm line) ∧
      exec (.cxlMemRead addr) s = on { s.logHdm line with
        out := (s.logHdm line).out ++ [.cxl (List.replicate 64 0) true] }) ∧
    (let b (k : Nat) : Byte := (leBytes w.toNat 8).getD k 0
     let at' (k : Nat) := off.toNat + k
     ((∀ k, k < 8 → ¬(0x1000 ≤ at' k ∧ at' k < 0x41000 ∧ 8 ≤ at' k % 64 ∧ at' k % 64 < 12) ∧
         ¬(0x41000 ≤ at' k ∧ at' k < 0x41004) ∧ ¬(0x41008 ≤ at' k ∧ at' k < 0x43000)) →
       exec (.bar0WriteDiscarded off w) s = on s) ∧
     (off = 0x41000 → s.device.go = true → exec (.bar0WriteDiscarded off w) s = on s) ∧
     (0x41008 ≤ off.toNat → off.toNat + 8 ≤ 0x43000 → exec (.bar0WriteDiscarded off w) s = on (s.setDevice { s.device with
       mail := (List.range 8).foldl (fun l k => putAt l (at' k - 0x41008) (b k)) s.device.mail })) ∧
     (∀ m, m < 4096 → off.toNat = 0x1008 + 64 * m → (look s.mboxes m).isSome = true →
       ∃ t, exec (.bar0WriteDiscarded off w) s = on t ∧ t.mbox m = { s.mbox m with cack := w.setWidth 32 } ∧ t.mem = s.mem)) ∧
    (∀ core ctx tl p x, s.findFault (w.setWidth 32) = some (core, ctx, tl, p, x) →
      let c := s.ctxAt core ctx
      let failed (cause : Nat) : State :=
        (s.setCtxAt core ctx (c.failCmd tl p x cause).1).flagCtx core ctx (c.failCmd tl p x cause).2
      (s.device.halts.contains (core / 8) = true → exec (.faultReply w) s =
        on (s.setDevice { s.device with held := s.device.held ++ [w] })) ∧
      (s.device.halts.contains (core / 8) = false → w.getLsbD 32 = true → exec (.faultReply w) s =
        on (((s.setCtxAt core ctx (c.resolveCmd tl p x)).flagCtx core ctx 0).dropFor core x.addr.toNat)) ∧
      (s.device.halts.contains (core / 8) = false → w.getLsbD 32 = false → exec (.faultReply w) s = on (failed x.cause)) ∧
      exec (.faultReplyTimeout w) s = on (failed 8))

/-- What happens to a context of itself (01 R19, 10 R256, R272, R275, 15 R411, R418-R422, 17 R456, R461): at 65,536 bundles the
next ready context is let in, and with none ready and none that could become so the count starts again; an overdue result comes to exist; a passed deadline is the trap TIMER, code 49, of a blocked context and
pends in a running one; a full log or store queue that blocks a context traps with code 21 or 22, or saves a stub whole; a
pre-emption diverts a
context to its stub or saves it whole; a group whose contexts are all saved leaves its core, and a saved context comes back
to its free place, or where it stands if it was saved alone; a drained EXIT ends the task; a FENCE.I delivers its verdict; a context whose fetch finds no bundle
traps; a core stops at once or at a count of its cycles, ends its fences, is dumped and issues nothing until it resumes with
the records put back. Overdue results, records, the stop and its dumps (log entry 59) and the moment of a FENCE.I's verdict (69) are the model's
choices, with log entries 13, 20, 65 and 87. -/
def Obligations.ContextEventsComplete : Prop :=
  ∀ (s : State) (core : BitVec 9) (ctx : BitVec 2) (part : BitVec 6) (lid at' : BitVec 64) (grp : BitVec 32)
    (recs : List (BitVec 2 × List Byte)),
    let n := core.toNat
    let k := s.core n
    let c := s.ctxAt n ctx
    let on (t : State) : Result := .next t.rest
    let h := k.ctxs.get k.holder.toFin
    (h.resid.toNat < 65536 → exec (.residencyLimit core) s = on s) ∧
    (65536 ≤ h.resid.toNat →
      (k.nextReady = none → k.ctxs.toList.any (fun c => c.st == .blocked && !c.exiting) = true →
        exec (.residencyLimit core) s = on s) ∧
      (k.nextReady = none → k.ctxs.toList.any (fun c => c.st == .blocked && !c.exiting) = false →
        exec (.residencyLimit core) s = on (s.setCtxAt n k.holder { h with resid := 0 })) ∧
      (k.nextReady ≠ none → exec (.residencyLimit core) s =
        on (s.setCtxAt n k.holder { h with resid := 0, st := if h.st = .issuing then .ready else h.st }))) ∧
    (∀ e, k.awaited ctx c = some e → exec (.overdueResult core ctx) s = on (s.setCtxAt n ctx (c.gets e))) ∧
    (c.tmr ≠ 0 → c.tmr.toNat ≤ s.time.toNat → c.svc = false → c.drain = false → c.exiting = false →
      (c.st = .blocked → exec (.timerExpire core ctx) s = on (s.takeTrap n ctx ⟨49, 0, 7, 0, 0, 0, 0⟩)) ∧
      (c.st = .issuing ∨ c.st = .ready → exec (.timerExpire core ctx) s = on (s.setCtxAt n ctx { c with tpend := true }))) ∧
    (c.st = .blocked → (c.bcause = 8 ∨ c.bcause = 9) → c.mustAbandon = true → c.settled = true →
      exec (.logFull core ctx) s = on (s.saveFull n ctx)) ∧
    (c.st = .blocked → c.mustAbandon = false → (c.bcause = 8 → exec (.logFull core ctx) s = on (s.takeTrap n ctx ⟨21, 0, c.bslot, 0, 0, 0, 0⟩)) ∧
      (c.bcause = 9 → exec (.logFull core ctx) s = on (s.takeTrap n ctx ⟨22, 0, c.bslot, 0, 0, 0, 0⟩))) ∧
    (∀ x, c.preAction = .divert x → c.settled = true → exec (.preemptDivert core ctx) s = on (s.setCtxAt n ctx (c.divert x))) ∧
    (c.preAction = .save → c.settled = true → c.saved = false → exec (.fullSave core ctx) s = on (s.saveFull n ctx)) ∧
    (c.mustAbandon = true → c.settled = true → exec (.stubAbandon core ctx) s = on (s.saveFull n ctx)) ∧
    (s.groupOn n part.toNat lid grp ≠ [] →
      (∀ i ∈ s.groupOn n part.toNat lid grp, (s.ctxAt n i).st = .halted ∧ (s.ctxAt n i).saved = true) →
      exec (.groupSave core part lid grp) s = on (s.parkGroup n (s.groupOn n part.toNat lid grp))) ∧
    (s.savedAlone n ctx = true → exec (.contextRestore core ctx) s =
      on ((s.setCtxAt n ctx (s.restoreFrom (recordBase n ctx) (latchBase n ctx) c)).nudge (n * 4 + ctx.toNat))) ∧
    (s.savedAlone n ctx = false → c.st = .free → ∀ x rest, takeFirst (fun (x : Parked) => x.num == n * 4 + ctx.toNat && x.ready) s.parked = some (x, rest) →
      let t := match x.ctx.task with
        | some y => s.loadShared n ctx x.grant y
        | none => s
      let c' := t.restoreFrom (recordBase n ctx) (latchBase n ctx) x.ctx
      let u := (({ t with parked := rest }).setCtxAt n ctx c').nudge x.num
      exec (.contextRestore core ctx) s = on (u.setCore n { u.core n with ltt := x.ltt.foldl addLtt (u.core n).ltt })) ∧
    (∀ t, c.task = some t → c.exiting = true →
      let u := s.cancelQueries (n * 4 + ctx.toNat) t
      exec (.exitDrainEnd core ctx) s = on (if (u.ctxAt n ctx).drainedAll = true then u.endCtx n ctx else u)) ∧
    (∀ f rest, k.fences = f :: rest →
      let r := if f.hit = true then some (0, 0, 0) else s.judgeBank n f.ctx f.bank
      let t := s.setCore n { k with
        fences := rest
        fis := fisAfter k.fis f.bank.toNat r.isSome (r.getD (0, 0, 0)).2.2 (r.getD (0, 0, 0)).1 (r.getD (0, 0, 0)).2.1 }
      exec (.fenceIDone core) s = on (t.setCtxAt n f.ctx ((t.ctxAt n f.ctx).fenceLands f r.isNone))) ∧
    (let u := (s.preemptAll n allCtxs).limitResidency n
     k.stopped = false → ∀ i rest code t, (u.core n).considered = i :: rest →
      let w := (u.landDue n i).takeIssue n i
      (w.ctxAt n i).efaults = [] → w.fetchBundle n (w.ctxAt n i) = .error code →
      w.trapAttempt n i (w.takeTrap n i ⟨code, 0, 7, 0, 0, 0, 0⟩) = .trapped t →
      let d := t.ctxAt n i
      exec (.fetchTrap core) s = on (t.setCtxAt n i { d with st := if d.st = .ready then .issuing else d.st })) ∧
    (s.debugOpen = true →
      (let t := ((s.setCore n { k with stopped := true, stopAt := none }).endFences n k.fences.length).dumpAll n allCtxs
       k.stopped = false → exec (.scstop ⟨core, none⟩) s = on t ∧ (at' ≤ k.ccyc → exec (.scstop ⟨core, some at'⟩) s = on t) ∧
        (k.ccyc < at' → exec (.scstop ⟨core, some at'⟩) s = on (s.setCore n { k with stopAt := some at' }))) ∧
      (k.stopped = true → let t := s.reinjectAll n recs
        exec (.scresume ⟨core, recs⟩) s = on (t.setCore n { t.core n with stopped := false }))) ∧
    (s.debugOpen = false → exec (.scstop ⟨core, some at'⟩) s = on s ∧ exec (.scstop ⟨core, none⟩) s = on s ∧
      exec (.scresume ⟨core, recs⟩) s = on s)

/-- Steps of the core's engines (05 R137-R143, 06 R158-R180, 08 R213-R217, R225, 09 R238, 13 R353-R355): a copy or a store handed over is
performed and what it allowed is published; a segment publishes; a phase ends at every core of its group at once, unless a
pair of control cores is halted or finds a mismatch; a row of a multiply, of MLOAD or of MSTORE commits, MLOAD's in the tile
and MSTORE's in memory; a matrix command ends: MLOAD and MSTORE with every row committed, MZERO with its tiles zero, SEAL with
the records of its tiles, SCHECK and SFIX with the report of what they found, SQUERY with the image of a record; an assist
runs where the lockstep pair agrees; a stack's engine takes the next page of one of its passes, and a catch-up pass begins
over the pages owed. Copies in one or more steps (log entry 23), the rows of a write in several (`putRow`, `someRows`, log
entry 24), the moment of a hand-over (25), the lockstep choice (30), the moments of a sweep's engine (45) and of what a merge
buffer takes (89) are the model's choices. -/
def Obligations.EngineEventsComplete : Prop :=
  ∀ (s : State) (core : BitVec 9) (ctx : BitVec 2) (part cluster : BitVec 6) (lid : BitVec 64) (grp : BitVec 32) (dom : BitVec 3),
    let n := core.toNat
    let on (t : State) : Result := .next t.rest
    (∀ p t, s.choose (s.copyTurn n ctx) = (some p, t) →
      exec (.copyComplete core ctx) s = on (((t.actCmd n ctx p).runCpy n ctx p).publish n)) ∧
    (∀ x t ws r, s.choose (ntReady [] (s.core n).nt) = (some x, t) → t.ntRow x = (ws, r) →
      let u := (r.actFor n x.ctx).ntWords n ws
      let left := x.words.filter fun w => !ws.contains w
      let queue := if left = [] then (u.core n).nt.filter (fun y => y.num ≠ x.num)
        else (u.core n).nt.map (fun y => if y.num = x.num then { y with words := left } else y)
      let v := u.setCore n { u.core n with nt := queue }
      let w := (v.flagCtx n x.ctx v.raised).drainAll n [0, 1, 2, 3]
      exec (.ntStorePerform core) s = on (w.publish n)) ∧
    (let u := s.publish n
     exec (.segmentPublish core) s = on (u.growRemote n (u.core n).log.members)) ∧
    (let ts := s.groupCtxs part.toNat lid grp
     let cores := s.groupCores part.toNat (lid, grp)
     ts ≠ [] → (∀ x ∈ ts, (s.ctxAt x.1 x.2.1).atPhase = true) → s.awayFrom part.toNat lid grp = false →
     s.phaseAsked ts cores = true →
      (s.barrierHeld cores = true → exec (.phaseComplete part lid grp) s = on s) ∧
      (∀ q t, s.barrierHeld cores = false → s.barrierSplits (cores.map (· / 8)).eraseDups = (some q, t) →
        exec (.phaseComplete part lid grp) s = on (t.lockstepHalt q)) ∧
      ∀ t, s.barrierHeld cores = false → s.barrierSplits (cores.map (· / 8)).eraseDups = (none, t) →
      let u := t.eachCore State.closeOnce cores
      (∀ m ∈ cores, (u.core m).log.closed = []) → ∀ m rest, cores = m :: rest →
      let members := (u.core m).log.members
      let logs := members.map (u.memberEntries (some (lid, grp)))
      let posted := (members.zip logs).flatMap fun x => x.2.mapIdx fun j e => (x.1, j, e)
      let w := (u.foldCores posted cores).eachCore (fun s n => s.setCore n { s.core n with log := (s.core n).log.nextPhase }) cores
      exec (.phaseComplete part lid grp) s = on (({ w with
        remote := w.remote.filter fun x => !members.contains x.1 }).releaseAll (anyRace logs) ts)) ∧
    (∀ i p, (s.core n).serving = some (i, p) →
      (p.rowLeft = true → exec (.mmaRowCommit core) s = on (s.rowStep n i p)) ∧
      let row (t : State) (x : Pending) : Result := on ((t.setCmd n i .mtx x).noteNext n i x)
      (∀ tile a st ty nr nc s0 xs t, p.rowLeft = true → p.cmd = .mload tile a st ty nr nc s0 →
        (s.actCmd n i p).operandRow n (rowAddr a st p.prog) ty nc = .ok xs t →
        let w := t.mendTile n tile.toNat
        let new := ofLanes fun j => loadContainer ty (xs.getD j 0)
        let nan := isFloatT ty && (List.range nc).any fun j => fp32.read (lane new j).toNat == .nan
        let put (x : Tile) : Tile := x.setRow p.prog new fun j => decide (j < nc)
        exec (.mmaRowCommit core) s = row (w.setCore n { w.core n with tiles := vmod (w.core n).tiles tile.toNat put })
          { p with prog := p.prog + 1, cki := p.cki ||| w.raised ||| (if nan then ckiCNAN else 0) }) ∧
      (∀ tile a st ty tt nr nc s0 m6 ks l t v left, p.rowLeft = true → p.cmd = .mstore tile a st ty tt nr nc s0 m6 ks →
        p.ahead = [] →
        let w := (s.actCmd n i p).mendTile n tile.toNat
        let x := (w.core n).tiles[tile.toNat]?.getD Tile.zero
        let outs := (List.range nc).map fun j => (convertScaled tt ty p.fmt (lane (x.rows[p.prog]?.getD 0) j).toNat
          (scaleOf ks (m6.getLsbD 51) (fld m6.toNat 48 3) p.prog).toNat).1
        let bytes := outs.flatMap fun y => leBytes y (typeWidth ty / 8)
        let nan := isFloatT ty && outs.any fun y => (fmtOf ty).read y == .nan
        (w.tasteSums (x.badTo p.prog nc)).piecesFrom n (rowAddr a st p.prog) (bytes.length + 1) (clean bytes) = .ok l t →
        (if l.length ≤ 1 then (t.putPieces l, []) else t.putRow l) = (v, left) →
        exec (.mmaRowCommit core) s = row v { p with
          parts := [], ahead := left, cki := p.cki ||| v.raised ||| (if nan then ckiCNAN else 0)
          prog := if left = [] then p.prog + 1 else p.prog }) ∧
      let u := (s.actFor n i).allRows n i p.seq 65
      ∀ q, u.cmd n i .mtx p.seq = some q → q.phase = .waiting → q.rowLeft = false →
        let v := u.actCmd n i q
        (∀ tile a st ty nr nc s0, q.cmd = .mload tile a st ty nr nc s0 →
          exec (.matrixComplete core) s = on (v.complete n i .mtx q)) ∧
        (∀ tile a st ty tt nr nc s0 m6 ks, q.cmd = .mstore tile a st ty tt nr nc s0 m6 ks →
          exec (.matrixComplete core) s = on (v.complete n i .mtx q)) ∧
        (∀ t, q.cmd = .sealAcc t →
          let x := (v.core n).tiles.get t.toFin
          let summed (x : Tile) : Tile := { Tile.ofRows x.rows with bad := x.bad, good := x.good }
          let w := (v.setCore n { v.core n with tiles := vmod (v.core n).tiles t.toNat summed }).tasteSums (x.bad != [])
          exec (.matrixComplete core) s = on (w.complete n i .mtx (q.take w))) ∧
        (∀ t r fix f w, q.cmd = .scheckAcc t r fix → q.stage ≠ 1 → v.examineAcc n t fix = (f, w) →
          exec (.matrixComplete core) s =
            on (w.report n i { q with tally := q.tally.add f t.toNat, cki := q.cki ||| fixFlags fix w.raised })) ∧
        (∀ t image, q.cmd = .squeryAcc t image → exec (.matrixComplete core) s =
          on (v.query n i q (Tile.record ((v.core n).tiles.get t.toFin)) t.toNat image)) ∧
        (∀ a image t w, q.cmd = .squery a image → v.tileOf n a = .ok t w →
          exec (.matrixComplete core) s = on (w.query n i q (w.latOf t) a.toNat image)) ∧
        (∀ y w z, (∃ a c, q.cmd = .seal a c) ∨ (∃ a c r fix, q.cmd = .scheck a c r fix) → q.stage ≠ 1 → q.failed = none →
          v.walkFrom n q (walkLength q.cmd + 1) = (.ok y w, z) → exec (.matrixComplete core) s = on (w.report n i y)) ∧
        (∀ ta tb r ks, q.cmd = .mma ta tb r ks → exec (.matrixComplete core) s = on (v.endMma n i q ta tb r ks)) ∧
        (∀ m, q.cmd = .mzero m → exec (.matrixComplete core) s = on ((v.setCore n { v.core n with
          tiles := (v.core n).tiles.mapIdx fun t x => if m.getLsbD t then Tile.zero else x }).complete n i .mtx q))) ∧
    (∀ (v : State) (i : BitVec 2) (q : Pending),
      (∀ a c, q.cmd = .seal a c → ∀ t w, v.tileOf n (tileVa a q.prog) = .ok t w → v.walkTile n q =
        .ok { q with prog := q.prog + 1, cki := q.cki ||| (w.sealTile t).raised } (w.sealTile t)) ∧
      (∀ t, v.badCells t = [] → v.sealTile t = v.setLat t ⟨ofLanes fun i => sumFrom (v.cell t i) 0 64,
        ofLanes fun j => sumFrom (fun i => v.cell t i j) 0 64, false, []⟩) ∧
      (∀ a c r fix, q.cmd = .scheck a c r fix → ∀ t w f x, v.tileOf n (tileVa a q.prog) = .ok t w → w.examine t = (f, x) →
        let y := if fix then x else w
        v.walkTile n q = .ok { q with
          prog := q.prog + 1, tally := q.tally.add f (tileVa a q.prog).toNat, cki := q.cki ||| fixFlags fix y.raised } y) ∧
      (∀ k, q.prog < walkLength q.cmd → ∀ y w, v.walkTile n q = .ok y w → v.walkFrom n q (k + 1) = w.walkFrom n y k) ∧
      (∀ k, walkLength q.cmd ≤ q.prog → v.walkFrom n q (k + 1) = (.ok q v, q)) ∧
      (q.failed = none → (resultAt q.cmd = none → v.report n i q = v.complete n i .mtx q) ∧
        ∀ r x w, resultAt q.cmd = some r → v.engPut n q.parts r (clean q.tally.bytes) = .ok x w →
          v.report n i q = w.complete n i .mtx q) ∧
      (∀ r a image w x z, v.someRows n image (clean (queryImage r a)) = (none, w) →
        w.engPut n q.parts image (clean (queryImage r a)) = .ok x z → v.query n i q r a image = z.complete n i .mtx q)) ∧
    (∀ i p t, (s.core n).matrixCmds.find? (fun x => x.2.phase == .assist) = some (i, p) → s.device.halts.contains (n / 8) = false →
      (s.disagrees (n / 8) = (true, t) → exec (.subnormalAssist core) s = on (t.lockstepHalt (n / 8))) ∧
      (s.disagrees (n / 8) = (false, t) → ∀ ta tb r ks, p.cmd = .mma ta tb r ks →
        ∀ y w, (t.actCmd n i p).assistFrom n p ta tb (mmaPar r) p.marks = .ok y w →
          exec (.subnormalAssist core) s = on (w.setCmd n i .mtx { p with
            marks := [], phase := .waiting, cki := p.cki ||| ckiSUBNA ||| y ||| w.raised }))) ∧
    (s.device.halts.contains cluster.toNat = true →
      let u := s.setDevice { s.device with halts := s.device.halts.filter (· ≠ cluster.toNat), held := [] }
      let reset := u.cores.filter fun x => x.1 ≠ 512 + cluster.toNat ∧ x.1 ≠ 576 + cluster.toNat
      exec (.lockstepSelftest cluster true) s =
        on (({ u with cores := reset }.wakeCores (clusterCores cluster.toNat)).handleHeld s.device.held) ∧
      exec (.lockstepSelftest cluster false) s = on ((u.retireCluster cluster.toNat).handleHeld s.device.held)) ∧
    (let d := dom.toNat
     let u := s.mergeAll.deliverAll d
     let v := s.mergeAll
     (8 ≤ (u.bufs.filter fun b => b.dom = d).length → exec (.sweepPageOffer dom) s = on u.pumpSweeps) ∧
     ((u.bufs.filter fun b => b.dom = d).length < 8 → ∀ j t, u.choose (u.engineJobs d) = (some j, t) →
       exec (.sweepPageOffer dom) s = on ((t.engineStep d j).deliverSome d).pumpSweeps) ∧
     (∀ id x t, v.choose (v.sweeps.filter fun x => x.2.st != .opened && x.2.mainDone d && (x.2.engine d).walk.isNone &&
         !(x.2.engine d).idle && (x.2.nextPage d 0 true).isSome) = (some (id, x), t) →
       exec (.sweepCatchupPass dom) s = on ((t.setSweep id (x.modEngine d fun e =>
         { e with walk := some 0, hit := false })).deliverAll d).pumpSweeps))

/-- Scheduling (11 R285-R291): a decision of an ACTIVE partition, the charge of energy to a launch that counts it, once
a microsecond, the promotion of one that has waited 10 ms, behind its microsecond's charge, a torus member's report, which brings its counts, or its silence.
The order of decisions follows log entries 49 to 51. -/
def Obligations.SchedulingEventsComplete : Prop :=
  ∀ (s : State) (part : BitVec 6) (lid : BitVec 64) (uj : BitVec 32) (node : BitVec 15)
    (report : MemberReport),
    let n := part.toNat
    let on (t : State) : Result := .next t.rest
    (Part.state (s.part n) = 1 → (∀ r ∈ s.device.running, r.part ≠ n) → exec (.scheduleDecision part) s = on (s.decideOne n)) ∧
    exec (.energyCharge part lid uj) s = on (s.modLaunch n lid fun l =>
      if l.metered = true ∧ l.tick ≠ s.tickNow then { l.charged s.time uj.toNat with tick := s.tickNow } else l) ∧
    exec (.agingPromote part lid) s = on (s.modLaunch n lid fun l =>
      if l.waiting = true ∧ 0 < l.cls ∧ 10000000 ≤ l.waitedAt s.time ∧ (l.metered = true → l.tick = s.tickNow) then
        l.setClass s.time (l.cls - 1) else l) ∧
    (∀ l, s.launch n lid = some l →
      (l.members.contains node = true →
        (let merged (l : Launch) : Launch := { l with
          members := l.members.filter (· ≠ node), nexit := l.nexit + report.nexit.toNat, ntrap := l.ntrap + report.ntrap.toNat
          cki := l.cki ||| report.cki, status := max l.status report.status.toNat, used := l.used + report.used.toNat }
         report.accepted = true →
          exec (.torusMemberReport part lid node report) s = on ((s.modLaunch n lid merged).tryFinish n lid)) ∧
        (report.accepted = false → exec (.torusMemberReport part lid node report) s = on (s.torusFail n lid))) ∧
      (l.members ≠ [] → exec (.torusMemberTimeout part lid) s = on (s.torusFail n lid)))

/-- The router (12 R302, R303, R317-R332): a ferry received enters unless the mooring is full and it is on no escape lane; the
landing processor, idle, takes the first waiting ferry for whose tenant an engine is free (14 R399), a frozen pair's is moored with code 19, and one without a partition
here is PERM; what a system ferry brings for the node itself is delivered, served or accepted (12 R323, R328, 14 R379, 09 R249,
11 R288); a moored ferry is sent again or, after a fault, dropped; an escape ferry that cannot move leaves its lane; an
armed slot past its deadline becomes TIMEOUT and sends its record, before any landing of that cycle and the slots of one tick
in one cycle; the dead ports of other nodes and hold signals are kept.
Freezes, re-landings, notices and forwarded launches follow log entries 33, 39, 42, 49 and 88. -/
def Obligations.RouterEventsComplete : Prop :=
  ∀ (s : State) (port : BitVec 3) (f : Ferry) (slot : BitVec 13) (node : BitVec 15) (lane : BitVec 2) (entry : BitVec 14)
    (queue : BitVec 12) (cargo : BitVec 2048) (d0 d1 : BitVec 64) (rec : BitVec 512) (tenant : BitVec 12) (pa : BitVec 48)
    (len : BitVec 12) (data : Option (List Byte)) (core : BitVec 9) (id : BitVec 16) (again : Bool) (code : BitVec 4)
    (link : BitVec 2) (far : FarPort),
    let r := s.router
    let on (t : State) : Result := .next t.rest
    (port.toNat < 6 → (r.full = false ∨ ferryEsc f = true) →
      exec (.ferryReceive port (.ferry f)) s = on (s.takeFerry port.toNat f).pump) ∧
    exec (.ferryReceive port (.unreachable queue cargo d0 d1)) s = on (s.takeUnreachable queue ⟨cargo, d0, d1⟩).pump ∧
    exec (.ferryReceive port (.notice rec)) s = on (s.takeNotice rec) ∧
    exec (.ferryReceive port (.peer node tenant pa len data)) s = on (s.servePeer node tenant pa.toNat len.toNat data).pump ∧
    exec (.ferryReceive port (.atom node tenant core id again code pa d0 d1)) s =
      on (s.servePeerAtom node tenant core id again code.toNat pa.toNat d0 d1).pump ∧
    exec (.ferryReceive port (.launch node tenant d0 rec)) s = on (s.acceptMember node tenant.toNat d0 rec).pump ∧
    exec (.ferryReceive port (.endLaunch node tenant d0)) s = on (s.endMember node tenant.toNat d0).pump ∧
    exec (.ferryReceive port (.linkDown link)) s = on (s.linkDown port.toNat link.toNat).pump ∧
    (let v := s.timeouts
     v.router.landing = none → ∀ a rest, takeFirst (fun (x : Arrival) => v.engineFor (ferryTenant x.ferry)) v.router.pool = some (a, rest) →
      let t := v.setRouter { v.router with pool := rest, cycle := max v.router.cycle (a.cycle + 1) }
      let g := a.ferry
      let l : Landing := ⟨g, 0, [], a.fsend⟩
      let known := ferrySys g = true ∨ (t.landPart g).isSome = true
      (t.pairFrozen (ferryOrig g) (ferryTenant g) = false → known →
        let u := t.countTenant (ferryTenant g) 8 1
        exec .landingStart s = on (u.setRouter { u.router with landing := some l })) ∧
      (t.pairFrozen (ferryOrig g) (ferryTenant g) = false → ¬known →
        exec .landingStart s = on ((t.countTenant (ferryTenant g) 8 1).landFault l 4).pump) ∧
      (t.pairFrozen (ferryOrig g) (ferryTenant g) = true →
        exec .landingStart s = on ((t.moor g 19 0 0 0).fryDone a.fsend).pump)) ∧
    (∀ x t, s.choose s.relandable = (some x, t) → exec .mooringReland s = on (t.reland x).pump) ∧
    (∀ g rest, look r.lanes (3 * port.toNat + 2) = some (g :: rest) →
      let k := 3 * port.toNat + 2
      let t := s.setRouter { r with lanes := (if rest = [] then del r.lanes k else put r.lanes k rest) }
      exec (.escapeTimeout port) s =
        on (if ferryTarget g = s.node then t.routerTick.arrive (setHdr g 81 2 0) 6 none else t.route g none 0)) ∧
    (∀ x, look r.slots slot.toNat = some x → x.st = 1 → x.deadline ≠ 0 → x.deadline.toNat ≤ s.time.toNat / 1000 * 1000 →
      r.landing = none → exec (.combineSlotTimeout slot) s =
        on ((s.timeoutAll 0 (byTick (r.slots.filter fun y => s.slotLate y.2))).pump)) ∧
    (∀ (u : State) (last k : Nat) (x : CSlot) (rest : List (Nat × CSlot)),
      let y : CSlot := { x with st := 3, flags := x.flags ||| 2 }
      let v := if x.tick = last then u else u.setRouter { u.router with cycle := u.router.cycle + 1 }
      let t := (v.setSlot k y).slotLeft k
      let g := timeoutFerry t.node k y
      u.timeoutAll last ((k, x) :: rest) = (if t.router.full then t.inject g else t.receive g 6 none).timeoutAll x.tick rest) ∧
    (∃ t, exec (.reachabilityNotice far false) s = on t ∧ t.router.deadPorts.contains (far.node, far.port.toNat) = true ∧
      ∀ q, q ≠ (far.node, far.port.toNat) → t.router.deadPorts.contains q = r.deadPorts.contains q) ∧
    (∃ t, exec (.reachabilityNotice far true) s = on t ∧ t.router.deadPorts.contains (far.node, far.port.toNat) = false ∧
      ∀ q, q ≠ (far.node, far.port.toNat) → t.router.deadPorts.contains q = r.deadPorts.contains q) ∧
    (port.toNat < 6 → lane.toNat < 3 →
      let k := 3 * port.toNat + lane.toNat
      exec (.holdSignal port lane true) s = on (s.setRouter { r with held := r.held.filter (· ≠ k) ++ [k] }) ∧
      exec (.holdSignal port lane false) s = on (s.setRouter { r with held := r.held.filter (· ≠ k) })) ∧
    (∀ m, r.moor.find? (fun m => m.num = entry.toNat ∧ m.code ≤ 5) = some m →
      exec (.mooredFaultService entry true) s = on ((s.unmoor m.num).routerTick.arrive m.ferry 7 none).pump ∧
      exec (.mooredFaultService entry false) s = on (s.unmoor m.num).pump)

/-- Links (14 R385-R389, 16 R438-R445): a frame of up to five flits of the ferries that wait is sealed and sent while fewer than 128 wait for their
acknowledgement, and its key rolls at counter 2^40; a good frame with the expected counter hands its ferries over, or stays
outside where the mooring holds one of them back; any other fails, or is passed over while a retry is awaited or behind a
frame that stays outside; marks, retries, acknowledgements, the rekey and its deadline, a lane's
fault, training and keying move the link from state to state. Frames, keys and failures follow log entries 40 and 41. -/
def Obligations.LinkEventsComplete : Prop :=
  ∀ (s : State) (port : BitVec 3) (link lane : BitVec 2) (counter : BitVec 64) (f : Ferry) (fs parts : List Ferry)
    (ok mark re : Bool),
    let p := port.toNat
    let l := link.toNat
    let x := s.link p l
    let n := counter.toNat
    let on (t : State) : Result := .next t.rest
    (x.live = true → x.retry.length < 128 → ∀ y, x.rollTx = some y → ∀ z t, s.fillFrame p l 8 5 y.current = (z, t) →
      (z.flits ≠ [] →
        let body := frameBody y.txKey (linkIdOf t.node p l) y.txNext z.flits
        let u := t.setLink p l { y with
          txNext := y.txNext + 1, retry := y.retry ++ [⟨y.txNext, body, z.whole⟩], current := z.left' }
        exec (.frameClose port link) s = on ({ u with out := u.out ++ [Out.frame p l y.txNext body] }.sendMarks p l z.whole)) ∧
      (z.flits = [] → exec (.frameClose port link) s = on t)) ∧
    (x.live = true →
      let late := x.waiting = true ∧ (n ≠ x.rxNext ∨ (s.skidPort p = true ∧ re = false))
      let frame (good : Bool) := exec (.frameReceive port link counter good ⟨fs, parts, re⟩) s
      (x.outside = true → n ≠ x.rxNext → frame ok = on s) ∧
      (n = x.rxNext → ¬late →
        (fs.any s.holdsBack = true → frame true = on (s.setLink p l { x with outside := true })) ∧
        (fs.any s.holdsBack = false →
          let t := ((s.setLink p l { x with waiting := false, outside := false }).rollRx p l).giveFerries p fs
          frame true = on (t.signal .ack p l (t.link p l).rxNext).pump)) ∧
      (late → frame ok = on s) ∧
      (x.outside = false ∨ n = x.rxNext → ¬late → ok = false ∨ n ≠ x.rxNext →
        frame ok = on (s.frameFails p l (decide (n = x.rxNext)) fs parts).pump)) ∧
    (x.live = true →
      (s.skidPort p = false → exec (.retryRequest port link counter) s =
        on (s.resendFrames p l (x.retry.filter fun f => !isBehind f.counter n))) ∧
      (s.skidPort p = true → exec (.retryRequest port link counter) s =
        on ((s.setLink p l { x with retry := x.retry.filter fun f => f.counter ≠ n }).resendFrames p l
          (x.retry.filter fun f => f.counter ≠ n && !isBehind f.counter n))) ∧
      (x.retry ≠ [] → exec (.ackTimeout port link) s = on (s.linkFail p l).pump) ∧
      (2 ^ 40 - 2 ^ 32 ≤ x.txNext → x.rekeying = false → x.nextTx = none →
        exec (.rekeyStart port link) s = on ((s.setLink p l { x with rekeying := true }).signal .keyUpdate p l x.txNext)) ∧
      (x.txNext = 2 ^ 40 → x.nextTx = none → exec (.rekeyDeadline port link) s = on (s.linkFail p l).pump) ∧
      (x.lanes.getLsbD lane.toNat = true →
        let id := linkIdOf s.node p l
        let good := x.lanes &&& ~~~(1#4 <<< lane.toNat)
        let t := (s.logTo 64 12 16 (id / 2 ^ 17) 1 id).setLink p l { x with lanes := good }
        (good = 0 → exec (.laneFault port link lane) s = on (t.linkFail p l).pump) ∧
        let y : Link := { x with lanes := good, st := .training, width := trainWidth good, attempts := 0 }
        (good ≠ 0 → exec (.laneFault port link lane) s = on (t.setLink p l y))) ∧
      (x.rekeying = true → x.st ≠ .keying →
        let y : Link := { x with rekeying := false, nextTx := some (s.draw.1.setWidth 256) }
        exec (.linkKeyed port link true) s = on (s.draw.2.setLink p l y))) ∧
    (∀ u rest, takeFirst (fun (u : Unmarked) => u.port == p && u.ferry == f) s.router.marks = some (u, rest) →
      let t := s.setRouter { s.router with marks := rest }
      (u.via = none → exec (.verdictMark port f mark) s =
        on (if mark then t.givePoisoned u.port f else t.takeFerry u.port f).pump) ∧
      (∀ q, u.via = some (q, some l) → exec (.verdictMark port f mark) s = on (t.signal .mark q l mark.toNat)) ∧
      (∀ q, u.via = some (q, none) → exec (.verdictMark port f mark) s = on (if mark then t.poisonQueued f else t))) ∧
    exec (.linkAck port link counter) s = on (s.setLink p l { x with retry := x.retry.filter fun f => !isBehind f.counter n }) ∧
    (x.st = .training → x.lanes = 0 → exec (.linkTrainDone port link ok) s = on (s.linkFail p l).pump) ∧
    (x.st = .training → x.lanes ≠ 0 →
      exec (.linkTrainDone port link true) s = on (s.setLink p l { x with st := .keying, width := trainWidth x.lanes, attempts := 0 }) ∧
      (x.attempts + 1 < 3 → exec (.linkTrainDone port link false) s = on (s.setLink p l { x with attempts := x.attempts + 1 })) ∧
      (2 ≤ x.attempts → exec (.linkTrainDone port link false) s = on (s.linkFail p l).pump)) ∧
    (x.st = .keying →
      exec (.linkKeyed port link false) s = on (s.linkFail p l).pump ∧
      (x.keyed = true → exec (.linkKeyed port link true) s =
        on ((s.setLink p l { x with st := if x.width = 4 then .up else .degraded }).resendFrames p l x.retry)))

/-! Repair, start, measurement, management, attestation and debug. -/

/-- Scrubs, start and time (07 R195, R197, 16 R435-R437, R441-R448, 17 R452-R461): a corrected word is logged and noted, a
second correction within a day remaps it, a sixteenth makes its HBM row due; an uncorrectable word is poisoned, logged and, in
a sealed tile, rebuilt from its sums; a record's or an accumulator's word is poisoned in its place, and so are the records
that a granule of the lattice pool holds; a due row is replaced; the start stages follow one another, a stage's failure counts,
and the third leaves minimal mode; throttle steps, a trip, the timebase and its offset, a sample and a counter window, which
holds what the partition counted since the last and, for the events that the model has no steps for, an open number.
Starts, time, errors, SYS.CCYC at a sample, a record's lost sum, the pool and the window's open numbers follow log entries 10,
21, 56, 58, 60, 74 and 92, the model's choices. -/
def Obligations.UpkeepEventsComplete : Prop :=
  ∀ (s : State) (core : BitVec 9) (word : BitVec 22) (any : ScrubWord) (granule : BitVec 34) (spare : Bool) (digest : BitVec 384)
    (reason : BitVec 8) (ns : BitVec 64) (part : BitVec 6) (counts : List (BitVec 64)),
    let n := core.toNat
    let a := sliceBase n + 4 * word.toNat
    let g := 32 * granule.toNat
    let row := Config.hbmRow g
    let d := s.device
    let on (t : State) : Result := .next t.rest
    exec (.sliceScrub core any .clean) s = on s ∧
    (∀ k t, (s.logMem 1 1 a).noteCorrection a = (k, t) →
      exec (.sliceScrub core (.slice word) .single) s = on (if 2 ≤ k then t.remap n a a else t)) ∧
    (let t := (((s.actAlone.corrupt a 4).mark a).logMem 2 1 a).tryErasure a 4
     (t.lmsOf n (4 * word.toNat) = none → exec (.sliceScrub core (.slice word) .uncorrectable) s = on (t.spoilView n (4 * word.toNat))) ∧
     (∀ lms off, t.lmsOf n (4 * word.toNat) = some (lms, off) →
       exec (.sliceScrub core (.slice word) .uncorrectable) s = on (t.rebuildWords n lms [off / 4]))) ∧
    (∀ tile sum, exec (.sliceScrub core (.record tile sum) .uncorrectable) s =
      on (s.actAlone.lostSum (sliceBase n + 16384 * tile.toNat) sum.toNat)) ∧
    (∀ tile i j, exec (.sliceScrub core (.acc tile i j) .uncorrectable) s =
      on (s.actAlone.lostAcc n tile.toNat i.toNat j.toNat)) ∧
    exec (.hbmScrub granule .clean) s = on s ∧
    (∀ k t, (s.logMem 3 1 g).noteCorrection (2 ^ 48 + row) = (k, t) →
      exec (.hbmScrub granule .single) s = on (if 16 ≤ k then t.rowDue g else t)) ∧
    (let pool := s.parts.find? fun x => Part.state x.2 ≠ 0 ∧ Part.inPool x.2 g
     (pool = none → exec (.hbmScrub granule .uncorrectable) s =
       on (((((s.actAlone.corrupt g 32).mark g).logMem 4 1 g).tryErasure g 32).rowDue g)) ∧
     (∀ k y, pool = some (k, y) → exec (.hbmScrub granule .uncorrectable) s =
       on (((s.actAlone.lostPool y g).logMem 4 1 g).rowDue g))) ∧
    (d.due.contains row = true → exec (.hbmRowSpare granule spare) s = on ((s.setDevice { d with
      due := d.due.filter (· ≠ row), corrected := del d.corrected (2 ^ 48 + row) }).logMem 8 spare.toNat g)) ∧
    (let t := (if d.tripped then s.setDevice { d with reason := 10 } else s).beginStart
     exec .coldReset s = on (if 3 ≤ t.device.fails then t.enterMinimal else t)) ∧
    (d.starting = true →
      (∃ t, exec (.startStageDone digest) s = on t ∧ t.device.stage = (s.stageWork digest).device.stage + 1 ∧
        (t.device.stage = 6 → t.device.fails = 0)) ∧
      ((stageReasons d.stage).contains reason.toNat = true →
        exec (.startStageTimeout reason) s = on (s.startFails reason.toNat)) ∧
      exec .thermalTrip s = on (s.startFails 10)) ∧
    (d.starting = false → exec .thermalTrip s = on (s.setDevice { d with stopped := true, tripped := true })) ∧
    exec (.clockThrottle true) s = on (s.setDevice { d with throttle := d.throttle + 1 }) ∧
    exec (.clockThrottle false) s = on (s.setDevice { d with throttle := d.throttle - 1 }) ∧
    exec .mgmtLinkLoss s = on { s with tstat := tstatOf 3 ((s.tstat >>> 32).setWidth 32) } ∧
    exec (.statusTimeUpdate ns) s = on ((s.setTime ns).setDevice { d with pageTime := (s.setTime ns).time }) ∧
    (∃ t, exec (.ptpMessage ns) s = on t ∧ (t.tstat >>> 32).setWidth 32 = offsOf ns ∧
      ((t.tstat.setWidth 32 : W32) = 1 ∨ (t.tstat.setWidth 32 : W32) = 2) ∧ s.time ≤ t.time ∧
      (ns.toInt ≤ 1000000 → t.time = s.time)) ∧
    ((s.core n).samplesOn = false → exec (.sampleTick core) s = on s) ∧
    ((s.core n).samplesOn = true →
      let k := s.core n
      let now : Word := BitVec.ofNat 64 ((k.ccyc.toNat / 2 ^ fld k.smpc.toNat 1 5 + 1) * 2 ^ fld k.smpc.toNat 1 5)
      let u := s.setCore n { k with ccyc := now }
      let live := allCtxs.filter fun i => (u.ctxAt n i).st ≠ .free
      exec (.sampleTick core) s = on (if k.smph.toNat - k.smpt.toNat + live.length ≤ k.ringSize then u.writeSamples n now live
        else u.setCore n { u.core n with smpd := k.smpd + BitVec.ofNat 64 live.length })) ∧
    (let w := s.counters part.toNat
     let seen := w.counting.mapIdx fun j k =>
       let code := (w.sel[k]?.getD 0).toNat
       BitVec.ofNat 64 ((look s.events (part.toNat * 16 + code)).getD 0) +
         (if [1, 4, 5, 7].contains code then counts.getD j 0 else 0)
     exec (.counterRotate part counts ns) s = on { s with
       pc := put s.pc part.toNat (w.rotate seen ns), events := s.events.filter fun x => x.1 / 16 ≠ part.toNat })

/-- Management commands of an owner's session on a free port of a started device (14 R375-R378, R383, R391, R392, 16 R440-R447,
18 R466): each answers with its status and has its effect; a swap and a destruction answer when the partition has come to
rest. A message of BAR0 stands in the mailbox with GO set until its answer overwrites it, and while GO is set another is
discarded (18 R466). A request that carries no session, tag or length is answered by its transport alone; one on a busy port is
BUSY; one of the wrong form is BADFORM where its session may ask for the command and DENIED where it may not.
Entry numbers, endings, the order of checks and the mailbox follow log entries 32, 51, 52 and 53, the model's choices. -/
def Obligations.ManagementCommandsComplete : Prop :=
  ∀ (s : State) (r : MgmtReq) (x : Session) (entry ring first count slot opc : BitVec 16) (image piece : List Byte)
    (action port mode sl : Byte) (lid : BitVec 32) (key : BitVec 768),
    let away := r.port = false ∧ s.device.go = true
    let busy := ∃ q ∈ s.device.running, q.port = r.port
    let u := s.posted r
    let d := u.device
    let n := entry.toNat
    let say (t : State) (opc status : Nat) (res : Word) (pay : List Byte) : Result :=
      .next (t.respond r.port opc status r.tag res pay).rest
    let later (t : State) : Result := .next t.rest
    let st := Part.state (u.part n)
    let idle := ∀ q ∈ d.running, q.part ≠ n
    (away → (∀ k, exec (.mgmtRequestReject r opc k) s = .next s.rest) ∧ exec (.partWrite r entry image) s = .next s.rest ∧
      exec (.minimalClear r) s = .next s.rest) ∧
    (¬away →
      exec (.mgmtRequestReject r opc .noSession) s = .next (u.transport r.port 1).rest ∧
      exec (.mgmtRequestReject r opc .badTag) s = .next (u.transport r.port 2).rest ∧
      exec (.mgmtRequestReject r opc .badLen) s = .next (u.transport r.port 3).rest ∧
      (s.session r.session = none → exec (.partWrite r entry image) s = .next (u.transport r.port 1).rest ∧
        exec (.mgmtRequestReject r opc .badForm) s = .next (u.transport r.port 1).rest) ∧
      (busy → exec (.mgmtRequestReject r opc .busy) s =
        .next { s with out := s.out ++ [Out.mgmt r.port (response opc.toNat 4 r.tag 0 [])] }.rest) ∧
      (¬busy → exec (.mgmtRequestReject r opc .busy) s = .next s.rest)) ∧
    (s.session r.session = some x → ¬away → busy → exec (.partWrite r entry image) s = say u 1 4 0 [] ∧
      exec (.mgmtRequestReject r opc .badForm) s = say u opc.toNat 4 0 []) ∧
    (s.session r.session = some x → ¬away → ¬busy →
      let may := anySession opc.toNat = true ∨ d.ownerSession x = true
      (may → (d.minimal = false ∨ opc = 3 ∨ opc = 6 ∨ opc = 7) →
        exec (.mgmtRequestReject r opc .badForm) s = say u opc.toNat 3 0 []) ∧
      (¬may → exec (.mgmtRequestReject r opc .badForm) s = say u opc.toNat 2 0 []) ∧
      (d.minimal = true → exec (.partWrite r entry image) s = say u 1 2 0 [])) ∧
    (s.session r.session = some x → ¬away → ¬busy → d.minimal = false →
      (d.ownerSession x = true →
        (n < 64 → image.length = 256 → st = 0 →
          let p : Part := BitVec.ofNat 2048 (ofLE image)
          (Part.state p = 1 → d.stage = 6 → u.partOk p = true → exec (.partWrite r entry image) s =
            say ({ (u.zeroPart p).dropPart n with parts := put ((u.zeroPart p).dropPart n).parts n p }.extend 5
              (Config.sha384 image)) 1 0 0 []) ∧
          (Part.state p ≠ 1 ∨ d.stage ≠ 6 ∨ u.partOk p = false → exec (.partWrite r entry image) s = say u 1 1 0 [])) ∧
        (action.toNat < 2 → n < 256 → ∀ e, look u.pairs n = some e →
          exec (.freezeClear r entry action) s = say (u.clearPair n e action.toNat).pump 2 0 0 []) ∧
        (256 ≤ n → n < 2304 → (u.ctxAt ((n - 256) / 4) (BitVec.ofNat 2 (n - 256))).haltFlag = true →
          exec (.freezeClear r entry 0) s = say (u.resumeCtx (n - 256)) 2 0 0 [] ∧
          exec (.freezeClear r entry 1) s = say (u.endTask (n - 256)) 2 0 0 []) ∧
        (ring.toNat ≤ 64 → first.toNat < 1024 → count.toNat ≤ 126 → exec (.elogRead r ring first count) s =
          say u 3 0 (BitVec.ofNat 64 (u.ring ring.toNat).lost)
            ((((u.ring ring.toNat).entries.drop first.toNat).take count.toNat).flatMap fun e => leBytes e.toNat 32)) ∧
        (port.toNat < 6 → mode.toNat < 2 →
          let f := u.fabric.trainPort port.toNat
          let bit := 1#6 <<< port.toNat
          exec (.portEnable r port mode) s =
            say (u.setFabric { f with skid := if mode = 1 then f.skid ||| bit else f.skid &&& ~~~bit }) 4 0 0 []) ∧
        (let q := fld lid.toNat 14 3
         let l := fld lid.toNat 12 2
         fld lid.toNat 0 12 = 0 → q < 6 → fld lid.toNat 17 15 = u.node.toNat →
          ((u.link q l).st = .failed →
            exec (.linkReset r lid) s = say (u.setLink q l { Link.reset with lanes := (u.link q l).lanes }) 5 0 0 []) ∧
          ((u.link q l).st ≠ .failed → exec (.linkReset r lid) s = say u 5 1 0 [])) ∧
        (sl.toNat < 4 → exec (.imageLoad r sl piece) s = say (u.setDevice { d with
          staged := put d.staged sl.toNat ((look d.staged sl.toNat).getD [] ++ piece) }) 6 0 0 []) ∧
        (exec (.minimalClear r) s = .next ((((u.setDevice { d with fails := 0 }).respond r.port 7 0 r.tag 0 []).rest).beginStart).rest) ∧
        (n < 64 → idle →
          (st = 1 → Part.swap (u.part n) = true →
            exec (.partSwapOut r entry) s = later ((u.preempt n (u.placedOf n)).runCommand r 8 n)) ∧
          (st = 1 ∨ st = 2 → exec (.partDestroy r entry) s = later ((u.destroyPart n).runCommand r 10 n))) ∧
        (n < 64 → st = 2 →
          let t := (u.setPartState n 1).refreshGroups
          exec (.partSwapIn r entry) s = say (t.returnAll n (t.savedOf n)) 9 0 0 []) ∧
        (slot.toNat < 256 →
          (look d.keys slot.toNat = none → exec (.keyLoad r slot (some key)) s =
            say ((u.setDevice { d with keys := put d.keys slot.toNat key }).extend 6 (Config.sha384 (keyBytes key))) 12 0 0 []) ∧
          ((look d.keys slot.toNat).isSome = true → exec (.keyLoad r slot (some key)) s = say u 12 1 0 []) ∧
          (u.keyInUse slot.toNat = true → exec (.keyLoad r slot none) s = say u 12 1 0 []))) ∧
      (d.lcs ≠ 3 → (d.owner = none ∧ x.authed = true ∨ d.owner.isSome = true ∧ d.ownerSession x = true) →
        exec (.ownerSet r key) s = if Config.onCurve key = true
          then say ((u.setDevice { d with owner := some key }).extend 6 (Config.sha384 (keyBytes key))) 11 0 0 []
          else say u 11 3 0 []) ∧
      (d.ownerSession x = false → exec (.partWrite r entry image) s = say u 1 2 0 [] ∧
        exec (.partDestroy r entry) s = say u 10 2 0 [] ∧ exec (.minimalClear r) s = say u 7 2 0 []))

/-- Attestation and debug (14 R390-R397, 18 R462): each SPDM request has its answer, signed ones with the device's signature; a
session is begun with a request for mutual authentication, finished, rekeyed and ended; the requester's leaf key is kept; anything else is UnsupportedRequest; a debug nonce replaces the one before, and a token takes the nonce with it and unlocks only with status 0. A DOE object of a type that
the device has not got sets the DOE error, and Discovery and the CDAT are answered. The functions, the codes and the token
checks (log entries 4, 54 and 55) and the CDAT's contents (61) are the model's choices. -/
def Obligations.AttestationAndDebugComplete : Prop :=
  ∀ (s : State) (slot block code : Byte) (obj : DoeObject) (nonce random : BitVec 256) (req : BitVec 16)
    (sid : BitVec 32) (leaf : BitVec 768) (n384 : BitVec 384) (token : BitVec 1408) (asym hash : BitVec 32) (dhe aead : BitVec 16),
    let d := s.device
    let on (t : State) : Result := .next t.rest
    let refusal := on (s.spdm 0x7F [1])
    exec .getVersion s = on ((s.setDevice { d with algorithms := false }).spdm 4 (leBytes 0x1300 2)) ∧
    exec .getCapabilities s = on (s.spdm 0x61 []) ∧
    (let all := asym &&& ecdsaP384 ≠ 0 ∧ hash &&& hashSha384 ≠ 0 ∧ dhe &&& ecdhP384 ≠ 0 ∧ aead &&& aes256Gcm ≠ 0
     (all → exec (.negotiateAlgorithms ⟨asym, hash, dhe, aead⟩) s =
       on ((s.setDevice { d with algorithms := true }).spdm 0x63 chosenAlgorithms)) ∧
     (¬all → exec (.negotiateAlgorithms ⟨asym, hash, dhe, aead⟩) s = on (s.spdm 0x7F [7]))) ∧
    exec .getDigests s = on (s.spdm 1 (leBytes (Config.sha384 Config.certificate).toNat 48)) ∧
    exec (.getCertificate 0) s = on (s.spdm 2 Config.certificate) ∧
    exec (.challenge 0 nonce) s = on (s.signed 3 (leBytes nonce.toNat 32)) ∧
    (slot ≠ 0 → exec (.getCertificate slot) s = refusal ∧ exec (.challenge slot nonce) s = refusal) ∧
    (∀ v, block ≠ 0 → block ≠ 255 → d.slots.toList[block.toNat - 1]? = some v →
      exec (.getMeasurements block) s = on (s.signed 0x60 (leBytes v.toNat 48))) ∧
    (∃ id k t, t = (s.draw.2).draw.2 ∧ exec (.keyExchange req random) s =
      on ((t.putSession ⟨id, k, false, false, none⟩).signed 0x64 (leBytes id.toNat 4 ++ leBytes mutAuthRequested 1 ++
        leBytes random.toNat 32)) ∧
      id.toNat % 65536 = req.toNat) ∧
    (∀ x, s.anySession sid = some x →
      (x.done = false →
        exec (.finish sid true) s = on ((s.putSession { x with done := true, authed := x.leaf.isSome }).spdm 0x65 (leBytes sid.toNat 4)) ∧
        exec (.finish sid false) s = on ((s.dropSession sid).spdm 0x7F [1]) ∧
        exec (.deliverEncapsulatedResponse sid leaf true) s =
          on ((s.putSession { x with leaf := some leaf }).spdm 0x6B (leBytes sid.toNat 4))) ∧
      exec (.getEncapsulatedRequest sid) s = on (s.spdm 0x6A (leBytes sid.toNat 4))) ∧
    (∀ x, s.session sid = some x →
      exec (.keyUpdate sid) s = on ((s.draw.2.putSession { x with key := s.draw.1.setWidth 256 }).spdm 0x69 []) ∧
      exec (.endSession sid) s = on ((s.dropSession sid).spdm 0x6C [])) ∧
    (s.session sid = none → exec (.keyUpdate sid) s = refusal ∧ exec (.endSession sid) s = refusal) ∧
    exec (.spdmUnsupported code) s = on (s.spdm 0x7F [7]) ∧
    ((obj.vendor, obj.kind) ∉ doeTypes → exec (.doeUnsupported obj) s = on (s.setDevice { d with doeError := true })) ∧
    (obj.vendor = 1 → obj.kind = 0 → exec (.doeUnsupported obj) s =
      on { s with out := s.out ++ [.doe 1 0 (doeDiscovery obj.index.toNat)] }) ∧
    (obj.vendor = 0x1E98 → obj.kind = 2 → ∃ cdat, exec (.doeUnsupported obj) s =
      on { s.draw.2 with out := s.out ++ [.doe 0x1E98 2 cdat] }) ∧
    exec (.debugNonce n384) s = on ((s.setDevice { d with nonce := some n384 }).spdm 0x7E
      (leBytes Config.deviceId.toNat 16 ++ leBytes n384.toNat 48)) ∧
    (let t := s.setDevice { d with nonce := none }
     exec (.debugToken token) s = on (if tokenStatus d token = 0 then (t.unlock token).spdm 0x7E [0]
       else t.spdm 0x7E (leBytes (tokenStatus d token) 1)))

/-! What every instruction keeps, and the boundary. -/

/-- The frame of the instructions between registers: where one is not stopped, it leaves every byte of memory, every other
context and everything beside the contexts as it was; of its own context a scalar one changes the landing buffer alone, and a
vector one also the streams that it pops; and what it adds to the landing buffer is for its destination. MOVSYS is one of them,
but that a read of SYS.CCYC moves that count on and one of SYS.TLBI may end the invalidation it reports; that they do so when
read is the model's choice, log entries 21 and 22. -/
def Obligations.RegisterInstructionsFrame : Prop :=
  ∀ (i : Instr) (r : Reg) (s t : State), exec i s = .next t → t.last = none →
    (scalarDest i = some r →
      SameMem s t ∧ SameOthers s t ∧ SameNode s t ∧ t.cx = { s.cx with landing := t.cx.landing } ∧
        ∀ e ∈ t.cx.landing, e ∈ s.cx.landing ∨ e.reg = r) ∧
    (vectorDest i = some r →
      SameMem s t ∧ SameOthers s t ∧ SameNode s t ∧
        t.cx = { s.cx with landing := t.cx.landing, streams := t.cx.streams } ∧
        ∀ e ∈ t.cx.landing, e ∈ s.cx.landing ∨ e.reg = r) ∧
    (∀ p d num, i = .movsys p d num →
      SameMem s t ∧ SameOthers s t ∧ (num ≠ 0x120 → num ≠ 0x036 → SameNode s t) ∧ t.cx = { s.cx with landing := t.cx.landing } ∧
        ∀ e ∈ t.cx.landing, e ∈ s.cx.landing ∨ e.reg = .s d)

/-- The landing buffer (10 R252-R256): a result waits for its class's count of bundles, that of the image's table, or the
native one in service mode and on a control core; at a boundary exactly the entries land whose count is 0, whose result
exists and before which no overdue entry waits for the same register, in their order, and a due one behind an overdue one of its
register stays; a landed value is what the register reads, s0 reads 0, a push stands last in its stream, and no other register
changes; a boundary takes all that is due of a buffer and its flags. Latencies below the native ones follow log entry 71. -/
def Obligations.ResultsLandAtTheirCount : Prop :=
  (∀ (s : State) (k : LatClass),
    (s.cx.svc = true ∨ s.onControl = true → s.latency k = Config.native k.num) ∧
    (s.cx.svc = false → s.onControl = false → ∀ t, s.cx.task = some t →
      s.latency k = t.lat.getD k.num (Config.native k.num)) ∧
    ∀ (d : BitVec 6) (x : Word), d ≠ 0 → ∃ e ∈ (s.landS k d x).cx.landing,
      e.reg = .s d ∧ e.val = x.setWidth 2048 ∧ e.left = s.latency k ∧ e.issue = s.cx.ic) ∧
  (∀ l : List LandEntry,
    let r := dueSplit [] l
    r.1.Sublist l ∧ r.2.Sublist l ∧ (∀ x ∈ r.1, x.left = 0 ∧ x.ready = true) ∧
    (∀ x ∈ l, x.left ≠ 0 ∨ x.ready = false → x ∈ r.2) ∧
    (∀ x before after, l = before ++ x :: after → x.left = 0 → x.ready = true →
      (∀ y ∈ before, y.left = 0 → y.ready = false → y.reg ≠ x.reg) → x ∈ r.1) ∧
    (∀ x y before mid after, l = before ++ y :: mid ++ x :: after → y.left = 0 → y.ready = false → y.reg = x.reg →
      ∃ a b, r.2 = a ++ x :: b ∧ a.Sublist (before ++ y :: mid) ∧ b.Sublist after ∧ y ∈ a) ∧
    r.1.length + r.2.length = l.length ∧
    (ageLanding l).map (·.left) = l.map fun e => e.left - 1) ∧
  (∀ (c : Context) (e : LandEntry),
    let c' := c.setReg e
    (∀ a, e.reg = .s a → (a ≠ 0 → c'.rs a = e.val.setWidth 64) ∧ c'.rs 0 = 0 ∧ ∀ b, b ≠ a → c'.rs b = c.rs b) ∧
    (∀ a, e.reg = .v a → c'.rv a = e.val ∧ c'.vchk.get a.toFin = e.chk ∧ ∀ b, b ≠ a → c'.rv b = c.rv b) ∧
    (∀ a : BitVec 5, e.reg = .p a → (a.toNat < 24 → c'.rp a = e.val.setWidth 64) ∧ ∀ b, b ≠ a → c'.rp b = c.rp b) ∧
    (∀ a, e.reg = .b a → c'.rb a = e.val.setWidth 14 ∧ ∀ b, b ≠ a → c'.rb b = c.rb b) ∧
    (∀ a, e.reg = .m a → c'.rm a = e.val.setWidth 64 ∧ ∀ b, b ≠ a → c'.rm b = c.rm b) ∧
    (∀ a, e.reg = .k a → c'.rk a = e.val.setWidth 32 ∧ ∀ b, b ≠ a → c'.rk b = c.rk b) ∧
    (e.reg = .fmt → c' = { c with fmt := e.val.setWidth 6 }) ∧
    (∀ a, e.reg = .push a → (c'.stream a).outq = (c.stream a).outq ++ [⟨e.val, e.chk⟩] ∧
      (c'.stream a).inq = (c.stream a).inq ∧ ∀ b, b ≠ a → c'.stream b = c.stream b)) ∧
  (∀ (s : State) (core : Nat) (i : BitVec 2) (e : LandEntry) (n : BitVec 12) (v : Word), e.reg = .sys n → v = e.val.setWidth 64 →
    let c := s.ctxAt core i
    let c' := (s.apply core i e).ctxAt core i
    s.apply core i e = s.sysWrite core i n.toNat v ∧
    (n = 0x001 → c' = { c with shchk := v.getLsbD 4 }) ∧ (n = 0x002 → c' = { c with fpf := v.setWidth 5 }) ∧
    (n = 0x004 → c' = { c with cki := v.setWidth 11 }) ∧ (n = 0x005 → c' = { c with pmk := v.setWidth 16 }) ∧
    (n = 0x021 → c' = { c with tip := v.setWidth 14 }) ∧ (n = 0x130 → c' = { c with tmr := v, tpend := false }) ∧
    (∀ j : Nat, j < 4 → n.toNat = 0x028 + j → c' = { c with scr := vmod c.scr j fun _ => v })) ∧
  (∀ (s : State) (core : Nat) (i : BitVec 2),
    let c := s.ctxAt core i
    let r := dueSplit [] c.landing
    c.region = none → c.restore = none → (∀ e ∈ r.1, ∀ n, e.reg ≠ .sys n) →
      let b := r.1.foldl (fun c e => c.setReg e) { c with landing := r.2, cki := c.cki &&& ~~~c.ckiClr, ckiClr := 0 }
      (s.landDue core i).ctxAt core i = { b with
        fpf := r.1.foldl (fun a e => a ||| e.fpf) b.fpf
        cki := r.1.foldl (fun a e => a ||| e.cki) b.cki ||| b.ckiSet
        ckiSet := 0 }) ∧
  (∀ (s : State) (core : Nat) (i : BitVec 2) (e : LandEntry),
    let c := s.ctxAt core i
    c.landing = [e] → c.region = none → c.restore = none → c.ckiClr = 0 → c.ckiSet = 0 → (∀ n, e.reg ≠ .sys n) →
      (e.left = 0 → e.ready = true → (s.landDue core i).ctxAt core i =
        { ({ c with landing := [] } : Context).setReg e with fpf := c.fpf ||| e.fpf, cki := c.cki ||| e.cki }) ∧
      (e.left ≠ 0 ∨ e.ready = false → (s.landDue core i).ctxAt core i = c))

/-- Taking a trap (15 R404-R406) outside service mode and open regions: the record is written, SYS.TIP is the IP, the program's
landing buffer, redirections, loops and fetch position go into the latch, SVC is 1, and the IP is the service bank at
SYS.TVEC; with the bank unarmed the context halts there. In service mode the context halts, and its record, latch and IP stay.
No register of the program changes, nor any other context, and leaving service brings back what the latch holds. -/
def Obligations.TrapsEnterAndLeaveService : Prop :=
  ∀ (s : State) (core : Nat) (i : BitVec 2) (t : TrapInfo), t.code ≠ 32 →
    let c := s.ctxAt core i
    let k := s.core core
    let u := s.takeTrap core i t
    let c' := u.ctxAt core i
    (c.catches t.code = false →
      c'.s = c.s ∧ c'.v = c.v ∧ c'.p = c.p ∧ c'.b = c.b ∧ c'.m = c.m ∧ c'.k = c.k ∧ c'.fmt = c.fmt ∧ c'.fpf = c.fpf ∧
        c'.cki = c.cki ∧ c'.task = c.task ∧ ∀ n j, n ≠ core ∨ j ≠ i → u.ctxAt n j = s.ctxAt n j) ∧
    (c.catches t.code = false → c.svc = false →
      c'.tcause = BitVec.ofNat 64 (t.code + t.cause * 2 ^ 8 + t.slot * 2 ^ 16 + t.engine * 2 ^ 24) ∧ c'.tip = c.ip ∧
      c'.taddr = t.addr ∧ c'.tseq = t.seq ∧ c'.tval = t.val ∧ c'.svc = true ∧ c'.ip = k.tvec.setWidth 14 ∧
      c'.latch = some ⟨c.landing, c.redir, c.loops, c.ip, c.drain⟩ ∧ c'.landing = [] ∧ c'.redir = [] ∧
      (∀ l ∈ c'.loops.toList, l.act = false) ∧
      (k.fis.getLsbD 2 = true → (c'.st = .ready ∨ c'.st = .issuing) ∧ u.mem = s.mem) ∧
      (k.fis.getLsbD 2 = false → c'.st = .halted ∧ c'.nested = true) ∧
      (let b := c'.leaveService
       b.landing = c.landing ∧ b.redir = c.redir ∧ b.loops = c.loops ∧ b.drain = c.drain ∧ b.ip = c.ip ∧ b.svc = false)) ∧
    (c.svc = true → c'.st = .halted ∧ c'.nested = true ∧ c'.svc = true ∧ c'.ip = c.ip ∧ c'.tip = c.tip ∧
      c'.tcause = c.tcause ∧ c'.latch = c.latch ∧ c'.landing = c.landing)

/-- The model's memory keeps its one canonical form in every step, whatever the step runs.
The form is the model's own, log entry 5. -/
def Obligations.EveryStepKeepsMemoryCanonical : Prop :=
  ∀ s t, s.MemOk → step s = .next t → t.MemOk
end

