-- ==== Sys2Proof/Laws/Landing.lean ====
section
/-! SUPPORT. What an operation of a landing does, by what its act answers: the next position, a branch, the end, a fault, and
the landing mask. -/

namespace Sys2Proof.Machine

/-- An act that goes on leaves its landing at the next position. -/
theorem landStep_next (act : Landing → State → LandOut) (s : State) (l l' : Landing) (t : State)
    (h : s.router.landing = some l) (ha : act l s = .next l' t) :
    landStep act s = .next (t.landed l' l'.ferry (l.pos + 1)) := by
  unfold landStep
  simp only [h, ha]
  rfl

/-- A taken branch leaves its landing at its target. -/
theorem landStep_goto (act : Landing → State → LandOut) (s : State) (l l' : Landing) (n : Nat) (t : State)
    (h : s.router.landing = some l) (ha : act l s = .goto l' n t) : landStep act s = .next (t.landed l' l'.ferry n) := by
  unfold landStep
  simp only [h, ha]
  rfl

/-- An act that ends the landing leaves none. -/
theorem landStep_done (act : Landing → State → LandOut) (s : State) (l : Landing) (t : State)
    (h : s.router.landing = some l) (ha : act l s = .done l t) : landStep act s = .next (t.landOver l) := by
  unfold landStep
  simp only [h, ha]
  rfl

/-- A fault moors the ferry as it stood. -/
theorem landStep_fault (act : Landing → State → LandOut) (s : State) (l : Landing) (c : Nat)
    (h : s.router.landing = some l) (ha : act l s = .fault c) : landStep act s = .next ((s.landFault l c).pump).rest := by
  unfold landStep
  simp only [h, ha]
  rfl

theorem landFerry_ok (act : Ferry → Except Nat Ferry) (s : State) (l : Landing) (g : Ferry)
    (h : s.router.landing = some l) (ha : act l.ferry = .ok g) : landFerry act s = .next (s.landed l g (l.pos + 1)) := by
  unfold landFerry
  exact landStep_next _ _ _ { l with ferry := g } _ h (by rw [ha])

theorem landFerry_fault (act : Ferry → Except Nat Ferry) (s : State) (l : Landing) (e : Nat)
    (h : s.router.landing = some l) (ha : act l.ferry = .error e) :
    landFerry act s = .next ((s.landFault l e).pump).rest := by
  unfold landFerry
  exact landStep_fault _ _ _ _ h (by rw [ha])

/-- A granted operation is its act. -/
theorem landMasked_granted (bit : Nat) (act : Landing → State → LandOut) (s : State) (l : Landing)
    (h : s.router.landing = some l) (hg : s.granted l.ferry bit = true) : landMasked bit act s = landStep act s := by
  unfold landMasked landStep
  simp only [h, hg, if_true]

/-- One that is not granted is PERM. -/
theorem landMasked_denied (bit : Nat) (act : Landing → State → LandOut) (s : State) (l : Landing)
    (h : s.router.landing = some l) (hg : s.granted l.ferry bit = false) :
    landMasked bit act s = .next ((s.landFault l 4).pump).rest := by
  unfold landMasked
  exact landStep_fault _ _ _ _ h (by rw [hg]; rfl)

end Sys2Proof.Machine
end

