-- ==== Sys2Proof/Laws/State.lean ====
section
/-! SUPPORT. What each update leaves of each field: one lemma per field and update. -/

set_option Elab.async false

namespace Sys2Proof.Machine

/-! A core or a context written. -/

@[simp] theorem setCore_cores (s : State) (n : Nat) (k : Core) : (s.setCore n k).cores = put s.cores n k := rfl
@[simp] theorem setCore_mem (s : State) (n : Nat) (k : Core) : (s.setCore n k).mem = s.mem := rfl
@[simp] theorem setCore_poison (s : State) (n : Nat) (k : Core) : (s.setCore n k).poison = s.poison := rfl
@[simp] theorem setCore_lat (s : State) (n : Nat) (k : Core) : (s.setCore n k).lat = s.lat := rfl
@[simp] theorem setCore_cur (s : State) (n : Nat) (k : Core) : (s.setCore n k).cur = s.cur := rfl
@[simp] theorem setCore_last (s : State) (n : Nat) (k : Core) : (s.setCore n k).last = s.last := rfl
@[simp] theorem setCore_ended (s : State) (n : Nat) (k : Core) : (s.setCore n k).ended = s.ended := rfl
@[simp] theorem setCore_turn (s : State) (n : Nat) (k : Core) : (s.setCore n k).turn = s.turn := rfl
@[simp] theorem setCore_agenda (s : State) (n : Nat) (k : Core) : (s.setCore n k).agenda = s.agenda := rfl
@[simp] theorem setCore_out (s : State) (n : Nat) (k : Core) : (s.setCore n k).out = s.out := rfl
@[simp] theorem setCore_draws (s : State) (n : Nat) (k : Core) : (s.setCore n k).draws = s.draws := rfl
@[simp] theorem setCore_raised (s : State) (n : Nat) (k : Core) : (s.setCore n k).raised = s.raised := rfl
@[simp] theorem setCore_faultId (s : State) (n : Nat) (k : Core) : (s.setCore n k).faultId = s.faultId := rfl
@[simp] theorem setCore_node (s : State) (n : Nat) (k : Core) : (s.setCore n k).node = s.node := rfl
@[simp] theorem setCore_parts (s : State) (n : Nat) (k : Core) : (s.setCore n k).parts = s.parts := rfl
@[simp] theorem setCore_owners (s : State) (n : Nat) (k : Core) : (s.setCore n k).owners = s.owners := rfl
@[simp] theorem setCore_tlbi (s : State) (n : Nat) (k : Core) : (s.setCore n k).tlbi = s.tlbi := rfl
@[simp] theorem setCore_tlb (s : State) (n : Nat) (k : Core) : (s.setCore n k).tlb = s.tlb := rfl
@[simp] theorem setCore_time (s : State) (n : Nat) (k : Core) : (s.setCore n k).time = s.time := rfl
@[simp] theorem setCore_tstat (s : State) (n : Nat) (k : Core) : (s.setCore n k).tstat = s.tstat := rfl
@[simp] theorem setCore_pc (s : State) (n : Nat) (k : Core) : (s.setCore n k).pc = s.pc := rfl
@[simp] theorem setCore_events (s : State) (n : Nat) (k : Core) : (s.setCore n k).events = s.events := rfl
@[simp] theorem setCore_compl (s : State) (n : Nat) (k : Core) : (s.setCore n k).compl = s.compl := rfl
@[simp] theorem setCore_freezes (s : State) (n : Nat) (k : Core) : (s.setCore n k).freezes = s.freezes := rfl
@[simp] theorem setCore_pairs (s : State) (n : Nat) (k : Core) : (s.setCore n k).pairs = s.pairs := rfl
@[simp] theorem setCore_replies (s : State) (n : Nat) (k : Core) : (s.setCore n k).replies = s.replies := rfl
@[simp] theorem setCore_remote (s : State) (n : Nat) (k : Core) : (s.setCore n k).remote = s.remote := rfl
@[simp] theorem setCore_parked (s : State) (n : Nat) (k : Core) : (s.setCore n k).parked = s.parked := rfl
@[simp] theorem setCore_router (s : State) (n : Nat) (k : Core) : (s.setCore n k).router = s.router := rfl
@[simp] theorem setCore_fabric (s : State) (n : Nat) (k : Core) : (s.setCore n k).fabric = s.fabric := rfl
@[simp] theorem setCore_sweeps (s : State) (n : Nat) (k : Core) : (s.setCore n k).sweeps = s.sweeps := rfl
@[simp] theorem setCore_bufs (s : State) (n : Nat) (k : Core) : (s.setCore n k).bufs = s.bufs := rfl
@[simp] theorem setCore_intake (s : State) (n : Nat) (k : Core) : (s.setCore n k).intake = s.intake := rfl
@[simp] theorem setCore_mboxes (s : State) (n : Nat) (k : Core) : (s.setCore n k).mboxes = s.mboxes := rfl
@[simp] theorem setCore_touched (s : State) (n : Nat) (k : Core) : (s.setCore n k).touched = s.touched := rfl
@[simp] theorem setCore_launches (s : State) (n : Nat) (k : Core) : (s.setCore n k).launches = s.launches := rfl
@[simp] theorem setCore_lids (s : State) (n : Nat) (k : Core) : (s.setCore n k).lids = s.lids := rfl
@[simp] theorem setCore_device (s : State) (n : Nat) (k : Core) : (s.setCore n k).device = s.device := rfl

@[simp] theorem setCtxAt_cores (s : State) (n : Nat) (i : BitVec 2) (c : Context) :
    (s.setCtxAt n i c).cores = put s.cores n ((s.core n).setCtx i c) :=
  rfl
@[simp] theorem setCtxAt_mem (s : State) (n : Nat) (i : BitVec 2) (c : Context) : (s.setCtxAt n i c).mem = s.mem :=
  rfl
@[simp] theorem setCtxAt_poison (s : State) (n : Nat) (i : BitVec 2) (c : Context) :
    (s.setCtxAt n i c).poison = s.poison :=
  rfl
@[simp] theorem setCtxAt_lat (s : State) (n : Nat) (i : BitVec 2) (c : Context) : (s.setCtxAt n i c).lat = s.lat :=
  rfl
@[simp] theorem setCtxAt_cur (s : State) (n : Nat) (i : BitVec 2) (c : Context) : (s.setCtxAt n i c).cur = s.cur :=
  rfl
@[simp] theorem setCtxAt_last (s : State) (n : Nat) (i : BitVec 2) (c : Context) : (s.setCtxAt n i c).last = s.last :=
  rfl
@[simp] theorem setCtxAt_ended (s : State) (n : Nat) (i : BitVec 2) (c : Context) :
    (s.setCtxAt n i c).ended = s.ended :=
  rfl
@[simp] theorem setCtxAt_turn (s : State) (n : Nat) (i : BitVec 2) (c : Context) : (s.setCtxAt n i c).turn = s.turn :=
  rfl
@[simp] theorem setCtxAt_agenda (s : State) (n : Nat) (i : BitVec 2) (c : Context) :
    (s.setCtxAt n i c).agenda = s.agenda :=
  rfl
@[simp] theorem setCtxAt_out (s : State) (n : Nat) (i : BitVec 2) (c : Context) : (s.setCtxAt n i c).out = s.out :=
  rfl
@[simp] theorem setCtxAt_draws (s : State) (n : Nat) (i : BitVec 2) (c : Context) :
    (s.setCtxAt n i c).draws = s.draws :=
  rfl
@[simp] theorem setCtxAt_raised (s : State) (n : Nat) (i : BitVec 2) (c : Context) :
    (s.setCtxAt n i c).raised = s.raised :=
  rfl
@[simp] theorem setCtxAt_faultId (s : State) (n : Nat) (i : BitVec 2) (c : Context) :
    (s.setCtxAt n i c).faultId = s.faultId :=
  rfl
@[simp] theorem setCtxAt_node (s : State) (n : Nat) (i : BitVec 2) (c : Context) : (s.setCtxAt n i c).node = s.node :=
  rfl
@[simp] theorem setCtxAt_parts (s : State) (n : Nat) (i : BitVec 2) (c : Context) :
    (s.setCtxAt n i c).parts = s.parts :=
  rfl
@[simp] theorem setCtxAt_owners (s : State) (n : Nat) (i : BitVec 2) (c : Context) :
    (s.setCtxAt n i c).owners = s.owners :=
  rfl
@[simp] theorem setCtxAt_tlbi (s : State) (n : Nat) (i : BitVec 2) (c : Context) : (s.setCtxAt n i c).tlbi = s.tlbi :=
  rfl
@[simp] theorem setCtxAt_tlb (s : State) (n : Nat) (i : BitVec 2) (c : Context) : (s.setCtxAt n i c).tlb = s.tlb :=
  rfl
@[simp] theorem setCtxAt_time (s : State) (n : Nat) (i : BitVec 2) (c : Context) : (s.setCtxAt n i c).time = s.time :=
  rfl
@[simp] theorem setCtxAt_tstat (s : State) (n : Nat) (i : BitVec 2) (c : Context) :
    (s.setCtxAt n i c).tstat = s.tstat :=
  rfl
@[simp] theorem setCtxAt_pc (s : State) (n : Nat) (i : BitVec 2) (c : Context) : (s.setCtxAt n i c).pc = s.pc := rfl
@[simp] theorem setCtxAt_events (s : State) (n : Nat) (i : BitVec 2) (c : Context) :
    (s.setCtxAt n i c).events = s.events :=
  rfl
@[simp] theorem setCtxAt_compl (s : State) (n : Nat) (i : BitVec 2) (c : Context) :
    (s.setCtxAt n i c).compl = s.compl :=
  rfl
@[simp] theorem setCtxAt_freezes (s : State) (n : Nat) (i : BitVec 2) (c : Context) :
    (s.setCtxAt n i c).freezes = s.freezes :=
  rfl
@[simp] theorem setCtxAt_pairs (s : State) (n : Nat) (i : BitVec 2) (c : Context) :
    (s.setCtxAt n i c).pairs = s.pairs :=
  rfl
@[simp] theorem setCtxAt_replies (s : State) (n : Nat) (i : BitVec 2) (c : Context) :
    (s.setCtxAt n i c).replies = s.replies :=
  rfl
@[simp] theorem setCtxAt_remote (s : State) (n : Nat) (i : BitVec 2) (c : Context) :
    (s.setCtxAt n i c).remote = s.remote :=
  rfl
@[simp] theorem setCtxAt_parked (s : State) (n : Nat) (i : BitVec 2) (c : Context) :
    (s.setCtxAt n i c).parked = s.parked :=
  rfl
@[simp] theorem setCtxAt_router (s : State) (n : Nat) (i : BitVec 2) (c : Context) :
    (s.setCtxAt n i c).router = s.router :=
  rfl
@[simp] theorem setCtxAt_fabric (s : State) (n : Nat) (i : BitVec 2) (c : Context) :
    (s.setCtxAt n i c).fabric = s.fabric :=
  rfl
@[simp] theorem setCtxAt_sweeps (s : State) (n : Nat) (i : BitVec 2) (c : Context) :
    (s.setCtxAt n i c).sweeps = s.sweeps :=
  rfl
@[simp] theorem setCtxAt_bufs (s : State) (n : Nat) (i : BitVec 2) (c : Context) : (s.setCtxAt n i c).bufs = s.bufs :=
  rfl
@[simp] theorem setCtxAt_intake (s : State) (n : Nat) (i : BitVec 2) (c : Context) :
    (s.setCtxAt n i c).intake = s.intake :=
  rfl
@[simp] theorem setCtxAt_mboxes (s : State) (n : Nat) (i : BitVec 2) (c : Context) :
    (s.setCtxAt n i c).mboxes = s.mboxes :=
  rfl
@[simp] theorem setCtxAt_touched (s : State) (n : Nat) (i : BitVec 2) (c : Context) :
    (s.setCtxAt n i c).touched = s.touched :=
  rfl
@[simp] theorem setCtxAt_launches (s : State) (n : Nat) (i : BitVec 2) (c : Context) :
    (s.setCtxAt n i c).launches = s.launches :=
  rfl
@[simp] theorem setCtxAt_lids (s : State) (n : Nat) (i : BitVec 2) (c : Context) : (s.setCtxAt n i c).lids = s.lids :=
  rfl
@[simp] theorem setCtxAt_device (s : State) (n : Nat) (i : BitVec 2) (c : Context) :
    (s.setCtxAt n i c).device = s.device :=
  rfl

@[simp] theorem setCo_cores (s : State) (k : Core) : (s.setCo k).cores = put s.cores s.cur.core k := rfl
@[simp] theorem setCo_mem (s : State) (k : Core) : (s.setCo k).mem = s.mem := rfl
@[simp] theorem setCo_poison (s : State) (k : Core) : (s.setCo k).poison = s.poison := rfl
@[simp] theorem setCo_lat (s : State) (k : Core) : (s.setCo k).lat = s.lat := rfl
@[simp] theorem setCo_cur (s : State) (k : Core) : (s.setCo k).cur = s.cur := rfl
@[simp] theorem setCo_last (s : State) (k : Core) : (s.setCo k).last = s.last := rfl
@[simp] theorem setCo_ended (s : State) (k : Core) : (s.setCo k).ended = s.ended := rfl
@[simp] theorem setCo_turn (s : State) (k : Core) : (s.setCo k).turn = s.turn := rfl
@[simp] theorem setCo_agenda (s : State) (k : Core) : (s.setCo k).agenda = s.agenda := rfl
@[simp] theorem setCo_out (s : State) (k : Core) : (s.setCo k).out = s.out := rfl
@[simp] theorem setCo_draws (s : State) (k : Core) : (s.setCo k).draws = s.draws := rfl
@[simp] theorem setCo_raised (s : State) (k : Core) : (s.setCo k).raised = s.raised := rfl
@[simp] theorem setCo_faultId (s : State) (k : Core) : (s.setCo k).faultId = s.faultId := rfl
@[simp] theorem setCo_node (s : State) (k : Core) : (s.setCo k).node = s.node := rfl
@[simp] theorem setCo_parts (s : State) (k : Core) : (s.setCo k).parts = s.parts := rfl
@[simp] theorem setCo_owners (s : State) (k : Core) : (s.setCo k).owners = s.owners := rfl
@[simp] theorem setCo_tlbi (s : State) (k : Core) : (s.setCo k).tlbi = s.tlbi := rfl
@[simp] theorem setCo_tlb (s : State) (k : Core) : (s.setCo k).tlb = s.tlb := rfl
@[simp] theorem setCo_time (s : State) (k : Core) : (s.setCo k).time = s.time := rfl
@[simp] theorem setCo_tstat (s : State) (k : Core) : (s.setCo k).tstat = s.tstat := rfl
@[simp] theorem setCo_pc (s : State) (k : Core) : (s.setCo k).pc = s.pc := rfl
@[simp] theorem setCo_events (s : State) (k : Core) : (s.setCo k).events = s.events := rfl
@[simp] theorem setCo_compl (s : State) (k : Core) : (s.setCo k).compl = s.compl := rfl
@[simp] theorem setCo_freezes (s : State) (k : Core) : (s.setCo k).freezes = s.freezes := rfl
@[simp] theorem setCo_pairs (s : State) (k : Core) : (s.setCo k).pairs = s.pairs := rfl
@[simp] theorem setCo_replies (s : State) (k : Core) : (s.setCo k).replies = s.replies := rfl
@[simp] theorem setCo_remote (s : State) (k : Core) : (s.setCo k).remote = s.remote := rfl
@[simp] theorem setCo_parked (s : State) (k : Core) : (s.setCo k).parked = s.parked := rfl
@[simp] theorem setCo_router (s : State) (k : Core) : (s.setCo k).router = s.router := rfl
@[simp] theorem setCo_fabric (s : State) (k : Core) : (s.setCo k).fabric = s.fabric := rfl
@[simp] theorem setCo_sweeps (s : State) (k : Core) : (s.setCo k).sweeps = s.sweeps := rfl
@[simp] theorem setCo_bufs (s : State) (k : Core) : (s.setCo k).bufs = s.bufs := rfl
@[simp] theorem setCo_intake (s : State) (k : Core) : (s.setCo k).intake = s.intake := rfl
@[simp] theorem setCo_mboxes (s : State) (k : Core) : (s.setCo k).mboxes = s.mboxes := rfl
@[simp] theorem setCo_touched (s : State) (k : Core) : (s.setCo k).touched = s.touched := rfl
@[simp] theorem setCo_launches (s : State) (k : Core) : (s.setCo k).launches = s.launches := rfl
@[simp] theorem setCo_lids (s : State) (k : Core) : (s.setCo k).lids = s.lids := rfl
@[simp] theorem setCo_device (s : State) (k : Core) : (s.setCo k).device = s.device := rfl

@[simp] theorem setCx_cores (s : State) (c : Context) :
    (s.setCx c).cores = put s.cores s.cur.core ((s.core s.cur.core).setCtx s.cur.ctx c) :=
  rfl
@[simp] theorem setCx_mem (s : State) (c : Context) : (s.setCx c).mem = s.mem := rfl
@[simp] theorem setCx_poison (s : State) (c : Context) : (s.setCx c).poison = s.poison := rfl
@[simp] theorem setCx_lat (s : State) (c : Context) : (s.setCx c).lat = s.lat := rfl
@[simp] theorem setCx_cur (s : State) (c : Context) : (s.setCx c).cur = s.cur := rfl
@[simp] theorem setCx_last (s : State) (c : Context) : (s.setCx c).last = s.last := rfl
@[simp] theorem setCx_ended (s : State) (c : Context) : (s.setCx c).ended = s.ended := rfl
@[simp] theorem setCx_turn (s : State) (c : Context) : (s.setCx c).turn = s.turn := rfl
@[simp] theorem setCx_agenda (s : State) (c : Context) : (s.setCx c).agenda = s.agenda := rfl
@[simp] theorem setCx_out (s : State) (c : Context) : (s.setCx c).out = s.out := rfl
@[simp] theorem setCx_draws (s : State) (c : Context) : (s.setCx c).draws = s.draws := rfl
@[simp] theorem setCx_raised (s : State) (c : Context) : (s.setCx c).raised = s.raised := rfl
@[simp] theorem setCx_faultId (s : State) (c : Context) : (s.setCx c).faultId = s.faultId := rfl
@[simp] theorem setCx_node (s : State) (c : Context) : (s.setCx c).node = s.node := rfl
@[simp] theorem setCx_parts (s : State) (c : Context) : (s.setCx c).parts = s.parts := rfl
@[simp] theorem setCx_owners (s : State) (c : Context) : (s.setCx c).owners = s.owners := rfl
@[simp] theorem setCx_tlbi (s : State) (c : Context) : (s.setCx c).tlbi = s.tlbi := rfl
@[simp] theorem setCx_tlb (s : State) (c : Context) : (s.setCx c).tlb = s.tlb := rfl
@[simp] theorem setCx_time (s : State) (c : Context) : (s.setCx c).time = s.time := rfl
@[simp] theorem setCx_tstat (s : State) (c : Context) : (s.setCx c).tstat = s.tstat := rfl
@[simp] theorem setCx_pc (s : State) (c : Context) : (s.setCx c).pc = s.pc := rfl
@[simp] theorem setCx_events (s : State) (c : Context) : (s.setCx c).events = s.events := rfl
@[simp] theorem setCx_compl (s : State) (c : Context) : (s.setCx c).compl = s.compl := rfl
@[simp] theorem setCx_freezes (s : State) (c : Context) : (s.setCx c).freezes = s.freezes := rfl
@[simp] theorem setCx_pairs (s : State) (c : Context) : (s.setCx c).pairs = s.pairs := rfl
@[simp] theorem setCx_replies (s : State) (c : Context) : (s.setCx c).replies = s.replies := rfl
@[simp] theorem setCx_remote (s : State) (c : Context) : (s.setCx c).remote = s.remote := rfl
@[simp] theorem setCx_parked (s : State) (c : Context) : (s.setCx c).parked = s.parked := rfl
@[simp] theorem setCx_router (s : State) (c : Context) : (s.setCx c).router = s.router := rfl
@[simp] theorem setCx_fabric (s : State) (c : Context) : (s.setCx c).fabric = s.fabric := rfl
@[simp] theorem setCx_sweeps (s : State) (c : Context) : (s.setCx c).sweeps = s.sweeps := rfl
@[simp] theorem setCx_bufs (s : State) (c : Context) : (s.setCx c).bufs = s.bufs := rfl
@[simp] theorem setCx_intake (s : State) (c : Context) : (s.setCx c).intake = s.intake := rfl
@[simp] theorem setCx_mboxes (s : State) (c : Context) : (s.setCx c).mboxes = s.mboxes := rfl
@[simp] theorem setCx_touched (s : State) (c : Context) : (s.setCx c).touched = s.touched := rfl
@[simp] theorem setCx_launches (s : State) (c : Context) : (s.setCx c).launches = s.launches := rfl
@[simp] theorem setCx_lids (s : State) (c : Context) : (s.setCx c).lids = s.lids := rfl
@[simp] theorem setCx_device (s : State) (c : Context) : (s.setCx c).device = s.device := rfl

/-! A unit written. -/

@[simp] theorem setRouter_cores (s : State) (r : Router) : (s.setRouter r).cores = s.cores := rfl
@[simp] theorem setRouter_mem (s : State) (r : Router) : (s.setRouter r).mem = s.mem := rfl
@[simp] theorem setRouter_poison (s : State) (r : Router) : (s.setRouter r).poison = s.poison := rfl
@[simp] theorem setRouter_lat (s : State) (r : Router) : (s.setRouter r).lat = s.lat := rfl
@[simp] theorem setRouter_cur (s : State) (r : Router) : (s.setRouter r).cur = s.cur := rfl
@[simp] theorem setRouter_last (s : State) (r : Router) : (s.setRouter r).last = s.last := rfl
@[simp] theorem setRouter_ended (s : State) (r : Router) : (s.setRouter r).ended = s.ended := rfl
@[simp] theorem setRouter_turn (s : State) (r : Router) : (s.setRouter r).turn = s.turn := rfl
@[simp] theorem setRouter_agenda (s : State) (r : Router) : (s.setRouter r).agenda = s.agenda := rfl
@[simp] theorem setRouter_out (s : State) (r : Router) : (s.setRouter r).out = s.out := rfl
@[simp] theorem setRouter_draws (s : State) (r : Router) : (s.setRouter r).draws = s.draws := rfl
@[simp] theorem setRouter_raised (s : State) (r : Router) : (s.setRouter r).raised = s.raised := rfl
@[simp] theorem setRouter_faultId (s : State) (r : Router) : (s.setRouter r).faultId = s.faultId := rfl
@[simp] theorem setRouter_node (s : State) (r : Router) : (s.setRouter r).node = s.node := rfl
@[simp] theorem setRouter_parts (s : State) (r : Router) : (s.setRouter r).parts = s.parts := rfl
@[simp] theorem setRouter_owners (s : State) (r : Router) : (s.setRouter r).owners = s.owners := rfl
@[simp] theorem setRouter_tlbi (s : State) (r : Router) : (s.setRouter r).tlbi = s.tlbi := rfl
@[simp] theorem setRouter_tlb (s : State) (r : Router) : (s.setRouter r).tlb = s.tlb := rfl
@[simp] theorem setRouter_time (s : State) (r : Router) : (s.setRouter r).time = s.time := rfl
@[simp] theorem setRouter_tstat (s : State) (r : Router) : (s.setRouter r).tstat = s.tstat := rfl
@[simp] theorem setRouter_pc (s : State) (r : Router) : (s.setRouter r).pc = s.pc := rfl
@[simp] theorem setRouter_events (s : State) (r : Router) : (s.setRouter r).events = s.events := rfl
@[simp] theorem setRouter_compl (s : State) (r : Router) : (s.setRouter r).compl = s.compl := rfl
@[simp] theorem setRouter_freezes (s : State) (r : Router) : (s.setRouter r).freezes = s.freezes := rfl
@[simp] theorem setRouter_pairs (s : State) (r : Router) : (s.setRouter r).pairs = s.pairs := rfl
@[simp] theorem setRouter_replies (s : State) (r : Router) : (s.setRouter r).replies = s.replies := rfl
@[simp] theorem setRouter_remote (s : State) (r : Router) : (s.setRouter r).remote = s.remote := rfl
@[simp] theorem setRouter_parked (s : State) (r : Router) : (s.setRouter r).parked = s.parked := rfl
@[simp] theorem setRouter_router (s : State) (r : Router) : (s.setRouter r).router = r := rfl
@[simp] theorem setRouter_fabric (s : State) (r : Router) : (s.setRouter r).fabric = s.fabric := rfl
@[simp] theorem setRouter_sweeps (s : State) (r : Router) : (s.setRouter r).sweeps = s.sweeps := rfl
@[simp] theorem setRouter_bufs (s : State) (r : Router) : (s.setRouter r).bufs = s.bufs := rfl
@[simp] theorem setRouter_intake (s : State) (r : Router) : (s.setRouter r).intake = s.intake := rfl
@[simp] theorem setRouter_mboxes (s : State) (r : Router) : (s.setRouter r).mboxes = s.mboxes := rfl
@[simp] theorem setRouter_touched (s : State) (r : Router) : (s.setRouter r).touched = s.touched := rfl
@[simp] theorem setRouter_launches (s : State) (r : Router) : (s.setRouter r).launches = s.launches := rfl
@[simp] theorem setRouter_lids (s : State) (r : Router) : (s.setRouter r).lids = s.lids := rfl
@[simp] theorem setRouter_device (s : State) (r : Router) : (s.setRouter r).device = s.device := rfl

@[simp] theorem setDevice_cores (s : State) (d : Device) : (s.setDevice d).cores = s.cores := rfl
@[simp] theorem setDevice_mem (s : State) (d : Device) : (s.setDevice d).mem = s.mem := rfl
@[simp] theorem setDevice_poison (s : State) (d : Device) : (s.setDevice d).poison = s.poison := rfl
@[simp] theorem setDevice_lat (s : State) (d : Device) : (s.setDevice d).lat = s.lat := rfl
@[simp] theorem setDevice_cur (s : State) (d : Device) : (s.setDevice d).cur = s.cur := rfl
@[simp] theorem setDevice_last (s : State) (d : Device) : (s.setDevice d).last = s.last := rfl
@[simp] theorem setDevice_ended (s : State) (d : Device) : (s.setDevice d).ended = s.ended := rfl
@[simp] theorem setDevice_turn (s : State) (d : Device) : (s.setDevice d).turn = s.turn := rfl
@[simp] theorem setDevice_agenda (s : State) (d : Device) : (s.setDevice d).agenda = s.agenda := rfl
@[simp] theorem setDevice_out (s : State) (d : Device) : (s.setDevice d).out = s.out := rfl
@[simp] theorem setDevice_draws (s : State) (d : Device) : (s.setDevice d).draws = s.draws := rfl
@[simp] theorem setDevice_raised (s : State) (d : Device) : (s.setDevice d).raised = s.raised := rfl
@[simp] theorem setDevice_faultId (s : State) (d : Device) : (s.setDevice d).faultId = s.faultId := rfl
@[simp] theorem setDevice_node (s : State) (d : Device) : (s.setDevice d).node = s.node := rfl
@[simp] theorem setDevice_parts (s : State) (d : Device) : (s.setDevice d).parts = s.parts := rfl
@[simp] theorem setDevice_owners (s : State) (d : Device) : (s.setDevice d).owners = s.owners := rfl
@[simp] theorem setDevice_tlbi (s : State) (d : Device) : (s.setDevice d).tlbi = s.tlbi := rfl
@[simp] theorem setDevice_tlb (s : State) (d : Device) : (s.setDevice d).tlb = s.tlb := rfl
@[simp] theorem setDevice_time (s : State) (d : Device) : (s.setDevice d).time = s.time := rfl
@[simp] theorem setDevice_tstat (s : State) (d : Device) : (s.setDevice d).tstat = s.tstat := rfl
@[simp] theorem setDevice_pc (s : State) (d : Device) : (s.setDevice d).pc = s.pc := rfl
@[simp] theorem setDevice_events (s : State) (d : Device) : (s.setDevice d).events = s.events := rfl
@[simp] theorem setDevice_compl (s : State) (d : Device) : (s.setDevice d).compl = s.compl := rfl
@[simp] theorem setDevice_freezes (s : State) (d : Device) : (s.setDevice d).freezes = s.freezes := rfl
@[simp] theorem setDevice_pairs (s : State) (d : Device) : (s.setDevice d).pairs = s.pairs := rfl
@[simp] theorem setDevice_replies (s : State) (d : Device) : (s.setDevice d).replies = s.replies := rfl
@[simp] theorem setDevice_remote (s : State) (d : Device) : (s.setDevice d).remote = s.remote := rfl
@[simp] theorem setDevice_parked (s : State) (d : Device) : (s.setDevice d).parked = s.parked := rfl
@[simp] theorem setDevice_router (s : State) (d : Device) : (s.setDevice d).router = s.router := rfl
@[simp] theorem setDevice_fabric (s : State) (d : Device) : (s.setDevice d).fabric = s.fabric := rfl
@[simp] theorem setDevice_sweeps (s : State) (d : Device) : (s.setDevice d).sweeps = s.sweeps := rfl
@[simp] theorem setDevice_bufs (s : State) (d : Device) : (s.setDevice d).bufs = s.bufs := rfl
@[simp] theorem setDevice_intake (s : State) (d : Device) : (s.setDevice d).intake = s.intake := rfl
@[simp] theorem setDevice_mboxes (s : State) (d : Device) : (s.setDevice d).mboxes = s.mboxes := rfl
@[simp] theorem setDevice_touched (s : State) (d : Device) : (s.setDevice d).touched = s.touched := rfl
@[simp] theorem setDevice_launches (s : State) (d : Device) : (s.setDevice d).launches = s.launches := rfl
@[simp] theorem setDevice_lids (s : State) (d : Device) : (s.setDevice d).lids = s.lids := rfl
@[simp] theorem setDevice_device (s : State) (d : Device) : (s.setDevice d).device = d := rfl

@[simp] theorem setFabric_cores (s : State) (f : Fabric) : (s.setFabric f).cores = s.cores := rfl
@[simp] theorem setFabric_mem (s : State) (f : Fabric) : (s.setFabric f).mem = s.mem := rfl
@[simp] theorem setFabric_poison (s : State) (f : Fabric) : (s.setFabric f).poison = s.poison := rfl
@[simp] theorem setFabric_lat (s : State) (f : Fabric) : (s.setFabric f).lat = s.lat := rfl
@[simp] theorem setFabric_cur (s : State) (f : Fabric) : (s.setFabric f).cur = s.cur := rfl
@[simp] theorem setFabric_last (s : State) (f : Fabric) : (s.setFabric f).last = s.last := rfl
@[simp] theorem setFabric_ended (s : State) (f : Fabric) : (s.setFabric f).ended = s.ended := rfl
@[simp] theorem setFabric_turn (s : State) (f : Fabric) : (s.setFabric f).turn = s.turn := rfl
@[simp] theorem setFabric_agenda (s : State) (f : Fabric) : (s.setFabric f).agenda = s.agenda := rfl
@[simp] theorem setFabric_out (s : State) (f : Fabric) : (s.setFabric f).out = s.out := rfl
@[simp] theorem setFabric_draws (s : State) (f : Fabric) : (s.setFabric f).draws = s.draws := rfl
@[simp] theorem setFabric_raised (s : State) (f : Fabric) : (s.setFabric f).raised = s.raised := rfl
@[simp] theorem setFabric_faultId (s : State) (f : Fabric) : (s.setFabric f).faultId = s.faultId := rfl
@[simp] theorem setFabric_node (s : State) (f : Fabric) : (s.setFabric f).node = s.node := rfl
@[simp] theorem setFabric_parts (s : State) (f : Fabric) : (s.setFabric f).parts = s.parts := rfl
@[simp] theorem setFabric_owners (s : State) (f : Fabric) : (s.setFabric f).owners = s.owners := rfl
@[simp] theorem setFabric_tlbi (s : State) (f : Fabric) : (s.setFabric f).tlbi = s.tlbi := rfl
@[simp] theorem setFabric_tlb (s : State) (f : Fabric) : (s.setFabric f).tlb = s.tlb := rfl
@[simp] theorem setFabric_time (s : State) (f : Fabric) : (s.setFabric f).time = s.time := rfl
@[simp] theorem setFabric_tstat (s : State) (f : Fabric) : (s.setFabric f).tstat = s.tstat := rfl
@[simp] theorem setFabric_pc (s : State) (f : Fabric) : (s.setFabric f).pc = s.pc := rfl
@[simp] theorem setFabric_events (s : State) (f : Fabric) : (s.setFabric f).events = s.events := rfl
@[simp] theorem setFabric_compl (s : State) (f : Fabric) : (s.setFabric f).compl = s.compl := rfl
@[simp] theorem setFabric_freezes (s : State) (f : Fabric) : (s.setFabric f).freezes = s.freezes := rfl
@[simp] theorem setFabric_pairs (s : State) (f : Fabric) : (s.setFabric f).pairs = s.pairs := rfl
@[simp] theorem setFabric_replies (s : State) (f : Fabric) : (s.setFabric f).replies = s.replies := rfl
@[simp] theorem setFabric_remote (s : State) (f : Fabric) : (s.setFabric f).remote = s.remote := rfl
@[simp] theorem setFabric_parked (s : State) (f : Fabric) : (s.setFabric f).parked = s.parked := rfl
@[simp] theorem setFabric_router (s : State) (f : Fabric) : (s.setFabric f).router = s.router := rfl
@[simp] theorem setFabric_fabric (s : State) (f : Fabric) : (s.setFabric f).fabric = f := rfl
@[simp] theorem setFabric_sweeps (s : State) (f : Fabric) : (s.setFabric f).sweeps = s.sweeps := rfl
@[simp] theorem setFabric_bufs (s : State) (f : Fabric) : (s.setFabric f).bufs = s.bufs := rfl
@[simp] theorem setFabric_intake (s : State) (f : Fabric) : (s.setFabric f).intake = s.intake := rfl
@[simp] theorem setFabric_mboxes (s : State) (f : Fabric) : (s.setFabric f).mboxes = s.mboxes := rfl
@[simp] theorem setFabric_touched (s : State) (f : Fabric) : (s.setFabric f).touched = s.touched := rfl
@[simp] theorem setFabric_launches (s : State) (f : Fabric) : (s.setFabric f).launches = s.launches := rfl
@[simp] theorem setFabric_lids (s : State) (f : Fabric) : (s.setFabric f).lids = s.lids := rfl
@[simp] theorem setFabric_device (s : State) (f : Fabric) : (s.setFabric f).device = s.device := rfl

@[simp] theorem setLat_cores (s : State) (t : Nat) (r : LatRec) : (s.setLat t r).cores = s.cores := rfl
@[simp] theorem setLat_mem (s : State) (t : Nat) (r : LatRec) : (s.setLat t r).mem = s.mem := rfl
@[simp] theorem setLat_poison (s : State) (t : Nat) (r : LatRec) : (s.setLat t r).poison = s.poison := rfl
@[simp] theorem setLat_lat (s : State) (t : Nat) (r : LatRec) : (s.setLat t r).lat = put s.lat t r := rfl
@[simp] theorem setLat_cur (s : State) (t : Nat) (r : LatRec) : (s.setLat t r).cur = s.cur := rfl
@[simp] theorem setLat_last (s : State) (t : Nat) (r : LatRec) : (s.setLat t r).last = s.last := rfl
@[simp] theorem setLat_ended (s : State) (t : Nat) (r : LatRec) : (s.setLat t r).ended = s.ended := rfl
@[simp] theorem setLat_turn (s : State) (t : Nat) (r : LatRec) : (s.setLat t r).turn = s.turn := rfl
@[simp] theorem setLat_agenda (s : State) (t : Nat) (r : LatRec) : (s.setLat t r).agenda = s.agenda := rfl
@[simp] theorem setLat_out (s : State) (t : Nat) (r : LatRec) : (s.setLat t r).out = s.out := rfl
@[simp] theorem setLat_draws (s : State) (t : Nat) (r : LatRec) : (s.setLat t r).draws = s.draws := rfl
@[simp] theorem setLat_raised (s : State) (t : Nat) (r : LatRec) : (s.setLat t r).raised = s.raised := rfl
@[simp] theorem setLat_faultId (s : State) (t : Nat) (r : LatRec) : (s.setLat t r).faultId = s.faultId := rfl
@[simp] theorem setLat_node (s : State) (t : Nat) (r : LatRec) : (s.setLat t r).node = s.node := rfl
@[simp] theorem setLat_parts (s : State) (t : Nat) (r : LatRec) : (s.setLat t r).parts = s.parts := rfl
@[simp] theorem setLat_owners (s : State) (t : Nat) (r : LatRec) : (s.setLat t r).owners = s.owners := rfl
@[simp] theorem setLat_tlbi (s : State) (t : Nat) (r : LatRec) : (s.setLat t r).tlbi = s.tlbi := rfl
@[simp] theorem setLat_tlb (s : State) (t : Nat) (r : LatRec) : (s.setLat t r).tlb = s.tlb := rfl
@[simp] theorem setLat_time (s : State) (t : Nat) (r : LatRec) : (s.setLat t r).time = s.time := rfl
@[simp] theorem setLat_tstat (s : State) (t : Nat) (r : LatRec) : (s.setLat t r).tstat = s.tstat := rfl
@[simp] theorem setLat_pc (s : State) (t : Nat) (r : LatRec) : (s.setLat t r).pc = s.pc := rfl
@[simp] theorem setLat_events (s : State) (t : Nat) (r : LatRec) : (s.setLat t r).events = s.events := rfl
@[simp] theorem setLat_compl (s : State) (t : Nat) (r : LatRec) : (s.setLat t r).compl = s.compl := rfl
@[simp] theorem setLat_freezes (s : State) (t : Nat) (r : LatRec) : (s.setLat t r).freezes = s.freezes := rfl
@[simp] theorem setLat_pairs (s : State) (t : Nat) (r : LatRec) : (s.setLat t r).pairs = s.pairs := rfl
@[simp] theorem setLat_replies (s : State) (t : Nat) (r : LatRec) : (s.setLat t r).replies = s.replies := rfl
@[simp] theorem setLat_remote (s : State) (t : Nat) (r : LatRec) : (s.setLat t r).remote = s.remote := rfl
@[simp] theorem setLat_parked (s : State) (t : Nat) (r : LatRec) : (s.setLat t r).parked = s.parked := rfl
@[simp] theorem setLat_router (s : State) (t : Nat) (r : LatRec) : (s.setLat t r).router = s.router := rfl
@[simp] theorem setLat_fabric (s : State) (t : Nat) (r : LatRec) : (s.setLat t r).fabric = s.fabric := rfl
@[simp] theorem setLat_sweeps (s : State) (t : Nat) (r : LatRec) : (s.setLat t r).sweeps = s.sweeps := rfl
@[simp] theorem setLat_bufs (s : State) (t : Nat) (r : LatRec) : (s.setLat t r).bufs = s.bufs := rfl
@[simp] theorem setLat_intake (s : State) (t : Nat) (r : LatRec) : (s.setLat t r).intake = s.intake := rfl
@[simp] theorem setLat_mboxes (s : State) (t : Nat) (r : LatRec) : (s.setLat t r).mboxes = s.mboxes := rfl
@[simp] theorem setLat_touched (s : State) (t : Nat) (r : LatRec) : (s.setLat t r).touched = s.touched := rfl
@[simp] theorem setLat_launches (s : State) (t : Nat) (r : LatRec) : (s.setLat t r).launches = s.launches := rfl
@[simp] theorem setLat_lids (s : State) (t : Nat) (r : LatRec) : (s.setLat t r).lids = s.lids := rfl
@[simp] theorem setLat_device (s : State) (t : Nat) (r : LatRec) : (s.setLat t r).device = s.device := rfl

@[simp] theorem setSweep_cores (s : State) (n : Nat) (x : Sweep) : (s.setSweep n x).cores = s.cores := rfl
@[simp] theorem setSweep_mem (s : State) (n : Nat) (x : Sweep) : (s.setSweep n x).mem = s.mem := rfl
@[simp] theorem setSweep_poison (s : State) (n : Nat) (x : Sweep) : (s.setSweep n x).poison = s.poison := rfl
@[simp] theorem setSweep_lat (s : State) (n : Nat) (x : Sweep) : (s.setSweep n x).lat = s.lat := rfl
@[simp] theorem setSweep_cur (s : State) (n : Nat) (x : Sweep) : (s.setSweep n x).cur = s.cur := rfl
@[simp] theorem setSweep_last (s : State) (n : Nat) (x : Sweep) : (s.setSweep n x).last = s.last := rfl
@[simp] theorem setSweep_ended (s : State) (n : Nat) (x : Sweep) : (s.setSweep n x).ended = s.ended := rfl
@[simp] theorem setSweep_turn (s : State) (n : Nat) (x : Sweep) : (s.setSweep n x).turn = s.turn := rfl
@[simp] theorem setSweep_agenda (s : State) (n : Nat) (x : Sweep) : (s.setSweep n x).agenda = s.agenda := rfl
@[simp] theorem setSweep_out (s : State) (n : Nat) (x : Sweep) : (s.setSweep n x).out = s.out := rfl
@[simp] theorem setSweep_draws (s : State) (n : Nat) (x : Sweep) : (s.setSweep n x).draws = s.draws := rfl
@[simp] theorem setSweep_raised (s : State) (n : Nat) (x : Sweep) : (s.setSweep n x).raised = s.raised := rfl
@[simp] theorem setSweep_faultId (s : State) (n : Nat) (x : Sweep) : (s.setSweep n x).faultId = s.faultId := rfl
@[simp] theorem setSweep_node (s : State) (n : Nat) (x : Sweep) : (s.setSweep n x).node = s.node := rfl
@[simp] theorem setSweep_parts (s : State) (n : Nat) (x : Sweep) : (s.setSweep n x).parts = s.parts := rfl
@[simp] theorem setSweep_owners (s : State) (n : Nat) (x : Sweep) : (s.setSweep n x).owners = s.owners := rfl
@[simp] theorem setSweep_tlbi (s : State) (n : Nat) (x : Sweep) : (s.setSweep n x).tlbi = s.tlbi := rfl
@[simp] theorem setSweep_tlb (s : State) (n : Nat) (x : Sweep) : (s.setSweep n x).tlb = s.tlb := rfl
@[simp] theorem setSweep_time (s : State) (n : Nat) (x : Sweep) : (s.setSweep n x).time = s.time := rfl
@[simp] theorem setSweep_tstat (s : State) (n : Nat) (x : Sweep) : (s.setSweep n x).tstat = s.tstat := rfl
@[simp] theorem setSweep_pc (s : State) (n : Nat) (x : Sweep) : (s.setSweep n x).pc = s.pc := rfl
@[simp] theorem setSweep_events (s : State) (n : Nat) (x : Sweep) : (s.setSweep n x).events = s.events := rfl
@[simp] theorem setSweep_compl (s : State) (n : Nat) (x : Sweep) : (s.setSweep n x).compl = s.compl := rfl
@[simp] theorem setSweep_freezes (s : State) (n : Nat) (x : Sweep) : (s.setSweep n x).freezes = s.freezes := rfl
@[simp] theorem setSweep_pairs (s : State) (n : Nat) (x : Sweep) : (s.setSweep n x).pairs = s.pairs := rfl
@[simp] theorem setSweep_replies (s : State) (n : Nat) (x : Sweep) : (s.setSweep n x).replies = s.replies := rfl
@[simp] theorem setSweep_remote (s : State) (n : Nat) (x : Sweep) : (s.setSweep n x).remote = s.remote := rfl
@[simp] theorem setSweep_parked (s : State) (n : Nat) (x : Sweep) : (s.setSweep n x).parked = s.parked := rfl
@[simp] theorem setSweep_router (s : State) (n : Nat) (x : Sweep) : (s.setSweep n x).router = s.router := rfl
@[simp] theorem setSweep_fabric (s : State) (n : Nat) (x : Sweep) : (s.setSweep n x).fabric = s.fabric := rfl
@[simp] theorem setSweep_sweeps (s : State) (n : Nat) (x : Sweep) : (s.setSweep n x).sweeps = put s.sweeps n x := rfl
@[simp] theorem setSweep_bufs (s : State) (n : Nat) (x : Sweep) : (s.setSweep n x).bufs = s.bufs := rfl
@[simp] theorem setSweep_intake (s : State) (n : Nat) (x : Sweep) : (s.setSweep n x).intake = s.intake := rfl
@[simp] theorem setSweep_mboxes (s : State) (n : Nat) (x : Sweep) : (s.setSweep n x).mboxes = s.mboxes := rfl
@[simp] theorem setSweep_touched (s : State) (n : Nat) (x : Sweep) : (s.setSweep n x).touched = s.touched := rfl
@[simp] theorem setSweep_launches (s : State) (n : Nat) (x : Sweep) : (s.setSweep n x).launches = s.launches := rfl
@[simp] theorem setSweep_lids (s : State) (n : Nat) (x : Sweep) : (s.setSweep n x).lids = s.lids := rfl
@[simp] theorem setSweep_device (s : State) (n : Nat) (x : Sweep) : (s.setSweep n x).device = s.device := rfl

@[simp] theorem setMbox_cores (s : State) (n : Nat) (x : Mbox) : (s.setMbox n x).cores = s.cores := rfl
@[simp] theorem setMbox_mem (s : State) (n : Nat) (x : Mbox) : (s.setMbox n x).mem = s.mem := rfl
@[simp] theorem setMbox_poison (s : State) (n : Nat) (x : Mbox) : (s.setMbox n x).poison = s.poison := rfl
@[simp] theorem setMbox_lat (s : State) (n : Nat) (x : Mbox) : (s.setMbox n x).lat = s.lat := rfl
@[simp] theorem setMbox_cur (s : State) (n : Nat) (x : Mbox) : (s.setMbox n x).cur = s.cur := rfl
@[simp] theorem setMbox_last (s : State) (n : Nat) (x : Mbox) : (s.setMbox n x).last = s.last := rfl
@[simp] theorem setMbox_ended (s : State) (n : Nat) (x : Mbox) : (s.setMbox n x).ended = s.ended := rfl
@[simp] theorem setMbox_turn (s : State) (n : Nat) (x : Mbox) : (s.setMbox n x).turn = s.turn := rfl
@[simp] theorem setMbox_agenda (s : State) (n : Nat) (x : Mbox) : (s.setMbox n x).agenda = s.agenda := rfl
@[simp] theorem setMbox_out (s : State) (n : Nat) (x : Mbox) : (s.setMbox n x).out = s.out := rfl
@[simp] theorem setMbox_draws (s : State) (n : Nat) (x : Mbox) : (s.setMbox n x).draws = s.draws := rfl
@[simp] theorem setMbox_raised (s : State) (n : Nat) (x : Mbox) : (s.setMbox n x).raised = s.raised := rfl
@[simp] theorem setMbox_faultId (s : State) (n : Nat) (x : Mbox) : (s.setMbox n x).faultId = s.faultId := rfl
@[simp] theorem setMbox_node (s : State) (n : Nat) (x : Mbox) : (s.setMbox n x).node = s.node := rfl
@[simp] theorem setMbox_parts (s : State) (n : Nat) (x : Mbox) : (s.setMbox n x).parts = s.parts := rfl
@[simp] theorem setMbox_owners (s : State) (n : Nat) (x : Mbox) : (s.setMbox n x).owners = s.owners := rfl
@[simp] theorem setMbox_tlbi (s : State) (n : Nat) (x : Mbox) : (s.setMbox n x).tlbi = s.tlbi := rfl
@[simp] theorem setMbox_tlb (s : State) (n : Nat) (x : Mbox) : (s.setMbox n x).tlb = s.tlb := rfl
@[simp] theorem setMbox_time (s : State) (n : Nat) (x : Mbox) : (s.setMbox n x).time = s.time := rfl
@[simp] theorem setMbox_tstat (s : State) (n : Nat) (x : Mbox) : (s.setMbox n x).tstat = s.tstat := rfl
@[simp] theorem setMbox_pc (s : State) (n : Nat) (x : Mbox) : (s.setMbox n x).pc = s.pc := rfl
@[simp] theorem setMbox_events (s : State) (n : Nat) (x : Mbox) : (s.setMbox n x).events = s.events := rfl
@[simp] theorem setMbox_compl (s : State) (n : Nat) (x : Mbox) : (s.setMbox n x).compl = s.compl := rfl
@[simp] theorem setMbox_freezes (s : State) (n : Nat) (x : Mbox) : (s.setMbox n x).freezes = s.freezes := rfl
@[simp] theorem setMbox_pairs (s : State) (n : Nat) (x : Mbox) : (s.setMbox n x).pairs = s.pairs := rfl
@[simp] theorem setMbox_replies (s : State) (n : Nat) (x : Mbox) : (s.setMbox n x).replies = s.replies := rfl
@[simp] theorem setMbox_remote (s : State) (n : Nat) (x : Mbox) : (s.setMbox n x).remote = s.remote := rfl
@[simp] theorem setMbox_parked (s : State) (n : Nat) (x : Mbox) : (s.setMbox n x).parked = s.parked := rfl
@[simp] theorem setMbox_router (s : State) (n : Nat) (x : Mbox) : (s.setMbox n x).router = s.router := rfl
@[simp] theorem setMbox_fabric (s : State) (n : Nat) (x : Mbox) : (s.setMbox n x).fabric = s.fabric := rfl
@[simp] theorem setMbox_sweeps (s : State) (n : Nat) (x : Mbox) : (s.setMbox n x).sweeps = s.sweeps := rfl
@[simp] theorem setMbox_bufs (s : State) (n : Nat) (x : Mbox) : (s.setMbox n x).bufs = s.bufs := rfl
@[simp] theorem setMbox_intake (s : State) (n : Nat) (x : Mbox) : (s.setMbox n x).intake = s.intake := rfl
@[simp] theorem setMbox_mboxes (s : State) (n : Nat) (x : Mbox) : (s.setMbox n x).mboxes = put s.mboxes n x := rfl
@[simp] theorem setMbox_touched (s : State) (n : Nat) (x : Mbox) : (s.setMbox n x).touched = s.touched := rfl
@[simp] theorem setMbox_launches (s : State) (n : Nat) (x : Mbox) : (s.setMbox n x).launches = s.launches := rfl
@[simp] theorem setMbox_lids (s : State) (n : Nat) (x : Mbox) : (s.setMbox n x).lids = s.lids := rfl
@[simp] theorem setMbox_device (s : State) (n : Nat) (x : Mbox) : (s.setMbox n x).device = s.device := rfl

/-! The transient fields of a slot and an event. -/

@[simp] theorem clear_cores (s : State) : (s.clear).cores = s.cores := rfl
@[simp] theorem clear_mem (s : State) : (s.clear).mem = s.mem := rfl
@[simp] theorem clear_poison (s : State) : (s.clear).poison = s.poison := rfl
@[simp] theorem clear_lat (s : State) : (s.clear).lat = s.lat := rfl
@[simp] theorem clear_cur (s : State) : (s.clear).cur = s.cur := rfl
@[simp] theorem clear_last (s : State) : (s.clear).last = s.last := rfl
@[simp] theorem clear_ended (s : State) : (s.clear).ended = s.ended := rfl
@[simp] theorem clear_turn (s : State) : (s.clear).turn = s.turn := rfl
@[simp] theorem clear_agenda (s : State) : (s.clear).agenda = s.agenda := rfl
@[simp] theorem clear_out (s : State) : (s.clear).out = s.out := rfl
@[simp] theorem clear_draws (s : State) : (s.clear).draws = s.draws := rfl
@[simp] theorem clear_raised (s : State) : (s.clear).raised = 0 := rfl
@[simp] theorem clear_faultId (s : State) : (s.clear).faultId = s.faultId := rfl
@[simp] theorem clear_node (s : State) : (s.clear).node = s.node := rfl
@[simp] theorem clear_parts (s : State) : (s.clear).parts = s.parts := rfl
@[simp] theorem clear_owners (s : State) : (s.clear).owners = s.owners := rfl
@[simp] theorem clear_tlbi (s : State) : (s.clear).tlbi = s.tlbi := rfl
@[simp] theorem clear_tlb (s : State) : (s.clear).tlb = s.tlb := rfl
@[simp] theorem clear_time (s : State) : (s.clear).time = s.time := rfl
@[simp] theorem clear_tstat (s : State) : (s.clear).tstat = s.tstat := rfl
@[simp] theorem clear_pc (s : State) : (s.clear).pc = s.pc := rfl
@[simp] theorem clear_events (s : State) : (s.clear).events = s.events := rfl
@[simp] theorem clear_compl (s : State) : (s.clear).compl = s.compl := rfl
@[simp] theorem clear_freezes (s : State) : (s.clear).freezes = s.freezes := rfl
@[simp] theorem clear_pairs (s : State) : (s.clear).pairs = s.pairs := rfl
@[simp] theorem clear_replies (s : State) : (s.clear).replies = s.replies := rfl
@[simp] theorem clear_remote (s : State) : (s.clear).remote = s.remote := rfl
@[simp] theorem clear_parked (s : State) : (s.clear).parked = s.parked := rfl
@[simp] theorem clear_router (s : State) : (s.clear).router = s.router := rfl
@[simp] theorem clear_fabric (s : State) : (s.clear).fabric = s.fabric := rfl
@[simp] theorem clear_sweeps (s : State) : (s.clear).sweeps = s.sweeps := rfl
@[simp] theorem clear_bufs (s : State) : (s.clear).bufs = s.bufs := rfl
@[simp] theorem clear_intake (s : State) : (s.clear).intake = s.intake := rfl
@[simp] theorem clear_mboxes (s : State) : (s.clear).mboxes = s.mboxes := rfl
@[simp] theorem clear_touched (s : State) : (s.clear).touched = s.touched := rfl
@[simp] theorem clear_launches (s : State) : (s.clear).launches = s.launches := rfl
@[simp] theorem clear_lids (s : State) : (s.clear).lids = s.lids := rfl
@[simp] theorem clear_device (s : State) : (s.clear).device = s.device := rfl

@[simp] theorem done_cores (s : State) : (s.done).cores = s.cores := rfl
@[simp] theorem done_mem (s : State) : (s.done).mem = s.mem := rfl
@[simp] theorem done_poison (s : State) : (s.done).poison = s.poison := rfl
@[simp] theorem done_lat (s : State) : (s.done).lat = s.lat := rfl
@[simp] theorem done_cur (s : State) : (s.done).cur = s.cur := rfl
@[simp] theorem done_last (s : State) : (s.done).last = none := rfl
@[simp] theorem done_ended (s : State) : (s.done).ended = s.ended := rfl
@[simp] theorem done_turn (s : State) : (s.done).turn = s.turn := rfl
@[simp] theorem done_agenda (s : State) : (s.done).agenda = s.agenda := rfl
@[simp] theorem done_out (s : State) : (s.done).out = s.out := rfl
@[simp] theorem done_draws (s : State) : (s.done).draws = s.draws := rfl
@[simp] theorem done_raised (s : State) : (s.done).raised = 0 := rfl
@[simp] theorem done_faultId (s : State) : (s.done).faultId = s.faultId := rfl
@[simp] theorem done_node (s : State) : (s.done).node = s.node := rfl
@[simp] theorem done_parts (s : State) : (s.done).parts = s.parts := rfl
@[simp] theorem done_owners (s : State) : (s.done).owners = s.owners := rfl
@[simp] theorem done_tlbi (s : State) : (s.done).tlbi = s.tlbi := rfl
@[simp] theorem done_tlb (s : State) : (s.done).tlb = s.tlb := rfl
@[simp] theorem done_time (s : State) : (s.done).time = s.time := rfl
@[simp] theorem done_tstat (s : State) : (s.done).tstat = s.tstat := rfl
@[simp] theorem done_pc (s : State) : (s.done).pc = s.pc := rfl
@[simp] theorem done_events (s : State) : (s.done).events = s.events := rfl
@[simp] theorem done_compl (s : State) : (s.done).compl = s.compl := rfl
@[simp] theorem done_freezes (s : State) : (s.done).freezes = s.freezes := rfl
@[simp] theorem done_pairs (s : State) : (s.done).pairs = s.pairs := rfl
@[simp] theorem done_replies (s : State) : (s.done).replies = s.replies := rfl
@[simp] theorem done_remote (s : State) : (s.done).remote = s.remote := rfl
@[simp] theorem done_parked (s : State) : (s.done).parked = s.parked := rfl
@[simp] theorem done_router (s : State) : (s.done).router = s.router := rfl
@[simp] theorem done_fabric (s : State) : (s.done).fabric = s.fabric := rfl
@[simp] theorem done_sweeps (s : State) : (s.done).sweeps = s.sweeps := rfl
@[simp] theorem done_bufs (s : State) : (s.done).bufs = s.bufs := rfl
@[simp] theorem done_intake (s : State) : (s.done).intake = s.intake := rfl
@[simp] theorem done_mboxes (s : State) : (s.done).mboxes = s.mboxes := rfl
@[simp] theorem done_touched (s : State) : (s.done).touched = s.touched := rfl
@[simp] theorem done_launches (s : State) : (s.done).launches = s.launches := rfl
@[simp] theorem done_lids (s : State) : (s.done).lids = s.lids := rfl
@[simp] theorem done_device (s : State) : (s.done).device = s.device := rfl

@[simp] theorem rest_cores (s : State) : (s.rest).cores = s.cores := rfl
@[simp] theorem rest_mem (s : State) : (s.rest).mem = s.mem := rfl
@[simp] theorem rest_poison (s : State) : (s.rest).poison = s.poison := rfl
@[simp] theorem rest_lat (s : State) : (s.rest).lat = s.lat := rfl
@[simp] theorem rest_cur (s : State) : (s.rest).cur = { s.cur with slot := noSlot, cmd := none } := rfl
@[simp] theorem rest_last (s : State) : (s.rest).last = none := rfl
@[simp] theorem rest_ended (s : State) : (s.rest).ended = false := rfl
@[simp] theorem rest_turn (s : State) : (s.rest).turn = s.turn := rfl
@[simp] theorem rest_agenda (s : State) : (s.rest).agenda = s.agenda := rfl
@[simp] theorem rest_out (s : State) : (s.rest).out = s.out := rfl
@[simp] theorem rest_draws (s : State) : (s.rest).draws = s.draws := rfl
@[simp] theorem rest_raised (s : State) : (s.rest).raised = 0 := rfl
@[simp] theorem rest_faultId (s : State) : (s.rest).faultId = s.faultId := rfl
@[simp] theorem rest_node (s : State) : (s.rest).node = s.node := rfl
@[simp] theorem rest_parts (s : State) : (s.rest).parts = s.parts := rfl
@[simp] theorem rest_owners (s : State) : (s.rest).owners = s.owners := rfl
@[simp] theorem rest_tlbi (s : State) : (s.rest).tlbi = s.tlbi := rfl
@[simp] theorem rest_tlb (s : State) : (s.rest).tlb = s.tlb := rfl
@[simp] theorem rest_time (s : State) : (s.rest).time = s.time := rfl
@[simp] theorem rest_tstat (s : State) : (s.rest).tstat = s.tstat := rfl
@[simp] theorem rest_pc (s : State) : (s.rest).pc = s.pc := rfl
@[simp] theorem rest_events (s : State) : (s.rest).events = s.events := rfl
@[simp] theorem rest_compl (s : State) : (s.rest).compl = s.compl := rfl
@[simp] theorem rest_freezes (s : State) : (s.rest).freezes = s.freezes := rfl
@[simp] theorem rest_pairs (s : State) : (s.rest).pairs = s.pairs := rfl
@[simp] theorem rest_replies (s : State) : (s.rest).replies = s.replies := rfl
@[simp] theorem rest_remote (s : State) : (s.rest).remote = s.remote := rfl
@[simp] theorem rest_parked (s : State) : (s.rest).parked = s.parked := rfl
@[simp] theorem rest_router (s : State) : (s.rest).router = s.router := rfl
@[simp] theorem rest_fabric (s : State) : (s.rest).fabric = s.fabric := rfl
@[simp] theorem rest_sweeps (s : State) : (s.rest).sweeps = s.sweeps := rfl
@[simp] theorem rest_bufs (s : State) : (s.rest).bufs = s.bufs := rfl
@[simp] theorem rest_intake (s : State) : (s.rest).intake = s.intake := rfl
@[simp] theorem rest_mboxes (s : State) : (s.rest).mboxes = s.mboxes := rfl
@[simp] theorem rest_touched (s : State) : (s.rest).touched = s.touched := rfl
@[simp] theorem rest_launches (s : State) : (s.rest).launches = s.launches := rfl
@[simp] theorem rest_lids (s : State) : (s.rest).lids = s.lids := rfl
@[simp] theorem rest_device (s : State) : (s.rest).device = s.device := rfl

/-! A context within its core. -/

@[simp] theorem setCtx_holder (k : Core) (i : BitVec 2) (c : Context) : (k.setCtx i c).holder = k.holder := rfl
@[simp] theorem setCtx_fis (k : Core) (i : BitVec 2) (c : Context) : (k.setCtx i c).fis = k.fis := rfl
@[simp] theorem setCtx_fences (k : Core) (i : BitVec 2) (c : Context) : (k.setCtx i c).fences = k.fences := rfl
@[simp] theorem setCtx_tiles (k : Core) (i : BitVec 2) (c : Context) : (k.setCtx i c).tiles = k.tiles := rfl
@[simp] theorem setCtx_xpose (k : Core) (i : BitVec 2) (c : Context) : (k.setCtx i c).xpose = k.xpose := rfl
@[simp] theorem setCtx_xf (k : Core) (i : BitVec 2) (c : Context) : (k.setCtx i c).xf = k.xf := rfl
@[simp] theorem setCtx_xg (k : Core) (i : BitVec 2) (c : Context) : (k.setCtx i c).xg = k.xg := rfl
@[simp] theorem setCtx_xowner (k : Core) (i : BitVec 2) (c : Context) : (k.setCtx i c).xowner = k.xowner := rfl
@[simp] theorem setCtx_ltt (k : Core) (i : BitVec 2) (c : Context) : (k.setCtx i c).ltt = k.ltt := rfl
@[simp] theorem setCtx_ltti (k : Core) (i : BitVec 2) (c : Context) : (k.setCtx i c).ltti = k.ltti := rfl
@[simp] theorem setCtx_lttRej (k : Core) (i : BitVec 2) (c : Context) : (k.setCtx i c).lttRej = k.lttRej := rfl
@[simp] theorem setCtx_lttaNew (k : Core) (i : BitVec 2) (c : Context) : (k.setCtx i c).lttaNew = k.lttaNew := rfl
@[simp] theorem setCtx_tvec (k : Core) (i : BitVec 2) (c : Context) : (k.setCtx i c).tvec = k.tvec := rfl
@[simp] theorem setCtx_scorr (k : Core) (i : BitVec 2) (c : Context) : (k.setCtx i c).scorr = k.scorr := rfl
@[simp] theorem setCtx_ccorr (k : Core) (i : BitVec 2) (c : Context) : (k.setCtx i c).ccorr = k.ccorr := rfl
@[simp] theorem setCtx_log (k : Core) (i : BitVec 2) (c : Context) : (k.setCtx i c).log = k.log := rfl
@[simp] theorem setCtx_nt (k : Core) (i : BitVec 2) (c : Context) : (k.setCtx i c).nt = k.nt := rfl
@[simp] theorem setCtx_ntNum (k : Core) (i : BitVec 2) (c : Context) : (k.setCtx i c).ntNum = k.ntNum := rfl
@[simp] theorem setCtx_late (k : Core) (i : BitVec 2) (c : Context) : (k.setCtx i c).late = k.late := rfl
@[simp] theorem setCtx_dqs (k : Core) (i : BitVec 2) (c : Context) : (k.setCtx i c).dqs = k.dqs := rfl
@[simp] theorem setCtx_csp (k : Core) (i : BitVec 2) (c : Context) : (k.setCtx i c).csp = k.csp := rfl
@[simp] theorem setCtx_order (k : Core) (i : BitVec 2) (c : Context) : (k.setCtx i c).order = k.order := rfl
@[simp] theorem setCtx_bundles (k : Core) (i : BitVec 2) (c : Context) : (k.setCtx i c).bundles = k.bundles := rfl
@[simp] theorem setCtx_reqId (k : Core) (i : BitVec 2) (c : Context) : (k.setCtx i c).reqId = k.reqId := rfl
@[simp] theorem setCtx_stopped (k : Core) (i : BitVec 2) (c : Context) : (k.setCtx i c).stopped = k.stopped := rfl
@[simp] theorem setCtx_ccyc (k : Core) (i : BitVec 2) (c : Context) : (k.setCtx i c).ccyc = k.ccyc := rfl
@[simp] theorem setCtx_smpc (k : Core) (i : BitVec 2) (c : Context) : (k.setCtx i c).smpc = k.smpc := rfl
@[simp] theorem setCtx_smph (k : Core) (i : BitVec 2) (c : Context) : (k.setCtx i c).smph = k.smph := rfl
@[simp] theorem setCtx_smpt (k : Core) (i : BitVec 2) (c : Context) : (k.setCtx i c).smpt = k.smpt := rfl
@[simp] theorem setCtx_smpd (k : Core) (i : BitVec 2) (c : Context) : (k.setCtx i c).smpd = k.smpd := rfl
@[simp] theorem setCtx_image (k : Core) (i : BitVec 2) (c : Context) : (k.setCtx i c).image = k.image := rfl
@[simp] theorem setCtx_stopAt (k : Core) (i : BitVec 2) (c : Context) : (k.setCtx i c).stopAt = k.stopAt := rfl

/-! A timeline within its context. -/

@[simp] theorem setTl_tl (c : Context) (t : Tl) (x : Timeline) : (c.setTl t x).tl t = x := by
  cases t <;> rfl
theorem setTl_tl_other (c : Context) (t u : Tl) (x : Timeline) (h : u ≠ t) : (c.setTl t x).tl u = c.tl u := by
  cases t <;> cases u <;> first | rfl | exact absurd rfl h
@[simp] theorem setTl_s (c : Context) (t : Tl) (x : Timeline) : (c.setTl t x).s = c.s := by cases t <;> rfl
@[simp] theorem setTl_v (c : Context) (t : Tl) (x : Timeline) : (c.setTl t x).v = c.v := by cases t <;> rfl
@[simp] theorem setTl_vchk (c : Context) (t : Tl) (x : Timeline) : (c.setTl t x).vchk = c.vchk := by cases t <;> rfl
@[simp] theorem setTl_p (c : Context) (t : Tl) (x : Timeline) : (c.setTl t x).p = c.p := by cases t <;> rfl
@[simp] theorem setTl_b (c : Context) (t : Tl) (x : Timeline) : (c.setTl t x).b = c.b := by cases t <;> rfl
@[simp] theorem setTl_loops (c : Context) (t : Tl) (x : Timeline) : (c.setTl t x).loops = c.loops :=
  by cases t <;> rfl
@[simp] theorem setTl_m (c : Context) (t : Tl) (x : Timeline) : (c.setTl t x).m = c.m := by cases t <;> rfl
@[simp] theorem setTl_k (c : Context) (t : Tl) (x : Timeline) : (c.setTl t x).k = c.k := by cases t <;> rfl
@[simp] theorem setTl_fmt (c : Context) (t : Tl) (x : Timeline) : (c.setTl t x).fmt = c.fmt := by cases t <;> rfl
@[simp] theorem setTl_streams (c : Context) (t : Tl) (x : Timeline) : (c.setTl t x).streams = c.streams :=
  by cases t <;> rfl
@[simp] theorem setTl_landing (c : Context) (t : Tl) (x : Timeline) : (c.setTl t x).landing = c.landing :=
  by cases t <;> rfl
@[simp] theorem setTl_kept (c : Context) (t : Tl) (x : Timeline) : (c.setTl t x).kept = c.kept := by cases t <;> rfl
@[simp] theorem setTl_ip (c : Context) (t : Tl) (x : Timeline) : (c.setTl t x).ip = c.ip := by cases t <;> rfl
@[simp] theorem setTl_ic (c : Context) (t : Tl) (x : Timeline) : (c.setTl t x).ic = c.ic := by cases t <;> rfl
@[simp] theorem setTl_redir (c : Context) (t : Tl) (x : Timeline) : (c.setTl t x).redir = c.redir :=
  by cases t <;> rfl
@[simp] theorem setTl_fpf (c : Context) (t : Tl) (x : Timeline) : (c.setTl t x).fpf = c.fpf := by cases t <;> rfl
@[simp] theorem setTl_cki (c : Context) (t : Tl) (x : Timeline) : (c.setTl t x).cki = c.cki := by cases t <;> rfl
@[simp] theorem setTl_pmk (c : Context) (t : Tl) (x : Timeline) : (c.setTl t x).pmk = c.pmk := by cases t <;> rfl
@[simp] theorem setTl_scr (c : Context) (t : Tl) (x : Timeline) : (c.setTl t x).scr = c.scr := by cases t <;> rfl
@[simp] theorem setTl_tcause (c : Context) (t : Tl) (x : Timeline) : (c.setTl t x).tcause = c.tcause :=
  by cases t <;> rfl
@[simp] theorem setTl_tip (c : Context) (t : Tl) (x : Timeline) : (c.setTl t x).tip = c.tip := by cases t <;> rfl
@[simp] theorem setTl_taddr (c : Context) (t : Tl) (x : Timeline) : (c.setTl t x).taddr = c.taddr :=
  by cases t <;> rfl
@[simp] theorem setTl_tseq (c : Context) (t : Tl) (x : Timeline) : (c.setTl t x).tseq = c.tseq := by cases t <;> rfl
@[simp] theorem setTl_tval (c : Context) (t : Tl) (x : Timeline) : (c.setTl t x).tval = c.tval := by cases t <;> rfl
@[simp] theorem setTl_dip (c : Context) (t : Tl) (x : Timeline) : (c.setTl t x).dip = c.dip := by cases t <;> rfl
@[simp] theorem setTl_crs (c : Context) (t : Tl) (x : Timeline) : (c.setTl t x).crs = c.crs := by cases t <;> rfl
@[simp] theorem setTl_st (c : Context) (t : Tl) (x : Timeline) : (c.setTl t x).st = c.st := by cases t <;> rfl
@[simp] theorem setTl_svc (c : Context) (t : Tl) (x : Timeline) : (c.setTl t x).svc = c.svc := by cases t <;> rfl
@[simp] theorem setTl_shchk (c : Context) (t : Tl) (x : Timeline) : (c.setTl t x).shchk = c.shchk :=
  by cases t <;> rfl
@[simp] theorem setTl_drain (c : Context) (t : Tl) (x : Timeline) : (c.setTl t x).drain = c.drain :=
  by cases t <;> rfl
@[simp] theorem setTl_stubLen (c : Context) (t : Tl) (x : Timeline) : (c.setTl t x).stubLen = c.stubLen :=
  by cases t <;> rfl
@[simp] theorem setTl_diverted (c : Context) (t : Tl) (x : Timeline) : (c.setTl t x).diverted = c.diverted :=
  by cases t <;> rfl
@[simp] theorem setTl_preq (c : Context) (t : Tl) (x : Timeline) : (c.setTl t x).preq = c.preq := by cases t <;> rfl
@[simp] theorem setTl_bcause (c : Context) (t : Tl) (x : Timeline) : (c.setTl t x).bcause = c.bcause :=
  by cases t <;> rfl
@[simp] theorem setTl_bslot (c : Context) (t : Tl) (x : Timeline) : (c.setTl t x).bslot = c.bslot :=
  by cases t <;> rfl
@[simp] theorem setTl_resid (c : Context) (t : Tl) (x : Timeline) : (c.setTl t x).resid = c.resid :=
  by cases t <;> rfl
@[simp] theorem setTl_latch (c : Context) (t : Tl) (x : Timeline) : (c.setTl t x).latch = c.latch :=
  by cases t <;> rfl
@[simp] theorem setTl_region (c : Context) (t : Tl) (x : Timeline) : (c.setTl t x).region = c.region :=
  by cases t <;> rfl
@[simp] theorem setTl_staging (c : Context) (t : Tl) (x : Timeline) : (c.setTl t x).staging = c.staging :=
  by cases t <;> rfl
@[simp] theorem setTl_efaults (c : Context) (t : Tl) (x : Timeline) : (c.setTl t x).efaults = c.efaults :=
  by cases t <;> rfl
@[simp] theorem setTl_task (c : Context) (t : Tl) (x : Timeline) : (c.setTl t x).task = c.task := by cases t <;> rfl
@[simp] theorem setTl_tmr (c : Context) (t : Tl) (x : Timeline) : (c.setTl t x).tmr = c.tmr := by cases t <;> rfl
@[simp] theorem setTl_exiting (c : Context) (t : Tl) (x : Timeline) : (c.setTl t x).exiting = c.exiting :=
  by cases t <;> rfl
@[simp] theorem setTl_trapped (c : Context) (t : Tl) (x : Timeline) : (c.setTl t x).trapped = c.trapped :=
  by cases t <;> rfl
@[simp] theorem setTl_killed (c : Context) (t : Tl) (x : Timeline) : (c.setTl t x).killed = c.killed :=
  by cases t <;> rfl
@[simp] theorem setTl_saved (c : Context) (t : Tl) (x : Timeline) : (c.setTl t x).saved = c.saved :=
  by cases t <;> rfl
@[simp] theorem setTl_frozen (c : Context) (t : Tl) (x : Timeline) : (c.setTl t x).frozen = c.frozen :=
  by cases t <;> rfl
@[simp] theorem setTl_nested (c : Context) (t : Tl) (x : Timeline) : (c.setTl t x).nested = c.nested :=
  by cases t <;> rfl
@[simp] theorem setTl_mnext (c : Context) (t : Tl) (x : Timeline) : (c.setTl t x).mnext = c.mnext :=
  by cases t <;> rfl
@[simp] theorem setTl_mseq (c : Context) (t : Tl) (x : Timeline) : (c.setTl t x).mseq = c.mseq := by cases t <;> rfl
@[simp] theorem setTl_tpend (c : Context) (t : Tl) (x : Timeline) : (c.setTl t x).tpend = c.tpend :=
  by cases t <;> rfl
@[simp] theorem setTl_preqLeft (c : Context) (t : Tl) (x : Timeline) : (c.setTl t x).preqLeft = c.preqLeft :=
  by cases t <;> rfl
@[simp] theorem setTl_skip (c : Context) (t : Tl) (x : Timeline) : (c.setTl t x).skip = c.skip := by cases t <;> rfl
@[simp] theorem setTl_ckiClr (c : Context) (t : Tl) (x : Timeline) : (c.setTl t x).ckiClr = c.ckiClr :=
  by cases t <;> rfl
@[simp] theorem setTl_ckiSet (c : Context) (t : Tl) (x : Timeline) : (c.setTl t x).ckiSet = c.ckiSet :=
  by cases t <;> rfl
@[simp] theorem setTl_restore (c : Context) (t : Tl) (x : Timeline) : (c.setTl t x).restore = c.restore :=
  by cases t <;> rfl
@[simp] theorem setTl_loopOp (c : Context) (t : Tl) (x : Timeline) : (c.setTl t x).loopOp = c.loopOp :=
  by cases t <;> rfl
@[simp] theorem setTl_regionOp (c : Context) (t : Tl) (x : Timeline) : (c.setTl t x).regionOp = c.regionOp :=
  by cases t <;> rfl

end Sys2Proof.Machine
end

