-- ==== Sys2Proof/Laws/Ops.lean ====
section
/-! SUPPORT. What the shared operations do: tables, memory in its canonical form, the accessors of cores and contexts, and
the slots that run to their end. -/

set_option Elab.async false

namespace Sys2Proof.Machine

/-! Tables. -/

theorem look_put_same {α : Type} (l : List (Nat × α)) (k : Nat) (x : α) : look (put l k x) k = some x := by
  induction l with
  | nil => simp [put, look]
  | cons h t ih =>
    obtain ⟨j, y⟩ := h
    unfold put
    split
    · simp [look]
    · split
      · simp [look]
      · rename_i hj
        simp [look, hj, ih]

theorem look_put_other {α : Type} (l : List (Nat × α)) (k j : Nat) (x : α) (h : j ≠ k) :
    look (put l k x) j = look l j := by
  induction l with
  | nil => simp [put, look, Ne.symm h]
  | cons hd t ih =>
    obtain ⟨m, y⟩ := hd
    unfold put
    split
    · simp [look, Ne.symm h]
    · split
      · rename_i hm
        subst hm
        simp [look, Ne.symm h]
      · simp [look, ih]

theorem look_del_same {α : Type} (l : List (Nat × α)) (k : Nat) : look (del l k) k = none := by
  induction l with
  | nil => rfl
  | cons hd t ih =>
    obtain ⟨m, y⟩ := hd
    unfold del
    split
    · exact ih
    · rename_i hm
      simp [look, hm, ih]

theorem look_del_other {α : Type} (l : List (Nat × α)) (k j : Nat) (h : j ≠ k) : look (del l k) j = look l j := by
  induction l with
  | nil => rfl
  | cons hd t ih =>
    obtain ⟨m, y⟩ := hd
    unfold del
    split
    · rename_i hm
      subst hm
      simp [look, Ne.symm h, ih]
    · simp [look, ih]

/-! Memory. -/

theorem read_write_same (m : Mem) (a : Nat) (b : Byte) : Mem.read (Mem.write m a b) a = b := by
  unfold Mem.read Mem.write
  split
  · rename_i h
    simp [look_del_same, h]
  · simp [look_put_same]

theorem read_write_other (m : Mem) (a c : Nat) (b : Byte) (h : c ≠ a) : Mem.read (Mem.write m a b) c = Mem.read m c := by
  unfold Mem.read Mem.write
  split
  · rw [look_del_other _ _ _ h]
  · rw [look_put_other _ _ _ _ h]

theorem wfFrom_del (m : Mem) (a lo lo' : Nat) (h : lo' ≤ lo) (hm : Mem.wfFrom m lo = true) :
    Mem.wfFrom (del m a) lo' = true := by
  induction m generalizing lo lo' with
  | nil => rfl
  | cons hd t ih =>
    obtain ⟨j, y⟩ := hd
    simp only [Mem.wfFrom, Bool.and_eq_true, decide_eq_true_eq] at hm
    unfold del
    split
    · exact ih (j + 1) lo' (by omega) hm.2
    · simp only [Mem.wfFrom, Bool.and_eq_true, decide_eq_true_eq]
      exact ⟨⟨by omega, hm.1.2⟩, ih (j + 1) (j + 1) (by omega) hm.2⟩

theorem wfFrom_put (m : Mem) (a lo : Nat) (b : Byte) (hb : b ≠ 0) (hl : lo ≤ a) (hm : Mem.wfFrom m lo = true) :
    Mem.wfFrom (put m a b) lo = true := by
  induction m generalizing lo with
  | nil =>
    simp only [put, Mem.wfFrom, Bool.and_eq_true, decide_eq_true_eq, bne_iff_ne]
    exact ⟨⟨hl, hb⟩, trivial⟩
  | cons hd t ih =>
    obtain ⟨j, y⟩ := hd
    simp only [Mem.wfFrom, Bool.and_eq_true, decide_eq_true_eq] at hm
    unfold put
    split
    · rename_i hj
      simp only [Mem.wfFrom, Bool.and_eq_true, decide_eq_true_eq, bne_iff_ne]
      exact ⟨⟨hl, hb⟩, ⟨by omega, by simpa using hm.1.2⟩, hm.2⟩
    · split
      · rename_i hj
        subst hj
        simp only [Mem.wfFrom, Bool.and_eq_true, decide_eq_true_eq, bne_iff_ne]
        exact ⟨⟨hl, hb⟩, hm.2⟩
      · simp only [Mem.wfFrom, Bool.and_eq_true, decide_eq_true_eq]
        exact ⟨⟨hm.1.1, hm.1.2⟩, ih (j + 1) (by omega) hm.2⟩

/-- A byte write keeps the canonical form. -/
theorem wf_write (m : Mem) (a : Nat) (b : Byte) (hm : Mem.wf m = true) : Mem.wf (Mem.write m a b) = true := by
  unfold Mem.write
  split
  · exact wfFrom_del m a 0 0 (Nat.le_refl 0) hm
  · rename_i hb
    exact wfFrom_put m a 0 b hb (Nat.zero_le a) hm

/-- So does a write of any number of bytes. -/
theorem wf_writeBytes (m : Mem) (a : Nat) (bs : List Byte) (hm : Mem.wf m = true) :
    Mem.wf (Mem.writeBytes m a bs) = true := by
  induction bs generalizing m a with
  | nil => exact hm
  | cons b rest ih => exact ih _ _ (wf_write m a b hm)

/-- A filter keeps the canonical form: a freed partition's resources read 0 (14 R378). -/
theorem wfFrom_filter (m : Mem) (f : Host.Cell → Bool) (lo lo' : Nat) (h : lo' ≤ lo) (hm : Mem.wfFrom m lo = true) :
    Mem.wfFrom (m.filter f) lo' = true := by
  induction m generalizing lo lo' with
  | nil => rfl
  | cons hd t ih =>
    obtain ⟨j, y⟩ := hd
    simp only [Mem.wfFrom, Bool.and_eq_true, decide_eq_true_eq] at hm
    simp only [List.filter_cons]
    split
    · simp only [Mem.wfFrom, Bool.and_eq_true, decide_eq_true_eq]
      exact ⟨⟨by omega, hm.1.2⟩, ih (j + 1) (j + 1) (by omega) hm.2⟩
    · exact ih (j + 1) lo' (by omega) hm.2

/-- Bytes outside a write read as before. -/
theorem read_writeBytes_other (m : Mem) (a c : Nat) (bs : List Byte) (h : c < a ∨ a + bs.length ≤ c) :
    Mem.read (Mem.writeBytes m a bs) c = Mem.read m c := by
  induction bs generalizing m a with
  | nil => rfl
  | cons b rest ih =>
    simp only [List.length_cons] at h
    unfold Mem.writeBytes
    rw [ih _ _ (by omega), read_write_other _ _ _ _ (by omega)]

/-! Cores and contexts. -/

@[simp] theorem core_setCore (s : State) (n : Nat) (k : Core) : (s.setCore n k).core n = k := by
  simp [State.core, State.setCore, look_put_same]

theorem core_setCore_other (s : State) (n m : Nat) (k : Core) (h : m ≠ n) : (s.setCore n k).core m = s.core m := by
  simp [State.core, State.setCore, look_put_other _ _ _ _ h]

@[simp] theorem ctx_setCtx (k : Core) (i : BitVec 2) (c : Context) : (k.setCtx i c).ctxs.get i.toFin = c := by
  show (k.ctxs.set i.toNat c i.isLt)[i.toNat] = c
  simp

theorem ctx_setCtx_other (k : Core) (i j : BitVec 2) (c : Context) (h : j ≠ i) :
    (k.setCtx i c).ctxs.get j.toFin = k.ctxs.get j.toFin := by
  have : i.toNat ≠ j.toNat := fun e => h (BitVec.eq_of_toNat_eq e.symm)
  show (k.ctxs.set i.toNat c i.isLt)[j.toNat] = k.ctxs[j.toNat]
  simp [this]

@[simp] theorem ctxAt_setCtxAt (s : State) (n : Nat) (i : BitVec 2) (c : Context) : (s.setCtxAt n i c).ctxAt n i = c := by
  simp [State.ctxAt, State.setCtxAt]

theorem ctxAt_setCtxAt_other (s : State) (n m : Nat) (i j : BitVec 2) (c : Context) (h : m ≠ n ∨ j ≠ i) :
    (s.setCtxAt n i c).ctxAt m j = s.ctxAt m j := by
  unfold State.ctxAt State.setCtxAt
  by_cases hm : m = n
  · subst hm
    rw [core_setCore, ctx_setCtx_other _ _ _ _ (h.resolve_left (fun e => e rfl))]
  · rw [core_setCore_other _ _ _ _ hm]

@[simp] theorem cx_setCx (s : State) (c : Context) : (s.setCx c).cx = c := by
  simp [State.cx, State.setCx, State.setCtxAt, State.setCore, State.ctxAt, State.core, look_put_same]

@[simp] theorem co_setCo (s : State) (k : Core) : (s.setCo k).co = k := by
  simp [State.co, State.setCo, State.setCore, State.core, look_put_same]

/-! A slot that runs to its end. -/

theorem checkReads_ok (s : State) (rs : List Reg) (h : s.CanRead rs) : checkReads s rs = .ok () := by
  obtain ⟨h1, h2⟩ := h
  unfold checkReads
  rw [h1]
  simp only [Bool.false_eq_true, if_false]
  by_cases hc : s.cx.shchk = true
  · simp [hc, h2 hc]
  · simp [hc]

/-- A slot whose test holds, that nothing blocks and whose registers can be read, does what it does. -/
theorem runSlot_runs (p : Pred) (rs : List Reg) (block : State → Option Nat) (act : State → Except Stop State) (s : State)
    (h : s.Runs p rs) (hb : block s = none) : runSlot p rs block act s = act s := by
  unfold runSlot
  rw [if_pos h.1, hb]
  simp only [checkReads_ok s _ h.2]

/-- A slot whose test fails and whose predicate can be read does nothing (02 R40). -/
theorem runSlot_off (p : Pred) (rs : List Reg) (block : State → Option Nat) (act : State → Except Stop State) (s : State)
    (h : s.test p = false) (hr : s.CanRead (predReads p)) : runSlot p rs block act s = .ok s := by
  unfold runSlot
  simp only [h, Bool.false_eq_true, if_false, checkReads_ok s _ hr]

theorem checkKept_ok (s : State) (rs : List Reg) (h : rs.any s.cx.overdue = false) : checkKept s rs = .ok () := by
  unfold checkKept
  rw [h]
  rfl

/-- A vector slot that meets `RunsVec` and that nothing blocks does what it does, on the rows of its sources. -/
theorem runVec_runs (p : Pred) (srcs : List (BitVec 6)) (regs : List Reg) (dst : Option (BitVec 6))
    (keptP : Option (BitVec 5)) (keeps : Word → Bool) (block : State → Option Nat)
    (act : Word → List VReg → State → Except Stop State) (s : State) (h : s.RunsVec p srcs regs dst keptP keeps)
    (hb : block s = none) :
    runVec p srcs regs dst keptP keeps block act s = act (s.mask p) (s.vals srcs) (s.popped srcs) := by
  unfold runVec
  have hk : checkKept s (if keeps (s.mask p) = true then keptRegs dst keptP else []) = .ok () := by
    apply checkKept_ok
    split
    · exact h.kept ‹_›
    · rfl
  simp only [if_neg h.active, h.arrived, Bool.not_true, Bool.false_eq_true, if_false, h.room, hb, hk,
    checkReads_ok s _ h.reads, h.sound, if_true]
  rfl

theorem checkReads_clear (s : State) (rs : List Reg) : checkReads s.clear rs = checkReads s rs := rfl

theorem finish_ok (body : State → Except Stop State) (s t : State) (h : body s.clear = .ok t) :
    finish body s = .next t.done := by
  unfold finish
  rw [show ({ s with raised := 0 } : State) = s.clear from rfl, h]
  rfl

/-- A slot that is stopped leaves what the stop leaves. -/
theorem finish_stop (body : State → Except Stop State) (s : State) (e : Stop) (h : body s.clear = .error e) :
    finish body s = .next { s.enterStop e with last := some e, raised := 0 } := by
  unfold finish
  rw [show ({ s with raised := 0 } : State) = s.clear from rfl, h]

theorem settle_eq (s : State) : settle s = .next s.rest := rfl

/-- A slot instruction of slots 0, 1, 2 and 5 that runs: what its body does. -/
theorem finish_runSlot (p : Pred) (rs : List Reg) (block : State → Option Nat) (act : State → Except Stop State) (s t : State)
    (h : s.Runs p rs) (hb : block s.clear = none) (ht : act s.clear = .ok t) :
    finish (runSlot p rs block act) s = .next t.done :=
  finish_ok _ _ _ (by rw [runSlot_runs p rs block act s.clear h hb, ht])

/-- A slot instruction of slots 0, 1, 2 and 5 that its body stops. -/
theorem finish_runSlot_stop (p : Pred) (rs : List Reg) (block : State → Option Nat) (act : State → Except Stop State)
    (s : State) (e : Stop) (h : s.Runs p rs) (hb : block s.clear = none) (ht : act s.clear = .error e) :
    finish (runSlot p rs block act) s = .next { s.enterStop e with last := some e, raised := 0 } :=
  finish_stop _ _ _ (by rw [runSlot_runs p rs block act s.clear h hb, ht])

/-- A slot instruction of slots 0, 1, 2 and 5 that its body stops with a trap. -/
theorem finish_runSlot_trap (p : Pred) (rs : List Reg) (block : State → Option Nat) (act : State → Except Stop State)
    (s : State) (c k : Nat) (a : Word) (h : s.Runs p rs) (hb : block s.clear = none)
    (ht : act s.clear = .error (.trap c k s.cur.slot a)) :
    finish (runSlot p rs block act) s = .next (s.stoppedBy c k a) :=
  finish_runSlot_stop _ _ _ _ _ _ h hb ht

/-- A vector instruction that runs: what its body does. -/
theorem finish_runVec (p : Pred) (srcs : List (BitVec 6)) (regs : List Reg) (dst : Option (BitVec 6))
    (keptP : Option (BitVec 5)) (keeps : Word → Bool) (block : State → Option Nat)
    (act : Word → List VReg → State → Except Stop State) (s t : State) (h : s.RunsVec p srcs regs dst keptP keeps)
    (hb : block s.clear = none) (ht : act (s.mask p) (s.vals srcs) (s.clear.popped srcs) = .ok t) :
    finish (runVec p srcs regs dst keptP keeps block act) s = .next t.done := by
  have hc : s.clear.RunsVec p srcs regs dst keptP keeps :=
    ⟨h.active, h.arrived, h.room, h.kept, h.reads, h.sound⟩
  exact finish_ok _ _ _ (by rw [runVec_runs p srcs regs dst keptP keeps block act s.clear hc hb]; exact ht)

/-- A vector instruction that its body stops with a trap. -/
theorem finish_runVec_trap (p : Pred) (srcs : List (BitVec 6)) (regs : List Reg) (dst : Option (BitVec 6))
    (keptP : Option (BitVec 5)) (keeps : Word → Bool) (block : State → Option Nat)
    (act : Word → List VReg → State → Except Stop State) (s : State) (c k : Nat) (a : Word)
    (h : s.RunsVec p srcs regs dst keptP keeps) (hb : block s.clear = none)
    (ht : act (s.mask p) (s.vals srcs) (s.clear.popped srcs) = .error (.trap c k s.cur.slot a)) :
    finish (runVec p srcs regs dst keptP keeps block act) s = .next (s.stoppedBy c k a) := by
  have hc : s.clear.RunsVec p srcs regs dst keptP keeps :=
    ⟨h.active, h.arrived, h.room, h.kept, h.reads, h.sound⟩
  exact finish_stop (runVec p srcs regs dst keptP keeps block act) s (.trap c k s.cur.slot a)
    (by rw [runVec_runs p srcs regs dst keptP keeps block act s.clear hc hb]; exact ht)

/-! What the taking of stream elements leaves alone. -/

theorem popped_cx (s : State) (l : List (BitVec 6)) : (s.popped l).cx = (popsOf l).foldl Context.popOne s.cx := by
  simp [State.popped]

/-- A property of contexts that a pop keeps holds after any number of pops. -/
theorem pops_keep {α : Type} (f : Context → α) (hf : ∀ c n, f (Context.popOne c n) = f c) (l : List (BitVec 4)) (c : Context) :
    f (l.foldl Context.popOne c) = f c := by
  induction l generalizing c with
  | nil => rfl
  | cons n rest ih => rw [List.foldl_cons, ih, hf]

@[simp] theorem popped_fmt (s : State) (l : List (BitVec 6)) : (s.popped l).cx.fmt = s.cx.fmt := by
  rw [popped_cx, pops_keep Context.fmt (fun _ _ => rfl)]
@[simp] theorem popped_rs (s : State) (l : List (BitVec 6)) (a : BitVec 6) : (s.popped l).cx.rs a = s.cx.rs a := by
  rw [popped_cx, pops_keep (fun c => c.rs a) (fun _ _ => rfl)]
@[simp] theorem popped_rp (s : State) (l : List (BitVec 6)) (a : BitVec 5) : (s.popped l).cx.rp a = s.cx.rp a := by
  rw [popped_cx, pops_keep (fun c => c.rp a) (fun _ _ => rfl)]
@[simp] theorem popped_rk (s : State) (l : List (BitVec 6)) (a : BitVec 3) : (s.popped l).cx.rk a = s.cx.rk a := by
  rw [popped_cx, pops_keep (fun c => c.rk a) (fun _ _ => rfl)]
@[simp] theorem popped_svc (s : State) (l : List (BitVec 6)) : (s.popped l).cx.svc = s.cx.svc := by
  rw [popped_cx, pops_keep Context.svc (fun _ _ => rfl)]
@[simp] theorem popped_addrM (s : State) (l : List (BitVec 6)) (a x : BitVec 6) (sc : BitVec 3) (off : BitVec 24) :
    (s.popped l).cx.addrM a x sc off = s.cx.addrM a x sc off := by
  rw [popped_cx, pops_keep (fun c => c.addrM a x sc off) (fun _ _ => rfl)]
@[simp] theorem popped_cur (s : State) (l : List (BitVec 6)) : (s.popped l).cur = s.cur := rfl
@[simp] theorem popped_mem (s : State) (l : List (BitVec 6)) : (s.popped l).mem = s.mem := rfl
theorem popped_co (s : State) (l : List (BitVec 6)) :
    (s.popped l).co = s.co.setCtx s.cur.ctx ((popsOf l).foldl Context.popOne s.cx) := by
  show (s.setCore s.cur.core _).core s.cur.core = _
  rw [core_setCore]
  rfl
@[simp] theorem popped_ltt (s : State) (l : List (BitVec 6)) : (s.popped l).co.ltt = s.co.ltt := by
  rw [popped_co]
  rfl

@[simp] theorem popped_xlate (s : State) (l : List (BitVec 6)) (a n al : Nat) (w : Bool) :
    (s.popped l).xlate a n al w = s.xlate a n al w := by
  unfold State.xlate
  simp

@[simp] theorem popped_access (s : State) (l : List (BitVec 6)) (va : Word) (n al : Nat) (w : Bool) :
    (s.popped l).access va n al w = s.access va n al w := by
  unfold State.access
  rw [popped_xlate]
  rfl

@[simp] theorem clear_cx (s : State) : s.clear.cx = s.cx := rfl
@[simp] theorem clear_co (s : State) : s.clear.co = s.co := rfl
@[simp] theorem clear_mask (s : State) (p : Pred) : s.clear.mask p = s.mask p := rfl
@[simp] theorem clear_access (s : State) (va : Word) (n al : Nat) (w : Bool) : s.clear.access va n al w = s.access va n al w := rfl

/-! Slots whose act can block. -/

/-- An act that does its work blocks nothing. -/
theorem actBlock_ok (rs : List Reg) (act : State → Except Stop State) (s t : State) (h : act s = .ok t) :
    actBlock rs act s = none := by
  unfold actBlock
  split
  · rfl
  · rw [h]

/-- Nor does an act that traps. -/
theorem actBlock_trap (rs : List Reg) (act : State → Except Stop State) (s : State) (c k n : Nat) (a : Word)
    (h : act s = .error (.trap c k n a)) : actBlock rs act s = none := by
  unfold actBlock
  split
  · rfl
  · rw [h]

theorem finish_runAct (p : Pred) (rs : List Reg) (act : State → Except Stop State) (s t : State)
    (h : s.Runs p rs) (ht : act s.clear = .ok t) : finish (runAct p rs act) s = .next t.done :=
  finish_runSlot _ _ _ _ _ _ h (actBlock_ok _ _ _ _ ht) ht

theorem finish_runAct_trap (p : Pred) (rs : List Reg) (act : State → Except Stop State) (s : State) (c k : Nat) (a : Word)
    (h : s.Runs p rs) (ht : act s.clear = .error (.trap c k s.cur.slot a)) :
    finish (runAct p rs act) s = .next (s.stoppedBy c k a) :=
  finish_runSlot_stop _ _ _ _ _ _ h (actBlock_trap _ _ _ _ _ _ _ ht) ht

/-- A slot that finds its cause blocks with it, whatever else would stop it (10 R251). -/
theorem finish_runSlot_block (p : Pred) (rs : List Reg) (block : State → Option Nat) (act : State → Except Stop State)
    (s : State) (b : Nat) (hp : s.test p = true) (hb : block s.clear = some b) :
    finish (runSlot p rs block act) s = .next (s.blockedBy b) := by
  refine finish_stop _ _ (.block b) ?_
  unfold runSlot
  rw [show s.clear.test p = s.test p from rfl, if_pos hp, hb]

/-- A slot whose act finds a block cause, its registers readable, blocks with it. -/
theorem finish_runAct_block (p : Pred) (rs : List Reg) (act : State → Except Stop State) (s : State) (b : Nat)
    (h : s.Runs p rs) (ht : act s.clear = .error (.block b)) : finish (runAct p rs act) s = .next (s.blockedBy b) := by
  refine finish_runSlot_block _ _ _ _ _ _ h.1 ?_
  unfold actBlock
  have h2 : rs.any s.clear.cx.overdue = false := by
    have ho := h.2.1
    rw [List.any_append, Bool.or_eq_false_iff] at ho
    exact ho.2
  rw [if_neg (by rw [h2]; exact Bool.false_ne_true), ht]

/-! Stores, whose repairs raise check bits that land with them. -/

theorem stored_ok (e : Except Stop State) (t : State) (h : e = .ok t) : stored e = .ok t.landRaised := by rw [h]; rfl

theorem stored_error (e : Except Stop State) (x : Stop) (h : e = .error x) : stored e = .error x := by rw [h]; rfl

theorem finish_runStore (p : Pred) (data addr : List Reg) (act : State → Except Stop State) (s t : State)
    (h : s.Runs p (data ++ addr)) (ht : act s.clear = .ok t) : finish (runStore p data addr act) s = .next t.landRaised.done :=
  finish_runSlot _ _ _ _ _ _ h (actBlock_ok _ _ _ _ ht) (stored_ok _ _ ht)

theorem finish_runStore_trap (p : Pred) (data addr : List Reg) (act : State → Except Stop State) (s : State) (c k : Nat)
    (a : Word) (h : s.Runs p (data ++ addr)) (ht : act s.clear = .error (.trap c k s.cur.slot a)) :
    finish (runStore p data addr act) s = .next (s.stoppedBy c k a) :=
  finish_runSlot_stop p (data ++ addr) (actBlock addr act) (fun s => stored (act s)) s (.trap c k s.cur.slot a) h
    (actBlock_trap addr act _ c k _ a ht) (stored_error _ _ ht)

/-- A vector store that runs, where nothing blocks its act before the elements are taken. -/
theorem finish_runVecStore (p : Pred) (srcs idx : List (BitVec 6)) (regs : List Reg)
    (act : Word → List VReg → State → Except Stop State) (s t : State) (h : s.RunsVec p srcs regs none none neverKeeps)
    (hb : actBlock (vregsOf idx ++ regs) (act (s.mask p) (s.vals srcs)) s.clear = none)
    (ht : act (s.mask p) (s.vals srcs) (s.clear.popped srcs) = .ok t) :
    finish (runVecStore p srcs idx regs act) s = .next t.landRaised.done := by
  have hc : s.clear.RunsVec p srcs regs none none neverKeeps := ⟨h.active, h.arrived, h.room, h.kept, h.reads, h.sound⟩
  refine finish_ok _ _ _ ?_
  have hv : (srcs.map fun f => (s.clear.cx.vsrc f).val) = s.vals srcs := by
    simp only [State.vals, List.map_map, clear_cx]; rfl
  unfold runVecStore
  rw [hv]
  exact (runVec_runs p srcs regs none none neverKeeps _ _ s.clear hc hb).trans (stored_ok _ _ ht)

/-- A slot-5 instruction that reads rows and runs: what its body does. -/
theorem finish_runRows (p : Pred) (srcs : List (BitVec 6)) (regs : List Reg) (block : State → Option Nat)
    (act : List VReg → State → Except Stop State) (s t : State) (h : s.RunsRows p srcs regs) (hb : block s.clear = none)
    (ht : act (s.vals srcs) (s.clear.popped srcs) = .ok t) : finish (runRows p srcs regs block act) s = .next t.done := by
  refine finish_ok _ _ _ ?_
  unfold runRows
  have h1 : s.clear.test p = true := h.test
  have h2 : s.clear.cx.arrived srcs = true := h.arrived
  have h3 : (srcs.map s.clear.cx.vsrc).all Elem.ok = true := h.sound
  simp only [h1, h2, h3, Bool.not_true, Bool.false_eq_true, if_false, hb, checkReads_ok s.clear _ h.reads, if_true]
  exact ht

theorem clear_badBytes (s : State) (a n : Nat) : s.clear.badBytes a n = s.badBytes a n := by
  induction n generalizing a with
  | zero => rfl
  | succ n ih =>
    unfold State.badBytes
    rw [ih]
    rfl

/-! What a counter window counts is all that counting changes. -/

theorem countFor_only (s : State) (core code n : Nat) : ∃ l, s.countFor core code n = { s with events := l } := by
  unfold State.countFor
  split
  · exact ⟨_, rfl⟩
  · exact ⟨s.events, rfl⟩

theorem countTenant_only (s : State) (t code n : Nat) : ∃ l, s.countTenant t code n = { s with events := l } := by
  unfold State.countTenant
  split
  · exact ⟨_, rfl⟩
  · exact ⟨s.events, rfl⟩

theorem countHbm_only (s : State) (x : Xlat) (n : Nat) : ∃ l, s.countHbm x n = { s with events := l } := by
  unfold State.countHbm
  split
  · exact countFor_only _ _ _ _
  · exact ⟨s.events, rfl⟩

end Sys2Proof.Machine
end

