-- ==== Sys2Proof/Tests/Slice0.lean ====
section
/-! SUPPORT. Checks of the model: decoding, well-formedness, single steps against the spec's own examples, and for every
statement a state and operands that meet its premises. -/

set_option Elab.async false

namespace Sys2Proof.Tests
open Sys2Proof Sys2Proof.Machine

/-- What a slot decodes to. -/
def reads (slot w : Nat) : Option Instr :=
  match decodeSlot slot w with
  | .ok i => some i
  | .error _ => none

/-! Decoding: a word for every constructor that has one, put together field by field from the formats of 02 R42, the opcode
tables of 02 R47-R50 and the field tables of the instructions; then words that the spec itself writes out. -/

theorem test_decode_control :
    reads 0 0x0602000000002A5C = some (.bprep ⟨true, 0⟩ 2 0x2a5c) ∧
    reads 0 0x09F7A40000000000 = some (.bpreps ⟨false, 31⟩ 7 41) ∧
    reads 0 0x0DF6000000000000 = some (.br ⟨false, 31⟩ 6) ∧
    reads 0 0x1233000000000005 = some (.brl ⟨true, 3⟩ 3 5) ∧
    reads 0 0x15F402A000000000 = some (.banksw ⟨false, 31⟩ 21 4) ∧
    reads 0 0x19F3940000001A5C = some (.loop ⟨false, 31⟩ 3 37 0x1a5c) ∧
    reads 0 0x1E62000000000000 = some (.lbrk ⟨true, 6⟩ 2) ∧
    reads 0 0x21F001B600000000 = some (.vany ⟨false, 31⟩ 13 22) ∧
    reads 0 0x25F002C900000000 = some (.vall ⟨false, 31⟩ 22 9) ∧
    reads 0 0x2A90000000001B2D = some (.setfmt ⟨true, 9⟩ 45 27) ∧
    reads 0 0x29F0980000012600 = some (.setfmtScalar ⟨false, 31⟩ 38 38) ∧
    reads 0 0x2DF0016000000002 = some (.fenceI ⟨false, 31⟩ 11 2) ∧
    reads 0 0x32C0000000000000 = some (.yield ⟨true, 12⟩) ∧
    reads 0 0x35F0000000000000 = some (.exit ⟨false, 31⟩) ∧
    reads 0 0x39F000000000A5C3 = some (.trap ⟨false, 31⟩ 0xa5c3) ∧
    reads 0 0x3EF0000000000000 = some (.eret ⟨true, 15⟩) ∧
    reads 0 0x41F500000000000B = some (.crgnOpen ⟨false, 31⟩ 5 11) ∧
    reads 0 0x45F0000000000000 = some (.crgnClose ⟨false, 31⟩) ∧
    reads 0 0x4B20CA60000005A3 = some (.chkerr ⟨true, 18⟩ 50 19 0x5a3) ∧
    reads 0 0x4DF000000000C35A = some (.pmark ⟨false, 31⟩ 0xc35a) := by decide

theorem test_decode_scalar_1 :
    reads 1 0x05F26AD400060000 = some (.add ⟨false, 31⟩ 9 42 53 6) ∧
    reads 1 0x0B526AD400060000 = some (.sub ⟨true, 21⟩ 9 42 53 6) ∧
    reads 1 0x0DF26AD400060000 = some (.and ⟨false, 31⟩ 9 42 53 6) ∧
    reads 1 0x11F26AD400060000 = some (.or ⟨false, 31⟩ 9 42 53 6) ∧
    reads 1 0x16026AD400060000 = some (.xor ⟨true, 0⟩ 9 42 53 6) ∧
    reads 1 0x19F26AD400060000 = some (.andn ⟨false, 31⟩ 9 42 53 6) ∧
    reads 1 0x1DF26AD400060000 = some (.shl ⟨false, 31⟩ 9 42 53 6) ∧
    reads 1 0x22326AD400060000 = some (.shr ⟨true, 3⟩ 9 42 53 6) ∧
    reads 1 0x25F26AD400060000 = some (.shra ⟨false, 31⟩ 9 42 53 6) ∧
    reads 1 0x29F26AD400060000 = some (.rotl ⟨false, 31⟩ 9 42 53 6) ∧
    reads 1 0x2E626AD400060000 = some (.min ⟨true, 6⟩ 9 42 53 6) ∧
    reads 1 0x31F26AD400060000 = some (.max ⟨false, 31⟩ 9 42 53 6) ∧
    reads 1 0x35F26AD400060000 = some (.mul ⟨false, 31⟩ 9 42 53 6) ∧
    reads 1 0x3A926AD400060000 = some (.mulh ⟨true, 9⟩ 9 42 53 6) ∧
    reads 1 0x3DF26AD400060000 = some (.div ⟨false, 31⟩ 9 42 53 6) ∧
    reads 1 0x41F26AD400060000 = some (.rem ⟨false, 31⟩ 9 42 53 6) ∧
    reads 1 0x46C84C0000050000 = some (.clz ⟨true, 12⟩ 33 12 5) ∧
    reads 1 0x49F84C0000050000 = some (.ctz ⟨false, 31⟩ 33 12 5) ∧
    reads 1 0x4DF84C0000050000 = some (.popc ⟨false, 31⟩ 33 12 5) ∧
    reads 1 0x52F84C0000020000 = some (.sext ⟨true, 15⟩ 33 12 2) ∧
    reads 1 0x55F84C0000030000 = some (.zext ⟨false, 31⟩ 33 12 3) ∧
    reads 1 0x59F26AD400570000 = some (.addsh ⟨false, 31⟩ 9 42 53 5 7) ∧
    reads 1 0x5F226AD510070000 = some (.sel ⟨true, 18⟩ 9 42 53 17) ∧
    reads 1 0x61F46AD400340000 = some (.cmp ⟨false, 31⟩ 17 42 53 3 4) := by decide

theorem test_decode_scalar_2 :
    reads 1 0x65F26A60DEADBEEF = some (.addi ⟨false, 31⟩ 9 42 6 0xdeadbeef) ∧
    reads 1 0x6B526A60DEADBEEF = some (.andi ⟨true, 21⟩ 9 42 6 0xdeadbeef) ∧
    reads 1 0x6DF26A60DEADBEEF = some (.ori ⟨false, 31⟩ 9 42 6 0xdeadbeef) ∧
    reads 1 0x71F26A60DEADBEEF = some (.xori ⟨false, 31⟩ 9 42 6 0xdeadbeef) ∧
    reads 1 0x76026A60DEADBEEF = some (.shli ⟨true, 0⟩ 9 42 6 0xdeadbeef) ∧
    reads 1 0x79F26A60DEADBEEF = some (.shri ⟨false, 31⟩ 9 42 6 0xdeadbeef) ∧
    reads 1 0x7DF26A60DEADBEEF = some (.shrai ⟨false, 31⟩ 9 42 6 0xdeadbeef) ∧
    reads 1 0x82324050DEADBEEF = some (.movi ⟨true, 3⟩ 9 5 0xdeadbeef) ∧
    reads 1 0x85F26A70DEADBEEF = some (.movhi ⟨false, 31⟩ 9 42 0xdeadbeef) ∧
    reads 1 0x89F46A45DEADBEEF = some (.cmpi ⟨false, 31⟩ 17 42 5 4 0xdeadbeef) ∧
    reads 1 0x8E626AD4000A0000 = some (.fadd ⟨true, 6⟩ 9 42 53 10) ∧
    reads 1 0x91F26AD4000A0000 = some (.fsub ⟨false, 31⟩ 9 42 53 10) ∧
    reads 1 0x95F26AD4000A0000 = some (.fmul ⟨false, 31⟩ 9 42 53 10) ∧
    reads 1 0x9A926AD5E0090000 = some (.ffma ⟨true, 9⟩ 9 42 53 30 9) ∧
    reads 1 0x9DF26AD400180000 = some (.fmin ⟨false, 31⟩ 9 42 53 1 8) ∧
    reads 1 0xA1F26AD400180000 = some (.fmax ⟨false, 31⟩ 9 42 53 1 8) ∧
    reads 1 0xA6C46AD400680000 = some (.fcmp ⟨true, 12⟩ 17 42 53 6 8) ∧
    reads 1 0xA9F26A0000B40000 = some (.fcvt ⟨false, 31⟩ 9 42 11 4) ∧
    reads 1 0xADF26A00000C0000 = some (.fclass ⟨false, 31⟩ 9 42 12) ∧
    reads 1 0xB2F4563400000000 = some (.pand ⟨true, 15⟩ 17 22 13) ∧
    reads 1 0xB5F4563400000000 = some (.por ⟨false, 31⟩ 17 22 13) ∧
    reads 1 0xB9F4563400000000 = some (.pxor ⟨false, 31⟩ 17 22 13) ∧
    reads 1 0xBF24563400000000 = some (.pandn ⟨true, 18⟩ 17 22 13) ∧
    reads 1 0xC1FA560000000000 = some (.pcnt ⟨false, 31⟩ 41 22) := by decide

theorem test_decode_scalar_3 :
    reads 1 0xC5FA560000000000 = some (.pfirst ⟨false, 31⟩ 41 22) ∧
    reads 1 0xCB55A90000000000 = some (.movps ⟨true, 21⟩ 22 41) ∧
    reads 1 0xCDFA560000000000 = some (.movsp ⟨false, 31⟩ 41 22) ∧
    reads 1 0xD1FA40000000012B = some (.movsys ⟨false, 31⟩ 41 0x12b) ∧
    reads 1 0xD60029000000012A = some (.setsys ⟨true, 0⟩ 41 0x12a) ∧
    reads 2 0xD9F26AD728ABCDEF = some (.ld ⟨false, 31⟩ 9 42 53 12 5 0xabcdef) ∧
    reads 2 0xDDF26AD728ABCDEF = some (.st ⟨false, 31⟩ 9 42 53 12 5 0xabcdef) ∧
    reads 2 0xE2326AD728ABCDEF = some (.stnt ⟨true, 3⟩ 9 42 53 12 5 0xabcdef) ∧
    reads 2 0xE5F26AD62AABCDEF = some (.stcmb ⟨false, 31⟩ 9 42 53 8 5 2 0xabcdef) := by decide

theorem test_decode_vector_1 :
    reads 3 0x05F86AD400130000 = some (.vadd ⟨false, 31⟩ 33 42 53 1 3) ∧
    reads 3 0x0A686AD400130000 = some (.vsub ⟨true, 6⟩ 33 42 53 1 3) ∧
    reads 3 0x0DF86AD400030000 = some (.vmul ⟨false, 31⟩ 33 42 53 3) ∧
    reads 3 0x11F86AD400030000 = some (.vmulh ⟨false, 31⟩ 33 42 53 3) ∧
    reads 3 0x22986AD400030000 = some (.vshl ⟨true, 9⟩ 33 42 53 3) ∧
    reads 3 0x25F86AD400030000 = some (.vshr ⟨false, 31⟩ 33 42 53 3) ∧
    reads 3 0x2DF86AD400030000 = some (.vmin ⟨false, 31⟩ 33 42 53 3) ∧
    reads 3 0x32C86AD400030000 = some (.vmax ⟨true, 12⟩ 33 42 53 3) ∧
    reads 3 0x15F86AD400050000 = some (.vand ⟨false, 31⟩ 33 42 53) ∧
    reads 3 0x19F86AD400050000 = some (.vor ⟨false, 31⟩ 33 42 53) ∧
    reads 3 0x1EF86AD400050000 = some (.vxor ⟨true, 15⟩ 33 42 53) ∧
    reads 3 0x29F86AD400020000 = some (.vshra ⟨false, 31⟩ 33 42 53 2) ∧
    reads 3 0x35F86A0000120000 = some (.vabs ⟨false, 31⟩ 33 42 1 2) ∧
    reads 3 0x3B246AD400450000 = some (.vcmp ⟨true, 18⟩ 17 42 53 4 5) ∧
    reads 3 0x3DF86AD510050000 = some (.vsel ⟨false, 31⟩ 33 42 53 17) ∧
    reads 3 0x41F86AD5E0110000 = some (.vdot4 ⟨false, 31⟩ 33 42 53 30 1 1) ∧
    reads 3 0x47586AD400130000 = some (.vsatn ⟨true, 21⟩ 33 42 53 1 3) ∧
    reads 3 0x49F86A0000120000 = some (.vwiden ⟨false, 31⟩ 33 42 1 2) ∧
    reads 3 0x4DF86AD400010000 = some (.vpack ⟨false, 31⟩ 33 42 53 1) ∧
    reads 3 0x4E086A00003D0000 = some (.vpackT2 ⟨true, 0⟩ 33 42 3) ∧
    reads 3 0x51F86A00002D0000 = some (.vunpack ⟨false, 31⟩ 33 42 2) ∧
    reads 3 0x55F86AD400090000 = some (.vfadd ⟨false, 31⟩ 33 42 53 9) ∧
    reads 3 0x5A386AD400090000 = some (.vfsub ⟨true, 3⟩ 33 42 53 9) ∧
    reads 3 0x5DF86AD400090000 = some (.vfmul ⟨false, 31⟩ 33 42 53 9) := by decide

theorem test_decode_vector_2 :
    reads 3 0x61F86AD5E00A0000 = some (.vffma ⟨false, 31⟩ 33 42 53 30 10) ∧
    reads 3 0x66686AD400180000 = some (.vfmin ⟨true, 6⟩ 33 42 53 1 8) ∧
    reads 3 0x69F86AD400180000 = some (.vfmax ⟨false, 31⟩ 33 42 53 1 8) ∧
    reads 3 0x6DF46AD400680000 = some (.vfcmp ⟨false, 31⟩ 17 42 53 6) ∧
    reads 3 0x72986A0000080000 = some (.vfrcp ⟨true, 9⟩ 33 42) ∧
    reads 3 0x75F86A0000080000 = some (.vfrsq ⟨false, 31⟩ 33 42) ∧
    reads 3 0x79F86A0000080000 = some (.vfexp2 ⟨false, 31⟩ 33 42) ∧
    reads 3 0x7EC86A0000080000 = some (.vflog2 ⟨true, 12⟩ 33 42) ∧
    reads 3 0x8DF86A0000080000 = some (.vfclass ⟨false, 31⟩ 33 42) ∧
    reads 3 0x81F86A00038C0000 = some (.vfcvt ⟨false, 31⟩ 33 42 8 3 12) ∧
    reads 3 0x86F86A18018A0000 = some (.vquant ⟨true, 15⟩ 33 42 6 1 10) ∧
    reads 3 0x89F86A1802B80000 = some (.vdeq ⟨false, 31⟩ 33 42 6 11 2) ∧
    reads 3 0x91F86A0000380000 = some (.vred ⟨false, 31⟩ 33 42 3 8) ∧
    reads 3 0x97286AD5E0050000 = some (.vperm ⟨true, 18⟩ 33 42 53 30) ∧
    reads 3 0x99F86AD40C150000 = some (.vslide ⟨false, 31⟩ 33 42 53 193) ∧
    reads 3 0x9DF86A0000050000 = some (.vbcast ⟨false, 31⟩ 33 42) ∧
    reads 3 0x9F586A0270150000 = some (.vbcastLane ⟨true, 21⟩ 33 42 39) ∧
    reads 3 0xA1F86AD400050000 = some (.viota ⟨false, 31⟩ 33 42 53) ∧
    reads 3 0xA5F86AD400040000 = some (.vcountge ⟨false, 31⟩ 33 42 53 4) ∧
    reads 3 0xAA086A0000050000 = some (.vcompress ⟨true, 0⟩ 33 42) ∧
    reads 3 0xADF86A0000050000 = some (.vexpand ⟨false, 31⟩ 33 42) ∧
    reads 3 0xB1FD6A0270080000 = some (.movvs ⟨false, 31⟩ 53 42 39 8) ∧
    reads 3 0xB6386A0270050000 = some (.movsv ⟨true, 3⟩ 33 42 39) ∧
    reads 4 0xB9F4EAD568ABCDEF = some (.vld ⟨false, 31⟩ 19 42 53 5 0xabcdef) := by decide

theorem test_decode_vector_3 :
    reads 4 0xBDF4EAD568ABCDEF = some (.vlds ⟨false, 31⟩ 19 42 53 5 0xabcdef) ∧
    reads 4 0xC264EA5D68ABCDEF = some (.vldx ⟨true, 6⟩ 19 42 23 5 0xabcdef) ∧
    reads 4 0xC5F9EAD568ABCDEF = some (.vst ⟨false, 31⟩ 39 42 53 5 0xabcdef) ∧
    reads 4 0xC9F9EAD568ABCDEF = some (.vsts ⟨false, 31⟩ 39 42 53 5 0xabcdef) ∧
    reads 4 0xD299EAD568ABCDEF = some (.vstnt ⟨true, 9⟩ 39 42 53 5 0xabcdef) ∧
    reads 4 0xCDF9EA5D68ABCDEF = some (.vstx ⟨false, 31⟩ 39 42 23 5 0xabcdef) ∧
    reads 4 0xD5F9EAD56EABCDEF = some (.vstcmb ⟨false, 31⟩ 39 42 53 5 5 6 0xabcdef) ∧
    reads 4 0xDAC02A0000050000 = some (.txin ⟨true, 12⟩ 42) ∧
    reads 4 0xDDF8400000050000 = some (.txout ⟨false, 31⟩ 33) ∧
    reads 4 0xE1F0000000000000 = some (.txclr ⟨false, 31⟩) ∧
    reads 4 0xE6F86A00D0150000 = some (.vaccrd ⟨true, 15⟩ 33 13 42 1) ∧
    reads 4 0xE9F36AD400150000 = some (.vaccwr ⟨false, 31⟩ 13 53 42 1) ∧
    reads 4 0xEDF36AD568ABCDEF = some (.vspill ⟨false, 31⟩ 13 42 53 5 0xabcdef) ∧
    reads 4 0xF3236AD568ABCDEF = some (.vfill ⟨true, 18⟩ 13 42 53 5 0xabcdef) := by decide

theorem test_decode_engine_1 :
    reads 5 0x05F240000CB00000 = some (.mma ⟨false, 31⟩ 9 11 12) ∧
    reads 5 0x09F240000000A5C3 = some (.mzero ⟨false, 31⟩ 9 0xa5c3) ∧
    reads 5 0x0F526AD4D0A012C0 = some (.mload ⟨true, 21⟩ 9 13 42 53 10 64 37) ∧
    reads 5 0x11F26AD4D8C012C0 = some (.mstore ⟨false, 31⟩ 9 13 42 53 12 8 64 37) ∧
    reads 5 0x15F02A0060000000 = some (.msetp ⟨false, 31⟩ 6 42) ∧
    reads 5 0x1A02400060000000 = some (.mgetp ⟨true, 0⟩ 9 6) ∧
    reads 5 0x1DF26AD400000000 = some (.seal ⟨false, 31⟩ 9 42 53) ∧
    reads 5 0x1DF24000D0100000 = some (.sealAcc ⟨false, 31⟩ 9 13) ∧
    reads 5 0x22326AD5E0000000 = some (.scheck ⟨true, 3⟩ 9 42 53 30) ∧
    reads 5 0x21F26A00D0100000 = some (.scheckAcc ⟨false, 31⟩ 9 13 42) ∧
    reads 5 0x25F26AD5E0000000 = some (.sfix ⟨false, 31⟩ 9 42 53 30) ∧
    reads 5 0x26626A00D0100000 = some (.sfixAcc ⟨true, 6⟩ 9 13 42) ∧
    reads 5 0x29F26AD400000000 = some (.squery ⟨false, 31⟩ 9 42 53) ∧
    reads 5 0x29F240D4D0100000 = some (.squeryAcc ⟨false, 31⟩ 9 13 53) ∧
    reads 5 0x2E926AD5E0000000 = some (.cpy ⟨true, 9⟩ 9 42 53 30) ∧
    reads 5 0x31F26AD5E0056EA5 = some (.cpy2 ⟨false, 31⟩ 9 42 53 30 0x2a5 0x15b) ∧
    reads 5 0x35F26AD4D00ABCDE = some (.cpyqIn ⟨false, 31⟩ 9 13 42 53 0xabcde) ∧
    reads 5 0x36C26AD4D01ABCDE = some (.cpyqOut ⟨true, 12⟩ 9 13 42 53 0xabcde) ∧
    reads 5 0x39F26AD5E006C3A5 = some (.cpymc ⟨false, 31⟩ 9 42 53 30 165 195 6) ∧
    reads 5 0x3DF26AD5E0000000 = some (.cpycrc ⟨false, 31⟩ 9 42 53 30) ∧
    reads 5 0x3EF240D5E0100000 = some (.cpycrcChk ⟨true, 15⟩ 9 53 30) ∧
    reads 5 0x41F26A0000400000 = some (.twait ⟨false, 31⟩ 9 4 42) ∧
    reads 5 0x41F2400000BABCDE = some (.twaitImm ⟨false, 31⟩ 9 3 0xabcde) ∧
    reads 5 0x4722400000300000 = some (.treadCnt ⟨true, 18⟩ 9 3) := by decide

theorem test_decode_engine_2 :
    reads 5 0x45F2400001300000 = some (.treadIss ⟨false, 31⟩ 9 3) ∧
    reads 5 0x45F2400003300000 = some (.treadStop ⟨false, 31⟩ 9 3) ∧
    reads 5 0x4752400004300000 = some (.treadRetire ⟨true, 21⟩ 9 3) ∧
    reads 5 0x45F2400002000000 = some (.treadProg ⟨false, 31⟩ 9) ∧
    reads 5 0x45F2400005000000 = some (.treadCrc ⟨false, 31⟩ 9) ∧
    reads 5 0x4A026AD5E0B00000 = some (.atom ⟨true, 0⟩ 9 42 53 30 11) ∧
    reads 5 0x4DF2400000000000 = some (.rel ⟨false, 31⟩ 9) ∧
    reads 5 0x51F26AD400000000 = some (.acq ⟨false, 31⟩ 9 42 53) ∧
    reads 5 0x52326A0000100000 = some (.acqCur ⟨true, 3⟩ 9 42) ∧
    reads 5 0x55F2400000000000 = some (.phase ⟨false, 31⟩ 9) ∧
    reads 5 0x59F2400000000000 = some (.ntdrain ⟨false, 31⟩ 9) ∧
    reads 5 0x5E62400000000000 = some (.logstatPub ⟨true, 6⟩ 9) ∧
    reads 5 0x5DF2400000100000 = some (.logstatTail ⟨false, 31⟩ 9) ∧
    reads 5 0x5DF2400000200000 = some (.logstatFree ⟨false, 31⟩ 9) ∧
    reads 5 0x5E92400000300000 = some (.logstatView ⟨true, 9⟩ 9) ∧
    reads 5 0x5DF2400000400000 = some (.logstatMembers ⟨false, 31⟩ 9) ∧
    reads 5 0x5DF2400000500000 = some (.logstatSelf ⟨false, 31⟩ 9) ∧
    reads 5 0x5EC26A0000600000 = some (.logstatCursor ⟨true, 12⟩ 9 42) ∧
    reads 5 0x5DF2400000700000 = some (.logstatRbld ⟨false, 31⟩ 9) ∧
    reads 5 0x61F02AD5E161F4A5 = some (.fbuild ⟨false, 31⟩ 42 53 30 22 165 0x1f4) ∧
    reads 5 0x66F2400000000000 = some (.fsend ⟨true, 15⟩ 9) ∧
    reads 5 0x69F26A0000000006 = some (.dwait ⟨false, 31⟩ 9 42 6) ∧
    reads 5 0x6DF2400000000006 = some (.dreadCnt ⟨false, 31⟩ 9 6) ∧
    reads 5 0x6F22400000100006 = some (.dreadCons ⟨true, 18⟩ 9 6) := by decide

theorem test_decode_engine_3 :
    reads 5 0x6DF2400000200006 = some (.dreadDesc0 ⟨false, 31⟩ 9 6) ∧
    reads 5 0x6DF2400000300006 = some (.dreadDesc1 ⟨false, 31⟩ 9 6) ∧
    reads 5 0x6F52400000400006 = some (.dreadNum ⟨true, 21⟩ 9 6) ∧
    reads 5 0x71F4C00000000006 = some (.frecv ⟨false, 31⟩ 19 6) ∧
    reads 5 0x71F4C00000100006 = some (.frecvPeek ⟨false, 31⟩ 19 6) ∧
    reads 5 0x76026AD5E90000A5 = some (.cslotAlloc ⟨true, 0⟩ 9 42 53 30 9 165) ∧
    reads 5 0x75F26AD400100000 = some (.cslotFree ⟨false, 31⟩ 9 42 53 0 0) ∧
    reads 5 0x75F26AD400200000 = some (.cslotRead ⟨false, 31⟩ 9 42 53 0 0) ∧
    reads 5 0x7A326AD5E001EAE5 = some (.swopen ⟨true, 3⟩ 9 42 53 30 37 0x7ab) ∧
    reads 5 0x7DF26AD5E0000365 = some (.swsub ⟨false, 31⟩ 9 42 53 30 37 13) ∧
    reads 5 0x81F26AD5E0000025 = some (.swmerge ⟨false, 31⟩ 9 42 53 30 37) ∧
    reads 5 0x86626A0000000025 = some (.swread ⟨true, 6⟩ 9 42 37) ∧
    reads 5 0x89F24001E0000025 = some (.swclose ⟨false, 31⟩ 9 30 37) ∧
    reads 5 0x8DF26A0110000000 = some (.launch ⟨false, 31⟩ 9 42 17) ∧
    reads 5 0x92926AD510000000 = some (.mpostLaunch ⟨true, 9⟩ 9 42 53 17) ∧
    reads 5 0x91F26AD510100000 = some (.mpostMsg ⟨false, 31⟩ 9 42 53 17) ∧
    reads 5 0x95F02A00000002A5 = some (.ctxsave ⟨false, 31⟩ 42 0x2a5) ∧
    reads 5 0x96C00000001002A5 = some (.ctxsaveSr ⟨true, 12⟩ 0x2a5) ∧
    reads 5 0x99F02A00000002A5 = some (.ctxrstr ⟨false, 31⟩ 42 0x2a5) ∧
    reads 5 0x99F00000001002A5 = some (.ctxrstrSr ⟨false, 31⟩ 0x2a5) := by decide

theorem test_decode_landing_1 :
    decodeTableWord 16 0x0000 = some .kill ∧
    decodeTableWord 16 0x0402 = some (.pushi 2) ∧
    decodeTableWord 16 0x0802 = some (.pushh 2) ∧
    decodeTableWord 16 0x0C02 = some (.poph 2) ∧
    decodeTableWord 16 0x1002 = some (.dup 2) ∧
    decodeTableWord 16 0x1400 = some .swap ∧
    decodeTableWord 16 0x1800 = some .ferryAdd ∧
    decodeTableWord 16 0x1C00 = some .ferrySub ∧
    decodeTableWord 16 0x2000 = some .ferryAnd ∧
    decodeTableWord 16 0x2400 = some .ferryOr ∧
    decodeTableWord 16 0x2800 = some .ferryXor ∧
    decodeTableWord 16 0x2C01 = some (.ferryMin 1) ∧
    decodeTableWord 16 0x3001 = some (.ferryMax 1) ∧
    decodeTableWord 16 0x3400 = some .amax ∧
    decodeTableWord 16 0x3801 = some (.eq 1) ∧
    decodeTableWord 16 0x3C01 = some (.lt 1) ∧
    decodeTableWord 16 0x4002 = some (.jz 2) ∧
    decodeTableWord 16 0x4402 = some (.jmp 2) ∧
    decodeTableWord 16 0x4A02 = some (.ldwImm 2) ∧
    decodeTableWord 16 0x4800 = some .ldw := by decide

theorem test_decode_landing_2 :
    decodeTableWord 16 0x4E23 = some (.addwImm 2 3) ∧
    decodeTableWord 16 0x4C02 = some (.addw 2) ∧
    decodeTableWord 16 0x5000 = some .cmb ∧
    decodeTableWord 16 0x5402 = some (.ctr 2) ∧
    decodeTableWord 16 0x5412 = some (.ctrInc 2) ∧
    decodeTableWord 16 0x5802 = some (.node 2) ∧
    decodeTableWord 16 0x5C01 = some (.hops 1) ∧
    decodeTableWord 16 0x6002 = some (.loadq 2) ∧
    decodeTableWord 16 0x6402 = some (.crd 2) ∧
    decodeTableWord 16 0x6802 = some (.cwr 2) ∧
    decodeTableWord 16 0x6C00 = some .clone ∧
    decodeTableWord 16 0x7002 = some (.go 2) ∧
    decodeTableWord 16 0x7400 = some .godst ∧
    decodeTableWord 16 0x7800 = some .dlvr ∧
    decodeTableWord 16 0x7C00 = some .park := by decide

/-- Words that the spec prints beside their assembly (02 R62, 06, 09 R248, 10, 11, 12 R345, 13 R367, 15 R430-R433, 19-23). -/
theorem test_decode_printed :
    reads 1 0x65F1046000000040 = some (.addi ⟨false, 31⟩ 4 4 6 64) ∧
    reads 2 0xD821C40100000000 = some (.ld ⟨false, 2⟩ 7 4 0 4 0 0) ∧
    reads 3 0x05F0420C00040000 = some (.vadd ⟨false, 31⟩ 1 2 3 0 4) ∧
    reads 5 0x21F3145560000000 = some (.scheck ⟨false, 31⟩ 12 20 21 22) ∧
    reads 5 0x49F2C41460B00000 = some (.atom ⟨false, 31⟩ 11 4 5 6 11) ∧
    reads 5 0x8DF3140050000000 = some (.launch ⟨false, 31⟩ 12 20 5) ∧
    reads 5 0x91F1C31020100000 = some (.mpostMsg ⟨false, 31⟩ 7 3 4 2) ∧
    reads 5 0x69F1470000000002 = some (.dwait ⟨false, 31⟩ 5 7 2) ∧
    reads 5 0x75F2431057000007 = some (.cslotAlloc ⟨false, 31⟩ 9 3 4 5 7 7) ∧
    reads 5 0x7DF2545560000085 = some (.swsub ⟨false, 31⟩ 9 20 21 22 5 2) ∧
    reads 5 0x81F2C41460000003 = some (.swmerge ⟨false, 31⟩ 11 4 5 6 3) ∧
    reads 0 0x31F0000000000000 = some (.yield ⟨false, 31⟩) ∧
    reads 5 0x95F0000000100007 = some (.ctxsaveSr ⟨false, 31⟩ 7) ∧
    reads 0 0x49F01C60000007FF = some (.chkerr ⟨false, 31⟩ 7 3 0x7FF) ∧
    reads 0 0x144200A000000000 = some (.banksw ⟨false, 4⟩ 5 2) ∧
    reads 2 0xE5F4010100000044 = some (.stcmb ⟨false, 31⟩ 16 1 0 4 0 0 0x44) ∧
    reads 5 0x21F6DA0000100000 = some (.scheckAcc ⟨false, 31⟩ 27 0 26) ∧
    reads 5 0x61F0003001000001 = some (.fbuild ⟨false, 31⟩ 0 12 0 16 1 0) ∧
    reads 5 0x3DF50A2CC0000000 = some (.cpycrc ⟨false, 31⟩ 20 10 11 12) := by decide

/-! Well-formedness: a legal instruction, and for each check an instruction that it refuses with the check's REASON
(02 R60; the reserved operands of a landing operation, 12 R300, R305). -/

def always : Pred := ⟨false, 31⟩

theorem test_wf_accepts : (Instr.addi always 4 4 6 64).wf = true ∧ (Instr.ld ⟨true, 23⟩ 7 4 0 12 7 0).wf = true ∧
    (Instr.vslide always 47 0 63 0xC1).wf = true ∧ (Instr.go 6).wf = true ∧ Instr.nop.wf = true := by decide

theorem test_wf_header : (Instr.yield ⟨false, 24⟩).reason = 3 ∧ (Instr.yield ⟨false, 30⟩).reason = 3 ∧
    (Instr.yield ⟨true, 31⟩).reason = 3 ∧ (Instr.add ⟨true, 31⟩ 1 2 3 8).reason = 3 := by decide

theorem test_wf_zero_field : (Instr.fbuild always 1 2 3 0 0 0).reason = 4 := by decide

theorem test_wf_registers : (Instr.br always 8).reason = 5 ∧ (Instr.loop always 4 1 0).reason = 5 ∧
    (Instr.vany always 24 0).reason = 5 ∧ (Instr.vall always 0 24).reason = 5 ∧ (Instr.cmp always 24 1 2 0 0).reason = 5 ∧
    (Instr.pand always 0 24 0).reason = 5 ∧ (Instr.pand always 0 0 63).reason = 5 ∧ (Instr.sel always 1 2 3 24).reason = 5 ∧
    (Instr.vadd always 48 0 0 0 0).reason = 5 ∧ (Instr.vld always 32 1 0 0 0).reason = 5 ∧
    (Instr.vldx always 0 1 32 0 0).reason = 5 ∧ (Instr.vaccrd always 0 16 1 0).reason = 5 ∧
    (Instr.vspill always 16 1 0 0 0).reason = 5 ∧ (Instr.msetp always 8 1).reason = 5 ∧
    (Instr.vquant always 0 0 8 0 0).reason = 5 ∧ (Instr.cpyqIn always 1 16 2 3 0).reason = 5 ∧
    (Instr.frecv always 32 0).reason = 5 ∧ (Instr.launch always 1 2 24).reason = 5 ∧
    (Instr.chkerr always 1 24 0).reason = 5 := by decide

theorem test_wf_types : (Instr.add always 1 2 3 8).reason = 6 ∧ (Instr.shra always 1 2 3 1).reason = 6 ∧
    (Instr.sext always 1 2 6).reason = 6 ∧ (Instr.zext always 1 2 0).reason = 6 ∧ (Instr.fadd always 1 2 3 11).reason = 6 ∧
    (Instr.fcvt always 1 2 0 7).reason = 6 ∧ (Instr.fcvt always 1 2 1 13).reason = 6 ∧ (Instr.fclass always 1 2 13).reason = 6 ∧
    (Instr.ld always 1 2 0 13 0 0).reason = 6 ∧ (Instr.stcmb always 1 2 0 14 0 0 0).reason = 6 ∧
    (Instr.vadd always 0 0 0 0 6).reason = 6 ∧ (Instr.vshra always 0 0 0 1).reason = 6 ∧ (Instr.vcmp always 0 0 0 0 3).reason = 6 ∧
    (Instr.vdot4 always 0 0 0 0 0 2).reason = 6 ∧ (Instr.vsatn always 0 0 0 0 4).reason = 6 ∧
    (Instr.vfcvt always 0 0 0 0 4).reason = 6 ∧ (Instr.vquant always 0 0 0 0 8).reason = 6 ∧
    (Instr.vred always 0 0 3 4).reason = 6 ∧ (Instr.vcountge always 0 0 0 6).reason = 6 ∧
    (Instr.movvs always 0 0 0 0).reason = 6 := by decide

theorem test_wf_selections : (Instr.addsh always 1 2 3 8 0).reason = 7 ∧ (Instr.cmp always 1 2 3 6 0).reason = 7 ∧
    (Instr.fmin always 1 2 3 2 8).reason = 7 ∧ (Instr.fcmp always 1 2 3 7 8).reason = 7 ∧ (Instr.fcvt always 1 2 7 0).reason = 7 ∧
    (Instr.stcmb always 1 2 0 4 0 7 0).reason = 7 ∧ (Instr.vstcmb always 0 2 0 4 0 7 0).reason = 7 ∧
    (Instr.vadd always 0 0 0 2 0).reason = 7 ∧ (Instr.vwiden always 0 0 2 0).reason = 7 ∧ (Instr.vpackT2 always 0 0 4).reason = 7 ∧
    (Instr.vfcvt always 0 0 8 2 9).reason = 7 ∧ (Instr.vdeq always 0 0 0 8 0).reason = 7 ∧ (Instr.vred always 0 0 6 4).reason = 7 ∧
    (Instr.vslide always 0 0 0 64).reason = 7 ∧ (Instr.vaccrd always 0 0 1 2).reason = 7 ∧ (Instr.mma always 1 8 9).reason = 7 ∧
    (Instr.mload always 1 0 2 3 11 1 1).reason = 7 ∧ (Instr.mstore always 1 0 2 3 8 9 1 1).reason = 7 ∧
    (Instr.twait always 1 5 2).reason = 7 ∧ (Instr.atom always 1 2 3 4 12).reason = 7 ∧
    (Instr.cslotAlloc always 1 2 3 4 1 0).reason = 7 ∧ (Instr.fenceI always 0 3).reason = 9 := by decide

theorem test_wf_landing : (Instr.poph 5).wf = false ∧ (Instr.addw 1).wf = false ∧ (Instr.addwImm 0 11).wf = false ∧
    (Instr.node 6).wf = false ∧ (Instr.loadq 6).wf = false ∧ (Instr.go 7).wf = false := by decide

/-- A must-be-zero bit, a reserved opcode, a non-zero NOP and a place that 02 R38 does not allow are refused by REASON. -/
theorem test_decode_refuses : reads 1 0x04F1046000060001 = none ∧ reads 0 0x51F0000000000000 = none ∧ reads 3 1 = none ∧
    reads 1 0xD821C40100000000 = none ∧ decodeTableWord 16 0xFC00 = none ∧ decodeTableWord 64 0 = none := by
  decide


/-! Premises that can be met. A state whose executing context has nothing pending runs every slot under PI = 31. -/

/-- The state in which the executing context holds `c`. -/
def withCtx (c : Context) : State := State.reset.setCx c

/-- The state in which the executing core is `k`. -/
def withCore (k : Core) : State := State.reset.setCo k

theorem canRead_idle (s : State) (rs : List Reg) (h : s.cx.landing = []) : s.CanRead rs := by
  have ho : ∀ r, s.cx.overdue r = false := fun r => by simp [Context.overdue, h]
  have hp : ∀ r, s.cx.pending r = false := fun r => by simp [Context.pending, h]
  exact ⟨List.any_eq_false.mpr fun r _ => by simp [ho r], fun _ => List.any_eq_false.mpr fun r _ => by simp [hp r]⟩

theorem runs_idle (s : State) (rs : List Reg) (h : s.cx.landing = []) : s.Runs always rs :=
  ⟨rfl, canRead_idle s _ h⟩

theorem runsVec_idle (s : State) (srcs : List (BitVec 6)) (regs : List Reg) (dst : Option (BitVec 6))
    (keptP : Option (BitVec 5)) (keeps : Word → Bool) (h : s.cx.landing = []) (ha : s.cx.arrived srcs = true)
    (hr : (dst.bind pushOf).any (fun n => !s.cx.pushRoom n) = false) (hs : (srcs.map s.cx.vsrc).all Elem.ok = true) :
    s.RunsVec always srcs regs dst keptP keeps where
  active := by simp [State.mask, always]
  arrived := ha
  room := hr
  kept := fun _ => List.any_eq_false.mpr fun r _ => by simp [Context.overdue, h]
  reads := canRead_idle s _ h
  sound := hs

theorem runsRows_idle (s : State) (srcs : List (BitVec 6)) (regs : List Reg) (h : s.cx.landing = [])
    (ha : s.cx.arrived srcs = true) (hs : (srcs.map s.cx.vsrc).all Elem.ok = true) : s.RunsRows always srcs regs :=
  ⟨rfl, ha, canRead_idle s _ h, hs⟩

theorem meets_EncodeThenDecodeGivesBack : (Instr.addi always 4 4 6 64).wf = true ∧ (Instr.pushi 0x3FF).wf = true ∧
    encode (.addi always 4 4 6 64) = some (64, 0x65F1046000000040) ∧ encode (.pushi 0x3FF) = some (16, 0x7FF) := by decide

theorem meets_DecodeThenEncodeGivesBack : reads 1 0x65F1046000000040 = some (.addi always 4 4 6 64) ∧
    reads 5 0 = some .nop ∧ decodeTableWord 16 0x7FF = some (.pushi 0x3FF) := by decide

theorem meets_ReservedHeadersAndPlacesRejected :
    (fld 0x0580000000000000 58 6 ≠ 0 ∧ fld 0x0580000000000000 52 5 = 24) ∧ fld 0x05E0000000000000 52 5 = 30 ∧
    (fld 0x07F0000000000000 52 5 = 31 ∧ fld 0x07F0000000000000 57 1 = 1) ∧ fld 0xD800000000000000 58 6 = 54 ∧
    fld 0xE400000000000000 58 6 = 57 ∧ fld 0xB800000000000000 58 6 = 46 ∧ fld 0xF000000000000000 58 6 = 60 := by decide

/-- GODST at position 0, a reserved halfword, and the position after the last. -/
theorem meets_StepRunsTheLandingOperation :
    (∃ l, (State.reset.withFetchWord 16 0x7400).router.landing = some l ∧ l.pos < 16 ∧
      decodeTableWord 16 (ferryOp l.ferry l.pos) = some .godst) ∧
    (State.reset.withFetchWord 16 0x7400).device.stopped = false ∧
    (∃ l, (State.reset.withFetchWord 16 0xFC00).router.landing = some l ∧
      decodeTableWord 16 (ferryOp l.ferry l.pos) = none) ∧
    (∃ s : State, ∃ l, s.router.landing = some l ∧ l.pos = 16 ∧ s.device.stopped = false) := by
  refine ⟨⟨_, rfl, by decide, by decide⟩, rfl, ⟨_, rfl, by decide⟩, ?_⟩
  exact ⟨{ State.reset with router := { Router.reset with landing := some ⟨wordFerry 0, 16, [], none⟩ } }, _, rfl, rfl, rfl⟩

theorem meets_StepRunsTheNextMove :
    (∃ i rest, ({ State.reset with agenda := [.event .coldReset, .issue 3] } : State).agenda = .event i :: rest ∧
      State.reset.admits i = true) ∧ State.reset.agenda = [] ∧ State.reset.router.landing = none ∧
    State.reset.device.stopped = false := ⟨⟨_, _, rfl, rfl⟩, rfl, rfl, rfl⟩


/-- Whether a result is not an error, and its value. -/
def good {ε α : Type} : Except ε α → Bool
  | .ok _ => true
  | .error _ => false

theorem ok_of {ε α : Type} (e : Except ε α) (h : good e = true) : ∃ x, e = .ok x := by
  cases e with
  | ok x => exact ⟨x, rfl⟩
  | error _ => cases h

/-- A core whose bank 0 is armed: memory reads 0, so that its position 0 holds template 0, six NOPs. -/
def armed : State := withCore { Core.reset with fis := 1 }

theorem meets_AttemptRunsTheDecodedBundle : (armed.ctxAt 0 0).efaults = [] ∧
    (∃ x, armed.fetchBundle 0 (armed.ctxAt 0 0) = .ok x) ∧
    (∃ f, armed.fetchBundle 0 (armed.ctxAt 0 0) = .ok (f, (List.range 6).map fun k => (k, .nop))) ∧
    (∃ t u, runSlots exec armed ((List.range 6).map fun k => (k, .nop)) = .next (t, []) ∧ t.ended = false ∧
      t.endBundle = .ok u) ∧
    (∃ t, exec .nop armed = .next t ∧ t.last = none) :=
  ⟨rfl, ⟨_, rfl⟩, ⟨_, rfl⟩, ⟨_, _, rfl, rfl, rfl⟩, ⟨_, rfl, rfl⟩⟩


/-! Slot 0. -/

theorem meets_ControlMovesComplete : State.reset.Runs always [] ∧ State.reset.Runs always [.s 63] ∧
    State.reset.Runs always [.p 23] := ⟨runs_idle _ _ rfl, runs_idle _ _ rfl, runs_idle _ _ rfl⟩

/-- Bank 1 armed, and unarmed. -/
theorem meets_BranchesComplete : (withCore { Core.reset with fis := 2 }).Runs always [.b 7] ∧
    (withCore { Core.reset with fis := 2 }).cx.svc = false ∧
    (withCore { Core.reset with fis := 2 }).co.fis.getLsbD (1 - (withCore { Core.reset with fis := 2 }).cx.ip.toNat / 8192) = true ∧
    State.reset.Runs always [.b 0] ∧ State.reset.co.fis.getLsbD (1 - State.reset.cx.ip.toNat / 8192) = false :=
  ⟨runs_idle _ _ rfl, rfl, by decide, runs_idle _ _ rfl, by decide⟩

/-- A context whose s1 holds a word. -/
def with1 (x : Word) : State := withCtx { Context.reset with s := Vector.replicate 64 x }

/-- The boundary counts 0, 2^32 - 1 and 2^32; the body of one bundle, from position 1 to position 1, and a body that ends
before it starts. -/
theorem meets_LoopSetsUpOrTraps : (with1 0xFFFFFFFF).Runs always [.s 1] ∧ State.reset.cx.rs 1 = 0 ∧
    ((with1 0xFFFFFFFF).cx.rs 1).toNat < 2 ^ 32 ∧ ¬((with1 0x100000000).cx.rs 1).toNat < 2 ^ 32 ∧
    (State.reset.seqAfter 0 State.reset.cx State.reset.cx.ip).toNat % 8192 = 1 ∧ State.reset.cx.redir = [] ∧
    innermost (popFrom' State.reset.cx.loops 3) = none :=
  ⟨runs_idle _ _ rfl, rfl, by decide, by decide, rfl, rfl, by decide⟩

theorem meets_RegionsAndFencesComplete : State.reset.Runs always [.b 7] ∧ State.reset.Runs always [] ∧
    ¬((1 : BitVec 2) = 2 ∧ State.reset.cx.svc = false) ∧ ¬((2 : BitVec 2) = 2 ∧ (withCtx { Context.reset with svc := true }).cx.svc = false) :=
  ⟨runs_idle _ _ rfl, runs_idle _ _ rfl, by decide, by decide⟩

/-- A context in service mode. -/
def serving : State := withCtx { Context.reset with svc := true }

theorem meets_BundleEndersComplete : State.reset.Runs always [] ∧ (∃ u, State.reset.clear.endBundle = .ok u) ∧
    State.reset.clear.rollsBack = false ∧ serving.Runs always [] ∧ serving.cx.svc = true ∧
    (serving.clear.afterIssue serving.cur.core serving.cur.ctx serving.clear.isLiteral).landing.all (·.ready) = true ∧
    State.reset.cx.svc = false ∧ State.reset.cx.stubEnds = false ∧
    (withCtx { Context.reset with drain := true, preq := true }).cx.stubEnds = true :=
  ⟨runs_idle _ _ rfl, ⟨_, rfl⟩, rfl, runs_idle _ _ rfl, rfl, rfl, rfl, rfl, rfl⟩

/-! Slots 1 and 2. -/

/-- Division's three cases: an ordinary divisor, zero, and the most negative value over -1. -/
theorem meets_IntegerResultsComplete : (with1 7).Runs always [.s 1, .s 2] ∧ valT 6 ((with1 7).cx.rs 2).toNat ≠ 0 ∧
    valT 6 (State.reset.cx.rs 2).toNat = 0 ∧ signedT 6 = true ∧
    (∃ s : State, s.Runs always [.s 1, .s 2] ∧ valT 6 (s.cx.rs 1).toNat = -(2 ^ 63 : Nat) ∧ valT 6 (s.cx.rs 2).toNat = -1) :=
  ⟨runs_idle _ _ rfl, by decide, by decide, rfl,
    withCtx { Context.reset with s := (Vector.replicate 64 (-1)).set 1 0x8000000000000000 }, runs_idle _ _ rfl, by decide, by decide⟩

theorem meets_BitCountsAndSelectsComplete : (with1 0x80).Runs always [.s 1] ∧ (with1 0x80).Runs always [.s 1, .s 2] ∧
    (with1 0x80).Runs always [.s 1, .s 2, .p 3] ∧ ((with1 0x80).cx.rs 1).toNat % 2 ^ 8 ≠ 0 ∧
    (State.reset.cx.rs 1).toNat % 2 ^ 8 = 0 :=
  ⟨runs_idle _ _ rfl, runs_idle _ _ rfl, runs_idle _ _ rfl, by decide, by decide⟩

theorem meets_ImmediateResultsComplete : (with1 7).Runs always [.s 1] ∧ (with1 7).Runs always [] :=
  ⟨runs_idle _ _ rfl, runs_idle _ _ rfl⟩

theorem meets_ScalarFloatsComplete : (with1 7).Runs always [.s 1, .s 2] ∧ (with1 7).Runs always [.s 1, .s 2, .s 3] ∧
    (with1 7).Runs always [.s 1] := ⟨runs_idle _ _ rfl, runs_idle _ _ rfl, runs_idle _ _ rfl⟩

theorem meets_PredicatesComplete : State.reset.Runs always [.p 1, .p 23] ∧ State.reset.Runs always [.p 1] ∧
    State.reset.Runs always [.s 1] := ⟨runs_idle _ _ rfl, runs_idle _ _ rfl, runs_idle _ _ rfl⟩

/-- SYS.IC may be read, SYS.FPF read and written; SYS.TVEC belongs to service; 0x008 is not assigned. -/
theorem meets_SystemMovesCompleteOrTrap : State.reset.Runs always [] ∧ State.reset.Runs always [.s 1] ∧
    sysInfo State.reset.onControl 0 = some ⟨false, .ro⟩ ∧ sysInfo State.reset.onControl 2 = some ⟨false, .any⟩ ∧
    sysInfo State.reset.onControl 0x25 = some ⟨true, .service⟩ ∧ sysInfo serving.onControl 0x25 = some ⟨true, .service⟩ ∧
    serving.cx.svc = true ∧ State.reset.cx.svc = false ∧ sysInfo State.reset.onControl 8 = none ∧
    sysInfo State.reset.onControl 0xFFFFFFFF = none := by
  refine ⟨runs_idle _ _ rfl, runs_idle _ _ rfl, ?_⟩
  decide


/-! Loads and stores. -/

/-- Core 0 with one writable locked entry over the whole slice, of a kind, for all four contexts (07 R182), and a log that
belongs to a group of one. -/
def mapped (kind : Nat) : State := withCore { Core.reset with
  ltt := (Vector.replicate 128 0).set 0 (BitVec.ofNat 128 (24 * 2 ^ 48 + kind * 2 ^ 53 + 3 * 2 ^ 57 + 15 * 2 ^ 88))
  log := { Log.reset with group := some (1, 0), members := [0], decls := [⟨0, 0, false, 0, 0x1000⟩] } }

/-- A PRIVATE entry and an LMS entry that translate, and the cause of a table that holds nothing. -/
theorem meets_ScalarLoadsComplete : (mapped 0).Runs always [.s 1, .s 2] ∧ (mapped 0).onControl = false ∧
    (∃ acc, (mapped 0).access 0 8 8 false = .ok acc ∧ acc.loc.kind ≠ 2) ∧
    (∃ acc v bad u, (mapped 2).access 0 8 8 false = .ok acc ∧ acc.loc.kind = 2 ∧ (mapped 2).clear.localRead acc 8 = (v, bad, u)) ∧
    (mapped 2).Runs always [.s 1, .s 2] ∧ State.reset.Runs always [.s 1, .s 2] ∧ State.reset.xlate 0 8 8 false = .error 1 := by
  exact ⟨runs_idle _ _ rfl, rfl, ⟨_, rfl, by decide⟩, ⟨_, _, _, _, rfl, rfl, rfl⟩, runs_idle _ _ rfl, runs_idle _ _ rfl, rfl⟩

/-- The entry's KIND at each of the clauses' boundaries, 1, 2 and 3. -/
theorem meets_ScalarStoresCompleteOrFault : (mapped 1).Runs always [.s 0, .s 1, .s 2] ∧
    (∃ acc, (mapped 1).access 0 8 8 true = .ok acc ∧ acc.loc.kind ≤ 1) ∧
    (∃ acc, (mapped 2).access 0 8 8 true = .ok acc ∧ acc.loc.kind = 2 ∧ ∃ l, Log.store (mapped 2).co.log
      ((mapped 2).lmsBase 0) (mapped 2).floorOf [(mapped 2).entry 1 3 acc.loc.lms ((mapped 2).accessLms acc) 5] = .ok l) ∧
    (∃ acc, (mapped 3).access 0 8 8 true = .ok acc ∧ acc.loc.kind = 3) ∧ (mapped 3).co.nt.length < 32 ∧
    (∃ acc, (mapped 1).access 0 4 4 true = .ok acc ∧ acc.loc.kind ≤ 1) ∧
    (∃ acc, (mapped 2).access 0 4 4 true = .ok acc ∧ acc.loc.kind = 2 ∧
      ∃ w, (mapped 2).clear.logStore [(mapped 2).entry 16 2 acc.loc.lms ((mapped 2).accessLms acc) 5] = .ok w) :=
  ⟨runs_idle _ _ rfl, ⟨_, rfl, by decide⟩, ⟨_, rfl, rfl, _, rfl⟩, ⟨_, rfl, rfl⟩, by decide, ⟨_, rfl, by decide⟩,
    ⟨_, rfl, rfl, ok_of _ (by decide)⟩⟩

/-- Bytes at the edges of the words that two bytes at 6 touch, none of them poisoned. -/
theorem meets_StoredBytesReadBack : (3 / 4 < 6 / 4 ∨ (6 + [1#8, 2#8].length - 1) / 4 < 3 / 4) ∧
    (8 / 4 < 6 / 4 ∨ (6 + [1#8, 2#8].length - 1) / 4 < 8 / 4) ∧ State.reset.badByte 6 = false ∧
    State.reset.MemOk := ⟨by decide, by decide, by decide, rfl⟩

theorem meets_ScalarStoreFrame : (mapped 1).Runs always [.s 0, .s 1, .s 2] ∧ (mapped 1).onControl = false ∧
    ∃ acc u, (mapped 1).access ((mapped 1).cx.addrM 1 2 0 0) 8 8 true = .ok acc ∧ acc.loc.kind ≤ 1 ∧
      exec (.st always 0 1 2 6 0 0) (mapped 1) = .next u := by
  refine ⟨runs_idle _ _ rfl, rfl, _, _, rfl, by decide, rfl⟩

/-! Slots 3 and 4 on a context whose rows are zero and that has nothing pending. -/

theorem get_zero {n w : Nat} (i : Fin n) : (Vector.replicate n (0 : BitVec w)).get i = 0 := by
  simp [Vector.get]

theorem vsrc_zero (c : Context) (f : BitVec 6) (hv : c.v = Vector.replicate 32 0) (hc : c.vchk = Vector.replicate 32 0)
    (h : f.toNat < 32) : c.vsrc f = ⟨0, 0⟩ := by
  rw [Context.vsrc, if_pos h, Context.rv, hv, hc, get_zero, get_zero]

/-- An element of zeros matches its sum. -/
theorem ok_zero : Elem.ok ⟨0, 0⟩ = true := by
  set_option maxRecDepth 20000 in decide

theorem sound_zero (c : Context) (srcs : List (BitVec 6)) (hv : c.v = Vector.replicate 32 0)
    (hc : c.vchk = Vector.replicate 32 0) (h : srcs.all (fun f => decide (f.toNat < 32)) = true) :
    (srcs.map c.vsrc).all Elem.ok = true := by
  simp only [List.all_eq_true, List.mem_map, decide_eq_true_eq] at *
  rintro e ⟨f, hf, rfl⟩
  rw [vsrc_zero c f hv hc (h f hf), ok_zero]

theorem arrived_regs (c : Context) (srcs : List (BitVec 6)) (h : srcs.all (fun f => decide (f.toNat < 32)) = true) :
    c.arrived srcs = true := by
  simp only [Context.arrived, List.all_eq_true, decide_eq_true_eq] at *
  exact fun f hf => by rw [if_pos (h f hf)]

/-- Register sources and no stream destination: the slot runs. -/
theorem vec_idle (s : State) (srcs : List (BitVec 6)) (regs : List Reg) (dst : Option (BitVec 6)) (keptP : Option (BitVec 5))
    (keeps : Word → Bool) (h : s.cx.landing = []) (hv : s.cx.v = Vector.replicate 32 0)
    (hc : s.cx.vchk = Vector.replicate 32 0) (hs : srcs.all (fun f => decide (f.toNat < 32)) = true)
    (hd : dst.bind pushOf = none) : s.RunsVec always srcs regs dst keptP keeps :=
  runsVec_idle s srcs regs dst keptP keeps h (arrived_regs _ _ hs) (by rw [hd]; rfl) (sound_zero _ _ hv hc hs)

theorem rows_idle (s : State) (srcs : List (BitVec 6)) (regs : List Reg) (h : s.cx.landing = [])
    (hv : s.cx.v = Vector.replicate 32 0) (hc : s.cx.vchk = Vector.replicate 32 0)
    (hs : srcs.all (fun f => decide (f.toNat < 32)) = true) : s.RunsRows always srcs regs :=
  runsRows_idle s srcs regs h (arrived_regs _ _ hs) (sound_zero _ _ hv hc hs)

/-- One row, separate lanes, and a table that holds nothing. -/
theorem meets_VectorLoadsComplete : (mapped 0).RunsVec always [] [.s 1, .s 2] (some 3) none maskKeeps ∧
    (∃ acc, (mapped 0).access ((mapped 0).cx.addrM 1 2 0 0) 256 4 false = .ok acc) ∧
    State.reset.RunsVec always [] [.s 1, .s 2] (some 3) none maskKeeps ∧
    State.reset.xlate (State.reset.cx.addrM 1 2 0 0).toNat 256 4 false = .error 1 ∧
    (∃ l, ((mapped 0).clear.popped []).sepAccesses (fun i => BitVec.ofNat 64 i * 4) false 3 = .ok l) ∧
    (mapped 0).RunsVec always [2] [.s 1] (some 3) none maskKeeps ∧
    (∃ l, ((mapped 0).clear.popped [2]).sepAccesses (fun i => (lane ((mapped 0).row 2) i).setWidth 64) false 3 = .ok l) :=
  ⟨vec_idle _ _ _ _ _ _ rfl rfl rfl rfl rfl, ok_of _ (by decide), vec_idle _ _ _ _ _ _ rfl rfl rfl rfl rfl, rfl,
    ok_of _ (by decide), vec_idle _ _ _ _ _ _ rfl rfl rfl rfl rfl,
    ok_of _ (by set_option maxRecDepth 20000 in decide)⟩

/-- A state under a mask of one lane, p3. -/
def oneLane (kind : Nat) : State := (mapped kind).setCx { Context.reset with p := (Vector.replicate 24 0).set 3 1 }

theorem runs_oneLane (kind : Nat) (srcs : List (BitVec 6)) (regs : List Reg) (dst : Option (BitVec 6)) (keeps : Word → Bool)
    (hs : srcs.all (fun f => decide (f.toNat < 32)) = true) (hd : dst.bind pushOf = none)
    (hm : (oneLane kind).mask ⟨false, 3⟩ ≠ 0) : (oneLane kind).RunsVec ⟨false, 3⟩ srcs regs dst none keeps where
  active := hm
  arrived := arrived_regs _ _ hs
  room := by rw [hd]; rfl
  kept := fun _ => List.any_eq_false.mpr fun r _ => by simp [Context.overdue, show (oneLane kind).cx.landing = [] from rfl]
  reads := canRead_idle _ _ rfl
  sound := sound_zero _ _ rfl rfl hs

/-- A row to the slice, to the log and to the copy engine, and separate lanes, one lane active. -/
theorem meets_VectorStoresComplete : (∀ k, (oneLane k).RunsVec ⟨false, 3⟩ [4] [.s 1, .s 2] none none neverKeeps) ∧
    (∃ acc, ((oneLane 1).clear.popped [4]).access 0 256 4 true = .ok acc ∧ acc.loc.kind ≤ 1) ∧
    (∃ acc, ((oneLane 2).clear.popped [4]).access 0 256 4 true = .ok acc ∧ acc.loc.kind = 2 ∧
      (∃ w, ((oneLane 2).clear.popped [4]).logStore
        (((oneLane 2).clear.popped [4]).rowEntries 1 acc.loc.lms (((oneLane 2).clear.popped [4]).accessLms acc) 1 0) = .ok w) ∧
      ∃ w, ((oneLane 2).clear.popped [4]).logStore
        (((oneLane 2).clear.popped [4]).rowEntries 16 acc.loc.lms (((oneLane 2).clear.popped [4]).accessLms acc) 1 0) = .ok w) ∧
    (∃ acc, ((oneLane 3).clear.popped [4]).access 0 256 4 true = .ok acc ∧ acc.loc.kind = 3 ∧
      ∃ w, ((oneLane 3).clear.popped [4]).handOver ((activeList 1).map fun i => (acc.loc.off + 4 * i, 15, 0)) = .ok w) ∧
    (∃ l, ((oneLane 1).clear.popped [4]).sepAccesses (fun i => BitVec.ofNat 64 i * 4) true 1 = .ok l ∧
      ∃ w, ((oneLane 1).clear.popped [4]).storeLanes 0 l = .ok w) ∧
    (∀ k, (oneLane k).RunsVec ⟨false, 3⟩ [4, 5] [.s 1] none none neverKeeps) := by
  have hm : ∀ k, (oneLane k).mask ⟨false, 3⟩ ≠ 0 := fun k => by
    show ((Vector.replicate 24 (0 : Word)).set 3 1).get 3 ≠ 0
    decide
  exact ⟨fun k => runs_oneLane k _ _ _ _ rfl rfl (hm k), ⟨_, rfl, by decide⟩,
    ⟨_, rfl, rfl, ok_of _ (by decide), ok_of _ (by decide)⟩, ⟨_, rfl, rfl, ok_of _ (by decide)⟩,
    ⟨_, rfl, ok_of _ (by decide)⟩, fun k => runs_oneLane k _ _ _ _ rfl rfl (hm k)⟩

/-! Slots 3 and 4. -/

theorem meets_VectorIntegersComplete : State.reset.RunsVec always [1, 2] [] (some 3) none maskKeeps ∧
    State.reset.RunsVec always [1] [] (some 3) none maskKeeps ∧ State.reset.RunsVec always [1, 2] [] none (some 3) maskKeeps :=
  ⟨vec_idle _ _ _ _ _ _ rfl rfl rfl rfl rfl, vec_idle _ _ _ _ _ _ rfl rfl rfl rfl rfl, vec_idle _ _ _ _ _ _ rfl rfl rfl rfl rfl⟩

theorem meets_VectorSelectsAndWidthsComplete : State.reset.RunsVec always [1, 2] [.p 4] (some 3) none maskKeeps ∧
    State.reset.RunsVec always [1, 2, 5] [] (some 3) none maskKeeps ∧
    State.reset.RunsVec always [1, 2] [] (some 3) none maskKeeps ∧ State.reset.RunsVec always [1] [] (some 3) none maskKeeps ∧
    State.reset.RunsVec always [1] [] (some 3) none alwaysKeeps :=
  ⟨vec_idle _ _ _ _ _ _ rfl rfl rfl rfl rfl, vec_idle _ _ _ _ _ _ rfl rfl rfl rfl rfl,
    vec_idle _ _ _ _ _ _ rfl rfl rfl rfl rfl, vec_idle _ _ _ _ _ _ rfl rfl rfl rfl rfl,
    vec_idle _ _ _ _ _ _ rfl rfl rfl rfl rfl⟩

theorem meets_VectorFloatsComplete : State.reset.RunsVec always [1, 2] [] (some 3) none maskKeeps ∧
    State.reset.RunsVec always [1, 2, 5] [] (some 3) none maskKeeps ∧
    State.reset.RunsVec always [1, 2] [] none (some 3) maskKeeps ∧ State.reset.RunsVec always [1] [] (some 3) none maskKeeps ∧
    State.reset.RunsVec always [1] [] (some 3) none alwaysKeeps ∧
    State.reset.RunsVec always [1] [.k 2] (some 3) none alwaysKeeps ∧
    State.reset.RunsVec always [1] [.k 2] (some 3) none maskKeeps :=
  ⟨vec_idle _ _ _ _ _ _ rfl rfl rfl rfl rfl, vec_idle _ _ _ _ _ _ rfl rfl rfl rfl rfl,
    vec_idle _ _ _ _ _ _ rfl rfl rfl rfl rfl, vec_idle _ _ _ _ _ _ rfl rfl rfl rfl rfl,
    vec_idle _ _ _ _ _ _ rfl rfl rfl rfl rfl, vec_idle _ _ _ _ _ _ rfl rfl rfl rfl rfl,
    vec_idle _ _ _ _ _ _ rfl rfl rfl rfl rfl⟩

theorem meets_LaneOperationsComplete : State.reset.RunsVec always [1] [] (some 3) none neverKeeps ∧
    State.reset.RunsVec always [1, 2, 5] [] (some 3) none maskKeeps ∧
    State.reset.RunsVec always [1, 2] [] (some 3) none maskKeeps ∧ State.reset.RunsVec always [] [.s 1] (some 3) none maskKeeps ∧
    State.reset.RunsVec always [1] [] (some 3) none maskKeeps ∧
    State.reset.RunsVec always [] [.s 1, .s 2] (some 3) none maskKeeps ∧
    State.reset.RunsVec always [1] [.s 2] none none maskKeeps ∧ laneOn (State.reset.mask always) 63 = true ∧
    State.reset.RunsVec always [1] [] none none maskKeeps ∧ State.reset.RunsVec always [] [.s 1] (some 3) none alwaysKeeps :=
  ⟨vec_idle _ _ _ _ _ _ rfl rfl rfl rfl rfl, vec_idle _ _ _ _ _ _ rfl rfl rfl rfl rfl,
    vec_idle _ _ _ _ _ _ rfl rfl rfl rfl rfl, vec_idle _ _ _ _ _ _ rfl rfl rfl rfl rfl,
    vec_idle _ _ _ _ _ _ rfl rfl rfl rfl rfl, vec_idle _ _ _ _ _ _ rfl rfl rfl rfl rfl,
    vec_idle _ _ _ _ _ _ rfl rfl rfl rfl rfl, by decide, vec_idle _ _ _ _ _ _ rfl rfl rfl rfl rfl,
    vec_idle _ _ _ _ _ _ rfl rfl rfl rfl rfl⟩

/-- p3 of a reset context holds in no lane. -/
theorem meets_NoActiveLaneNoEffect : State.reset.mask ⟨false, 3⟩ = 0 ∧ State.reset.CanRead (predReads ⟨false, 3⟩) :=
  ⟨by decide, canRead_idle _ _ rfl⟩

/-! Accumulator tiles. -/

/-- Core 0 with all its tiles granted to context 0 and the transposer held by it, empty, or full of zeros. -/
def tiled (xf : BitVec 7) : State :=
  let t : Task := ⟨1, 0, 0, 0, 1, 0, 0xFFFF, [], [], [], [], false, 0⟩
  withCore { Core.reset with
    ctxs := (Vector.replicate 4 Context.reset).set 0 { Context.reset with task := some t }
    xf := xf
    xowner := some 0
    ltt := (Vector.replicate 128 0).set 0 (BitVec.ofNat 128 (24 * 2 ^ 48 + 3 * 2 ^ 57 + 15 * 2 ^ 88)) }

theorem vec_tiled (xf : BitVec 7) (srcs : List (BitVec 6)) (regs : List Reg) (dst : Option (BitVec 6)) (keeps : Word → Bool)
    (hs : srcs.all (fun f => decide (f.toNat < 32)) = true) (hd : dst.bind pushOf = none) :
    (tiled xf).RunsVec always srcs regs dst none keeps := vec_idle _ _ _ _ _ _ rfl rfl rfl hs hd

theorem some_of {α β : Type} (o : Option (α × β)) (h : o.isSome = true) : ∃ x y, o = some (x, y) := by
  obtain ⟨⟨x, y⟩, hx⟩ := Option.isSome_iff_exists.mp h
  exact ⟨x, y, hx⟩

theorem meets_AccumulatorAccessCompletes : (∀ x, (tiled x).RunsVec always [1] [] none none neverKeeps) ∧
    (∀ x, (tiled x).co.xowner = some (tiled x).cur.ctx) ∧ ((tiled 63).co.xf.toNat < 64) ∧ (tiled 64).co.xf = 64 ∧
    (tiled 64).RunsVec always [] [] (some 3) none maskKeeps ∧
    (∃ y fixed, (tiled 64).co.xpose.checkLine true (tiled 64).co.xg.toNat = some (y, fixed)) ∧
    (tiled 64).RunsVec always [] [] none none neverKeeps ∧
    (tiled 64).RunsVec always [] [.s 1] (some 3) none maskKeeps ∧ ((tiled 64).clear.popped []).tileCheck 5 = .ok () ∧
    (∃ y fixed, ((((tiled 64).clear.popped []).mendTile 0 5).tile 5).checkLine false 0 = some (y, fixed)) ∧
    (tiled 64).RunsVec always [2] [.s 1] none none neverKeeps ∧ ((tiled 64).clear.popped [2]).tileCheck 5 = .ok () ∧
    (tiled 64).RunsVec always [] [.s 1, .s 2] none none neverKeeps ∧
    (∃ acc, ((tiled 64).clear.popped []).spillAccess 0 true = .ok acc) ∧
    (∃ acc, ((tiled 64).clear.popped []).spillAccess 0 false = .ok acc ∧
      ∃ y fixed, (((tiled 64).clear.popped []).imageAt (((tiled 64).clear.popped []).accessPa acc)).checkImage = some (y, fixed)) := by
  refine ⟨fun x => vec_tiled _ _ _ _ _ rfl rfl, fun _ => rfl, by decide, rfl, vec_tiled _ _ _ _ _ rfl rfl, ?_,
    vec_tiled _ _ _ _ _ rfl rfl, vec_tiled _ _ _ _ _ rfl rfl, rfl, ?_, vec_tiled _ _ _ _ _ rfl rfl, rfl,
    vec_tiled _ _ _ _ _ rfl rfl, ok_of _ (by decide), ?_⟩
  · exact some_of _ (by set_option maxRecDepth 100000 in decide)
  · exact some_of _ (by set_option maxRecDepth 100000 in decide)
  · exact ⟨_, rfl, some_of _ (by set_option maxRecDepth 100000 in decide +kernel)⟩

/-! Engine commands. -/

/-- A legal MMA of zeros, one MLOAD and MSTORE of one row, aligned and misaligned addresses, granted and refused tiles. -/
theorem meets_MatrixCommandsIssue : (tiled 0).Runs always [.s 1] ∧ (tiled 0).Runs always [.m 7] ∧
    slotBlock .mtx (tiled 0) = none ∧
    (∃ s : State, let q := mmaPar s.cx.m
      s.Runs always (mRegs ++ if q.chain then scaleRegs q.rowsc q.ksel q.start q.m else []) ∧ slotBlock .mtx s = none ∧
        q.bad = false ∧ Cmd.tiles (.mma 0 15 s.cx.m s.cx.k) &&& ~~~s.tileMask = 0) ∧
    (tiled 0).Runs always [.s 1, .s 2, .m 7] ∧ rowsBad 1 1 0 ((tiled 0).cx.rs 1) ((tiled 0).cx.rs 2) = false ∧
    Cmd.tiles (.mload 5 0 0 4 1 1 0) &&& ~~~(tiled 0).tileMask = 0 ∧
    (tiled 0).Runs always ([.s 1, .s 2, .m 6, .m 7] ++ scaleRegs ((tiled 0).cx.rm 6 |>.getLsbD 51)
      (fld ((tiled 0).cx.rm 6).toNat 48 3) 0 1) ∧
    Cmd.tiles (.mstore 5 0 0 4 4 1 1 0 0 (tiled 0).cx.k) &&& ~~~(tiled 0).tileMask = 0 ∧ (tiled 0).Runs always [] ∧
    Cmd.tiles (.mzero 0xFFFF) &&& ~~~(tiled 0).tileMask = 0 ∧ Cmd.tiles (.sealAcc 5) &&& ~~~(tiled 0).tileMask = 0 ∧
    (tiled 0).Runs always [.s 1, .s 2] ∧ tileAligned ((tiled 0).cx.rs 1) 16384 = true ∧ ((tiled 0).cx.rs 2).toNat ≤ 2 ^ 24 ∧
    tileAligned ((tiled 0).cx.rs 2) 64 = true ∧ Cmd.tiles (.squeryAcc 5 0) &&& ~~~(tiled 0).tileMask = 0 ∧
    (tiled 0).Runs always [.s 1, .s 2, .s 3] ∧ tileAligned ((tiled 0).cx.rs 3) 32 = true ∧
    Cmd.tiles (.scheckAcc 5 0 false) &&& ~~~(tiled 0).tileMask = 0 ∧
    (0xFFFF : BitVec 16) &&& ~~~State.reset.tileMask ≠ 0 ∧ State.reset.Runs always [] ∧ slotBlock .mtx State.reset = none ∧
    (with1 0x2001).Runs always [.s 1, .s 2] ∧ slotBlock .mtx (with1 0x2001) = none ∧
    tileAligned ((with1 0x2001).cx.rs 1) 16384 = false ∧ 2 ^ 24 < ((with1 0x1000001).cx.rs 2).toNat := by
  refine ⟨runs_idle _ _ rfl, runs_idle _ _ rfl, rfl,
    ⟨(tiled 0).setCx { (tiled 0).cx with m := (Vector.replicate 8 0).set 4 0x4081 }, runs_idle _ _ rfl, rfl, by decide, by decide⟩,
    runs_idle _ _ rfl, by decide,
    by decide, runs_idle _ _ rfl, by decide, runs_idle _ _ rfl, by decide, by decide, runs_idle _ _ rfl, by decide, by decide,
    by decide, by decide, runs_idle _ _ rfl, by decide, by decide, by decide, runs_idle _ _ rfl, rfl, runs_idle _ _ rfl, rfl,
    by decide, by decide⟩

/-- A context whose s2 and s3 hold 16. -/
def apart : State := withCtx { Context.reset with s := (Vector.replicate 64 0).set 2 16 |>.set 3 16 }

/-- A copy of 16 bytes, a row of 16 bytes, a multicast to core 0, a free stream, 1 element and 2^32 - 16. -/
theorem meets_CopyCommandsIssue : apart.Runs always [.s 1, .s 2, .s 3] ∧ slotBlock .cpy apart = none ∧
    lenBad (apart.cx.rs 1) (apart.cx.rs 2) (apart.cx.rs 3) = false ∧ mcTargets 1 1 0 ≠ [] ∧
    (apart.cx.rs 1).toNat % 16 = 0 ∧ (apart.cx.rs 2).toNat % 16 = 0 ∧
    rowsShare (apart.cx.rs 1) (apart.cx.rs 2) 1 16 16 0 = false ∧ apart.Runs always [.s 2, .s 3] ∧
    (apart.cx.rs 3).toNat < 2 ^ 40 ∧ apart.Runs always [] ∧ (with1 0xFFFFFFF0).Runs always [.s 1, .s 2] ∧
    ((with1 0xFFFFFFF0).cx.rs 1).toNat % 16 = 0 ∧ ((with1 0xFFFFFFF0).cx.rs 2) ≠ 0 ∧
    ((with1 0xFFFFFFF0).cx.rs 2).toNat < 2 ^ 32 ∧ ((with1 0xFFFFFFF0).cx.stream 15).held = false := by
  refine ⟨runs_idle _ _ rfl, rfl, by decide, by decide, by decide, by decide, by decide, runs_idle _ _ rfl, by decide,
    runs_idle _ _ rfl, runs_idle _ _ rfl, by decide, by decide, by decide, rfl⟩

/-- A context whose cpy timeline has issued two commands and counted one; the second is a copy of which nothing is done. -/
def copying : State := withCtx { Context.reset with
  s := (Vector.replicate 64 0).set 1 1 |>.set 2 2
  cpy := { Timeline.zero with issued := 2, count := 1, cmds := [newPending 2 0 (.cpy 0 16 16) 0 0] } }

theorem meets_TimelineReadsComplete : copying.Runs always [.s 1] ∧ copying.Runs always [.s 2] ∧
    (copying.cx.rs 1).toNat ≤ copying.cx.cpy.count.toNat ∧ copying.cx.cpy.stopBefore (copying.cx.rs 1) = none ∧
    copying.cx.cpy.count.toNat < (copying.cx.rs 2).toNat ∧ (copying.cx.rs 2).toNat ≤ copying.cx.cpy.issued.toNat ∧
    copying.cx.cpy.stopBefore (copying.cx.rs 2) = none ∧ copying.Runs always [] ∧ copying.cx.cpy.issued.toNat < 3 ∧
    (1 : Nat) ≤ copying.cx.cpy.issued.toNat ∧ (∃ q, copying.cx.cpy.cmds.find? (fun q => q.phase ≠ .done) = some q) ∧
    State.reset.cx.cpy.cmds.find? (fun q => q.phase ≠ .done) = none ∧ State.reset.Runs always [] := by
  refine ⟨runs_idle _ _ rfl, runs_idle _ _ rfl, by decide, by decide, by decide, by decide, by decide, runs_idle _ _ rfl,
    by decide, by decide, ⟨_, rfl⟩, rfl, runs_idle _ _ rfl⟩

/-! Ordering, atomics, ferries, sweeps, launches and saved contexts. -/

/-- Cores 0 and 1 as the two members of a group that declares an LMS; s1 of core 0's context holds 1, core 1 has published
one entry. -/
def grouped : State :=
  let d : LmsDecl := ⟨0, 0, false, 0, 0x1000⟩
  let t : Task := ⟨1, 0, 0, 0, 2, 0, 0, [], [], [], [d], true, 0⟩
  let l : Log := { Log.reset with group := some (1, 0), members := [0, 1], cursors := [0, 0], decls := [d] }
  let k : Core := { Core.reset with log := { l with entries := [⟨1, 3, 0, 0, 0, 5, 0, false⟩], published := 1 } }
  (withCore { Core.reset with
    ctxs := (Vector.replicate 4 Context.reset).set 0 { Context.reset with task := some t, s := (Vector.replicate 64 0).set 1 1 }
    log := l }).setCore 1 k

theorem replays {α : Type} (t : Nat) (e : Except α (Bool × Nat)) (he : e = .ok (false, t)) (h : t ≤ (grouped.clear.replayTo 1 t).2.1) :
    ∃ t u cur bad, e = .ok (false, t) ∧ grouped.clear.replayTo 1 t = (u, cur, bad) ∧ t ≤ cur :=
  ⟨t, _, _, _, he, rfl, h⟩

/-- Members 0, its own, and 1, the last; a token of the log's phase whose tail is published. -/
theorem meets_OrderingInstructionsComplete : grouped.declares = true ∧ grouped.Runs always [] ∧
    (∃ t, grouped.cx.task = some t ∧ t.released = true) ∧ grouped.Runs always [.s 1] ∧
    (grouped.cx.rs 1).toNat < grouped.co.log.members.length ∧ (grouped.cx.rs 1).toNat ≠ grouped.selfIndex grouped.cur.core ∧
    (grouped.cx.rs 2).toNat = grouped.selfIndex grouped.cur.core ∧
    (∃ t u cur bad, grouped.clear.acqTarget 1 none = .ok (false, t) ∧ grouped.clear.replayTo 1 t = (u, cur, bad) ∧ t ≤ cur) ∧
    grouped.Runs always [.s 1, .s 2] ∧ (grouped.cx.rs 2).getLsbD 63 = false ∧
    tokenPhase (grouped.cx.rs 2) = grouped.co.log.phase.toNat ∧ tokenPhase (grouped.cx.rs 1) = grouped.co.log.phase.toNat ∧
    (∃ t u cur bad, grouped.clear.acqTarget 1 (some (grouped.cx.rs 1)) = .ok (false, t) ∧
      grouped.clear.replayTo 1 t = (u, cur, bad) ∧ t ≤ cur) := by
  refine ⟨by decide, runs_idle _ _ rfl, ⟨_, rfl, rfl⟩, runs_idle _ _ rfl, by decide, by decide, by decide,
    replays _ _ rfl (by decide +kernel), runs_idle _ _ rfl, by decide, by decide, by decide, replays _ _ rfl (by decide +kernel)⟩

/-- A page table: addresses 0 to 2^25 - 1 are core 0's slice, the next 2^25 the host window's first (07 R199, R200). -/
def paged : Mem := Mem.writeBytes (Mem.writeBytes (Mem.writeBytes [] 0 (leBytes 0x20001 8)) 0x20000 (leBytes 0x10000000007 8))
  0x20008 (leBytes 0x800000000007 8)

/-- Core 0, the one core of partition 0, with an atomic in progress in its context 0. -/
def atoms (q : Pending) : State := { withCore { Core.reset with
    ctxs := (Vector.replicate 4 Context.reset).set 0 { Context.reset with atm := { Timeline.zero with issued := 1, cmds := [q] } }
    ltt := (Vector.replicate 128 0).set 0 (BitVec.ofNat 128 (24 * 2 ^ 48 + 3 * 2 ^ 57 + 1 * 2 ^ 88)) } with
  mem := paged, parts := [(0, 1#2048 <<< 1024 ||| 1)] }

/-- An ATOM.ADD.U32 of 1 at an address. -/
def anAtom (va : Word) (phase : Phase) (reply : Option (Nat × Word)) (sends : Nat) : Pending :=
  { newPending 1 0 (.atom 0 va 1 (BitVec.ofNat 64 (sliceBase 0)) 0) 0 0 with phase := phase, reply := reply, sends := sends }

theorem choose_only {α : Type} (s : State) (x : α) (f : α → Bool) (h : f x = true) :
    s.choose ([x].filter f) = (some x, s) := by
  simp [State.choose, h]

theorem turn_only (q : Pending) (h : (atoms q).atomTurn 0 0 = [q]) :
    (atoms q).choose ((atoms q).atomTurn 0 0) = (some q, atoms q) := by
  rw [h]; simp [State.choose]

/-- An engine's answer that satisfies a test. -/
def engSat {α : Type} (e : Eng α) (f : α → State → Bool) : Bool :=
  match e with
  | .ok y t => f y t
  | _ => false

theorem eng_of {α : Type} (e : Eng α) (f : α → State → Bool) (h : engSat e f = true) : ∃ y t, e = .ok y t ∧ f y t = true := by
  cases e with
  | ok y t => exact ⟨y, t, rfl, h⟩
  | fault _ _ => cases h
  | stop _ _ _ => cases h
  | freeze _ _ _ => cases h

theorem home_here : engSat (((atoms (anAtom 8 .waiting none 0)).actCmd 0 0 (anAtom 8 .waiting none 0)).atomXlat 0 8 4)
    (fun y t => !farHome (homeOf y) && engSat (t.atomHere y 0 8 1 0) fun _ _ => true) = true := by decide +kernel

theorem home_far : engSat (((atoms (anAtom 0x2000000 .waiting none 0)).actCmd 0 0
    (anAtom 0x2000000 .waiting none 0)).atomXlat 0 0x2000000 4) (fun y _ => farHome (homeOf y)) = true := by decide +kernel

/-- An atomic sent to the host window, waiting for its reply. -/
def sentAtom (n : Nat) : Pending := { anAtom 0x2000000 .reqSent none n with stage := 1, prog := 0 }

/-- Issue with an aligned and a misaligned target; homes here and in the host window; a sent one; a reply; the seventh and the eighth sending. -/
theorem meets_AtomicsIssueAndComplete :
    (let s := atoms (anAtom 0 .done none 0)
     s.Runs always [.s 1, .s 2, .s 3] ∧ slotBlock .atm s = none ∧ (s.cx.rs 1).toNat % 8 = 0 ∧
      ∃ l, s.atomRecord (s.cx.rs 3) = .ok l) ∧
    ((with1 2).Runs always [.s 1, .s 2, .s 3] ∧ slotBlock .atm (with1 2) = none ∧ ((with1 2).cx.rs 1).toNat % 4 ≠ 0) ∧
    (let s := atoms (anAtom 8 .waiting none 0)
     ∃ q u, s.choose (s.atomTurn 0 0) = (some q, u) ∧
      q.cmd = .atom 0 8 1 (BitVec.ofNat 64 (sliceBase 0)) 0 ∧ q.stage ≠ 1 ∧ ∃ y t, (u.actCmd 0 0 q).atomXlat 0 8 4 = .ok y t ∧
        farHome (homeOf y) = false ∧ ∃ old z, t.atomHere y 0 8 1 0 = .ok old z) ∧
    (let s := atoms (anAtom 0x2000000 .waiting none 0)
     ∃ q u, s.choose (s.atomTurn 0 0) = (some q, u) ∧
      q.cmd = .atom 0 0x2000000 1 (BitVec.ofNat 64 (sliceBase 0)) 0 ∧ q.stage ≠ 1 ∧
      ∃ y t, (u.actCmd 0 0 q).atomXlat 0 0x2000000 4 = .ok y t ∧ farHome (homeOf y) = true) ∧
    (let s := atoms (sentAtom 1)
     ∃ q u, s.choose (s.atomTurn 0 0) = (some q, u) ∧
      q.cmd = .atom 0 0x2000000 1 (BitVec.ofNat 64 (sliceBase 0)) 0 ∧ q.stage = 1) ∧
    (let s := atoms (anAtom 8 .reqSent (some (0, 7)) 0)
     ∃ q u, s.choose ((s.ctxAt 0 0).atm.cmds.filter fun q => q.phase == .reqSent && q.reply.isSome) = (some q, u) ∧
      q.cmd = .atom 0 8 1 (BitVec.ofNat 64 (sliceBase 0)) 0 ∧ q.reply = some (0, 7)) ∧
    (∀ n, n = 6 ∨ n = 7 → let s := atoms (sentAtom n)
      ∃ u, s.choose ((s.ctxAt 0 0).atm.cmds.filter Pending.sentFar) = (some (sentAtom n), u)) ∧
    (sentAtom 6).sends < 7 ∧ 7 ≤ (sentAtom 7).sends := by
  refine ⟨⟨runs_idle _ _ rfl, rfl, by decide, ok_of _ (by decide)⟩, ⟨runs_idle _ _ rfl, rfl, by decide⟩,
    ⟨_, _, turn_only _ (by decide +kernel), rfl, by decide, ?_⟩, ⟨_, _, turn_only _ (by decide +kernel), rfl, by decide, ?_⟩,
    ⟨_, _, turn_only _ (by decide +kernel), rfl, rfl⟩, ⟨_, _, choose_only _ _ _ rfl, rfl, rfl⟩, fun n hn => ?_, by decide, by decide⟩
  · obtain ⟨y, t, h, g⟩ := eng_of _ _ home_here
    simp only [Bool.and_eq_true, Bool.not_eq_true'] at g
    obtain ⟨old, z, k, -⟩ := eng_of _ _ g.2
    exact ⟨y, t, h, g.1, old, z, k⟩
  · exact eng_of _ _ home_far
  · exact ⟨_, choose_only _ _ _ (by rcases hn with rfl | rfl <;> decide +kernel)⟩

/-- Core 0 with a writable PRIVATE entry over its slice, in partition 0; context 0 holds a task of launch 1 whose image has
one ferry template and no LMS, and a staging buffer; s1 holds 1, s2 the address 8, s3 a multiple of 4096; delivery queue 0
holds one entry of two received. -/
def busy : State :=
  let t : Task := ⟨1, 0, 0, 0, 1, 0, 0, [], [], [0#768], [], false, 0⟩
  { withCore { Core.reset with
    ctxs := (Vector.replicate 4 Context.reset).set 0 { Context.reset with
      task := some t, staging := some (wordFerry 0), s := (Vector.replicate 64 0).set 1 1 |>.set 2 8 |>.set 3 0x1000 }
    dqs := (Vector.replicate 8 DeliveryQueue.empty).set 0 ⟨[⟨7, 1, 2⟩], 2, 1⟩
    ltt := (Vector.replicate 128 0).set 0 (BitVec.ofNat 128 (24 * 2 ^ 48 + 3 * 2 ^ 57 + 1 * 2 ^ 88)) } with
  parts := [(0, 1#2048 <<< 1024 ||| 1)] }

/-- A cargo of 256 bytes, and of 257, which is none; a template that the image has, and one that it has not; a task with and
without a staging buffer; a count that has come and one that has not; a queue with and without an entry. -/
theorem meets_FerryInstructionsComplete : busy.RunsRows always [5] [.s 1, .s 2] ∧ busy.RunsRows always [] [.s 1, .s 2] ∧
    ((256 : BitVec 9).toNat ≤ 256 ∧ (256 : BitVec 9).toNat % 4 = 0) ∧ ¬(257 : BitVec 9).toNat ≤ 256 ∧
    (∃ t, busy.template 0 = some t) ∧ busy.template 1 = none ∧ busy.Runs always [] ∧ slotBlock .fry busy = none ∧
    (∃ f, busy.cx.staging = some f) ∧ State.reset.Runs always [] ∧ slotBlock .fry State.reset = none ∧
    State.reset.cx.staging = none ∧ busy.Runs always [.s 1, .s 3, .s 2] ∧
    (∃ pa, busy.recordAt (busy.cx.rs 3) 64 64 false false = .ok pa) ∧ busy.Runs always [.s 1] ∧ busy.Runs always [.s 2] ∧
    (busy.cx.rs 1).toNat ≤ (busy.co.dq 0).count.toNat ∧ (busy.co.dq 0).count.toNat < (busy.cx.rs 2).toNat ∧
    (∃ x rest, (busy.co.dq 0).items = x :: rest) ∧ (busy.co.dq 1).items = [] :=
  ⟨rows_idle _ _ _ rfl rfl rfl rfl, rows_idle _ _ _ rfl rfl rfl rfl, by decide, by decide, ⟨_, rfl⟩, rfl, runs_idle _ _ rfl,
    rfl, ⟨_, rfl⟩, runs_idle _ _ rfl, rfl, rfl, runs_idle _ _ rfl, ok_of _ (by decide), runs_idle _ _ rfl, runs_idle _ _ rfl,
    by decide, by decide, ⟨_, _, rfl⟩, rfl⟩

/-- Sweep 0 of partition 0, with a query of busy's context whose page 0 has entered the stream and been read. -/
def sweeping : State :=
  let q : Query := ⟨0, 1, 1, 0, [0], [], [0], [0], [(0, 0)], 0, [], 0, ⟨0, 0, 0⟩, false, .active⟩
  let x : Sweep := ⟨.main, 0, [0], 0, 1, false, none, Vector.replicate 8 ⟨0, none, false, false⟩, [q]⟩
  { busy.setCx (busy.cx.setStream 0 { StreamReg.idle with taken := 1 }) with sweeps := [(0, x)] }

/-- sweeping's state with 64 partials in its domain's intake. -/
def crowded : State := sweeping.setIntake (homeDomain 0) (List.replicate 64 ⟨0, 0, 1, 0, 1, ⟨0, 0, 0⟩⟩)

/-- The first and the last count of pages, an address that is no multiple of 8, and a list whose stream is free. -/
theorem meets_SweepCommandsIssue : busy.Runs always [.s 3, .s 1, .s 3] ∧ slotBlock .swp busy = none ∧
    (∃ stat, busy.recordAt (busy.cx.rs 3) 8 8 false true = .ok stat) ∧ 0 < (busy.cx.rs 1).toNat ∧
    (busy.cx.rs 3).toNat ≤ 4096 ∧ (busy.cx.rs 3).toNat ≤ 0x100000 ∧ (2048 : BitVec 12).toNat ≤ 2048 ∧
    (busy.cx.rs 3).toNat % 8 = 0 ∧ (busy.cx.stream 15).held = false ∧ (busy.cx.rs 5).toNat = 0 ∧
    2048 < (2049 : BitVec 12).toNat ∧ (busy.cx.rs 1).toNat % 4 ≠ 0 ∧ sweeping.RunsRows always [6, 7] [.s 3] ∧
    64 ≤ (crowded.intakeOf (homeDomain (crowded.cur.core * 4))).length ∧ crowded.RunsRows always [6, 7] [.s 3] ∧
    (sweeping.intakeOf (homeDomain (sweeping.cur.core * 4))).length < 64 ∧
    (∃ z k page, (sweeping.clear.popped [6, 7]).mergeFor 0 = some (z, k, page)) ∧ busy.Runs always [.s 3] ∧
    (∃ pa, busy.recordAt (busy.cx.rs 3) 528 16 true true = .ok pa) := by
  refine ⟨runs_idle _ _ rfl, rfl, ok_of _ (by decide), by decide, by decide, by decide, by decide, by decide, rfl, by decide,
    by decide, by decide, rows_idle _ _ _ rfl rfl rfl rfl, by decide, rows_idle _ _ _ rfl rfl rfl rfl, by decide, ?_,
    runs_idle _ _ rfl, ok_of _ (by decide)⟩
  exact ⟨_, _, _, rfl⟩

/-- busy's core in a partition of 100 pool entries and with save regions, with one mailbox, numbered 1. -/
def posting (x : Mbox) : State := { busy with
  parts := [(0, 1#2048 <<< 1024 ||| 100#2048 <<< 272 ||| 5)], mboxes := [(1, x)] }

/-- A mailbox of partition 0, a consumer or a producer, with posts that await acceptance and records unread. -/
def box (prod : Bool) (posts : Nat) (last : W32) : Mbox :=
  { Mbox.none with desc := if prod then 3 else 1, posts := posts, lastc := last, cack := 0 }

/-- A test of a result that is no error. -/
def exSat {ε α : Type} (e : Except ε α) (f : α → Bool) : Bool :=
  match e with
  | .ok x => f x
  | .error _ => false

theorem ex_of {ε α : Type} (e : Except ε α) (f : α → Bool) (h : exSat e f = true) : ∃ x, e = .ok x ∧ f x = true := by
  cases e with
  | ok x => exact ⟨x, rfl, h⟩
  | error _ => cases h

/-- A record at s3, which asks for one entry: a pool without one, and with; a mailbox not registered, a consumer, and a
producer with 64 posts and with 63, and with 64 records unread and with 63. -/
theorem meets_LaunchesAndPostsComplete : busy.Runs always [.s 3] ∧ (posting (box true 0 0)).Runs always [.s 1, .s 3] ∧
    (∃ x, busy.clear.launchRecord (busy.cx.rs 3) = .ok x ∧ ((x.2.partOfCore x.2.cur.core).any fun q =>
      x.2.takeEntries q.1 q.2 1 (1 + recRsv x.1) == none) = true) ∧
    (∃ x, (posting (box true 0 0)).clear.launchRecord (busy.cx.rs 3) = .ok x ∧ ((x.2.partOfCore x.2.cur.core).any fun q =>
      x.2.takeEntries q.1 q.2 1 (1 + recRsv x.1) == some false) = true) ∧
    (∃ x, busy.clear.launchRecord (busy.cx.rs 3) = .ok x ∧ (x.2.postBox (x.2.cx.rs 1)).isNone = true) ∧
    (∀ b, b ∈ [box false 0 0, box true 64 0, box true 63 63] →
      ∃ x, (posting b).clear.launchRecord (busy.cx.rs 3) = .ok x ∧ (x.2.postBox (x.2.cx.rs 1) == some (1, b)) = true) ∧
    (box false 0 0).prod = false ∧ (box true 64 0).prod = true ∧ 64 ≤ (box true 64 0).posts ∧ (box true 63 63).posts < 64 ∧
    (box true 63 63).unread < 64 ∧ 64 ≤ (box true 0 64).unread := by
  refine ⟨runs_idle _ _ rfl, runs_idle _ _ rfl, ex_of _ _ (by decide +kernel), ex_of _ _ (by decide +kernel), ex_of _ _ (by decide +kernel),
    fun b hb => ?_, by decide, by decide, by decide, by decide, by decide, by decide⟩
  simp only [List.mem_cons, List.not_mem_nil, or_false] at hb
  rcases hb with rfl | rfl | rfl <;> exact ex_of _ _ (by decide +kernel)

/-- A context in service with a core whose partition has save regions; a record with its signature, and zeros. -/
def saving (mem : Mem) (svc : Bool) : State :=
  { (posting Mbox.none).setCx { busy.cx with svc := svc } with mem := mem }

/-- The signature at the start of context 0's record in the save region, and at s3. -/
def signed : Mem := Mem.writeBytes (Mem.writeBytes [] (sliceBase 0 + 0x1000) (leBytes 0x00585443 4)) (recordBase 0 0)
  (leBytes 0x00585443 4)

theorem meets_SavedContextsComplete : (saving signed true).Runs always [.s 3] ∧ (saving [] false).Runs always [.s 3] ∧
    (∃ acc, (saving signed true).access 0x1000 32768 64 true = .ok acc ∧ acc.loc.kind < 2 ∧
      Mem.readLE (saving signed true).mem ((saving signed true).accessPa acc) 4 = 0x00585443) ∧
    (∃ acc, (saving [] true).access 0x1000 32768 64 true = .ok acc ∧ acc.loc.kind < 2 ∧
      Mem.readLE (saving [] true).mem ((saving [] true).accessPa acc) 4 ≠ 0x00585443) ∧
    (saving signed true).Runs always [] ∧ (saving signed true).hasSaves (saving signed true).cur.core = true ∧
    (saving signed true).cx.svc = true ∧ Mem.readLE (saving signed true).mem (recordBase 0 0) 4 = 0x00585443 ∧
    (saving [] false).Runs always [] ∧ (saving [] false).cx.svc = false ∧ (saving [] false).cx.drain = false := by
  exact ⟨runs_idle _ _ rfl, runs_idle _ _ rfl, ⟨_, rfl, by decide, by decide +kernel⟩,
    ⟨_, rfl, by decide, by decide +kernel⟩, runs_idle _ _ rfl, by decide +kernel, rfl, by decide +kernel, runs_idle _ _ rfl,
    rfl, rfl⟩

/-! Landings. -/

/-- A ferry whose stack holds a list, the last on top. -/
def stacked (l : List W32) : Ferry := l.foldl (fun f x => match pushW f x with
  | .ok g => g
  | .error _ => f) (wordFerry 0)

/-- A ferry for node 1, whose hops have reached its budget of 3, and one at its first hop. -/
def bound (hops : Nat) : Ferry := setHdr (setHdr (setHdr (wordFerry 0) 16 15 1) 64 8 hops) 72 8 3

/-- Node 0 of a domain of two nodes along X, with tenant 0 active in partition 0, which owns core 0, grants every
permission or none and has a window of 512 words; port 0 has a live link or none; slot 0 is armed, slot 1 complete; a ferry
lands at a position. -/
def landing (f : Ferry) (mask pos : Nat) (live : Bool) (clones : List Ferry) : State :=
  let part : Part := BitVec.ofNat 2048 (2 ^ 1024 + mask * 2 ^ 256 + 512 * 2 ^ 215 + (2 + 1 * 64 + 1 * 4096) * 2 ^ 128 + 1)
  { State.reset with
    parts := [(0, part)]
    fabric := { Fabric.reset with links := if live then [(0, { Link.reset with st := .up, keyed := true })] else [] }
    router := { Router.reset with
      landing := some ⟨f, pos, clones, none⟩
      slots := [(0, ⟨1, 0, 0, 2, 0, 0, 0, 0, 0, 0, 0⟩), (1, ⟨2, 0, 0, 2, 0, 0, 0, 0, 0, 0, 0⟩)] } }

/-- Stacks of 0, 3 and 4 entries. -/
theorem meets_LandingStackHoldsFour : ferrySp (stacked []) = 0 ∧ ferrySp (stacked [1, 2, 3]) = 3 ∧
    ferrySp (stacked [1, 2, 3, 4]) = 4 := by decide

/-- Stacks with no entry, two, and four; DUP of the lowest entry and of the one below it. -/
theorem meets_LandingArithmeticCompletes : (∃ l, (landing (stacked [5, 7]) 0 0 true []).router.landing = some l ∧
      l.ferry = stacked [5, 7]) ∧
    (∃ g, pushW (stacked [5, 7]) 1 = .ok g) ∧ (∃ e, pushW (stacked [1, 2, 3, 4]) 1 = .error e) ∧
    (1 : BitVec 2).toNat < ferrySp (stacked [5, 7]) ∧ ferrySp (stacked [5, 7]) ≤ (2 : BitVec 2).toNat ∧
    (∃ x g, popW (stacked [5, 7]) = .ok (x, g) ∧ ∃ h, pushW g 1 = .ok h) ∧ (∃ e, popW (stacked []) = .error e) ∧
    (∃ b f1 a f2, popW (stacked [5, 7]) = .ok (b, f1) ∧ popW f1 = .ok (a, f2) ∧ ∃ g, pushW f2 (a + b) = .ok g ∧
      ∃ h, pushW g a = .ok h) :=
  ⟨⟨_, rfl, rfl⟩, ⟨_, rfl⟩, ⟨_, rfl⟩, by decide, by decide, ⟨_, _, rfl, _, rfl⟩, ⟨_, rfl⟩, ⟨_, _, _, _, rfl, rfl, _, rfl, _, rfl⟩⟩

theorem opt_of {α : Type} (o : Option α) (f : α → Bool) (h : o.any f = true) : ∃ x, o = some x ∧ f x = true := by
  cases o with
  | none => cases h
  | some x => exact ⟨x, rfl, h⟩

/-- A window word that a ferry reads onto its stack. -/
theorem window_of (s : State) (f : Ferry) (i : Nat) (h : (s.windowWord f i).any (fun w => good (pushW f (s.winGet w))) = true) :
    ∃ w, s.windowWord f i = some w ∧ ∃ g, pushW f (s.winGet w) = .ok g := by
  obtain ⟨w, e, k⟩ := opt_of _ _ h
  exact ⟨w, e, ok_of _ k⟩

/-- The last forward position, 15, and the next; the third copy and a fourth; a ferry at its node, on its way, and at its
budget; a port with and without a live link; a permission granted and not; a queue of a core owned and of one not; an armed
slot and a complete one. -/
theorem meets_LandingBranchesAndEndsComplete :
    (0 + 1 + (14 : BitVec 4).toNat ≤ 15 ∧ 15 < 0 + 1 + (15 : BitVec 4).toNat) ∧
    (∃ x g, popW (stacked [1, 7]) = .ok (x, g)) ∧ (landing (stacked [1]) 0xFF 0 true []).granted (stacked [1]) 5 = true ∧
    [wordFerry 0, wordFerry 0].length < 3 ∧ 3 ≤ [wordFerry 0, wordFerry 0, wordFerry 0].length ∧
    (∃ d g, (landing (stacked [1]) 0xFF 0 true []).popCoord (stacked [1]) = .ok (d, g) ∧
      (∃ own, pushW g 0 = .ok own) ∧ ∃ copy, pushW g 1 = .ok copy) ∧
    ferryTarget (stacked [1]) = (landing (stacked [1]) 0 0 true []).node ∧
    ferryTarget (bound 1) ≠ (landing (bound 1) 0 0 true []).node ∧ ferryHops (bound 1) ≠ ferryBudget (bound 1) ∧
    ((landing (bound 3) 0 0 true []).reaches (ferryTenant (bound 3)) (ferryTarget (bound 3)) = true ∧
      dimPort ((landing (bound 3) 0 0 true []).extent (ferryTenant (bound 3))) (landing (bound 3) 0 0 true []).node
        (ferryTarget (bound 3)) ≠ none ∧ ferryHops (bound 3) = ferryBudget (bound 3) ∧
      (landing (bound 3) 0 0 true []).adaptivePort (bound 3) = some 0 ∧ (landing (bound 3) 0 0 true []).deadPort 0 = false) ∧
    (landing (bound 1) 0xFF 0 true []).granted (bound 1) 6 = true ∧
    (landing (bound 1) 0 0 true []).adaptivePort (bound 1) = some 0 ∧
    (landing (bound 1) 0 0 true []).extent (ferryTenant (bound 1)) (axisPort 0) ≠ 1 ∧
    (landing (bound 1) 0 0 true []).deadPort 0 = false ∧ (landing (bound 1) 0 0 false []).deadPort 0 = true ∧
    (landing (bound 1) 0 0 true []).granted (bound 1) 6 = false ∧
    (landing (stacked [9, 0]) 0xFF 0 true []).granted (stacked [9, 0]) 4 = true ∧
    (∃ x g, popW (stacked [9, 0]) = .ok (x, g) ∧ x.toNat < 2 ^ 12 ∧
      (landing (stacked [9, 0]) 0xFF 0 true []).ownsLandCore (popOrZero g).2 (x.toNat % 512) = true) ∧
    (∃ x g, popW (stacked [9, 1]) = .ok (x, g) ∧ x.toNat < 2 ^ 12 ∧
      (landing (stacked [9, 1]) 0xFF 0 true []).ownsLandCore (popOrZero g).2 (x.toNat % 512) = false) ∧
    (landing (stacked [0]) 0xFF 0 true []).granted (stacked [0]) 2 = true ∧
    (∃ x g y, popW (stacked [0]) = .ok (x, g) ∧ (landing (stacked [0]) 0xFF 0 true []).slotFor g x.toNat = .ok y ∧ y.st = 1) ∧
    (∃ x g y, popW (stacked [1]) = .ok (x, g) ∧ (landing (stacked [1]) 0xFF 0 true []).slotFor g x.toNat = .ok y ∧ y.st ≠ 1) := by
  refine ⟨by decide, ⟨_, _, rfl⟩, by decide +kernel, by decide, by decide, ?_, by decide, by decide, by decide,
    by decide +kernel, by decide +kernel, by decide +kernel, by decide +kernel, by decide, by decide,
    by decide +kernel, by decide +kernel, ⟨_, _, rfl, by decide, by decide +kernel⟩, ⟨_, _, rfl, by decide, by decide +kernel⟩,
    by decide +kernel, ⟨_, _, _, rfl, rfl, by decide⟩, ⟨_, _, _, rfl, rfl, by decide⟩⟩
  obtain ⟨x, h, k⟩ := ex_of ((landing (stacked [1]) 0xFF 0 true []).popCoord (stacked [1]))
    (fun x => good (pushW x.2 0) && good (pushW x.2 1)) (by decide +kernel)
  rw [Bool.and_eq_true] at k
  exact ⟨x.1, x.2, h, ok_of _ k.1, ok_of _ k.2⟩

/-- The last word of a window of 512 and the one after it, a permission granted and not, slots armed and complete, a cargo of
one word, coordinates of the domain. -/
theorem meets_LandingResourcesComplete :
    (let s := landing (stacked [0, 511]) 0xFF 0 true []
     let f := stacked [0, 511]
     s.granted f 0 = true ∧ s.granted f 1 = true ∧ s.granted f 2 = true ∧ s.granted f 3 = true ∧ s.granted f 6 = true ∧
     (∃ w, s.windowWord f (511 : BitVec 9).toNat = some w ∧ ∃ g, pushW f (s.winGet w) = .ok g) ∧
     s.windowWord f 512 = none ∧ (∃ g, pushW f 1 = .ok g) ∧
     (∃ x f1, popW f = .ok (x, f1) ∧ (∃ w, s.windowWord f1 x.toNat = some w ∧ ∃ g, pushW f1 (s.winGet w) = .ok g) ∧
       ∃ w, s.windowWord f1 (31 : BitVec 5).toNat = some w ∧ ∃ g, pushW f1 (s.winGet w) = .ok g)) ∧
    (landing (stacked [0, 511]) 0 0 true []).granted (stacked [0, 511]) 0 = false ∧
    (∀ k : BitVec 1, let s := landing (stacked [k.setWidth 32, 7]) 0xFF 0 true []
      ∃ v f1 x f2 y, popW (stacked [k.setWidth 32, 7]) = .ok (v, f1) ∧ popW f1 = .ok (x, f2) ∧ s.slotFor f2 x.toNat = .ok y ∧
        (k = 0 → y.st = 1 ∧ ∃ z flag g, y.combine v = (z, flag) ∧ push2 f2 flag z.value = .ok g) ∧
        (k = 1 → y.st ≠ 1 ∧ ∃ g, push2 f2 2 y.value = .ok g)) ∧
    (let f := setHdr (stacked [1]) 112 9 4
     (0 : BitVec 6).toNat < ferryClen f / 4 ∧ ferryClen f / 4 ≤ (1 : BitVec 6).toNat ∧ (∃ x g, popW f = .ok (x, g)) ∧
      ∃ d g, (landing f 0xFF 0 true []).popCoord f = .ok (d, g)) := by
  have hk : ∀ k : BitVec 1, k = 0 ∨ k = 1 := by decide
  refine ⟨⟨by decide +kernel, by decide +kernel, by decide +kernel, by decide +kernel, by decide +kernel, window_of _ _ _ (by decide +kernel),
    by decide +kernel, ⟨_, rfl⟩, ⟨_, _, rfl, window_of _ _ _ (by decide +kernel), window_of _ _ _ (by decide +kernel)⟩⟩, by decide +kernel, fun k => ?_,
    ⟨by decide, by decide, ⟨_, _, rfl⟩, ?_⟩⟩
  · rcases hk k with rfl | rfl
    · refine ⟨_, _, _, _, _, rfl, rfl, rfl, fun _ => ⟨by decide, _, _, _, rfl, rfl⟩, fun h => absurd h (by decide)⟩
    · refine ⟨_, _, _, _, _, rfl, rfl, rfl, ?_, fun _ => ⟨by decide, _, rfl⟩⟩
      exact fun h => absurd h (by decide)
  · obtain ⟨x, h, -⟩ := ex_of ((landing (setHdr (stacked [1]) 112 9 4) 0xFF 0 true []).popCoord
      (setHdr (stacked [1]) 112 9 4)) (fun _ => true) (by decide +kernel)
    exact ⟨x.1, x.2, h⟩

/-! Events. -/

/-- An invalid entry and a valid one of size 0; the reset value of SYS.LOGC, LOGSZ 16 and 23, and 15; scopes 1 and 2; the
reset value of SYS.SMPC and an interval of 0; selections 10 and 11. -/
theorem meets_RegisterWriteEventsComplete : State.reset.lttAccepts 0 0 ((0 : Word) ++ (State.reset.core 0).lttaNew) = true ∧
    (withCore { Core.reset with lttaNew := 0x400000000000000 }).lttAccepts 0 0 ((0 : Word) ++ (0x400000000000000 : Word)) = false ∧
    (16 ≤ fld 0x1B14E0 8 5 ∧ fld 0x1B14E0 8 5 ≤ 23 ∧ fld 0x1B14E0 32 9 ≤ 256 ∧ (0x1B14E0 : Word) &&& 0x7FFFFE00FFE0E000 = 0 ∧
      State.reset.extOk 0 (State.reset.core 0).log.xbase (fld 0x1B14E0 32 9 * 0x100000) = true ∧
      State.reset.logRangeOk 0 (fld 0x1B14E0 0 8 * 0x10000) (2 ^ fld 0x1B14E0 8 5) = true ∧
      State.reset.logRangeOk 0 (fld 0x1B14E0 16 5 * 0x80000) 0x80000 = true ∧ (State.reset.core 0).log.entries = []) ∧
    ((0x200000 : Word) &&& 0xFFFF0000000FFFFF = 0 ∧ (State.reset.core 0).log.extHolds = false ∧
      State.reset.extOk 0 (fld 0x200000 20 28 * 0x100000) (State.reset.core 0).log.xsize = true) ∧
    ¬16 ≤ fld 0x1B0FE0 8 5 ∧ 256 < fld 0x1011B14E000 32 9 ∧ (1 : Word) &&& 0xFFFF0000000FFFFF ≠ 0 ∧
    fld 0x1000000000000 48 2 < 2 ∧ 2 ≤ fld 0x2000000000000 48 2 ∧
    (8 ≤ fld 0x810 1 5 ∧ fld 0x810 1 5 ≤ 20 ∧ 8 ≤ fld 0x810 8 4 ∧ fld 0x810 8 4 ≤ 16 ∧
      State.reset.hitsReserved 0 0 (16 * 2 ^ fld 0x810 8 4) = false) ∧ ¬8 ≤ fld 0x800 1 5 ∧
    (0 : Word) ≤ (State.reset.core 0).smph ∧ (State.reset.core 0).smph < 1 ∧ (10 : Word).toNat < 11 ∧ 11 ≤ (11 : Word).toNat ∧
    ((State.reset.counters 0).sel[0]?.getD 0) ≠ (10 : Word).setWidth 8 := by decide

/-- A partition that is ACTIVE and owns the first granule of HBM; a command that waits for the reply to fault 7. -/
def waiting : State := { withCtx { Context.reset with
    cpy := { Timeline.zero with cmds := [{ newPending 1 0 (.cpy 0 16 16) 0 0 with phase := .faulted, parts := [⟨1, 16, false, some 7⟩] }] } } with
  parts := [(0, 1#2048 <<< 1536 ||| 1)], device := { Device.reset with stage := 6 } }

/-- Descriptors that register and withdraw, and one with a reserved bit; an entry that is not valid, one of 2^16 bytes, and
one with a reserved bit; a line of a granule owned and of one that is not. -/
theorem meets_HostEventsComplete : descOk 1 = true ∧ (1 : BitVec 256).getLsbD 0 = true ∧
    Part.state (waiting.part (fld (1 : BitVec 256).toNat 128 6)) = 1 ∧ (waiting.mbox 0).v = false ∧
    descOk 0 = true ∧ (0 : BitVec 256).getLsbD 0 = false ∧ descOk (1 <<< 255) = false ∧
    (look (posting (box true 0 0)).mboxes 1).isSome = true ∧ ownZerosOk 0 = true ∧ ownValid 0 = false ∧
    (let e : BitVec 128 := 0x110000000000000
     ownZerosOk e = true ∧ ownValid e = true ∧ ownRangeOk e = true ∧ State.reset.ownClash 0 0 e = false) ∧
    ownZerosOk 1 = false ∧ State.reset.hdmOpen 0 = false ∧ waiting.hdmOpen 0 = true ∧
    (∃ x, waiting.findFault ((0x100000007 : Word).setWidth 32) = some x) ∧ (0x100000007 : Word).getLsbD 32 = true ∧
    (7 : Word).getLsbD 32 = false := by
  refine ⟨by decide, by decide, by decide +kernel, by decide +kernel, by decide, by decide, by decide, by decide +kernel,
    by decide, by decide, by decide, by decide, by decide, by decide +kernel, ?_, by decide, by decide⟩
  obtain ⟨x, h, -⟩ := opt_of (waiting.findFault ((0x100000007 : Word).setWidth 32)) (fun _ => true) (by decide +kernel)
  exact ⟨x, h⟩

/-- Core 0 with four contexts. -/
def four (a b : Context) : State := withCore { Core.reset with
  ctxs := (Vector.replicate 4 Context.reset).set 0 a |>.set 1 b }

def aTask : Task := ⟨1, 0, 0, 0, 1, 0, 0, [], [⟨0, 9, 20⟩], [], [], false, 0⟩

/-- 65,535 and 65,536 bundles of residency, with and without a context to let in; a result that does not exist yet; a
deadline that is now; a full log and a full view; a stub that covers the place, and none; a stub of 4,096 bundles; a group of
one saved context; a free place and a saved context for it; a drained EXIT; a FENCE.I; a ready context on an unarmed bank; a
core that runs and one that a debugger has stopped. -/
theorem meets_ContextEventsComplete :
    (let s := four { Context.reset with resid := 0xFFFF, st := .issuing } Context.reset
     ((s.core 0).ctxs.get (s.core 0).holder.toFin).resid.toNat < 65536) ∧
    (let s := four { Context.reset with resid := 0x10000, st := .issuing } Context.reset
     65536 ≤ ((s.core 0).ctxs.get (s.core 0).holder.toFin).resid.toNat ∧ (s.core 0).nextReady = none) ∧
    (let s := four { Context.reset with resid := 0x10000, st := .issuing } { Context.reset with st := .ready }
     (s.core 0).nextReady = some 1) ∧
    (let e : LandEntry := ⟨.s 1, 0, 0, 5, 1, 1, false, 0, 0⟩
     let s := four { Context.reset with landing := [e] } Context.reset
     (s.core 0).awaited 0 (s.ctxAt 0 0) = some e) ∧
    (∀ st : CtxState, let s := { four { Context.reset with tmr := 5, st := st } Context.reset with time := 5 }
      let c := s.ctxAt 0 0
      c.tmr ≠ 0 ∧ c.tmr.toNat ≤ s.time.toNat ∧ c.svc = false ∧ c.drain = false ∧ c.exiting = false ∧ c.st = st) ∧
    (∀ b : BitVec 4, let c := (four { Context.reset with st := .blocked, bcause := b } Context.reset).ctxAt 0 0
      c.st = .blocked ∧ c.bcause = b) ∧
    (let c := (four { Context.reset with preq := true, st := .ready, task := some aTask, ip := 9 } Context.reset).ctxAt 0 0
     c.preAction = .divert ⟨0, 9, 20⟩) ∧
    (let c := (four { Context.reset with preq := true, st := .ready, task := some aTask, ip := 10 } Context.reset).ctxAt 0 0
     c.preAction = .save ∧ c.settled = true ∧ c.saved = false) ∧
    (let c := (four { Context.reset with preq := true, st := .ready, drain := true, stubLen := 4096 } Context.reset).ctxAt 0 0
     c.mustAbandon = true ∧ c.settled = true) ∧
    (let s := four { Context.reset with st := .halted, saved := true, task := some aTask } Context.reset
     s.groupOn 0 0 1 0 = [0] ∧ (s.ctxAt 0 0).st = .halted ∧ (s.ctxAt 0 0).saved = true) ∧
    (let s := { four Context.reset Context.reset with parked := [⟨1, Context.reset, [], true, false⟩] }
     s.savedAlone 0 1 = false ∧ (s.ctxAt 0 1).st = .free ∧ ∃ x rest, takeFirst (fun (x : Parked) => x.num == 0 * 4 + (1 : BitVec 2).toNat && x.ready) s.parked =
      some (x, rest)) ∧
    (let c := (four { Context.reset with task := some aTask, exiting := true } Context.reset).ctxAt 0 0
     c.task = some aTask ∧ c.exiting = true) ∧
    (let s := withCore { Core.reset with fences := [⟨0, 1, 0, false, 1⟩] }
     (s.core 0).fences = [⟨0, 1, 0, false, 1⟩] ∧ (s.ctxAt 0 0).st ≠ .halted) ∧
    (let s := four { Context.reset with st := .ready } Context.reset
     let u := (s.preemptAll 0 allCtxs).limitResidency 0
     let w := (u.landDue 0 0).takeIssue 0 0
     (s.core 0).stopped = false ∧ (u.core 0).considered = [0] ∧ (w.ctxAt 0 0).efaults = [] ∧
      ∃ code t, w.fetchBundle 0 (w.ctxAt 0 0) = .error code ∧
        w.trapAttempt 0 0 (w.takeTrap 0 0 ⟨code, 0, 7, 0, 0, 0, 0⟩) = .trapped t) ∧
    (let s := four { Context.reset with st := .halted, saved := true, task := some aTask } Context.reset
     s.savedAlone 0 0 = true) ∧
    (let s := { State.reset with device := { Device.reset with scope := some 1 } }
     s.debugOpen = true ∧ (s.core 0).stopped = false) ∧
    (withCore { Core.reset with stopped := true }).co.stopped = true ∧ State.reset.debugOpen = false := by
  refine ⟨by decide, by decide, by decide, rfl, fun st => ?_, fun b => ⟨rfl, rfl⟩, by decide, by decide, by decide, ?_, ?_, ?_, ?_, ?_,
    by decide, by decide, by decide⟩
  · exact ⟨(by decide : (5 : Word) ≠ 0), Nat.le_refl 5, rfl, rfl, rfl, rfl⟩
  · exact ⟨by decide, rfl, rfl⟩
  · exact ⟨by decide, rfl, _, _, rfl⟩
  · exact ⟨rfl, rfl⟩
  · exact ⟨rfl, by decide⟩
  · exact ⟨rfl, by decide, rfl, _, _, rfl, rfl⟩

/-- Core 0 in partition 0, whose control pairs are split, with one command on context 0's mtx timeline. -/
def engine (q : Pending) : State := { four { Context.reset with mtx := { Timeline.zero with issued := 1, cmds := [q] } } Context.reset with
  parts := [(0, 1#2048 <<< 1024 ||| 17)] }

/-- A multiply of one row by one column over one element, at a row and a phase. -/
def aMultiply (row : Nat) (phase : Phase) : Pending :=
  { newPending 1 0 (.mma 4 4 ((Vector.replicate 8 0).set 4 0x4081) (Vector.replicate 8 0)) 0 row with phase := phase }

/-- Both members of a group at their PHASE. -/
def atPhase : State :=
  let d : LmsDecl := ⟨0, 0, false, 0, 0x1000⟩
  let t : Task := ⟨1, 0, 0, 0, 2, 0, 0, [], [], [], [d], false, 0⟩
  let l : Log := { Log.reset with group := some (1, 0), members := [0, 1], cursors := [0, 0], decls := [d] }
  let c : Context := { Context.reset with task := some t, st := .blocked, bcause := 7 }
  let k : Core := { Core.reset with ctxs := (Vector.replicate 4 Context.reset).set 0 c, log := l }
  { (withCore k).setCore 1 k with parts := [(0, 3#2048 <<< 1024 ||| 1)] }

/-- A sweep whose main pass is at its one page, and one whose main pass is over and owes a query that page. -/
def passing (cursor : Nat) (owed : List Nat) : State :=
  let q : Query := ⟨0, 1, 1, 0, [0], [0], owed, [], [], 0, [], 0, ⟨0, 0, 0⟩, false, .active⟩
  let x : Sweep := ⟨.main, 0, [0], 0, 1, false, none, Vector.replicate 8 ⟨cursor, none, false, false⟩, [q]⟩
  { busy with sweeps := [(0, x)] }

theorem turn_one (s : State) (p : Pending) (h : s.copyTurn 0 0 = [p]) : s.choose (s.copyTurn 0 0) = (some p, s) := by
  rw [h]; simp [State.choose]

theorem disagrees_split (s : State) (n : Nat) (h : s.splitAt n = true) : s.disagrees n = (false, s) := by
  simp [State.disagrees, h]

/-- A copy that may be performed; a store handed over; both members of a group at a PHASE; a row left and none left; MZERO;
an assist with nothing to do, whose pair does not compare; a halted pair; eight buffers taken and none; a pass that runs and
one to begin. Whether a pair that does compare disagrees is a free value: one of the two answers is given (16 R435). -/
theorem meets_EngineEventsComplete :
    (∃ p, copying.choose (copying.copyTurn 0 0) = (some p, copying)) ∧
    (withCore { Core.reset with nt := [⟨1, 0, [(0, 15, 7)]⟩] }).choose (ntReady [] [⟨1, 0, [(0, 15, 7)]⟩]) =
      (some ⟨1, 0, [(0, 15, 7)]⟩, withCore { Core.reset with nt := [⟨1, 0, [(0, 15, 7)]⟩] }) ∧
    (atPhase.groupCtxs 0 1 0 ≠ [] ∧ (∀ x ∈ atPhase.groupCtxs 0 1 0, (atPhase.ctxAt x.1 x.2.1).atPhase = true) ∧
      atPhase.awayFrom 0 1 0 = false ∧ atPhase.groupCores 0 (1, 0) = [0, 1] ∧
      ∀ m ∈ [0, 1], ((atPhase.eachCore State.closeOnce [0, 1]).core m).log.closed = []) ∧
    (∃ x, ((engine (aMultiply 0 .waiting)).core 0).serving = some x ∧ x.2.rowLeft = true) ∧
    (∃ x, ((engine (aMultiply 1 .waiting)).core 0).serving = some x ∧
      ((((engine (aMultiply 1 .waiting)).actFor 0 x.1).allRows 0 x.1 x.2.seq 65).cmd 0 x.1 .mtx x.2.seq ==
        some (aMultiply 1 .waiting)) = true) ∧ (aMultiply 1 .waiting).phase = .waiting ∧
    (∃ x, ((engine (newPending 1 0 (.mzero 3) 0 0)).core 0).serving = some x ∧
      ((((engine (newPending 1 0 (.mzero 3) 0 0)).actFor 0 x.1).allRows 0 x.1 x.2.seq 65).cmd 0 x.1 .mtx x.2.seq ==
        some (newPending 1 0 (.mzero 3) 0 0)) = true) ∧
    (∃ x, ((engine (aMultiply 1 .assist)).core 0).matrixCmds.find? (fun x => x.2.phase == .assist) = some x ∧
      (x.2.marks == []) = true) ∧
    (engine (aMultiply 1 .assist)).device.halts.contains (0 / 8) = false ∧
    (engine (aMultiply 1 .assist)).disagrees 0 = (false, engine (aMultiply 1 .assist)) ∧
    (∀ s : State, s.assistFrom 0 (aMultiply 1 .assist) 4 4 (mmaPar (Vector.replicate 8 0)) [] = .ok 0 s) ∧
    ({ State.reset with device := { Device.reset with halts := [0] } } : State).device.halts.contains 0 = true ∧
    8 ≤ ((List.replicate 8 (⟨0, 0, 0, false, [], []⟩ : PageBuf)).filter fun b => b.dom = 0).length ∧
    ((passing 0 []).mergeAll.deliverAll 0).bufs.length < 8 ∧ ((passing 0 []).mergeAll.deliverAll 0).engineJobs 0 = [.main 0] ∧
    (∃ x, (passing 1 [0]).mergeAll.sweeps = [(0, x)] ∧ (x.st != .opened && x.mainDone 0 && (x.engine 0).walk.isNone &&
      !(x.engine 0).idle && (x.nextPage 0 0 true).isSome) = true) := by
  refine ⟨⟨newPending 2 0 (.cpy 0 16 16) 0 0, turn_one _ _ (by decide +kernel)⟩, rfl, ⟨by decide +kernel, by decide +kernel, by decide +kernel,
      by decide +kernel, by decide +kernel⟩,
    opt_of _ _ (by decide +kernel),
    opt_of _ _ (by decide +kernel), rfl, opt_of _ _ (by decide +kernel), opt_of _ _ (by decide +kernel), rfl,
    disagrees_split _ _ (by decide +kernel), fun _ => rfl, by decide +kernel, by decide +kernel,
    by decide +kernel, by decide +kernel, ⟨_, rfl, by decide +kernel⟩⟩

/-- A launch of partition 0 with one group that waits since the start, 10 ms ago and less, in class 2, and two members. -/
def aLaunch : Launch :=
  { lid := 1, part := 0, record := 0, mbox := none, lseq := 0, image := 0, bytes := [], st := .queued, cls := 2, front := 0
    parent := none, entries := 1, resUsed := 0, groups := [⟨.unplaced, [], 0⟩], ended := 0, hbmDone := false, charge := 0
    used := 0, waited := 0, since := 0, tick := 0, home := none, tstart := 0, nexit := 0, ntrap := 0, cki := 0, status := 0, members := [3, 4]
    reserved := false }

/-- An ACTIVE partition with no command running, a launch, a member that has still to report. -/
theorem meets_SchedulingEventsComplete :
    (let s := { State.reset with parts := [(0, 1#2048)], launches := [aLaunch] }
     Part.state (s.part 0) = 1 ∧ (∀ r ∈ s.device.running, r.part ≠ 0) ∧ (s.launch 0 1).isSome = true) ∧
    aLaunch.members.contains 4 = true ∧ aLaunch.members ≠ [] := by
  decide +kernel

/-- A router with a ferry waiting to land, of a tenant without a partition or of one it knows, frozen or not; a ferry on an
adaptive lane; an armed slot whose deadline is now; a mooring of a fault and one that waits for the pool. -/
theorem meets_RouterEventsComplete :
    (5 : BitVec 3).toNat < 6 ∧ State.reset.router.full = false ∧
    (let s := State.reset.setRouter { Router.reset with pool := [⟨wordFerry 0, 0, 7, none⟩] }
     s.timeouts.router.landing = none ∧ s.timeouts.router.stuck.length < 24 ∧
     s.timeouts.router.pool = [⟨wordFerry 0, 0, 7, none⟩] ∧
     s.pairFrozen (ferryOrig (wordFerry 0)) (ferryTenant (wordFerry 0)) = false ∧
     ferrySys (wordFerry 0) = false ∧ s.landPart (wordFerry 0) = none) ∧
    ((landing (wordFerry 0) 0 0 true []).landPart (wordFerry 0)).isSome = true ∧
    ({ State.reset with pairs := [(0, ⟨none, 0, 1⟩)] } : State).pairFrozen 0 0 = true ∧
    (State.reset.setRouter { Router.reset with moor := [⟨3, wordFerry 0, 16, 0, 0, 0, false, 0, none⟩] }).relandable = [.pool 3] ∧
    look ({ Router.reset with lanes := [(3 * 1 + 2, [wordFerry 0])] } : Router).lanes (3 * (1 : BitVec 3).toNat + 2) =
      some [wordFerry 0] ∧
    (let x : CSlot := ⟨1, 0, 0, 2, 0, 0, 0, 0, 0, 5, 0⟩
     look [(7, x)] (7 : BitVec 13).toNat = some x ∧ x.st = 1 ∧ x.deadline ≠ 0 ∧
      x.deadline.toNat ≤ ({ State.reset with time := 1005 } : State).time.toNat / 1000 * 1000 ∧ State.reset.router.landing = none) ∧ (2 : BitVec 2).toNat < 3 ∧
    ([⟨3, wordFerry 0, 5, 0, 0, 0, false, 0, none⟩] : List Moored).find? (fun m => m.num = (3 : BitVec 14).toNat ∧ m.code ≤ 5) =
      some ⟨3, wordFerry 0, 5, 0, 0, 0, false, 0, none⟩ := by
  decide +kernel

/-- Link 0 of port 1 with given fields. -/
def linked (x : Link) : State := { State.reset with fabric := { Fabric.reset with links := [(4, x)] } }

def aFrame : Frame := ⟨7, [], [wordFerry 0]⟩

/-- A live link with nothing to acknowledge and with 127 frames; a counter of the current key and 2^40 with the next one; a
ferry in progress, and one that waits; the expected frame and another; one and two failed trainings; the last lane; a link
that trains, that exchanges keys and that rekeys. -/
theorem meets_LinkEventsComplete :
    (let x : Link := { Link.reset with st := .up, current := some (wordFerry 0, [1]), retry := List.replicate 127 aFrame }
     (linked x).link 1 0 = x ∧ x.live = true ∧ x.retry.length < 128 ∧ x.rollTx = some x ∧ x.retry ≠ [] ∧
      ((linked x).fillFrame 1 0 8 5 x.current).1.flits ≠ [] ∧ ((linked x).fillFrame 1 0 8 5 none).1.flits = []) ∧
    (let x : Link := { Link.reset with st := .up, txNext := 2 ^ 40, nextTx := some 5 }
     x.rollTx.isSome = true ∧ x.current = none) ∧
    (let s := { linked { Link.reset with st := .up } with router := { Router.reset with lanes := [(5, [wordFerry 0])] } }
     (s.nextFerry 1 0).1 = some (s.leave 1 2 (wordFerry 0))) ∧
    (0 : Word).toNat = Link.reset.rxNext ∧ (1 : Word).toNat ≠ Link.reset.rxNext ∧ Link.reset.waiting = false ∧
    (linked Link.reset).skidPort 1 = false ∧ (2 : Nat) ^ 40 - 2 ^ 32 ≤ ({ Link.reset with txNext := 2 ^ 40 - 2 ^ 32 } : Link).txNext ∧
    Link.reset.rekeying = false ∧ Link.reset.nextTx = none ∧ ({ Link.reset with txNext := 2 ^ 40 } : Link).txNext = 2 ^ 40 ∧
    Link.reset.lanes.getLsbD (3 : BitVec 2).toNat = true ∧ Link.reset.lanes &&& ~~~(1#4 <<< 3) ≠ 0 ∧ (8 : BitVec 4) &&& ~~~(1#4 <<< 3) = 0 ∧
    ({ Link.reset with rekeying := true } : Link).st ≠ .keying ∧
    (let s := State.reset.setRouter { Router.reset with marks := [⟨1, wordFerry 0, none⟩] }
     takeFirst (fun (u : Unmarked) => u.port == 1 && u.ferry == wordFerry 0) s.router.marks = some (⟨1, wordFerry 0, none⟩, []) ∧
     [wordFerry 0].any s.holdsBack = false) ∧
    (∀ v ∈ ([some (2, some 0), some (2, none)] : List (Option (Nat × Option Nat))),
      takeFirst (fun (u : Unmarked) => u.port == 1 && u.ferry == wordFerry 0)
        (State.reset.setRouter { Router.reset with marks := [⟨1, wordFerry 0, v⟩] }).router.marks =
          some (⟨1, wordFerry 0, v⟩, [])) ∧
    ({ Link.reset with st := .training, attempts := 1 } : Link).attempts + 1 < 3 ∧
    2 ≤ ({ Link.reset with st := .training, attempts := 2 } : Link).attempts ∧
    ({ Link.reset with st := .keying, keyed := true } : Link).keyed = true := by
  decide +kernel

/-- A first and a second correction of a word; a word of an LMS and one of none; a due row; a device that starts and one that
has started; a stage that may fail for a reason; samples on and off. -/
theorem meets_UpkeepEventsComplete :
    (∃ k t, State.reset.noteCorrection 7 = (k, t) ∧ k < 2) ∧
    (∃ k t, (State.reset.noteCorrection 7).2.noteCorrection 7 = (k, t) ∧ 2 ≤ k) ∧
    State.reset.lmsOf 0 0 = none ∧ (mapped 2).lmsOf 0 0 = some (0, 0) ∧
    ({ Device.reset with due := [Config.hbmRow 0] } : Device).due.contains (Config.hbmRow 0) = true ∧
    Device.reset.starting = true ∧ (stageReasons Device.reset.stage).contains (8 : Byte).toNat = true ∧
    ({ Device.reset with stage := 6 } : Device).starting = false ∧ (State.reset.core 0).samplesOn = false ∧
    ((withCore { Core.reset with smpc := 0x811 }).core 0).samplesOn = true := by
  refine ⟨⟨_, _, rfl, by decide⟩, ⟨_, _, rfl, by decide⟩, by decide +kernel, by decide +kernel, ?_, by decide, by decide,
    by decide, by decide, by decide⟩
  simp

/-- A started device with an owner, a session of the owner's, and a session of nobody's. -/
def owned' : State := State.reset.setDevice { Device.reset with
  stage := 6, owner := some 5, sessions := [⟨1, 0, true, true, some 5⟩, ⟨2, 0, true, false, none⟩, ⟨3, 0, false, false, none⟩]
  slots := Vector.replicate 8 0, keys := [(9, 4)] }

def goodPart : Part := BitVec.ofNat 2048
  (1 + 2 ^ 16 + (1 + 64 + 4096) * 2 ^ 128 + 0xFFFFFFFF * 2 ^ 576 + 2 ^ 1536)

/-- A partition table entry that passes every check and one that is all zeros; the last frozen pair and a frozen context;
ring 64 and 126 entries; port 5; a failed link and one that has not failed; image slot 3; a partition to swap out, to swap in
and to destroy; key slot 255, a slot that holds a key, and one that a partition uses; an owner set and to be set. -/
theorem meets_ManagementCommandsComplete :
    (owned'.session 1 = some ⟨1, 0, true, true, some 5⟩ ∧ owned'.device.running = [] ∧ owned'.device.minimal = false) ∧
    owned'.device.ownerSession ⟨1, 0, true, true, some 5⟩ = true ∧
    owned'.device.ownerSession ⟨2, 0, true, false, none⟩ = false ∧
    ((leBytes goodPart.toNat 256).length = 256 ∧ Part.state (owned'.part 63) = 0 ∧
      Part.state (BitVec.ofNat 2048 (ofLE (leBytes goodPart.toNat 256))) = 1 ∧ owned'.device.stage = 6 ∧
      owned'.partOk (BitVec.ofNat 2048 (ofLE (leBytes goodPart.toNat 256))) = true) ∧
    Part.state (BitVec.ofNat 2048 (ofLE (leBytes 0 256))) ≠ 1 ∧ (look [(255, (⟨none, 1, 1⟩ : PairFreeze))] 255).isSome = true ∧
    ((four { Context.reset with frozen := true } Context.reset).ctxAt ((256 - 256) / 4) 0).haltFlag = true ∧
    (64 : BitVec 16).toNat ≤ 64 ∧ (1023 : BitVec 16).toNat < 1024 ∧ (126 : BitVec 16).toNat ≤ 126 ∧ (5 : Byte).toNat < 6 ∧
    (fld 0x14000 0 12 = 0 ∧ fld 0x14000 14 3 < 6 ∧ fld 0x14000 17 15 = State.reset.node.toNat) ∧
    (State.reset.link 5 0).st ≠ .failed ∧ ((linked { Link.reset with st := .failed }).link 1 0).st = .failed ∧
    (3 : Byte).toNat < 4 ∧
    (let s := { owned' with parts := [(0, 5#2048), (1, 6#2048)] }
     Part.state (s.part 0) = 1 ∧ Part.swap (s.part 0) = true ∧ Part.state (s.part 1) = 2 ∧ s.keyInUse 0 = true) ∧
    (255 : BitVec 16).toNat < 256 ∧ look owned'.device.keys 255 = none ∧ (look owned'.device.keys 9).isSome = true ∧
    owned'.device.lcs ≠ 3 ∧ owned'.device.owner.isSome = true ∧ State.reset.device.owner = none ∧
    (⟨1, 0, true, true, some 5⟩ : Session).authed = true := by decide +kernel

/-- Measurement slots 0 and 7, an open session and one that is not finished, and none. -/
theorem meets_AttestationAndDebugComplete : (1 : Byte) ≠ 0 ∧
    (∃ v, owned'.device.slots.toList[(1 : Byte).toNat - 1]? = some v) ∧
    (∃ v, owned'.device.slots.toList[(8 : Byte).toNat - 1]? = some v) ∧ (8 : Byte) ≠ 0 ∧ (8 : Byte) ≠ 255 ∧
    owned'.anySession 3 = some ⟨3, 0, false, false, none⟩ ∧ owned'.session 2 = some ⟨2, 0, true, false, none⟩ ∧
    owned'.session 3 = none ∧
    (0x90 &&& ecdsaP384 ≠ 0 ∧ 2 &&& hashSha384 ≠ 0 ∧ 0x10 &&& ecdhP384 ≠ 0 ∧ 2 &&& aes256Gcm ≠ 0) ∧ ¬0x10 &&& ecdsaP384 ≠ 0 := by
  exact ⟨by decide, ⟨_, rfl⟩, ⟨_, rfl⟩, by decide, by decide, by decide +kernel, by decide +kernel, by decide +kernel,
    by decide, by decide⟩

/-! What every instruction keeps, and the boundary. -/

/-- A next state that satisfies a test. -/
def nextSat (r : Result) (f : State → Bool) : Bool :=
  match r with
  | .next t => f t
  | _ => false

theorem next_of (r : Result) (f : State → Bool) (h : nextSat r f = true) : ∃ t, r = .next t ∧ f t = true := by
  cases r with
  | next t => exact ⟨t, rfl, h⟩
  | fault _ => cases h
  | refused _ => cases h

/-- ADDI to s4 and VADD to v3 on a context with nothing pending. -/
theorem meets_RegisterInstructionsFrame : scalarDest (.addi always 4 1 6 1) = some (.s 4) ∧
    vectorDest (.vadd always 3 1 2 0 4) = some (.v 3) ∧
    (∃ t, exec (.addi always 4 1 6 1) State.reset = .next t ∧ t.last = none) ∧
    (∃ t, exec (.vadd always 3 1 2 0 4) State.reset = .next t ∧ t.last = none) := by
  refine ⟨by decide, by decide, ⟨_, rfl, rfl⟩, ?_⟩
  obtain ⟨t, h, k⟩ := next_of (exec (.vadd always 3 1 2 0 4) State.reset) (fun t => t.last == none) (by decide +kernel)
  exact ⟨t, h, by simpa using k⟩

def aResult (left : Nat) (ready : Bool) : LandEntry := ⟨.s 4, 9, 0, left, 1, 1, ready, 0, 0⟩

/-- A context in service, one of a task, and one on a control pair; an entry that is due behind one that is not, and behind
an overdue one of another register; one entry alone, due and not. -/
theorem meets_ResultsLandAtTheirCount : serving.cx.svc = true ∧ State.reset.cx.svc = false ∧ State.reset.onControl = false ∧
    (∃ t, busy.cx.task = some t) ∧ (4 : BitVec 6) ≠ 0 ∧ (aResult 0 true).left = 0 ∧ (aResult 0 true).ready = true ∧
    (∀ y ∈ [({ aResult 0 false with reg := .s 5 } : LandEntry)], y.left = 0 → y.ready = false → y.reg ≠ (aResult 0 true).reg) ∧
    (aResult 1 true).left ≠ 0 ∧ (aResult 0 true).reg = .s 4 ∧ ({ aResult 0 true with reg := .v 31 } : LandEntry).reg = .v 31 ∧
    ({ aResult 0 true with reg := .p 23 } : LandEntry).reg = .p 23 ∧ (23 : BitVec 5).toNat < 24 ∧
    ({ aResult 0 true with reg := .b 7 } : LandEntry).reg = .b 7 ∧
    (let c := (withCtx { Context.reset with landing := [aResult 0 true] }).ctxAt 0 0
     c.landing = [aResult 0 true] ∧ c.region = none ∧ c.restore = none ∧ c.ckiClr = 0 ∧ c.ckiSet = 0) ∧
    ∀ n, (aResult 0 true).reg ≠ .sys n := by
  refine ⟨rfl, rfl, rfl, ⟨_, rfl⟩, by decide, rfl, rfl, ?_, by decide, rfl, rfl, rfl, by decide, rfl, ⟨rfl, rfl, rfl, rfl, rfl⟩, fun n => ?_⟩
  · intro y hy
    simp only [List.mem_singleton] at hy
    subst hy
    intro _ _ h
    cases h
  · intro h
    cases h

/-- A context outside service mode, with an armed service bank and with none, one in service mode, and code 7. -/
theorem meets_TrapsEnterAndLeaveService : (7 : Nat) ≠ 32 ∧ ((withCore { Core.reset with fis := 4 }).ctxAt 0 0).catches 7 = false ∧
    ((withCore { Core.reset with fis := 4 }).ctxAt 0 0).svc = false ∧
    ((withCore { Core.reset with fis := 4 }).core 0).fis.getLsbD 2 = true ∧ (State.reset.core 0).fis.getLsbD 2 = false ∧
    (serving.ctxAt 0 0).svc = true := ⟨by decide, rfl, rfl, by decide, by decide, rfl⟩

/-- The memory after reset, of which a step makes another state. -/
theorem meets_EveryStepKeepsMemoryCanonical : State.reset.MemOk ∧ ∃ t, step State.reset = .next t := by
  obtain ⟨t, h, -⟩ := next_of (step State.reset) (fun _ => true) (by decide +kernel)
  exact ⟨rfl, t, h⟩

/-! The spec's own examples. -/

/-- 03 R92 and its table: ±0.2 times 8.0 to E4M3 in the four rounding modes, and 960 with and without saturation. -/
theorem test_scaled_conversion :
    (List.range 4).map (fun r => convertScaled 8 11 (BitVec.ofNat 6 r) 0x3E4CCCCD 0x41000000) =
      [(0x3D, flagNX), (0x3C, flagNX), (0x3C, flagNX), (0x3D, flagNX)] ∧
    (List.range 4).map (fun r => convertScaled 8 11 (BitVec.ofNat 6 r) 0xBE4CCCCD 0x41000000) =
      [(0xBD, flagNX), (0xBC, flagNX), (0xBD, flagNX), (0xBC, flagNX)] ∧
    convertScaled 8 11 4 0x42F00000 0x41000000 = (0x7E, flagOF ||| flagNX) ∧
    convertScaled 8 11 0 0x42F00000 0x41000000 = (0x7F, flagOF ||| flagNX) ∧
    (List.range 4).map (fun r => (convertScaled 8 12 (BitVec.ofNat 6 r) 0x42F00000 0x41000000).1) = [0x64, 0x63, 0x63, 0x64] := by
  decide +kernel

/-- 04 R128: 1.0 and sixty-three times 2^-25 are rounded once. -/
theorem test_vred_rounds_once :
    reduceOf 0 8 0 (0x3F800000 :: List.replicate 63 0x33000000) = (0x3F800010, flagNX) := by decide +kernel

/-- 03 R85, 04 R128: one active lane with a NaN of another payload gives the canonical NaN. -/
theorem test_vred_canonical_nan : reduceOf 1 8 0 [0x7FA00000] = (0x7FC00000, 0) ∧ reduceOf 2 8 0 [0xFFC00001] = (0x7FC00000, 0) := by
  decide +kernel

/-- 03 R90: -1 of T2 to an unsigned type sets no flag; 04 R109 writes its low bits. -/
theorem test_t2_to_unsigned : convert 13 1 0 3 = (0xFF, 0, false) ∧ fcvtWord 1 0xFF = 0xFF := by decide +kernel

/-- 05 R137: the worked accumulation of 2^24, thirty-one 1.0 and one 2^-30 under RNE and RTZ. -/
theorem test_worked_accumulation :
    (mmaElem 10 10 0 false (some 0x4B800000) (List.replicate 32 0x3F80)
      (List.replicate 15 0x3F80 ++ [0x3080] ++ List.replicate 16 0x3F80)).val = 0x4B800010 ∧
    (mmaElem 10 10 1 false (some 0x4B800000) (List.replicate 32 0x3F80)
      (List.replicate 15 0x3F80 ++ [0x3080] ++ List.replicate 16 0x3F80)).val = 0x4B80000F ∧
    (mmaElem 10 10 0 false (some 0x4B800000) (List.replicate 32 0x3F80)
      (List.replicate 13 0x3F80 ++ List.replicate 3 0 ++ List.replicate 13 0x3F80 ++ List.replicate 3 0)).val = 0x4B80000C := by
  decide +kernel

/-- 09 R244: the CRC-32C of the nine bytes "123456789". -/
theorem test_crc32c : crc32c 0 [0x31, 0x32, 0x33, 0x34, 0x35, 0x36, 0x37, 0x38, 0x39] = 0xE3069283 := by
  decide +kernel

/-- 14 R386: the link id of link 2 of port -X at node (3,0,0), and the IV of its frame 0x1_0000_002A. -/
theorem test_link_iv : linkIdOf 3 1 2 = 0x66000 ∧ frameIv 0x66000 0x10000002A = 0x00066000000000010000002A := by decide +kernel

/-- 13 R360: pages 0, 1 and 2 folded, of which page 2 came first. -/
theorem test_merge_fold :
    let a : Partial := ⟨0x40400000, 0x3F800000, 0x3F800000⟩
    let b : Partial := ⟨0x40A00000, 0x3F800000, 0x40000000⟩
    let c : Partial := ⟨0x40A00000, 0x40000000, 0⟩
    let q : Query := ⟨0, 1, 1, 0, [0, 1, 2], [], [], [], [], 0, [(2, 3, c), (0, 1, a), (1, 2, b)], 0, Partial.initial, false, .active⟩
    let r := (q.fold 4).1.acc
    r.m = 0x40A00000 ∧ r.l = 0x40500000 ∧ oLane r.o 0 = 0x40100000 := by decide +kernel

/-- 11 R290, R291: a launch of class 2 with 2,000 µJ that draws 900 µJ three times is in class 3 with 700 left. -/
theorem test_energy_run :
    let l : Launch := { aLaunch with record := BitVec.ofNat 512 (2000 * 2 ^ 192) }
    recEnergy l.record = 2000 ∧ (let m := ((l.charged 1 900).charged 2 900).charged 3 900
      m.cls = 3 ∧ m.charge = 700) := by decide +kernel

/-! Further clauses: traps, refused forms and the edges of ranges, a witness each. -/

/-- The table that holds nothing refuses a store of a word and of a combined one. -/
theorem meets_StoresThatMiss : State.reset.Runs always [.s 0, .s 1, .s 2] ∧ State.reset.onControl = false ∧
    State.reset.xlate 0 8 8 true = .error 1 ∧ State.reset.xlate 0 4 4 true = .error 1 :=
  ⟨runs_idle _ _ rfl, rfl, rfl, rfl⟩

/-- Core 0 with two entries of 2^23 bytes, the second of another kind, both writable. -/
def twoKinds (k1 k2 : Nat) : State := withCore { Core.reset with
  ltt := (Vector.replicate 128 0).set 0 (BitVec.ofNat 128 (23 * 2 ^ 48 + k1 * 2 ^ 53 + 3 * 2 ^ 57 + 15 * 2 ^ 88))
    |>.set 1 (BitVec.ofNat 128 (0x800000 + 23 * 2 ^ 48 + k2 * 2 ^ 53 + 3 * 2 ^ 57 + 15 * 2 ^ 88)) }

/-- Lane 0 of a table that holds nothing; the second of two lanes, 2^23 bytes apart, in an entry of another KIND; every lane
in a DIRECT entry. -/
theorem meets_LaneTraps : (∀ w, State.reset.LaneMiss (fun _ => 0) w 3 0 1) ∧
    (∀ w, (twoKinds 0 1).LaneDiffers (fun i => if i = 0 then 0 else 0x800000) w 3 0 1) ∧
    (∃ f q l, (mapped 3).sepAccesses (fun i => BitVec.ofNat 64 i * 4) true 3 = .ok ((f, q) :: l) ∧ q.loc.kind = 3) ∧
    (∃ acc, (mapped 3).access 0 256 4 true = .ok acc ∧ acc.loc.kind = 3) ∧
    (∃ acc, (mapped 2).access 0 256 4 true = .ok acc ∧ acc.loc.kind ≠ 3) := by
  refine ⟨fun w => ⟨by decide, by cases w <;> rfl, fun j _ h => absurd h (by omega)⟩, fun w => ?_, ⟨_, _, _, rfl, rfl⟩,
    ⟨_, rfl, rfl⟩, ⟨_, rfl, by decide⟩⟩
  have hm : activeList 3 = [0, 1] := by decide
  rw [State.LaneDiffers, hm]
  refine ⟨rfl, by simp, ?_⟩
  cases w
  all_goals
    refine ⟨_, _, rfl, rfl, by decide, fun j hj => ?_⟩
    simp only [List.mem_cons, List.not_mem_nil, or_false] at hj
    rcases hj with rfl | rfl
    · exact ⟨_, rfl, fun _ => rfl⟩
    · exact ⟨_, rfl, fun h => absurd h (by omega)⟩

/-- What each matrix command refuses: tiles beyond the task's mask, parameters, misaligned addresses. -/
theorem meets_MatrixCommandsRefused :
    (let cmd := Cmd.mma 15 15 State.reset.cx.m State.reset.cx.k
     Cmd.tiles cmd &&& ~~~State.reset.tileMask ≠ 0) ∧
    Cmd.tiles (.mload 5 0 0 4 1 1 0) &&& ~~~State.reset.tileMask ≠ 0 ∧
    Cmd.tiles (.mstore 5 0 0 4 4 1 1 0 0 State.reset.cx.k) &&& ~~~State.reset.tileMask ≠ 0 ∧
    Cmd.tiles (.sealAcc 5) &&& ~~~State.reset.tileMask ≠ 0 ∧ Cmd.tiles (.squeryAcc 5 0) &&& ~~~State.reset.tileMask ≠ 0 ∧
    Cmd.tiles (.scheckAcc 5 0 true) &&& ~~~State.reset.tileMask ≠ 0 ∧
    (let s := (tiled 0).setCx { (tiled 0).cx with m := (Vector.replicate 8 0).set 4 (BitVec.allOnes 64) }
     (mmaPar s.cx.m).bad = true ∧ Cmd.tiles (.mma 4 4 s.cx.m s.cx.k) &&& ~~~s.tileMask = 0) ∧
    (tiled 0).Runs always [.s 1, .s 2, .m 7] ∧ rowsBad 0 1 0 ((tiled 0).cx.rs 1) ((tiled 0).cx.rs 2) = true ∧
    rowsBad 65 1 0 ((tiled 0).cx.rs 1) ((tiled 0).cx.rs 2) = true ∧ (with1 0x2001).Runs always [.s 1, .s 2, .s 3] ∧
    tileAligned ((with1 0x2001).cx.rs 2) 64 = false ∧ tileAligned ((with1 0x2001).cx.rs 3) 32 = false := by
  refine ⟨by decide, by decide, by decide, by decide, by decide, by decide, by decide, runs_idle _ _ rfl, by decide, by decide,
    runs_idle _ _ rfl, by decide, by decide⟩

/-- Copies refused: operands that share a granule or are misaligned, no target, rows that overlap, 2^40 bytes, no element and
2^32, and a stream that a binding holds. -/
theorem meets_CopyCommandsRefused : (with1 0x2001).Runs always [.s 1, .s 2, .s 3] ∧ slotBlock .cpy (with1 0x2001) = none ∧
    lenBad ((with1 0x2001).cx.rs 1) ((with1 0x2001).cx.rs 2) ((with1 0x2001).cx.rs 3) = true ∧ mcTargets 0 0 0 = [] ∧
    rowsShare 16 16 1 16 16 16 = true ∧ rowsShare 0 16 2 16 16 16 = true ∧
    2 ^ 40 ≤ ((with1 0x10000000000).cx.rs 3).toNat ∧ ¬((with1 0x2001).cx.rs 1).toNat % 16 = 0 ∧ State.reset.cx.rs 2 = 0 ∧
    ¬((with1 0x100000000).cx.rs 2).toNat < 2 ^ 32 ∧
    (let s := withCtx { Context.reset with
      s := Vector.replicate 64 16, streams := (Vector.replicate 16 StreamReg.idle).set 15 ((StreamReg.idle.bindTo ⟨.cpyqIn, 1⟩).bindTo ⟨.cpyqIn, 2⟩) }
     s.Runs always [.s 1, .s 2] ∧ (s.cx.stream 15).held = true ∧ (s.cx.rs 1).toNat % 16 = 0 ∧ s.cx.rs 2 ≠ 0 ∧
      (s.cx.rs 2).toNat < 2 ^ 32) := by
  refine ⟨runs_idle _ _ rfl, rfl, by decide, by decide, by decide, by decide, by decide, by decide, rfl, by decide,
    runs_idle _ _ rfl, rfl, by decide, by decide, by decide⟩

/-- A register of a timeline wait above the last number issued. -/
theorem meets_TimelineWaitRefused : (with1 3).Runs always [.s 1] ∧ (with1 3).cx.cpy.issued.toNat < ((with1 3).cx.rs 1).toNat :=
  ⟨runs_idle _ _ rfl, by decide⟩

/-- grouped's state, with words in s1 and s2 and with or without a writer that has left. -/
def asking (w t : Word) (gone : Bool) : State :=
  let s := grouped.setCx { grouped.cx with s := (Vector.replicate 64 0).set 1 w |>.set 2 t }
  let k := s.core 1
  if gone then s else s.setCore 1 { k with ctxs := k.ctxs.set 0 { s.cx with st := .ready } }

/-- A writer index that is no member's, a token with bit 63 and one of phase 1 while the log is in phase 0; an own log; a
token of phase 0 while the log is in phase 1; a tail published, and one beyond it of a writer that has left and of one that
has not. -/
theorem meets_AcquiresAnswered : (asking 2 0 true).declares = true ∧ (asking 2 0 true).Runs always [.s 1, .s 2] ∧
    (asking 2 0 true).co.log.members.length ≤ ((asking 2 0 true).cx.rs 1).toNat ∧
    ((asking 1 0x8000000000000000 true).cx.rs 2).getLsbD 63 = true ∧
    (asking 1 0 true).co.log.phase.toNat < tokenPhase (token 1 0) ∧ ((asking 1 (token 1 0) true).cx.rs 2) = token 1 0 ∧
    ((asking 0 0 true).cx.rs 1).toNat = (asking 0 0 true).selfIndex (asking 0 0 true).cur.core ∧
    (let s := (asking 1 0 true).setCo { (asking 1 0 true).co with log := { (asking 1 0 true).co.log with phase := 1 } }
     s.declares = true ∧ s.Runs always [.s 1, .s 2] ∧ tokenPhase (s.cx.rs 2) < s.co.log.phase.toNat) ∧
    (let s := asking 1 1 true
     tokenTail (s.cx.rs 2) ≤ s.memberPublished s.co.log.group (s.co.log.members.getD 1 0)) ∧
    (∀ gone, let s := asking 1 2 gone
      s.memberPublished s.co.log.group (s.co.log.members.getD 1 0) < tokenTail (s.cx.rs 2) ∧
        s.writerGone s.co.log (s.co.log.members.getD 1 0) = gone) := by
  refine ⟨by decide, runs_idle _ _ rfl, by decide, by decide, by decide, rfl, by decide,
    ⟨by decide, runs_idle _ _ rfl, by decide⟩, by decide +kernel, fun gone => ?_⟩
  cases gone <;> exact ⟨by decide +kernel, by decide +kernel⟩

theorem home_host : engSat (((atoms (anAtom 0x2000000 .waiting none 0)).actFor 0 0).atomXlat 0 0x2000000 4)
    (fun y _ => homeOf y == 0 && farHome (homeOf y)) = true := by decide +kernel

/-- An access of the host's window; the codes that it takes, with the lowest and the highest of them, and two that it does
not. -/
theorem meets_HostAtomics : (∃ y t, ((atoms (anAtom 0x2000000 .waiting none 0)).actFor 0 0).atomXlat 0 0x2000000 4 = .ok y t ∧
      (homeOf y == 0 && farHome (homeOf y)) = true) ∧
    hostAtom 0 = true ∧ hostAtom 11 = true ∧ hostAtom 2 = false ∧ hostAtom 9 = false :=
  ⟨eng_of _ _ home_host, rfl, rfl, rfl, rfl⟩

/-- A template that no image has; a sweep of which no query waits for a partial. -/
theorem meets_TemplateAndMergeRefused : State.reset.Runs always [.s 1, .s 2, .s 3] ∧ State.reset.template 0 = none ∧
    slotBlock .fry State.reset = none ∧ State.reset.RunsRows always [6, 7] [.s 3] ∧
    (State.reset.intakeOf (homeDomain (State.reset.cur.core * 4))).length < 64 ∧
    (State.reset.clear.popped [6, 7]).mergeFor 0 = none :=
  ⟨runs_idle _ _ rfl, rfl, rfl, rows_idle _ _ _ rfl rfl rfl rfl, by decide, rfl⟩

/-- A place that does not translate, one of KIND LMS, a partition without save regions, a record without its signature. -/
theorem meets_SavedContextsRefused : State.reset.Runs always [.s 1] ∧ State.reset.xlate 0 32768 64 true = .error 1 ∧
    (mapped 2).Runs always [.s 1] ∧ (∃ acc, (mapped 2).access 0 32768 64 true = .ok acc ∧ 2 ≤ acc.loc.kind) ∧
    serving.Runs always [] ∧ serving.hasSaves serving.cur.core = false ∧ serving.cx.svc = true ∧
    (saving [] true).hasSaves (saving [] true).cur.core = true ∧ (saving [] true).cx.svc = true ∧
    Mem.readLE (saving [] true).mem (recordBase 0 0) 4 ≠ 0x00585443 :=
  ⟨runs_idle _ _ rfl, rfl, runs_idle _ _ rfl, ⟨_, rfl, by decide⟩, runs_idle _ _ rfl, rfl, rfl, by decide +kernel, rfl,
    by decide +kernel⟩

/-- A stack of one entry under an operation of two. -/
theorem meets_SecondOperandMissing : ∃ x g e, popW (stacked [5]) = .ok (x, g) ∧ popW g = .error e := ⟨_, _, _, rfl, rfl⟩

/-- No permission of any kind; a queue number of 2^12; a slot of another tenant, which no operation may have; a word beyond the
window for a register form. -/
theorem meets_LandingPermissionsRefused :
    (∀ n ∈ [0, 1, 2, 3, 4, 5, 6], (landing (stacked [5, 7]) 0 0 true []).granted (stacked [5, 7]) n = false) ∧
    (let s := landing (stacked [0x1000]) 0xFF 0 true []
     s.granted (stacked [0x1000]) 4 = true ∧ ∃ x g, popW (stacked [0x1000]) = .ok (x, g) ∧ 2 ^ 12 ≤ x.toNat) ∧
    (let s := landing (stacked [0, 7]) 0xFF 0 true []
     let u := s.setRouter { s.router with slots := [(7, ⟨1, 0, 0, 2, 0, 0, 0, 0, 5, 0, 0⟩)] }
     (∃ y, look u.router.slots 7 = some y ∧ y.tenant.toNat ≠ ferryTenant (stacked [0, 7])) ∧
      (∃ x g e, popW (stacked [0, 7]) = .ok (x, g) ∧ u.slotFor g x.toNat = .error e) ∧
      ∃ v f1 x f2 e, popW (stacked [7, 0]) = .ok (v, f1) ∧ popW f1 = .ok (x, f2) ∧ u.slotFor f2 x.toNat = .error e) ∧
    (let s := landing (stacked [512, 512]) 0xFF 0 true []
     (∃ x f1, popW (stacked [512, 512]) = .ok (x, f1) ∧ s.windowWord f1 x.toNat = none) ∧
      ∃ v f1 x f2, popW (stacked [512, 512]) = .ok (v, f1) ∧ popW f1 = .ok (x, f2) ∧ s.windowWord f2 x.toNat = none) ∧
    (let s := State.reset
     s.windowWord (stacked [5, 7]) (0 : BitVec 9).toNat = none ∧ s.windowWord (stacked [5]) (0 : BitVec 5).toNat = none) := by
  refine ⟨by decide +kernel, ⟨by decide +kernel, _, _, rfl, by decide⟩, ⟨⟨_, rfl, by decide⟩, ⟨_, _, _, rfl, rfl⟩,
    ⟨_, _, _, _, _, rfl, rfl, rfl⟩⟩, ⟨⟨_, _, rfl, by decide +kernel⟩, ⟨_, _, _, _, rfl, rfl, by decide +kernel⟩⟩, ?_⟩
  exact ⟨by decide +kernel, by decide +kernel⟩

/-! Further clauses of the events. -/

/-- The range of LOGC once more: LOGSZ 15, XSZ 257 and a reserved bit, an entry in the log, and a place beyond the slice. -/
theorem meets_LogControlRefused :
    (0x1B14E0 : Word) &&& 0x7FFFFE00FFE0E000 = 0 ∧ (0x20000000000 : Word) &&& 0x7FFFFE00FFE0E000 ≠ 0 ∧
    (State.reset.core 0).log.tail = 0 ∧ State.reset.logRangeOk 0 (0xFF * 0x10000) (2 ^ 23) = false ∧
    (let l : Log := { Log.reset with entries := [⟨1, 3, 0, 0, 0, 5, 0, false⟩] }
     l.tail ≠ 0 ∧ l.logOff ≠ fld 0 0 8 * 0x10000) := by decide

/-- A halted cluster and one that runs; a byte of the header, the mailbox's CTL under GO, its first eight bytes of message and
the CACK of a registered mailbox. -/
theorem meets_HostWindow :
    ({ waiting with device := { waiting.device with halts := [0] } } : State).device.halts.contains (0 / 8) = true ∧
    waiting.device.halts.contains (0 / 8) = false ∧
    (∀ k, k < 8 → ¬(0x1000 ≤ (0 : BitVec 20).toNat + k) ∧ ¬(0x41000 ≤ (0 : BitVec 20).toNat + k)) ∧
    (State.reset.setDevice { Device.reset with ctl := 0x80000000 }).device.go = true ∧
    (0x41008 ≤ (0x41008 : BitVec 20).toNat ∧ (0x41008 : BitVec 20).toNat + 8 ≤ 0x43000) ∧
    ((0x1048 : BitVec 20).toNat = 0x1008 + 64 * 1 ∧ (look (posting (box true 0 0)).mboxes 1).isSome = true) :=
  ⟨by decide, by decide, fun k h => by simp; omega, by decide, by decide, by decide, by decide +kernel⟩

/-- At 65,536 bundles with none ready, a blocked context that may become so and none; a blocked stub; a context saved alone
and one whose place is free; a count of cycles that has come and one that has not; records put back. -/
theorem meets_ContextEdges :
    (let s := four { Context.reset with resid := 0x10000, st := .issuing } { Context.reset with st := .blocked, bcause := 4 }
     65536 ≤ ((s.core 0).ctxs.get (s.core 0).holder.toFin).resid.toNat ∧ (s.core 0).nextReady = none ∧
      (s.core 0).ctxs.toList.any (fun c => c.st == .blocked && !c.exiting) = true) ∧
    (let s := four { Context.reset with resid := 0x10000, st := .issuing } Context.reset
     (s.core 0).nextReady = none ∧ (s.core 0).ctxs.toList.any (fun c => c.st == .blocked && !c.exiting) = false) ∧
    (let c := (four { Context.reset with st := .blocked, bcause := 8, drain := true, preq := true } Context.reset).ctxAt 0 0
     c.st = .blocked ∧ c.bcause = 8 ∧ c.mustAbandon = true ∧ c.settled = true) ∧
    (let c := (four { Context.reset with st := .blocked, bcause := 9 } Context.reset).ctxAt 0 0
     c.mustAbandon = false ∧ c.bcause = 9) ∧
    (5 : Word) ≤ (withCore { Core.reset with ccyc := 5 }).co.ccyc ∧ (withCore { Core.reset with ccyc := 5 }).co.ccyc < 6 ∧
    ({ withCore { Core.reset with stopped := true } with
      device := { Device.reset with scope := some 1 } } : State).debugOpen = true := by decide

/-- A matrix command of core 0, whose whole slice is sealed. -/
def served (c : Cmd) (row : Nat) : State :=
  let s := { engine (newPending 1 0 c 0 row) with mem := paged }
  s.setCore 0 { s.core 0 with
    ltt := (Vector.replicate 128 0).set 0 (BitVec.ofNat 128 (24 * 2 ^ 48 + 7 * 2 ^ 56 + 15 * 2 ^ 88)) }

/-- The engine's turn is at a command with a property. -/
def serves (s : State) (f : Pending → Bool) : Bool :=
  match (s.core 0).serving with
  | some x => f x.2
  | none => false

/-- The engine ends a command that has committed its rows and that passes a test. -/
def endsWith (s : State) (f : State → Pending → Bool) : Bool :=
  match (s.core 0).serving with
  | some (i, p) =>
    let u := (s.actFor 0 i).allRows 0 i p.seq 65
    match u.cmd 0 i .mtx p.seq with
    | some q => q.phase == .waiting && !q.rowLeft && f (u.actCmd 0 i q) q
    | none => false
  | none => false

/-- MLOAD and MSTORE of one row that is still to commit, and of none. -/
theorem meets_MatrixRows :
    (let s := served (.mload 3 0x8000 64 8 1 4 0) 0
     serves s (fun p => p.rowLeft && engSat ((s.actCmd 0 0 p).operandRow 0 (rowAddr 0x8000 64 p.prog) 8 4) fun _ _ => true) = true) ∧
    (let s := served (.mstore 3 0x8000 64 8 8 1 4 0 0 Context.reset.k) 0
     serves s (fun p => p.rowLeft && p.ahead == []) = true) ∧
    endsWith (served (.mload 3 0x8000 64 8 1 4 0) 1) (fun _ _ => true) = true ∧
    endsWith (served (.mstore 3 0x8000 64 8 8 1 4 0 0 Context.reset.k) 1) (fun _ _ => true) = true := by
  decide +kernel

/-- The forms on an accumulator tile, SQUERY of a sealed tile of the slice, and SEAL of no tile. -/
theorem meets_LatticeEnds :
    endsWith (served (.sealAcc 3) 0) (fun _ _ => true) = true ∧
    endsWith (served (.scheckAcc 3 0x8000 true) 0) (fun _ q => q.stage != 1) = true ∧
    endsWith (served (.squeryAcc 3 0x8000) 0) (fun _ _ => true) = true ∧
    endsWith (served (.squery 0x8000 0x10000) 0) (fun v _ => engSat (v.tileOf 0 0x8000) fun _ _ => true) = true ∧
    endsWith (served (.seal 0x8000 0) 0) (fun v q => decide (q.stage ≠ 1) && q.failed == none && engSat (v.walkFrom 0 q 1).1 fun _ _ => true) = true ∧
    resultAt (.seal 0 1) = none ∧ resultAt (.scheck 0 1 0x8000 false) = some 0x8000 := by
  decide +kernel

/-- Rows of a store handed over: one row only. -/
theorem meets_HandedOverRows (s : State) : s.ntRow ⟨1, 0, [(0, 15, 7)]⟩ = ([(0, 15, 7)], s) ∧
    ({ State.reset with device := { Device.reset with halts := [0] } } : State).barrierHeld [3] = true ∧
    State.reset.barrierHeld [3] = false ∧ (engine (aMultiply 0 .waiting)).barrierSplits [0] = (none, engine (aMultiply 0 .waiting)) ∧
    atPhase.phaseAsked (atPhase.groupCtxs 0 1 0) (atPhase.groupCores 0 (1, 0)) = true := by
  refine ⟨rfl, by decide, by decide, ?_, by decide +kernel⟩
  simp [State.barrierSplits, disagrees_split _ _ (by decide +kernel : (engine (aMultiply 0 .waiting)).splitAt 0 = true)]

/-- Slots of one tick and of two, and a dead port of another node. -/
theorem meets_TimeoutsTogether :
    (let x : CSlot := ⟨1, 0, 0, 2, 0, 0, 0, 0, 0, 5000, 0⟩
     byTick [(7, x), (3, { x with deadline := 2000 })] = [(3, { x with deadline := 2000 }), (7, x)]) ∧
    State.reset.router.deadPorts.contains ((3 : BitVec 15), 5) = false ∧
    State.reset.engineFor 0 = true := by decide +kernel

/-- A link with a frame that stays outside, one that waits for a retry, a port in skid mode, and a link with no lane. -/
theorem meets_LinkEdges :
    (let x : Link := { Link.reset with st := .up, outside := true }
     x.live = true ∧ (1 : Word).toNat ≠ x.rxNext ∧ (0 : Word).toNat = x.rxNext) ∧
    (let x : Link := { Link.reset with st := .up, waiting := true }
     x.waiting = true ∧ (1 : Word).toNat ≠ x.rxNext) ∧
    ({ State.reset with fabric := { Fabric.reset with skid := 2 } } : State).skidPort 1 = true ∧
    (State.reset.setRouter { Router.reset with full := true }).holdsBack (wordFerry 0) = true ∧
    ({ Link.reset with st := .training, lanes := 0 } : Link).lanes = 0 := by decide

/-- The granules at the two sides of the lower end of a lattice pool of 64 MiB at the top of the first GiB. -/
theorem meets_PoolScrub :
    (let s := { State.reset with parts := [(0, 1#2048 ||| 1#2048 <<< 384 ||| 1#2048 <<< 1536)] }
     (s.parts.find? fun x => Part.state x.2 ≠ 0 ∧ Part.inPool x.2 0x3BFFFFE0) = none ∧
      (s.parts.find? fun x => Part.state x.2 ≠ 0 ∧ Part.inPool x.2 0x3C000000).isSome = true) := by decide +kernel

/-- GO set and clear; a busy port; a session that is none; a minimal device. -/
theorem meets_RequestsTurnedAway :
    (let s := owned'.setDevice { owned'.device with ctl := 0x80000000 }
     (⟨false, 1, 0, []⟩ : MgmtReq).port = false ∧ s.device.go = true) ∧
    (let s := owned'.setDevice { owned'.device with running := [⟨true, 1, 8, 0⟩] }
     ∃ q ∈ s.device.running, q.port = true) ∧
    owned'.session 9 = none ∧ (owned'.posted ⟨true, 1, 0, []⟩).device.minimal = false ∧
    (owned'.setDevice { owned'.device with minimal := true }).device.minimal = true ∧
    anySession 11 = true ∧ anySession 1 = false := by decide +kernel

/-- DOE objects of a type that the device has not got, of Discovery and of the CDAT. -/
theorem meets_DoeObjects : ((7, 1) : BitVec 16 × Byte) ∉ doeTypes ∧ (⟨1, 0, 0⟩ : DoeObject).vendor = 1 ∧
    (⟨0x1E98, 2, 0⟩ : DoeObject).kind = 2 := by decide

/-- MOVSYS of SYS.IC. -/
theorem meets_MovsysFrame : ∃ t, exec (.movsys always 4 0) State.reset = .next t ∧ t.last = none := ⟨_, rfl, rfl⟩

/-- Two results of one register, the first overdue: the second waits, due as it is; a write of SYS.CKI among them. -/
theorem meets_DueBehindOverdue : (aResult 0 false).left = 0 ∧ (aResult 0 false).ready = false ∧
    (aResult 0 false).reg = (aResult 0 true).reg ∧ [aResult 0 false, aResult 0 true] = [] ++ aResult 0 false :: [] ++ aResult 0 true :: [] ∧
    ({ aResult 0 true with reg := .sys 0x004 } : LandEntry).reg = .sys 0x004 ∧
    ({ aResult 0 true with reg := .push 3 } : LandEntry).reg = .push 3 := ⟨rfl, rfl, rfl, rfl, rfl, rfl⟩

end Sys2Proof.Tests
end

section
/-! SUPPORT. One step with no landing in progress (10 R251, 01 R18), and what the issue of an engine command does (01 R28). -/

namespace Sys2Proof.Machine

/-! The next move. -/

theorem step_of_no_landing (s : State) (h : s.router.landing = none) : step s = closeStep (s.gatedMove exec) := by
  unfold step
  rw [h]

/-- The gate lets through an event that the device admits. -/
theorem gatedMove_event (run : Instr → State → Result) (s : State) (i : Instr) (rest : List Move)
    (ha : s.agenda = .event i :: rest) (hs : s.device.stopped = false) (hi : s.admits i = true) :
    s.gatedMove run = run i { s with agenda := rest } := by
  unfold State.gatedMove State.move
  simp [ha, hs, hi]

/-- The gate lets a core issue while the device is not stopped. -/
theorem gatedMove_issue (run : Instr → State → Result) (s : State) (n : Nat) (rest : List Move)
    (ha : s.agenda = .issue n :: rest) (hs : s.device.stopped = false) :
    s.gatedMove run = { s with agenda := rest }.issueCore run n := by
  unfold State.gatedMove State.move
  simp [ha, hs]

/-- An empty agenda is an attempt of the core whose turn it is. -/
theorem gatedMove_empty (run : Instr → State → Result) (s : State) (ha : s.agenda = [])
    (hs : s.device.stopped = false) :
    s.gatedMove run = { s with turn := nextCore s.cores s.turn }.issueCore run s.turn := by
  unfold State.gatedMove State.move
  simp [ha, hs]

/-- Settles O6: with no landing a step is the gated move, and the gate of a running device is the move itself. -/
theorem stepRunsTheNextMove : Obligations.StepRunsTheNextMove := by
  intro s hl hs
  rw [step_of_no_landing s hl]
  refine ⟨fun i rest ha hi => ?_, fun n rest ha => ?_, fun ha => ?_⟩
  · rw [gatedMove_event exec s i rest ha hs hi]
  · rw [gatedMove_issue exec s n rest ha hs]
  · rw [gatedMove_empty exec s ha hs]

/-! What a landing result leaves alone (10 R254). -/

/-- A result that lands changes the landing buffer of the executing context, or nothing: a write of s0 without flags is
discarded (01 R24). -/
theorem landLat_cases (s : State) (lat : Nat) (ready : Bool) (r : Reg) (val : BitVec 2048) (chk : W32) (fpf : BitVec 5)
    (cki : BitVec 11) : s.landLat lat ready r val chk fpf cki = s ∨
      ∃ l, s.landLat lat ready r val chk fpf cki = s.setCx { s.cx with landing := l } := by
  unfold State.landLat
  split
  · exact .inl rfl
  · exact .inr ⟨_, rfl⟩

theorem landS_cases (s : State) (cls : LatClass) (d : BitVec 6) (x : Word) :
    s.landS cls d x = s ∨ ∃ l, s.landS cls d x = s.setCx { s.cx with landing := l } :=
  landLat_cases s _ _ _ _ _ _ _

theorem co_setCx (s : State) (c : Context) : (s.setCx c).co = s.co.setCtx s.cur.ctx c := by
  simp [State.co, State.setCx, State.setCtxAt]

/-- A write of the core that keeps its contexts keeps the executing one. -/
theorem cx_setCo (s : State) (k : Core) (h : k.ctxs = s.co.ctxs) : (s.setCo k).cx = s.cx := by
  unfold State.cx State.setCo State.ctxAt
  rw [setCore_cur, core_setCore, h]
  rfl

@[simp] theorem landS_cur (s : State) (cls : LatClass) (d : BitVec 6) (x : Word) : (s.landS cls d x).cur = s.cur := by
  obtain h | ⟨l, h⟩ := landS_cases s cls d x <;> rw [h]
  rfl

@[simp] theorem landS_mem (s : State) (cls : LatClass) (d : BitVec 6) (x : Word) : (s.landS cls d x).mem = s.mem := by
  obtain h | ⟨l, h⟩ := landS_cases s cls d x <;> rw [h]
  rfl

theorem landing_tl (c : Context) (l : List LandEntry) (t : Tl) : ({ c with landing := l } : Context).tl t = c.tl t := by
  cases t <;> rfl

@[simp] theorem landS_tl (s : State) (cls : LatClass) (d : BitVec 6) (x : Word) (t : Tl) :
    (s.landS cls d x).cx.tl t = s.cx.tl t := by
  obtain h | ⟨l, h⟩ := landS_cases s cls d x <;> rw [h]
  rw [cx_setCx, landing_tl]

/-! Every context but the executing one, under the writes of a slot. -/

theorem sameOthers_refl (s : State) : SameOthers s s := fun _ _ _ => rfl

theorem sameOthers_trans {s t u : State} (h : SameOthers s t) (hu : SameOthers t u) (hc : t.cur = s.cur) :
    SameOthers s u :=
  fun n i hn => (hu n i (by rw [hc]; exact hn)).trans (h n i hn)

theorem sameOthers_setCx (s : State) (c : Context) : SameOthers s (s.setCx c) :=
  fun n i h => ctxAt_setCtxAt_other s s.cur.core n s.cur.ctx i c h

/-- A core written with its contexts as they were. -/
theorem sameOthers_setCo (s : State) (k : Core) (h : k.ctxs = s.co.ctxs) : SameOthers s (s.setCo k) := by
  intro n i _
  unfold State.ctxAt State.setCo
  by_cases hn : n = s.cur.core
  · subst hn
    rw [core_setCore, h]
    rfl
  · rw [core_setCore_other _ _ _ _ hn]

theorem sameOthers_landS (s : State) (cls : LatClass) (d : BitVec 6) (x : Word) : SameOthers s (s.landS cls d x) := by
  obtain h | ⟨l, h⟩ := landS_cases s cls d x <;> rw [h]
  · exact sameOthers_refl s
  · exact sameOthers_setCx s _

/-! Issue (01 R28). -/

/-- The executing context after an issue: its number lands, and its timeline has one command more. -/
theorem issue_cx (s : State) (tl : Tl) (d : BitVec 6) (cmd : Cmd) (prog : Nat) :
    (s.issue tl d cmd prog).cx = (s.landS .seqret d (s.nextSeq tl)).cx.setTl tl { s.cx.tl tl with
      issued := s.nextSeq tl, cmds := (s.cx.tl tl).cmds ++ [newPending (s.nextSeq tl) s.co.order cmd s.cx.fmt prog] } := by
  unfold State.issue
  rw [cx_setCx, cx_setCo]
  · rfl
  · rfl

/-- The timeline of the command after its issue: the last number and the last place are the command's. -/
theorem issue_tl (s : State) (tl : Tl) (d : BitVec 6) (cmd : Cmd) (prog : Nat) :
    (s.issue tl d cmd prog).cx.tl tl = { s.cx.tl tl with
      issued := s.nextSeq tl, cmds := (s.cx.tl tl).cmds ++ [newPending (s.nextSeq tl) s.co.order cmd s.cx.fmt prog] } := by
  rw [issue_cx, setTl_tl]

/-- Another timeline is as it was. -/
theorem issue_tl_other (s : State) (tl o : Tl) (d : BitVec 6) (cmd : Cmd) (prog : Nat) (h : o ≠ tl) :
    (s.issue tl d cmd prog).cx.tl o = s.cx.tl o := by
  rw [issue_cx, setTl_tl_other _ _ _ _ h, landS_tl]

theorem issue_landing (s : State) (tl : Tl) (d : BitVec 6) (cmd : Cmd) (prog : Nat) :
    (s.issue tl d cmd prog).cx.landing = (s.landS .seqret d (s.nextSeq tl)).cx.landing := by
  rw [issue_cx, setTl_landing]

theorem issue_order (s : State) (tl : Tl) (d : BitVec 6) (cmd : Cmd) (prog : Nat) :
    (s.issue tl d cmd prog).co.order = s.co.order + 1 := by
  unfold State.issue
  rw [co_setCx, setCtx_order, co_setCo]

theorem issue_mem (s : State) (tl : Tl) (d : BitVec 6) (cmd : Cmd) (prog : Nat) : (s.issue tl d cmd prog).mem = s.mem := by
  unfold State.issue
  rw [setCx_mem, setCo_mem, landS_mem]

theorem sameOthers_issue (s : State) (tl : Tl) (d : BitVec 6) (cmd : Cmd) (prog : Nat) :
    SameOthers s (s.issue tl d cmd prog) := by
  unfold State.issue
  have hland := sameOthers_landS s .seqret d ((s.cx.tl tl).issued + 1)
  refine sameOthers_trans (sameOthers_trans hland (sameOthers_setCo _ _ ?_) (landS_cur ..)) (sameOthers_setCx _ _) (landS_cur ..)
  rfl

/-- Settles O33: what `issue` leaves of the timelines, the landing buffer, the core and the other contexts, each by its
lemma. -/
theorem issueNumbersTheCommand : Obligations.IssueNumbersTheCommand := by
  intro s tl d cmd prog t u
  have htl := issue_tl s tl d cmd prog
  exact ⟨(congrArg Timeline.issued htl :), (congrArg Timeline.count htl :), (congrArg Timeline.cmds htl :),
    fun o ho => issue_tl_other s tl o d cmd prog ho, issue_order s tl d cmd prog, issue_landing s tl d cmd prog,
    issue_mem s tl d cmd prog, sameOthers_issue s tl d cmd prog⟩

end Sys2Proof.Machine
end

section
/-! SUPPORT. The issue of sweep commands (13 R358, R363-R367). -/

namespace Sys2Proof.Machine

/-! Slots of slot 5 that read rows and are stopped. -/

/-- One whose elements have arrived blocks with the cause it finds. -/
theorem finish_runRows_block (p : Pred) (srcs : List (BitVec 6)) (regs : List Reg) (block : State → Option Nat)
    (act : List VReg → State → Except Stop State) (s : State) (b : Nat) (hp : s.test p = true)
    (ha : s.cx.arrived srcs = true) (hb : block s.clear = some b) :
    finish (runRows p srcs regs block act) s = .next (s.blockedBy b) := by
  refine finish_stop _ _ (.block b) ?_
  unfold runRows
  have h1 : s.clear.test p = true := hp
  have h2 : s.clear.cx.arrived srcs = true := ha
  simp only [h1, h2, hb, Bool.not_true, Bool.false_eq_true, if_false]

/-- One that its body stops with a trap: the elements it would pop stay. -/
theorem finish_runRows_trap (p : Pred) (srcs : List (BitVec 6)) (regs : List Reg) (block : State → Option Nat)
    (act : List VReg → State → Except Stop State) (s : State) (c k : Nat) (a : Word) (h : s.RunsRows p srcs regs)
    (hb : block s.clear = none) (ht : act (s.vals srcs) (s.clear.popped srcs) = .error (.trap c k s.cur.slot a)) :
    finish (runRows p srcs regs block act) s = .next (s.stoppedBy c k a) := by
  refine finish_stop _ _ (.trap c k s.cur.slot a) ?_
  unfold runRows
  have h1 : s.clear.test p = true := h.test
  have h2 : s.clear.cx.arrived srcs = true := h.arrived
  have h3 : (srcs.map s.clear.cx.vsrc).all Elem.ok = true := h.sound
  simp only [h1, h2, h3, Bool.not_true, Bool.false_eq_true, if_false, hb, checkReads_ok s.clear _ h.reads, if_true]
  exact ht

/-! Each sweep command. -/

theorem clear_recordAt (s : State) (va : Word) (n align : Nat) (coreToo ownOnly : Bool) :
    s.clear.recordAt va n align coreToo ownOnly = s.recordAt va n align coreToo ownOnly := rfl

theorem execSwopen_issues (s : State) (p : Pred) (d a b c id : BitVec 6) (expect : BitVec 12) (stat : Nat)
    (h : s.Runs p [.s a, .s b, .s c]) (hf : slotBlock .swp s = none)
    (hr : s.recordAt (s.cx.rs c) 8 8 false true = .ok stat) (h0 : 0 < (s.cx.rs b).toNat)
    (hn : (s.cx.rs b).toNat ≤ 0x100000) (he : expect.toNat ≤ 2048) (ha : (s.cx.rs a).toNat % 8 = 0) :
    execSwopen p d a b c id expect s =
      .next (s.clear.issueSwp d (.swopen (s.cx.rs a) (s.cx.rs b).toNat stat id expect.toNat)).done := by
  refine finish_runSlot _ _ _ _ _ _ h hf ?_
  have hok : ¬((s.cx.rs b).toNat = 0 ∨ 0x100000 < (s.cx.rs b).toNat ∨ 2048 < expect.toNat ∨ (s.cx.rs a).toNat % 8 ≠ 0) := by
    omega
  simp only [clear_cx, if_neg hok, clear_recordAt, hr]

theorem execSwopen_traps (s : State) (p : Pred) (d a b c id : BitVec 6) (expect : BitVec 12)
    (h : s.Runs p [.s a, .s b, .s c]) (hf : slotBlock .swp s = none)
    (hbad : (s.cx.rs b).toNat = 0 ∨ 0x100000 < (s.cx.rs b).toNat ∨ 2048 < expect.toNat ∨ (s.cx.rs a).toNat % 8 ≠ 0) :
    execSwopen p d a b c id expect s = .next (s.stoppedBy 18 0 0) :=
  finish_runSlot_trap _ _ _ _ _ _ _ _ h hf (if_pos hbad)

theorem execSwsub_issues (s : State) (p : Pred) (d a b c id : BitVec 6) (q : BitVec 4) (stat : Nat)
    (h : s.Runs p [.s a, .s b, .s c]) (hf : slotBlock .swp s = none)
    (hr : s.recordAt (s.cx.rs c) 8 8 false true = .ok stat) (h0 : 0 < (s.cx.rs b).toNat) (hn : (s.cx.rs b).toNat ≤ 4096)
    (ha : (s.cx.rs a).toNat % 4 = 0) (hq : (s.cx.stream q).held = false) :
    execSwsub p d a b c id q s =
      .next ((s.clear.setCx (s.cx.setStream q ((s.cx.stream q).bindTo ⟨.swsub, s.nextSeq .swp⟩))).issueSwp d
        (.swsub q (s.cx.rs a) (s.cx.rs b).toNat stat id)).done := by
  refine finish_runSlot _ _ _ _ _ _ h hf ?_
  have hok : ¬((s.cx.rs b).toNat = 0 ∨ 4096 < (s.cx.rs b).toNat ∨ (s.cx.rs a).toNat % 4 ≠ 0) := by omega
  simp only [clear_cx, if_neg hok, clear_recordAt, hr, hq, Bool.false_eq_true, if_false]
  rfl

theorem execSwsub_traps (s : State) (p : Pred) (d a b c id : BitVec 6) (q : BitVec 4)
    (h : s.Runs p [.s a, .s b, .s c]) (hf : slotBlock .swp s = none)
    (hbad : (s.cx.rs b).toNat = 0 ∨ 4096 < (s.cx.rs b).toNat ∨ (s.cx.rs a).toNat % 4 ≠ 0) :
    execSwsub p d a b c id q s = .next (s.stoppedBy 18 0 0) :=
  finish_runSlot_trap _ _ _ _ _ _ _ _ h hf (if_pos hbad)

/-- An intake with room blocks no SWMERGE. -/
theorem mergeBlock_room (s : State) (h : (s.intakeOf (homeDomain (s.cur.core * 4))).length < 64) : mergeBlock s = none :=
  if_neg (Nat.not_le.mpr h)

/-- A full one blocks it with cause 10. -/
theorem mergeBlock_full (s : State) (h : 64 ≤ (s.intakeOf (homeDomain (s.cur.core * 4))).length) : mergeBlock s = some 10 :=
  if_pos h

theorem execSwmerge_blocks (s : State) (p : Pred) (d a b c id : BitVec 6) (h : s.RunsRows p [a, b] [.s c])
    (hi : 64 ≤ (s.intakeOf (homeDomain (s.cur.core * 4))).length) :
    execSwmerge p d a b c id s = .next (s.blockedBy 10) :=
  finish_runRows_block _ _ _ _ _ _ _ h.test h.arrived (mergeBlock_full s.clear hi)

theorem execSwmerge_traps (s : State) (p : Pred) (d a b c id : BitVec 6) (h : s.RunsRows p [a, b] [.s c])
    (hi : (s.intakeOf (homeDomain (s.cur.core * 4))).length < 64) (hm : (s.clear.popped [a, b]).mergeFor id = none) :
    execSwmerge p d a b c id s = .next (s.stoppedBy 18 0 0) := by
  refine finish_runRows_trap _ _ _ _ _ _ _ _ _ h (mergeBlock_room s.clear hi) ?_
  simp only [hm]
  rfl

/-- The partial that a SWMERGE brings: its maximum and its sum from s[C], its row from the two sources. -/
def State.partialOf (s : State) (a b c : BitVec 6) : Partial :=
  ⟨(s.cx.rs c).setWidth 32, (s.cx.rs c >>> 32).setWidth 32, s.row b ++ s.row a⟩

/-- The state after a SWMERGE has put a partial for a page into the intake of its query's domain. -/
def State.supplied (s : State) (d id : BitVec 6) (part : Partial) (z : Sweep) (k : Query) (page : Nat) : State :=
  let u := (s.issue .swp d (.swmerge page part id) 0).setSweep id.toNat (z.setQuery { k with supplied := k.supplied + 1 })
  let e := homeDomain k.ctxn
  (u.setIntake e (u.intakeOf e ++ [⟨id.toNat, k.ctxn, k.task, page, s.nextSeq .swp, part⟩])).mergeSome e

theorem execSwmerge_supplies (s : State) (p : Pred) (d a b c id : BitVec 6) (z : Sweep) (k : Query) (page : Nat)
    (h : s.RunsRows p [a, b] [.s c]) (hi : (s.intakeOf (homeDomain (s.cur.core * 4))).length < 64)
    (hm : (s.clear.popped [a, b]).mergeFor id = some (z, k, page)) :
    let t := (s.clear.popped [a, b]).supplied d id (s.partialOf a b c) z k page
    execSwmerge p d a b c id s = .next (t.pumpSwp t.cur.core).done := by
  refine finish_runRows _ _ _ _ _ _ _ h (mergeBlock_room s.clear hi) ?_
  simp only [hm, popped_rs, clear_cx]
  rfl

theorem execSwread_issues (s : State) (p : Pred) (d a id : BitVec 6) (pa : Nat) (h : s.Runs p [.s a])
    (hf : slotBlock .swp s = none) (hr : s.recordAt (s.cx.rs a) 528 16 true true = .ok pa) :
    execSwread p d a id s = .next (s.clear.issueSwp d (.swread pa id)).done := by
  refine finish_runSlot _ _ _ _ _ _ h hf ?_
  simp only [clear_cx, clear_recordAt, hr]

theorem execSwclose_issues (s : State) (p : Pred) (d c id : BitVec 6) (stat : Nat) (h : s.Runs p [.s c])
    (hf : slotBlock .swp s = none) (hr : s.recordAt (s.cx.rs c) 8 8 false true = .ok stat) :
    execSwclose p d c id s = .next (s.clear.issueSwp d (.swclose stat id)).done := by
  refine finish_runSlot _ _ _ _ _ _ h hf ?_
  simp only [clear_cx, clear_recordAt, hr]

/-- Settles O40: each command's issue, block and trap by its lemma. -/
theorem sweepCommandsIssue : Obligations.SweepCommandsIssue := by
  intro s p d a b c id expect q x n free
  refine ⟨fun h hf => ⟨fun stat hr => ⟨?_, ?_⟩, ?_, ?_⟩, fun h => ⟨?_, ?_, ?_⟩, ?_, ?_⟩
  · exact fun h0 hn he ha => execSwopen_issues s p d a b c id expect stat h hf hr h0 hn he ha
  · exact fun h0 hn ha hq => execSwsub_issues s p d a b c id q stat h hf hr h0 hn ha hq
  · exact fun hbad => execSwopen_traps s p d a b c id expect h hf hbad
  · exact fun hbad => execSwsub_traps s p d a b c id q h hf hbad
  · exact fun hi => execSwmerge_blocks s p d a b c id h hi
  · exact fun hi hm => execSwmerge_traps s p d a b c id h hi hm
  · exact fun hi z k page hm => execSwmerge_supplies s p d a b c id z k page h hi hm
  · exact fun h hf pa hr => execSwread_issues s p d a id pa h hf hr
  · exact fun h hf stat hr => execSwclose_issues s p d c id stat h hf hr

end Sys2Proof.Machine
end

section
/-! SUPPORT. What happens to a context of itself: residency, results, timers, saves, restores, ends, fences and stops
(01 R19, 10 R256, R272, R275, 15 R418-R422, 17 R456, R461). -/

namespace Sys2Proof.Machine

/-! Residency (01 R19). -/

theorem limitResidency_below (s : State) (n : Nat)
    (h : ((s.core n).ctxs.get (s.core n).holder.toFin).resid.toNat < 65536) : s.limitResidency n = s :=
  if_pos h

/-- At the limit with no other context ready, the holder's count starts again. -/
theorem limitResidency_alone (s : State) (n : Nat)
    (h : 65536 ≤ ((s.core n).ctxs.get (s.core n).holder.toFin).resid.toNat) (hn : (s.core n).nextReady = none) :
    s.limitResidency n =
      s.setCtxAt n (s.core n).holder { (s.core n).ctxs.get (s.core n).holder.toFin with resid := 0 } := by
  unfold State.limitResidency
  simp only [if_neg (Nat.not_lt.mpr h), hn]

/-- At the limit with another context ready, the holder gives issue up. -/
theorem limitResidency_yields (s : State) (n : Nat)
    (h : 65536 ≤ ((s.core n).ctxs.get (s.core n).holder.toFin).resid.toNat) (hn : (s.core n).nextReady ≠ none) :
    s.limitResidency n =
      let c := (s.core n).ctxs.get (s.core n).holder.toFin
      s.setCtxAt n (s.core n).holder { c with resid := 0, st := if c.st = .issuing then .ready else c.st } := by
  obtain ⟨i, hi⟩ := Option.ne_none_iff_exists'.mp hn
  unfold State.limitResidency
  simp only [if_neg (Nat.not_lt.mpr h), hi]

/-- A boundary that a Blocked context may still come ready at is left as it is. -/
theorem execResidencyLimit_waits (core : BitVec 9) (s : State) (hn : (s.core core.toNat).nextReady = none)
    (hb : (s.core core.toNat).ctxs.toList.any (fun c => c.st == .blocked && !c.exiting) = true) :
    execResidencyLimit core s = .next s.rest :=
  if_pos ⟨by rw [hn]; rfl, hb⟩

/-- Any other is where the limit holds. -/
theorem execResidencyLimit_limits (core : BitVec 9) (s : State) (h : (s.core core.toNat).nextReady ≠ none ∨
      (s.core core.toNat).ctxs.toList.any (fun c => c.st == .blocked && !c.exiting) = false) :
    execResidencyLimit core s = .next (s.limitResidency core.toNat).rest := by
  refine if_neg fun ⟨hn, hb⟩ => ?_
  rcases h with h | h
  · exact h (Option.isNone_iff_eq_none.mp hn)
  · exact Bool.false_ne_true (h.symm.trans hb)

/-- Below the limit the event does nothing. -/
theorem execResidencyLimit_below (core : BitVec 9) (s : State)
    (h : ((s.core core.toNat).ctxs.get (s.core core.toNat).holder.toFin).resid.toNat < 65536) :
    execResidencyLimit core s = .next s.rest := by
  unfold execResidencyLimit
  rw [limitResidency_below s _ h]
  exact ite_self _

/-- At the limit with no context to let in and none that could become ready, the holder's count starts again. -/
theorem execResidencyLimit_restarts (core : BitVec 9) (s : State)
    (h : 65536 ≤ ((s.core core.toNat).ctxs.get (s.core core.toNat).holder.toFin).resid.toNat)
    (hn : (s.core core.toNat).nextReady = none)
    (hb : (s.core core.toNat).ctxs.toList.any (fun c => c.st == .blocked && !c.exiting) = false) :
    execResidencyLimit core s = .next (s.setCtxAt core.toNat (s.core core.toNat).holder
      { (s.core core.toNat).ctxs.get (s.core core.toNat).holder.toFin with resid := 0 }).rest := by
  rw [execResidencyLimit_limits core s (.inr hb), limitResidency_alone s _ h hn]

/-- At the limit with a context to let in, the holder gives issue up. -/
theorem execResidencyLimit_yields (core : BitVec 9) (s : State)
    (h : 65536 ≤ ((s.core core.toNat).ctxs.get (s.core core.toNat).holder.toFin).resid.toNat)
    (hn : (s.core core.toNat).nextReady ≠ none) :
    let c := (s.core core.toNat).ctxs.get (s.core core.toNat).holder.toFin
    execResidencyLimit core s = .next (s.setCtxAt core.toNat (s.core core.toNat).holder
      { c with resid := 0, st := if c.st = .issuing then .ready else c.st }).rest := by
  rw [execResidencyLimit_limits core s (.inl hn), limitResidency_yields s _ h hn]

/-! Results and timers (10 R256, 17 R456). -/

theorem execOverdueResult_arrives (core : BitVec 9) (ctx : BitVec 2) (s : State) (e : LandEntry)
    (h : (s.core core.toNat).awaited ctx (s.ctxAt core.toNat ctx) = some e) :
    execOverdueResult core ctx s = .next (s.setCtxAt core.toNat ctx ((s.ctxAt core.toNat ctx).gets e)).rest := by
  unfold execOverdueResult
  simp only [h]
  rfl

/-- A context whose deadline has passed and that takes a timer. -/
structure Context.TimerDue (c : Context) (now : Word) : Prop where
  armed : c.tmr ≠ 0
  passed : c.tmr.toNat ≤ now.toNat
  program : c.svc = false
  noStub : c.drain = false
  runs : c.exiting = false

/-- Neither Free nor Halted, it is not passed over. -/
theorem Context.TimerDue.taken {c : Context} {now : Word} (h : c.TimerDue now) (hf : c.st ≠ .free) (hh : c.st ≠ .halted) :
    ¬(c.tmr = 0 ∨ now.toNat < c.tmr.toNat ∨ c.svc ∨ c.drain ∨ c.st = .free ∨ c.st = .halted ∨ c.exiting) := by
  rintro (hz | hlt | hv | hd | hs | hs | he)
  · exact h.armed hz
  · exact Nat.not_lt.mpr h.passed hlt
  · exact Bool.false_ne_true (h.program.symm.trans hv)
  · exact Bool.false_ne_true (h.noStub.symm.trans hd)
  · exact hf hs
  · exact hh hs
  · exact Bool.false_ne_true (h.runs.symm.trans he)

/-- Blocked, it traps. -/
theorem execTimerExpire_blocked (core : BitVec 9) (ctx : BitVec 2) (s : State)
    (h : (s.ctxAt core.toNat ctx).TimerDue s.time) (hb : (s.ctxAt core.toNat ctx).st = .blocked) :
    execTimerExpire core ctx s = .next (s.takeTrap core.toNat ctx ⟨49, 0, 7, 0, 0, 0, 0⟩).rest :=
  (if_neg (h.taken (by rw [hb]; decide) (by rw [hb]; decide))).trans (if_pos hb)

/-- Ready or Issuing, it has the trap pend. -/
theorem execTimerExpire_running (core : BitVec 9) (ctx : BitVec 2) (s : State)
    (h : (s.ctxAt core.toNat ctx).TimerDue s.time)
    (hr : (s.ctxAt core.toNat ctx).st = .issuing ∨ (s.ctxAt core.toNat ctx).st = .ready) :
    execTimerExpire core ctx s =
      .next (s.setCtxAt core.toNat ctx { s.ctxAt core.toNat ctx with tpend := true }).rest := by
  have hst : ∀ x : CtxState, x ≠ .issuing → x ≠ .ready → (s.ctxAt core.toNat ctx).st ≠ x := by
    rintro x hi hd rfl
    exact hr.elim hi hd
  have htaken := h.taken (hst .free (by decide) (by decide)) (hst .halted (by decide) (by decide))
  exact (if_neg htaken).trans (if_neg (hst .blocked (by decide) (by decide)))

/-! A full log or view (08 R221, R222, 15 R420). -/

theorem execLogFull_abandons (core : BitVec 9) (ctx : BitVec 2) (s : State) (hb : (s.ctxAt core.toNat ctx).st = .blocked)
    (hc : (s.ctxAt core.toNat ctx).bcause = 8 ∨ (s.ctxAt core.toNat ctx).bcause = 9)
    (ha : (s.ctxAt core.toNat ctx).mustAbandon = true) (hs : (s.ctxAt core.toNat ctx).settled = true) :
    execLogFull core ctx s = .next (s.saveFull core.toNat ctx).rest := by
  unfold execLogFull
  simp only [if_pos (And.intro hb hc), ha, hs, if_true, settle_eq]

theorem execLogFull_traps (core : BitVec 9) (ctx : BitVec 2) (s : State) (hb : (s.ctxAt core.toNat ctx).st = .blocked)
    (hc : (s.ctxAt core.toNat ctx).bcause = 8 ∨ (s.ctxAt core.toNat ctx).bcause = 9)
    (ha : (s.ctxAt core.toNat ctx).mustAbandon = false) :
    execLogFull core ctx s = .next (s.takeTrap core.toNat ctx
      ⟨if (s.ctxAt core.toNat ctx).bcause = 8 then 21 else 22, 0, (s.ctxAt core.toNat ctx).bslot, 0, 0, 0, 0⟩).rest := by
  unfold execLogFull
  simp only [if_pos (And.intro hb hc), ha, Bool.false_eq_true, if_false, settle_eq]

/-- A full log is LOG_FULL. -/
theorem execLogFull_log (core : BitVec 9) (ctx : BitVec 2) (s : State) (hb : (s.ctxAt core.toNat ctx).st = .blocked)
    (ha : (s.ctxAt core.toNat ctx).mustAbandon = false) (hc : (s.ctxAt core.toNat ctx).bcause = 8) :
    execLogFull core ctx s =
      .next (s.takeTrap core.toNat ctx ⟨21, 0, (s.ctxAt core.toNat ctx).bslot, 0, 0, 0, 0⟩).rest := by
  rw [execLogFull_traps core ctx s hb (.inl hc) ha, if_pos hc]

/-- A full view is VIEW_FULL. -/
theorem execLogFull_view (core : BitVec 9) (ctx : BitVec 2) (s : State) (hb : (s.ctxAt core.toNat ctx).st = .blocked)
    (ha : (s.ctxAt core.toNat ctx).mustAbandon = false) (hc : (s.ctxAt core.toNat ctx).bcause = 9) :
    execLogFull core ctx s =
      .next (s.takeTrap core.toNat ctx ⟨22, 0, (s.ctxAt core.toNat ctx).bslot, 0, 0, 0, 0⟩).rest := by
  rw [execLogFull_traps core ctx s hb (.inr hc) ha, if_neg (by rw [hc]; decide)]

/-! Saves (15 R418-R422). -/

theorem execPreemptDivert_diverts (core : BitVec 9) (ctx : BitVec 2) (s : State) (x : Stub)
    (h : (s.ctxAt core.toNat ctx).preAction = .divert x) (hs : (s.ctxAt core.toNat ctx).settled = true) :
    execPreemptDivert core ctx s = .next (s.setCtxAt core.toNat ctx ((s.ctxAt core.toNat ctx).divert x)).rest := by
  unfold execPreemptDivert
  simp only [h, hs, if_true, settle_eq]

theorem execFullSave_saves (core : BitVec 9) (ctx : BitVec 2) (s : State)
    (h : (s.ctxAt core.toNat ctx).preAction = .save) (hs : (s.ctxAt core.toNat ctx).settled = true)
    (hn : (s.ctxAt core.toNat ctx).saved = false) :
    execFullSave core ctx s = .next (s.saveFull core.toNat ctx).rest :=
  if_pos ⟨h, hs, by rw [hn]; rfl⟩

theorem execStubAbandon_saves (core : BitVec 9) (ctx : BitVec 2) (s : State)
    (h : (s.ctxAt core.toNat ctx).mustAbandon = true) (hs : (s.ctxAt core.toNat ctx).settled = true) :
    execStubAbandon core ctx s = .next (s.saveFull core.toNat ctx).rest :=
  if_pos ⟨h, hs⟩

theorem execGroupSave_parks (core : BitVec 9) (part : BitVec 6) (lid : BitVec 64) (grp : BitVec 32) (s : State)
    (h : s.groupOn core.toNat part.toNat lid grp ≠ [])
    (hs : ∀ i ∈ s.groupOn core.toNat part.toNat lid grp,
      (s.ctxAt core.toNat i).st = .halted ∧ (s.ctxAt core.toNat i).saved = true) :
    execGroupSave core part lid grp s =
      .next (s.parkGroup core.toNat (s.groupOn core.toNat part.toNat lid grp)).rest := by
  refine if_pos ⟨h, List.all_eq_true.mpr fun i hi => ?_⟩
  obtain ⟨hst, hsaved⟩ := hs i hi
  simp [hst, hsaved]

/-! Placement back (15 R417). -/

/-- A context that was saved alone returns where it stands. -/
theorem execContextRestore_alone (core : BitVec 9) (ctx : BitVec 2) (s : State) (h : s.savedAlone core.toNat ctx = true) :
    execContextRestore core ctx s = .next ((s.setCtxAt core.toNat ctx
      (s.restoreFrom (recordBase core.toNat ctx) (latchBase core.toNat ctx) (s.ctxAt core.toNat ctx))).nudge
        (core.toNat * 4 + ctx.toNat)).rest :=
  if_pos h

/-- A context that left its core as `x`, back in its free place: what its group shares, its registers, and its entries of
the locked table. -/
def State.placedBack (s : State) (n : Nat) (i : BitVec 2) (x : Parked) (rest : List Parked) : State :=
  let t := match x.ctx.task with
    | some y => s.loadShared n i x.grant y
    | none => s
  let c := t.restoreFrom (recordBase n i) (latchBase n i) x.ctx
  let u := (({ t with parked := rest }).setCtxAt n i c).nudge x.num
  u.setCore n { u.core n with ltt := x.ltt.foldl addLtt (u.core n).ltt }

theorem execContextRestore_placed (core : BitVec 9) (ctx : BitVec 2) (s : State) (x : Parked) (rest : List Parked)
    (ha : s.savedAlone core.toNat ctx = false) (hf : (s.ctxAt core.toNat ctx).st = .free)
    (hx : takeFirst (fun (x : Parked) => x.num == core.toNat * 4 + ctx.toNat && x.ready) s.parked = some (x, rest)) :
    execContextRestore core ctx s = .next (s.placedBack core.toNat ctx x rest).rest := by
  unfold execContextRestore
  simp only [ha, hf, hx, Bool.false_eq_true, if_false, ne_eq, not_true_eq_false]
  rfl

/-! The end of a task and of a fence (10 R272, R275). -/

theorem execExitDrainEnd_ends (core : BitVec 9) (ctx : BitVec 2) (s : State) (t : Task)
    (ht : (s.ctxAt core.toNat ctx).task = some t) (he : (s.ctxAt core.toNat ctx).exiting = true) :
    let u := s.cancelQueries (core.toNat * 4 + ctx.toNat) t
    execExitDrainEnd core ctx s =
      .next (if (u.ctxAt core.toNat ctx).drainedAll = true then u.endCtx core.toNat ctx else u).rest := by
  unfold execExitDrainEnd
  simp only [ht, he, Bool.not_true, Bool.false_eq_true, if_false]
  split <;> rfl

/-- What a validation that ends finds: failure with zeros where a write has hit its bank. -/
def State.verdictOf (s : State) (n : Nat) (f : Fence) : Option (Nat × Nat × Nat) :=
  if f.hit = true then some (0, 0, 0) else s.judgeBank n f.ctx f.bank

theorem fenceDone_cons (s : State) (n : Nat) (f : Fence) (rest : List Fence) (h : (s.core n).fences = f :: rest) :
    s.fenceDone n =
      let r := s.verdictOf n f
      let t := s.setCore n { s.core n with
        fences := rest
        fis := fisAfter (s.core n).fis f.bank.toNat r.isSome (r.getD (0, 0, 0)).2.2 (r.getD (0, 0, 0)).1 (r.getD (0, 0, 0)).2.1 }
      t.setCtxAt n f.ctx ((t.ctxAt n f.ctx).fenceLands f r.isNone) := by
  unfold State.fenceDone
  simp only [h]
  rfl

/-! The trap of a fetch (02 R53, 10 R251). -/

theorem execFetchTrap_traps (core : BitVec 9) (s u w t : State) (i : BitVec 2) (rest : List (BitVec 2)) (code : Nat)
    (hs : (s.core core.toNat).stopped = false)
    (hu : (s.preemptAll core.toNat allCtxs).limitResidency core.toNat = u)
    (hc : (u.core core.toNat).considered = i :: rest) (hw : (u.landDue core.toNat i).takeIssue core.toNat i = w)
    (he : (w.ctxAt core.toNat i).efaults = []) (hf : w.fetchBundle core.toNat (w.ctxAt core.toNat i) = .error code)
    (ht : w.trapAttempt core.toNat i (w.takeTrap core.toNat i ⟨code, 0, 7, 0, 0, 0, 0⟩) = .trapped t) :
    let d := t.ctxAt core.toNat i
    execFetchTrap core s =
      .next (t.setCtxAt core.toNat i { d with st := if d.st = .ready then .issuing else d.st }).rest := by
  unfold execFetchTrap
  simp only [hs, Bool.false_eq_true, if_false, hu, hc, hw, he, hf, ht, settle_eq]

/-! Schedule-cycle stops (17 R461). -/

/-- A stop without a cycle holds a core that runs at once. -/
theorem execScstop_now (core : BitVec 9) (s : State) (hd : s.debugOpen = true) (hs : (s.core core.toNat).stopped = false) :
    execScstop ⟨core, none⟩ s = .next (s.stopCore core.toNat).rest :=
  if_pos ⟨hd, by rw [hs]; rfl⟩

/-- So does a stop at a cycle that has passed. -/
theorem execScstop_passed (core : BitVec 9) (v : BitVec 64) (s : State) (hd : s.debugOpen = true)
    (hs : (s.core core.toNat).stopped = false) (hv : v ≤ (s.core core.toNat).ccyc) :
    execScstop ⟨core, some v⟩ s = .next (s.stopCore core.toNat).rest := by
  unfold execScstop
  simp only [hd, hs, hv, Bool.not_false, and_self, if_true, settle_eq]

/-- One at a cycle to come waits. -/
theorem execScstop_waits (core : BitVec 9) (v : BitVec 64) (s : State) (hd : s.debugOpen = true)
    (hs : (s.core core.toNat).stopped = false) (hv : (s.core core.toNat).ccyc < v) :
    execScstop ⟨core, some v⟩ s = .next (s.setCore core.toNat { s.core core.toNat with stopAt := some v }).rest := by
  unfold execScstop
  simp only [hd, hs, BitVec.not_le.mpr hv, Bool.not_false, and_self, if_true, if_false, settle_eq]

/-- Without a debug scope no stop is taken. -/
theorem execScstop_closed (x : StopAt) (s : State) (hd : s.debugOpen = false) : execScstop x s = .next s.rest :=
  if_neg fun h => Bool.false_ne_true (hd.symm.trans h.1)

theorem execScresume_resumes (core : BitVec 9) (recs : List (BitVec 2 × List Byte)) (s : State) (hd : s.debugOpen = true)
    (hs : (s.core core.toNat).stopped = true) :
    let t := s.reinjectAll core.toNat recs
    execScresume ⟨core, recs⟩ s = .next (t.setCore core.toNat { t.core core.toNat with stopped := false }).rest :=
  if_pos ⟨hd, hs⟩

theorem execScresume_closed (x : ResumeWith) (s : State) (hd : s.debugOpen = false) : execScresume x s = .next s.rest :=
  if_neg fun h => Bool.false_ne_true (hd.symm.trans h.1)

/-- The oldest fence of a core delivers its verdict. -/
theorem execFenceIDone_delivers (core : BitVec 9) (s : State) (f : Fence) (rest : List Fence)
    (h : (s.core core.toNat).fences = f :: rest) :
    let k := s.core core.toNat
    let r := s.verdictOf core.toNat f
    let t := s.setCore core.toNat { k with
      fences := rest
      fis := fisAfter k.fis f.bank.toNat r.isSome (r.getD (0, 0, 0)).2.2 (r.getD (0, 0, 0)).1 (r.getD (0, 0, 0)).2.1 }
    execFenceIDone core s =
      .next (t.setCtxAt core.toNat f.ctx ((t.ctxAt core.toNat f.ctx).fenceLands f r.isNone)).rest := by
  unfold execFenceIDone
  rw [settle_eq, fenceDone_cons s core.toNat f rest h]

/-- Settles O49: each event by its lemma. -/
theorem contextEventsComplete : Obligations.ContextEventsComplete := by
  intro s core ctx part lid at' grp recs n k c on h
  refine ⟨execResidencyLimit_below core s,
    fun hl => ⟨execResidencyLimit_waits core s, execResidencyLimit_restarts core s hl, execResidencyLimit_yields core s hl⟩,
    execOverdueResult_arrives core ctx s, fun hz hp hv hd he => ?timer, execLogFull_abandons core ctx s,
    fun hb ha => ⟨execLogFull_log core ctx s hb ha, execLogFull_view core ctx s hb ha⟩,
    execPreemptDivert_diverts core ctx s, execFullSave_saves core ctx s, execStubAbandon_saves core ctx s,
    execGroupSave_parks core part lid grp s, execContextRestore_alone core ctx s,
    fun ha hf x rest hx => execContextRestore_placed core ctx s x rest ha hf hx, execExitDrainEnd_ends core ctx s,
    execFenceIDone_delivers core s, ?fetch, fun hd => ⟨?stop, execScresume_resumes core recs s hd⟩, fun hd => ?closed⟩
  case timer =>
    have hdue : c.TimerDue s.time := ⟨hz, hp, hv, hd, he⟩
    exact ⟨execTimerExpire_blocked core ctx s hdue, execTimerExpire_running core ctx s hdue⟩
  case fetch =>
    exact fun hs i rest code t hc he hf ht => execFetchTrap_traps core s _ _ t i rest code hs rfl hc rfl he hf ht
  case stop =>
    exact fun hs => ⟨execScstop_now core s hd hs, execScstop_passed core at' s hd hs, execScstop_waits core at' s hd hs⟩
  case closed =>
    exact ⟨execScstop_closed ⟨core, some at'⟩ s hd, execScstop_closed ⟨core, none⟩ s hd, execScresume_closed ⟨core, recs⟩ s hd⟩

end Sys2Proof.Machine
end

section
/-! SUPPORT. The encoder against the decoders (02 R39-R53, 12 R300): every word reads back; every word that a slot or the landing
decoder accepts is the word of the instruction it answers, but for SETFMT.S, whose VAL bits no rule makes zero (10 R273). -/

namespace Sys2Proof.Laws.Encoding

/-! Ranges of bits. -/

/-- Bits `hi - 1 : lo` of a word: a field named by its two ends. -/
def bits (w lo hi : Nat) : Nat := w % 2 ^ hi / 2 ^ lo

theorem fld_eq_bits (w lo n : Nat) : fld w lo n = bits w lo (lo + n) := by
  rw [fld, bits, Nat.pow_add, Nat.mod_mul_right_div_self]

theorem bits_self (w lo : Nat) : bits w lo lo = 0 :=
  Nat.div_eq_of_lt (Nat.mod_lt _ (Nat.two_pow_pos lo))

/-- A cut splits the low bits of a word. -/
theorem mod_eq_bits (w : Nat) {lo hi : Nat} (h : lo ≤ hi) : w % 2 ^ hi = bits w lo hi * 2 ^ lo + w % 2 ^ lo := by
  rw [bits, Nat.mul_comm, ← Nat.mod_mod_of_dvd w (Nat.pow_dvd_pow 2 h), Nat.div_add_mod]

/-- A range is zero where every range that ends with it may end below it. -/
theorem bits_eq_zero_iff {w lo hi : Nat} (h : lo ≤ hi) : bits w lo hi = 0 ↔ ∀ a, a ≤ lo → bits w a hi = bits w a lo := by
  refine ⟨fun hz a _ => ?_, fun ha => (ha lo (Nat.le_refl lo)).trans (bits_self w lo)⟩
  rw [bits, bits, mod_eq_bits w h, hz, Nat.zero_mul, Nat.zero_add]

theorem toNat_ofNat_bits {w n lo hi : Nat} (h : hi ≤ lo + n) : (BitVec.ofNat n (bits w lo hi)).toNat = bits w lo hi := by
  refine Nat.mod_eq_of_lt ?_
  rw [bits, Nat.div_lt_iff_lt_mul (Nat.two_pow_pos lo), ← Nat.pow_add, Nat.add_comm]
  exact Nat.lt_of_lt_of_le (Nat.mod_lt _ (Nat.two_pow_pos hi)) (Nat.pow_le_pow_right Nat.two_pos h)

theorem fld_one_cases (w lo : Nat) : fld w lo 1 = 0 ∨ fld w lo 1 = 1 := Nat.mod_two_eq_zero_or_one _

theorem predOf_pn_toNat (w : Nat) : (predOf w).pn.toNat = fld w 57 1 := by
  rcases fld_one_cases w 57 with h | h <;> simp [predOf, h]

theorem predOf_pi_toNat (w : Nat) : (predOf w).pi.toNat = fld w 52 5 := by
  simp only [predOf, fld_eq_bits, toNat_ofNat_bits, Nat.le_refl]

/-! Words that their fields tile. -/

/-- The fields hold every bit of the word below `hi`, each all the bits up to the next field above it. -/
def Tiles (w : Nat) : Nat → List (Nat × Nat) → Prop
  | hi, [] => bits w 0 hi = 0
  | hi, (v, lo) :: rest => lo ≤ hi ∧ bits w lo hi = v ∧ Tiles w lo rest

/-- Fields that tile a word below `hi` pack to it: what the encoder lays down is what the word held. -/
theorem pack_of_tiles {w : Nat} : ∀ {hi : Nat} {fs : List (Nat × Nat)}, Tiles w hi fs → pack fs = w % 2 ^ hi
  | hi, [], h => by
    rw [mod_eq_bits w (Nat.zero_le hi), show bits w 0 hi = 0 from h, pack, Nat.pow_zero, Nat.mod_one, Nat.zero_mul]
  | hi, (v, lo) :: rest, ⟨hlo, hv, hrest⟩ => by rw [pack, pack_of_tiles hrest, mod_eq_bits w hlo, hv]

theorem slotWord_of_tiles {w op : Nat} {fs : List (Nat × Nat)} (hw : w < 2 ^ 64) (h0 : fld w 58 6 = op)
    (hf : Tiles w 52 fs) : slotWord op (predOf w) fs = some (64, w) := by
  have h : Tiles w 64 ([(op, 58), ((predOf w).pn.toNat, 57), ((predOf w).pi.toNat, 52)] ++ fs) :=
    ⟨by decide, fld_eq_bits w 58 6 ▸ h0, by decide, by rw [predOf_pn_toNat, fld_eq_bits],
      by decide, by rw [predOf_pi_toNat, fld_eq_bits], hf⟩
  rw [slotWord, pack_of_tiles h, Nat.mod_eq_of_lt hw]

theorem landWord_of_tiles {w op : Nat} {fs : List (Nat × Nat)} (hw : w < 2 ^ 16) (h0 : fld w 10 6 = op)
    (hf : Tiles w 10 fs) : landWord op fs = some (16, w) := by
  have h : Tiles w 16 ((op, 10) :: fs) := ⟨by decide, fld_eq_bits w 10 6 ▸ h0, hf⟩
  rw [landWord, pack_of_tiles h, Nat.mod_eq_of_lt hw]

/-! The slot decoders. In each arm the selections and the must-be-zero ranges, as ranges of bits, end the fields below them
early, so that the encoder's fields tile the word. -/

/-- Whatever a decoder answers for a slot word is legal, and the word is that instruction's own, but for SETFMT.S. -/
def Reads (w : Nat) (r : Except Nat Instr) : Prop :=
  ∀ i, r = .ok i → i.wf = true ∧ ((∀ p a mask, i ≠ .setfmtScalar p a mask) → encode i = some (64, w))

theorem reads_error (w r : Nat) : Reads w (.error r) := fun _ h => nomatch h

theorem reads_nop (w : Nat) : Reads w (if w = 0 then .ok .nop else .error 3) := by
  intro i h
  split at h
  · subst w
    cases h
    exact ⟨rfl, fun _ => rfl⟩
  · cases h

/-- A verdict accepts only where every check passes. -/
theorem verdict_eq_ok {mbz t f : Bool} {i j : Instr} (h : verdict mbz t f i = .ok j) :
    (mbz = true ∧ t = true ∧ f = true) ∧ i.wf = true ∧ i = j := by
  unfold verdict at h
  unfold Instr.wf
  split at h
  · cases h
  · grind

/-- A verdict reads the word where its checks leave no bit of the word outside the encoder's fields. -/
theorem reads_verdict {w op : Nat} {mbz t f : Bool} {i : Instr} {fs : List (Nat × Nat)} (hw : w < 2 ^ 64)
    (h0 : fld w 58 6 = op) (he : encode i = slotWord op (predOf w) fs)
    (ht : mbz = true → t = true → f = true → Tiles w 52 fs) : Reads w (verdict mbz t f i) := by
  intro j hj
  obtain ⟨⟨hm, hty, hf⟩, hi, rfl⟩ := verdict_eq_ok hj
  exact ⟨hi, fun _ => he.trans (slotWord_of_tiles hw h0 (ht hm hty hf))⟩

theorem reads_setfmtScalar (w : Nat) (mbz t f : Bool) (p : Pred) (a mask : BitVec 6) :
    Reads w (verdict mbz t f (.setfmtScalar p a mask)) := by
  intro j hj
  obtain ⟨-, hi, rfl⟩ := verdict_eq_ok hj
  exact ⟨hi, fun hne => absurd rfl (hne p a mask)⟩

theorem reads_ite {w : Nat} {c : Prop} [Decidable c] {a b : Except Nat Instr} (ha : c → Reads w a) (hb : ¬c → Reads w b) :
    Reads w (if c then a else b) := by
  split
  · exact ha ‹_›
  · exact hb ‹_›

theorem decodeControl_reads {w : Nat} (hw : w < 2 ^ 64) : Reads w (decodeControl w) := by
  unfold decodeControl
  split
  case h_1 => exact reads_nop w
  case h_21 => exact reads_error w 1
  case' h_11 => refine reads_ite (fun _ => ?_) fun _ => reads_setfmtScalar w _ _ _ _ _ _
  all_goals
    refine reads_verdict hw ‹_› rfl fun hz ht hf => ?_
    simp_all only [zeros, Tiles, fld_eq_bits, bits_eq_zero_iff, bits_self, toNat_ofNat_bits, Nat.reduceLeDiff, Nat.reduceAdd,
      Nat.zero_le, Bool.and_true, Bool.and_eq_true, decide_eq_true_eq, and_self]

theorem decodeScalar_reads {w : Nat} (hw : w < 2 ^ 64) : Reads w (decodeScalar w) := by
  unfold decodeScalar
  split
  case h_1 => exact reads_nop w
  case h_59 => exact reads_error w 1
  all_goals
    refine reads_verdict hw ‹_› rfl fun hz ht hf => ?_
    simp_all only [zeros, Tiles, fld_eq_bits, bits_eq_zero_iff, bits_self, toNat_ofNat_bits, Nat.reduceLeDiff, Nat.reduceAdd,
      Nat.zero_le, Bool.and_true, Bool.and_eq_true, decide_eq_true_eq, and_self]

theorem decodeVector_reads {w : Nat} (hw : w < 2 ^ 64) : Reads w (decodeVector w) := by
  unfold decodeVector
  split
  case h_1 => exact reads_nop w
  case h_62 => exact reads_error w 1
  case' h_20 | h_40 => repeat' split
  all_goals
    refine reads_verdict hw ‹_› rfl fun hz ht hf => ?_
    simp_all only [zeros, Tiles, fld_eq_bits, bits_eq_zero_iff, bits_self, toNat_ofNat_bits, Nat.reduceLeDiff, Nat.reduceAdd,
      Nat.zero_le, Bool.and_true, Bool.and_eq_true, decide_eq_true_eq, and_self, Bool.false_eq_true]

theorem decodeEngine_reads {w : Nat} (hw : w < 2 ^ 64) : Reads w (decodeEngine w) := by
  unfold decodeEngine
  split
  case h_1 => exact reads_nop w
  case h_40 => exact reads_error w 1
  case' h_38 | h_39 => rcases fld_one_cases w 20 with hb | hb <;> simp only [hb, reduceIte, Nat.one_ne_zero]
  case' h_8 | h_9 | h_10 | h_11 | h_14 | h_16 | h_17 | h_18 | h_21 | h_24 | h_28 | h_29 | h_30 | h_37 => repeat' split
  all_goals
    refine reads_verdict hw ‹_› rfl fun hz ht hf => ?_
    simp_all only [zeros, Tiles, fld_eq_bits, bits_eq_zero_iff, bits_self, toNat_ofNat_bits, Nat.reduceLeDiff, Nat.reduceAdd,
      Nat.zero_le, Bool.and_true, Bool.and_eq_true, decide_eq_true_eq, and_self, Bool.false_eq_true]

/-! The landing decoder. -/

/-- Whatever a decoder answers for a halfword is legal, and the halfword is that operation's own. -/
def Lands (w : Nat) (r : Option Instr) : Prop := ∀ i, r = some i → i.wf = true ∧ encode i = some (16, w)

theorem lands_none (w : Nat) : Lands w none := fun _ h => nomatch h

theorem lands_landOk {w op : Nat} {i : Instr} {fs : List (Nat × Nat)} (hw : w < 2 ^ 16) (h0 : fld w 10 6 = op)
    (he : encode i = landWord op fs) (ht : Tiles w 10 fs) : Lands w (landOk i) := by
  intro j hj
  obtain ⟨hi, rfl⟩ : i.wf = true ∧ i = j := by simpa [landOk] using hj
  exact ⟨hi, he.trans (landWord_of_tiles hw h0 ht)⟩

theorem decodeLanding_lands {w : Nat} (hw : w < 2 ^ 16) : Lands w (decodeLanding w) := by
  unfold decodeLanding
  split
  case h_33 => exact lands_none w
  case' h_19 | h_20 => rcases fld_one_cases w 9 with hb | hb <;> simp only [hb, reduceIte, Nat.zero_ne_one]
  case' h_22 => rcases fld_one_cases w 4 with hb | hb <;> simp only [hb, reduceIte, Nat.one_ne_zero]
  any_goals split
  any_goals exact lands_none w
  all_goals
    refine lands_landOk hw ‹_› rfl ?_
    simp_all only [zeros, Tiles, fld_eq_bits, bits_eq_zero_iff, bits_self, toNat_ofNat_bits, Nat.reduceLeDiff, Nat.reduceAdd,
      Nat.zero_le, Bool.and_true, decide_eq_true_eq, and_self]

/-! The slots (02 R38, R52, R60). -/

/-- A slot's checks before its class's decoder, in the order of their REASONs. -/
theorem decodeSlot_eq (slot w : Nat) : decodeSlot slot w =
    if topOp slot < fld w 58 6 then .error 1
    else if slot = 1 ∧ 54 ≤ fld w 58 6 then .error 2
    else if slot = 3 ∧ 46 ≤ fld w 58 6 then .error 2
    else if fld w 58 6 ≠ 0 ∧ (predOf w).ok = false then .error 3
    else decodeClass slot w := by
  unfold decodeSlot decodeClass topOp
  cases slotClass slot <;> simp only [Bool.not_eq_true', decide_eq_false_iff_not, Nat.not_le]

theorem decodeSlot_eq_ok {slot w : Nat} {i : Instr} (h : decodeSlot slot w = .ok i) : decodeClass slot w = .ok i := by
  rw [decodeSlot_eq] at h
  iterate 4
    split at h
    · cases h
  exact h

/-- PI 24 to 30, and PI 31 with PN, are reserved (02 R39). -/
theorem predOf_ok_eq_false {w : Nat} (h : (24 ≤ fld w 52 5 ∧ fld w 52 5 ≤ 30) ∨ (fld w 52 5 = 31 ∧ fld w 57 1 = 1)) :
    (predOf w).ok = false := by
  have hpn : (predOf w).pn = decide (fld w 57 1 = 1) := rfl
  unfold Pred.ok
  rw [predOf_pi_toNat, hpn]
  rcases h with ⟨h1, h2⟩ | ⟨h1, h2⟩
  · simp only [Bool.or_eq_false_iff, decide_eq_false_iff_not, Bool.and_eq_false_imp, beq_iff_eq]
    omega
  · simp [h1, h2]

theorem decodeSlot_reserved_pred {slot w : Nat} (h0 : fld w 58 6 ≠ 0) (hp : (predOf w).ok = false) :
    ∃ r, r ≤ 3 ∧ decodeSlot slot w = .error r := by
  rw [decodeSlot_eq]
  split
  · exact ⟨1, by decide, rfl⟩
  split
  · exact ⟨2, by decide, rfl⟩
  split
  · exact ⟨2, by decide, rfl⟩
  rw [if_pos ⟨h0, hp⟩]
  exact ⟨3, by decide, rfl⟩

theorem decodeSlot_one_memory {w : Nat} (h1 : 54 ≤ fld w 58 6) (h2 : fld w 58 6 ≤ 57) : decodeSlot 1 w = .error 2 := by
  rw [decodeSlot_eq, if_neg (show ¬topOp 1 < _ from Nat.not_lt.mpr h2), if_pos ⟨rfl, h1⟩]

theorem decodeSlot_three_high {w : Nat} (h1 : 46 ≤ fld w 58 6) (h2 : fld w 58 6 ≤ 60) : decodeSlot 3 w = .error 2 := by
  rw [decodeSlot_eq, if_neg (show ¬topOp 3 < _ from Nat.not_lt.mpr h2), if_neg (fun h => absurd h.1 (by decide)), if_pos ⟨rfl, h1⟩]

/-- Settles O4: each reserved header and place meets its check of the slot before any decoder of a class. -/
theorem reservedHeadersAndPlacesRejected : Obligations.ReservedHeadersAndPlacesRejected :=
  ⟨fun _ _ _ h0 hp => decodeSlot_reserved_pred h0 (predOf_ok_eq_false hp), fun _ => decodeSlot_one_memory,
    fun _ => decodeSlot_three_high⟩

/-! A word that decodes. -/

theorem decodeClass_reads (slot : Nat) {w : Nat} (hw : w < 2 ^ 64) : Reads w (decodeClass slot w) := by
  unfold decodeClass
  split
  · exact decodeControl_reads hw
  · exact decodeScalar_reads hw
  · exact decodeVector_reads hw
  · exact decodeEngine_reads hw

/-- Every word that a slot accepts is legal, and is the word of the instruction it decodes to, unless that is SETFMT.S. -/
theorem decodeSlot_reads (slot : Nat) {w : Nat} (hw : w < 2 ^ 64) : Reads w (decodeSlot slot w) :=
  fun i h => decodeClass_reads slot hw i (decodeSlot_eq_ok h)

/-- Every halfword that the landing decoder accepts is legal, and is the halfword of the operation it decodes to. -/
theorem decodeTableWord_lands {w : Nat} (hw : w < 2 ^ 16) : Lands w (decodeTableWord 16 w) := by
  rw [decodeTableWord, if_pos rfl, Nat.mod_eq_of_lt hw]
  exact decodeLanding_lands hw

/-- SETFMT s0, 0 with 1 in VAL, the bits that a SETFMT with SRC 1 does not read (10 R273). -/
def setfmtScalarWithVal : Nat := 0x29F0000000010001

theorem decodeSlot_setfmtScalarWithVal : decodeSlot 0 setfmtScalarWithVal = .ok (.setfmtScalar ⟨false, 31⟩ 0 0) := rfl

theorem encode_setfmtScalar_ne : encode (.setfmtScalar ⟨false, 31⟩ 0 0) ≠ some (64, setfmtScalarWithVal) := by decide

/-- Refutes O2: the control decoder leaves VAL of a SETFMT with SRC 1 unchecked, so a word with a bit of VAL set decodes to
the instruction whose word has VAL 0. Of every other instruction the converse holds: `decodeSlot_reads`,
`decodeTableWord_lands`. -/
theorem not_decodeThenEncodeGivesBack : ¬ Obligations.DecodeThenEncodeGivesBack := by
  rintro ⟨hslot, -⟩
  have hword := hslot 0 setfmtScalarWithVal _ (by decide) (by decide) decodeSlot_setfmtScalarWithVal
  exact encode_setfmtScalar_ne hword.2

/-! Every instruction's word. -/

/-- Settles O1: each instruction and each step by its own lemma; a step has no word to read back. -/
theorem encodeThenDecodeGivesBack : Obligations.EncodeThenDecodeGivesBack := by
  intro i
  exact match i with
  | .nop => Encoding.nop | .bprep .. => Encoding.bprep _ _ _ | .bpreps .. => Encoding.bpreps _ _ _ | .br .. => Encoding.br _ _
  | .brl .. => Encoding.brl _ _ _ | .banksw .. => Encoding.banksw _ _ _ | .loop .. => Encoding.loop _ _ _ _
  | .lbrk .. => Encoding.lbrk _ _ | .vany .. => Encoding.vany _ _ _ | .vall .. => Encoding.vall _ _ _
  | .setfmt .. => Encoding.setfmt _ _ _ | .setfmtScalar .. => Encoding.setfmtScalar _ _ _ | .fenceI .. => Encoding.fenceI _ _ _
  | .yield .. => Encoding.yield _ | .exit .. => Encoding.exit _ | .trap .. => Encoding.trap _ _ | .eret .. => Encoding.eret _
  | .crgnOpen .. => Encoding.crgnOpen _ _ _ | .crgnClose .. => Encoding.crgnClose _ | .chkerr .. => Encoding.chkerr _ _ _ _
  | .pmark .. => Encoding.pmark _ _ | .add .. => Encoding.add _ _ _ _ _ | .sub .. => Encoding.sub _ _ _ _ _
  | .and .. => Encoding.and _ _ _ _ _ | .or .. => Encoding.or _ _ _ _ _ | .xor .. => Encoding.xor _ _ _ _ _
  | .andn .. => Encoding.andn _ _ _ _ _ | .shl .. => Encoding.shl _ _ _ _ _ | .shr .. => Encoding.shr _ _ _ _ _
  | .rotl .. => Encoding.rotl _ _ _ _ _ | .min .. => Encoding.min _ _ _ _ _ | .max .. => Encoding.max _ _ _ _ _
  | .mul .. => Encoding.mul _ _ _ _ _ | .mulh .. => Encoding.mulh _ _ _ _ _ | .div .. => Encoding.div _ _ _ _ _
  | .rem .. => Encoding.rem _ _ _ _ _ | .shra .. => Encoding.shra _ _ _ _ _ | .clz .. => Encoding.clz _ _ _ _
  | .ctz .. => Encoding.ctz _ _ _ _ | .popc .. => Encoding.popc _ _ _ _ | .sext .. => Encoding.sext _ _ _ _
  | .zext .. => Encoding.zext _ _ _ _ | .addsh .. => Encoding.addsh _ _ _ _ _ _ | .sel .. => Encoding.sel _ _ _ _ _
  | .cmp .. => Encoding.cmp _ _ _ _ _ _ | .addi .. => Encoding.addi _ _ _ _ _ | .andi .. => Encoding.andi _ _ _ _ _
  | .ori .. => Encoding.ori _ _ _ _ _ | .xori .. => Encoding.xori _ _ _ _ _ | .shli .. => Encoding.shli _ _ _ _ _
  | .shri .. => Encoding.shri _ _ _ _ _ | .shrai .. => Encoding.shrai _ _ _ _ _ | .movi .. => Encoding.movi _ _ _ _
  | .movhi .. => Encoding.movhi _ _ _ _ | .cmpi .. => Encoding.cmpi _ _ _ _ _ _ | .fadd .. => Encoding.fadd _ _ _ _ _
  | .fsub .. => Encoding.fsub _ _ _ _ _ | .fmul .. => Encoding.fmul _ _ _ _ _ | .ffma .. => Encoding.ffma _ _ _ _ _ _
  | .fmin .. => Encoding.fmin _ _ _ _ _ _ | .fmax .. => Encoding.fmax _ _ _ _ _ _ | .fcmp .. => Encoding.fcmp _ _ _ _ _ _
  | .fcvt .. => Encoding.fcvt _ _ _ _ _ | .fclass .. => Encoding.fclass _ _ _ _ | .pand .. => Encoding.pand _ _ _ _
  | .por .. => Encoding.por _ _ _ _ | .pxor .. => Encoding.pxor _ _ _ _ | .pandn .. => Encoding.pandn _ _ _ _
  | .pcnt .. => Encoding.pcnt _ _ _ | .pfirst .. => Encoding.pfirst _ _ _ | .movps .. => Encoding.movps _ _ _
  | .movsp .. => Encoding.movsp _ _ _ | .movsys .. => Encoding.movsys _ _ _ | .setsys .. => Encoding.setsys _ _ _
  | .ld .. => Encoding.ld _ _ _ _ _ _ _ | .st .. => Encoding.st _ _ _ _ _ _ _ | .stnt .. => Encoding.stnt _ _ _ _ _ _ _
  | .stcmb .. => Encoding.stcmb _ _ _ _ _ _ _ _ | .vadd .. => Encoding.vadd _ _ _ _ _ _ | .vsub .. => Encoding.vsub _ _ _ _ _ _
  | .vmul .. => Encoding.vmul _ _ _ _ _ | .vmulh .. => Encoding.vmulh _ _ _ _ _ | .vshl .. => Encoding.vshl _ _ _ _ _
  | .vshr .. => Encoding.vshr _ _ _ _ _ | .vmin .. => Encoding.vmin _ _ _ _ _ | .vmax .. => Encoding.vmax _ _ _ _ _
  | .vand .. => Encoding.vand _ _ _ _ | .vor .. => Encoding.vor _ _ _ _ | .vxor .. => Encoding.vxor _ _ _ _
  | .vshra .. => Encoding.vshra _ _ _ _ _ | .vabs .. => Encoding.vabs _ _ _ _ _ | .vcmp .. => Encoding.vcmp _ _ _ _ _ _
  | .vsel .. => Encoding.vsel _ _ _ _ _ | .vdot4 .. => Encoding.vdot4 _ _ _ _ _ _ _ | .vsatn .. => Encoding.vsatn _ _ _ _ _ _
  | .vwiden .. => Encoding.vwiden _ _ _ _ _ | .vpack .. => Encoding.vpack _ _ _ _ _ | .vpackT2 .. => Encoding.vpackT2 _ _ _ _
  | .vunpack .. => Encoding.vunpack _ _ _ _ | .vfadd .. => Encoding.vfadd _ _ _ _ _ | .vfsub .. => Encoding.vfsub _ _ _ _ _
  | .vfmul .. => Encoding.vfmul _ _ _ _ _ | .vffma .. => Encoding.vffma _ _ _ _ _ _ | .vfmin .. => Encoding.vfmin _ _ _ _ _ _
  | .vfmax .. => Encoding.vfmax _ _ _ _ _ _ | .vfcmp .. => Encoding.vfcmp _ _ _ _ _ | .vfrcp .. => Encoding.vfrcp _ _ _
  | .vfrsq .. => Encoding.vfrsq _ _ _ | .vfexp2 .. => Encoding.vfexp2 _ _ _ | .vflog2 .. => Encoding.vflog2 _ _ _
  | .vfcvt .. => Encoding.vfcvt _ _ _ _ _ _ | .vquant .. => Encoding.vquant _ _ _ _ _ _ | .vdeq .. => Encoding.vdeq _ _ _ _ _ _
  | .vfclass .. => Encoding.vfclass _ _ _ | .vred .. => Encoding.vred _ _ _ _ _ | .vperm .. => Encoding.vperm _ _ _ _ _
  | .vslide .. => Encoding.vslide _ _ _ _ _ | .vbcast .. => Encoding.vbcast _ _ _
  | .vbcastLane .. => Encoding.vbcastLane _ _ _ _ | .viota .. => Encoding.viota _ _ _ _
  | .vcountge .. => Encoding.vcountge _ _ _ _ _ | .vcompress .. => Encoding.vcompress _ _ _
  | .vexpand .. => Encoding.vexpand _ _ _ | .movvs .. => Encoding.movvs _ _ _ _ _ | .movsv .. => Encoding.movsv _ _ _ _
  | .vld .. => Encoding.vld _ _ _ _ _ _ | .vlds .. => Encoding.vlds _ _ _ _ _ _ | .vldx .. => Encoding.vldx _ _ _ _ _ _
  | .vst .. => Encoding.vst _ _ _ _ _ _ | .vsts .. => Encoding.vsts _ _ _ _ _ _ | .vstx .. => Encoding.vstx _ _ _ _ _ _
  | .vstnt .. => Encoding.vstnt _ _ _ _ _ _ | .vstcmb .. => Encoding.vstcmb _ _ _ _ _ _ _ _ | .txin .. => Encoding.txin _ _
  | .txout .. => Encoding.txout _ _ | .txclr .. => Encoding.txclr _ | .vaccrd .. => Encoding.vaccrd _ _ _ _ _
  | .vaccwr .. => Encoding.vaccwr _ _ _ _ _ | .vspill .. => Encoding.vspill _ _ _ _ _ _
  | .vfill .. => Encoding.vfill _ _ _ _ _ _ | .mma .. => Encoding.mma _ _ _ _ | .mzero .. => Encoding.mzero _ _ _
  | .mload .. => Encoding.mload _ _ _ _ _ _ _ _ | .mstore .. => Encoding.mstore _ _ _ _ _ _ _ _ _
  | .msetp .. => Encoding.msetp _ _ _ | .mgetp .. => Encoding.mgetp _ _ _ | .seal .. => Encoding.seal _ _ _ _
  | .sealAcc .. => Encoding.sealAcc _ _ _ | .scheck .. => Encoding.scheck _ _ _ _ _
  | .scheckAcc .. => Encoding.scheckAcc _ _ _ _ | .sfix .. => Encoding.sfix _ _ _ _ _ | .sfixAcc .. => Encoding.sfixAcc _ _ _ _
  | .squery .. => Encoding.squery _ _ _ _ | .squeryAcc .. => Encoding.squeryAcc _ _ _ _ | .cpy .. => Encoding.cpy _ _ _ _ _
  | .cpy2 .. => Encoding.cpy2 _ _ _ _ _ _ _ | .cpyqIn .. => Encoding.cpyqIn _ _ _ _ _ _
  | .cpyqOut .. => Encoding.cpyqOut _ _ _ _ _ _ | .cpymc .. => Encoding.cpymc _ _ _ _ _ _ _ _
  | .cpycrc .. => Encoding.cpycrc _ _ _ _ _ | .cpycrcChk .. => Encoding.cpycrcChk _ _ _ _ | .twait .. => Encoding.twait _ _ _ _
  | .twaitImm .. => Encoding.twaitImm _ _ _ _ | .treadCnt .. => Encoding.treadCnt _ _ _
  | .treadIss .. => Encoding.treadIss _ _ _ | .treadStop .. => Encoding.treadStop _ _ _
  | .treadRetire .. => Encoding.treadRetire _ _ _ | .treadProg .. => Encoding.treadProg _ _
  | .treadCrc .. => Encoding.treadCrc _ _ | .atom .. => Encoding.atom _ _ _ _ _ _ | .rel .. => Encoding.rel _ _
  | .acq .. => Encoding.acq _ _ _ _ | .acqCur .. => Encoding.acqCur _ _ _ | .phase .. => Encoding.phase _ _
  | .ntdrain .. => Encoding.ntdrain _ _ | .logstatPub .. => Encoding.logstatPub _ _
  | .logstatTail .. => Encoding.logstatTail _ _ | .logstatFree .. => Encoding.logstatFree _ _
  | .logstatView .. => Encoding.logstatView _ _ | .logstatMembers .. => Encoding.logstatMembers _ _
  | .logstatSelf .. => Encoding.logstatSelf _ _ | .logstatCursor .. => Encoding.logstatCursor _ _ _
  | .logstatRbld .. => Encoding.logstatRbld _ _ | .fbuild .. => Encoding.fbuild _ _ _ _ _ _ _ | .fsend .. => Encoding.fsend _ _
  | .dwait .. => Encoding.dwait _ _ _ _ | .dreadCnt .. => Encoding.dreadCnt _ _ _ | .dreadCons .. => Encoding.dreadCons _ _ _
  | .dreadDesc0 .. => Encoding.dreadDesc0 _ _ _ | .dreadDesc1 .. => Encoding.dreadDesc1 _ _ _
  | .dreadNum .. => Encoding.dreadNum _ _ _ | .frecv .. => Encoding.frecv _ _ _ | .frecvPeek .. => Encoding.frecvPeek _ _ _
  | .cslotAlloc .. => Encoding.cslotAlloc _ _ _ _ _ _ _ | .cslotFree .. => Encoding.cslotFree _ _ _ _ _ _
  | .cslotRead .. => Encoding.cslotRead _ _ _ _ _ _ | .swopen .. => Encoding.swopen _ _ _ _ _ _ _
  | .swsub .. => Encoding.swsub _ _ _ _ _ _ _ | .swmerge .. => Encoding.swmerge _ _ _ _ _ _
  | .swread .. => Encoding.swread _ _ _ _ | .swclose .. => Encoding.swclose _ _ _ _ | .launch .. => Encoding.launch _ _ _ _
  | .mpostLaunch .. => Encoding.mpostLaunch _ _ _ _ _ | .mpostMsg .. => Encoding.mpostMsg _ _ _ _ _
  | .ctxsave .. => Encoding.ctxsave _ _ _ | .ctxsaveSr .. => Encoding.ctxsaveSr _ _ | .ctxrstr .. => Encoding.ctxrstr _ _ _
  | .ctxrstrSr .. => Encoding.ctxrstrSr _ _ | .kill => Encoding.kill | .pushi .. => Encoding.pushi _
  | .pushh .. => Encoding.pushh _ | .poph .. => Encoding.poph _ | .dup .. => Encoding.dup _ | .swap => Encoding.swap
  | .ferryAdd => Encoding.ferryAdd | .ferrySub => Encoding.ferrySub | .ferryAnd => Encoding.ferryAnd
  | .ferryOr => Encoding.ferryOr | .ferryXor => Encoding.ferryXor | .ferryMin .. => Encoding.ferryMin _
  | .ferryMax .. => Encoding.ferryMax _ | .amax => Encoding.amax | .eq .. => Encoding.eq _ | .lt .. => Encoding.lt _
  | .jz .. => Encoding.jz _ | .jmp .. => Encoding.jmp _ | .ldwImm .. => Encoding.ldwImm _ | .ldw => Encoding.ldw
  | .addwImm .. => Encoding.addwImm _ _ | .addw .. => Encoding.addw _ | .cmb => Encoding.cmb | .ctr .. => Encoding.ctr _
  | .ctrInc .. => Encoding.ctrInc _ | .node .. => Encoding.node _ | .hops .. => Encoding.hops _ | .loadq .. => Encoding.loadq _
  | .crd .. => Encoding.crd _ | .cwr .. => Encoding.cwr _ | .clone => Encoding.clone | .go .. => Encoding.go _
  | .godst => Encoding.godst | .dlvr => Encoding.dlvr | .park => Encoding.park | .cspWrite .. => Encoding.cspWrite _ _
  | .lttCommit .. => Encoding.lttCommit _ _ | .logcWrite .. => Encoding.logcWrite _ _ | .logxWrite .. => Encoding.logxWrite _ _
  | .tlbiWrite .. => Encoding.tlbiWrite _ _ | .smpcWrite .. => Encoding.smpcWrite _ _ | .smptWrite .. => Encoding.smptWrite _ _
  | .tmrWrite .. => Encoding.tmrWrite _ _ _ | .pcselWrite .. => Encoding.pcselWrite _ _ _
  | .mailboxRegister .. => Encoding.mailboxRegister _ _ | .ownershipTableWrite .. => Encoding.ownershipTableWrite _ _ _
  | .cxlMemWrite .. => Encoding.cxlMemWrite _ _ _ | .cxlMemRead .. => Encoding.cxlMemRead _
  | .launchAccept .. => Encoding.launchAccept _ | .faultReply .. => Encoding.faultReply _
  | .faultReplyTimeout .. => Encoding.faultReplyTimeout _ | .cackWrite .. => Encoding.cackWrite _ _
  | .bar0WriteDiscarded .. => Encoding.bar0WriteDiscarded _ _ | .completionWrite .. => Encoding.completionWrite _
  | .scheduleDecision .. => Encoding.scheduleDecision _ | .energyCharge .. => Encoding.energyCharge _ _ _
  | .agingPromote .. => Encoding.agingPromote _ _ | .torusMemberReport .. => Encoding.torusMemberReport _ _ _ _
  | .torusMemberTimeout .. => Encoding.torusMemberTimeout _ _ | .residencyLimit .. => Encoding.residencyLimit _
  | .overdueResult .. => Encoding.overdueResult _ _ | .timerExpire .. => Encoding.timerExpire _ _
  | .logFull .. => Encoding.logFull _ _ | .preemptDivert .. => Encoding.preemptDivert _ _
  | .fullSave .. => Encoding.fullSave _ _ | .stubAbandon .. => Encoding.stubAbandon _ _
  | .groupSave .. => Encoding.groupSave _ _ _ _ | .contextRestore .. => Encoding.contextRestore _ _
  | .exitDrainEnd .. => Encoding.exitDrainEnd _ _ | .fenceIDone .. => Encoding.fenceIDone _
  | .copyComplete .. => Encoding.copyComplete _ _ | .ntStorePerform .. => Encoding.ntStorePerform _
  | .segmentPublish .. => Encoding.segmentPublish _ | .phaseComplete .. => Encoding.phaseComplete _ _ _
  | .mmaRowCommit .. => Encoding.mmaRowCommit _ | .matrixComplete .. => Encoding.matrixComplete _
  | .subnormalAssist .. => Encoding.subnormalAssist _ | .lockstepSelftest .. => Encoding.lockstepSelftest _ _
  | .atomHome .. => Encoding.atomHome _ _ | .atomReply .. => Encoding.atomReply _ _
  | .atomRetransmit .. => Encoding.atomRetransmit _ _ | .sweepPageOffer .. => Encoding.sweepPageOffer _
  | .sweepCatchupPass .. => Encoding.sweepCatchupPass _ | .ferryReceive .. => Encoding.ferryReceive _ _
  | .landingStart => Encoding.landingStart | .mooringReland => Encoding.mooringReland
  | .escapeTimeout .. => Encoding.escapeTimeout _ | .combineSlotTimeout .. => Encoding.combineSlotTimeout _
  | .reachabilityNotice .. => Encoding.reachabilityNotice _ _ | .frameReceive .. => Encoding.frameReceive _ _ _ _ _
  | .frameClose .. => Encoding.frameClose _ _ | .verdictMark .. => Encoding.verdictMark _ _ _
  | .retryRequest .. => Encoding.retryRequest _ _ _ | .linkAck .. => Encoding.linkAck _ _ _
  | .ackTimeout .. => Encoding.ackTimeout _ _ | .rekeyStart .. => Encoding.rekeyStart _ _
  | .rekeyDeadline .. => Encoding.rekeyDeadline _ _ | .laneFault .. => Encoding.laneFault _ _ _
  | .linkTrainDone .. => Encoding.linkTrainDone _ _ _ | .linkKeyed .. => Encoding.linkKeyed _ _ _
  | .sliceScrub .. => Encoding.sliceScrub _ _ _ | .hbmScrub .. => Encoding.hbmScrub _ _
  | .hbmRowSpare .. => Encoding.hbmRowSpare _ _ | .coldReset => Encoding.coldReset
  | .startStageDone .. => Encoding.startStageDone _ | .startStageTimeout .. => Encoding.startStageTimeout _
  | .clockThrottle .. => Encoding.clockThrottle _ | .thermalTrip => Encoding.thermalTrip
  | .mgmtLinkLoss => Encoding.mgmtLinkLoss | .ptpMessage .. => Encoding.ptpMessage _ | .sampleTick .. => Encoding.sampleTick _
  | .counterRotate .. => Encoding.counterRotate _ _ _ | .scstop .. => Encoding.scstop _ | .scresume .. => Encoding.scresume _
  | .partWrite .. => Encoding.partWrite _ _ _ | .freezeClear .. => Encoding.freezeClear _ _ _
  | .elogRead .. => Encoding.elogRead _ _ _ _ | .portEnable .. => Encoding.portEnable _ _ _
  | .linkReset .. => Encoding.linkReset _ _ | .imageLoad .. => Encoding.imageLoad _ _ _
  | .minimalClear .. => Encoding.minimalClear _ | .partSwapOut .. => Encoding.partSwapOut _ _
  | .partSwapIn .. => Encoding.partSwapIn _ _ | .partDestroy .. => Encoding.partDestroy _ _
  | .ownerSet .. => Encoding.ownerSet _ _ | .keyLoad .. => Encoding.keyLoad _ _ _ | .getVersion => Encoding.getVersion
  | .getCapabilities => Encoding.getCapabilities | .negotiateAlgorithms .. => Encoding.negotiateAlgorithms _
  | .getDigests => Encoding.getDigests | .getCertificate .. => Encoding.getCertificate _
  | .challenge .. => Encoding.challenge _ _ | .getMeasurements .. => Encoding.getMeasurements _
  | .keyExchange .. => Encoding.keyExchange _ _ | .finish .. => Encoding.finish _ _ | .keyUpdate .. => Encoding.keyUpdate _
  | .endSession .. => Encoding.endSession _ | .getEncapsulatedRequest .. => Encoding.getEncapsulatedRequest _
  | .deliverEncapsulatedResponse .. => Encoding.deliverEncapsulatedResponse _ _ _
  | .spdmUnsupported .. => Encoding.spdmUnsupported _ | .doeUnsupported .. => Encoding.doeUnsupported _
  | .debugNonce .. => Encoding.debugNonce _ | .debugToken .. => Encoding.debugToken _ | .fetchTrap .. => Encoding.fetchTrap _
  | .mooredFaultService .. => Encoding.mooredFaultService _ _ | .holdSignal .. => Encoding.holdSignal _ _ _
  | .statusTimeUpdate .. => Encoding.statusTimeUpdate _ | .mgmtRequestReject .. => Encoding.mgmtRequestReject _ _ _

/-- Settles O3: the decoders run on the words. -/
theorem specWordsDecode : Obligations.SpecWordsDecode := ⟨rfl, rfl, rfl, rfl, rfl, rfl, rfl, rfl⟩

end Sys2Proof.Laws.Encoding
end

section
/-! SUPPORT. Slot-0 instructions that only land a result (10 R268-R276), and the state after reset. -/

namespace Sys2Proof.Machine

theorem boolWord_eq (b : Bool) : boolWord b = if b = true then BitVec.allOnes 64 else 0 := rfl

/-- A slot that nothing blocks and that cannot stop does its act. -/
theorem finish_runSlot_act (p : Pred) (rs : List Reg) (act : State → State) (s : State) (h : s.Runs p rs) :
    finish (runSlot p rs noBlock fun s => .ok (act s)) s = .next (act s.clear).done :=
  finish_runSlot p rs noBlock _ s _ h rfl rfl

theorem execNop_next (s : State) : execNop s = .next s.clear.done := finish_ok _ s _ rfl

theorem execBprep_lands (p : Pred) (bt : BitVec 4) (target : BitVec 14) (s : State) (h : s.Runs p []) :
    execBprep p bt target s = .next (s.clear.landB (bt.setWidth 3) target).done :=
  finish_runSlot_act p _ _ s h

theorem execBpreps_lands (p : Pred) (bt : BitVec 4) (a : BitVec 6) (s : State) (h : s.Runs p [.s a]) :
    execBpreps p bt a s = .next (s.clear.landB (bt.setWidth 3) ((s.cx.rs a).setWidth 14)).done :=
  finish_runSlot_act p _ (fun s => s.landB (bt.setWidth 3) ((s.cx.rs a).setWidth 14)) s h

theorem execVany_lands (p : Pred) (pd ps : BitVec 5) (s : State) (h : s.Runs p [.p ps]) :
    execVany p pd ps s =
      .next (s.clear.landP .pred pd (if s.cx.rp ps = 0 then 0 else BitVec.allOnes 64)).done := by
  refine (finish_runSlot_act p _ (fun s => s.landP .pred pd (boolWord (s.cx.rp ps != 0))) s h).trans ?_
  simp only [boolWord_eq, bne_iff_ne, ite_not, clear_cx]

theorem execVall_lands (p : Pred) (pd ps : BitVec 5) (s : State) (h : s.Runs p [.p ps]) :
    execVall p pd ps s =
      .next (s.clear.landP .pred pd (if s.cx.rp ps = BitVec.allOnes 64 then BitVec.allOnes 64 else 0)).done := by
  refine (finish_runSlot_act p _ (fun s => s.landP .pred pd (boolWord (s.cx.rp ps == BitVec.allOnes 64))) s h).trans ?_
  simp only [boolWord_eq, beq_iff_eq, clear_cx]

theorem execSetfmt_lands (p : Pred) (val mask : BitVec 6) (s : State) (h : s.Runs p []) :
    execSetfmt p val mask s = .next (s.clear.setFmt val mask).done :=
  finish_runSlot_act p _ _ s h

theorem execSetfmtScalar_lands (p : Pred) (a mask : BitVec 6) (s : State) (h : s.Runs p [.s a]) :
    execSetfmtScalar p a mask s = .next (s.clear.setFmt ((s.cx.rs a).setWidth 6) mask).done :=
  finish_runSlot_act p _ (fun s => s.setFmt ((s.cx.rs a).setWidth 6) mask) s h

theorem execPmark_lands (p : Pred) (marker : BitVec 16) (s : State) (h : s.Runs p []) :
    execPmark p marker s = .next (s.clear.landF .salu (.sys 0x005) (marker.setWidth 2048) 0 0 0).done :=
  finish_runSlot_act p _ _ s h

/-- Settles O10: each instruction's landed result by its lemma. -/
theorem controlMovesComplete : Obligations.ControlMovesComplete :=
  fun s p bt target a pd ps val mask marker =>
    ⟨execNop_next s, execBprep_lands p bt target s, execBpreps_lands p bt a s, execVany_lands p pd ps s,
      execVall_lands p pd ps s, execSetfmt_lands p val mask s, execSetfmtScalar_lands p a mask s, execPmark_lands p marker s⟩

/-! Reset: every table is empty, so every entry is its default. -/

theorem core_reset (n : Nat) : State.reset.core n = Core.reset := rfl

theorem ctxAt_reset (n : Nat) (i : BitVec 2) : State.reset.ctxAt n i = Context.reset :=
  Vector.getElem_replicate i.isLt

theorem part_reset (n : Nat) : State.reset.part n = 0 := rfl

theorem read_reset (a : Nat) : Mem.read State.reset.mem a = 0 := rfl

theorem partState_zero : Part.state 0 = 0 := by
  show fld (0#2048).toNat 0 2 = 0
  rw [BitVec.toNat_zero, fld_below 0 0 2 Nat.one_pos]

/-- Settles O9: what the defaults of the empty tables hold. -/
theorem resetLeavesTheNodeEmpty : Obligations.ResetLeavesTheNodeEmpty := by
  refine ⟨fun n i => ?_, fun n => ?_, fun n => ?_, read_reset, rfl, rfl, rfl, fun _ => rfl⟩
  · rw [ctxAt_reset]
    exact ⟨rfl, rfl⟩
  · rw [core_reset]
    exact ⟨rfl, rfl⟩
  · rw [part_reset, partState_zero]

end Sys2Proof.Machine
end

section
/-! SUPPORT. Scalar floating point (04 R106-R110): what each form of slot 1 lands, with the flags that land with it (03 R94). -/

namespace Sys2Proof.Machine

/-- An operation of two registers under FMT (04 R106). -/
theorem scalarFp_lands (f : Fmt → BitVec 6 → Nat → Nat → Nat × Flag5) (p : Pred) (d a b : BitVec 6) (t : BitVec 4) (s : State)
    (h : s.Runs p [.s a, .s b]) :
    scalarFp f p d a b t s =
      .next (s.clear.landFp .smul d (f (fmtOf t.toNat) s.cx.fmt (s.cx.rs a).toNat (s.cx.rs b).toNat)).done :=
  finish_runSlot_act p _
    (fun u => u.landFp .smul d (f (fmtOf t.toNat) u.cx.fmt (u.cx.rs a).toNat (u.cx.rs b).toNat)) s h

theorem execFfma_lands (p : Pred) (d a b c : BitVec 6) (t : BitVec 4) (s : State) (h : s.Runs p [.s a, .s b, .s c]) :
    execFfma p d a b c t s = .next (s.clear.landFp .smul d
      (fFma (fmtOf t.toNat) s.cx.fmt (s.cx.rs a).toNat (s.cx.rs b).toNat (s.cx.rs c).toNat)).done :=
  finish_runSlot_act p _ (fun u => u.landFp .smul d
    (fFma (fmtOf t.toNat) u.cx.fmt (u.cx.rs a).toNat (u.cx.rs b).toNat (u.cx.rs c).toNat)) s h

/-- A minimum or maximum lands no flag (04 R107). -/
theorem scalarMinMax_lands (wantMax : Bool) (p : Pred) (d a b : BitVec 6) (num : BitVec 8) (t : BitVec 4) (s : State)
    (h : s.Runs p [.s a, .s b]) :
    scalarMinMax wantMax p d a b num t s = .next (s.clear.landFp .salu d
      (fMinMax (fmtOf t.toNat) (num == 1) wantMax (s.cx.rs a).toNat (s.cx.rs b).toNat, 0)).done :=
  finish_runSlot_act p _ (fun u => u.landFp .salu d
    (fMinMax (fmtOf t.toNat) (num == 1) wantMax (u.cx.rs a).toNat (u.cx.rs b).toNat, 0)) s h

/-- A comparison of two registers writes all ones where it holds and 0 where it does not (04 R101, R108). -/
theorem scalarPred_lands (f : Word → Word → Bool) (p : Pred) (d a b : BitVec 6) (s : State) (h : s.Runs p [.s a, .s b]) :
    scalarPred f p d a b s = .next (s.clear.landP .pred (d.setWidth 5)
      (if f (s.cx.rs a) (s.cx.rs b) then BitVec.allOnes 64 else 0)).done := by
  refine (finish_runSlot_act p _
    (fun u => u.landP .pred (d.setWidth 5) (boolWord (f (u.cx.rs a) (u.cx.rs b)))) s h).trans ?_
  rw [boolWord_eq, clear_cx]

/-- A conversion lands its flags and, for a reserved T2 element, T2RSV (03 R90, 04 R109). -/
theorem execFcvt_lands (p : Pred) (d a : BitVec 6) (ts td : BitVec 4) (s : State) (h : s.Runs p [.s a]) :
    let r := convert ts.toNat td.toNat s.cx.fmt (s.cx.rs a).toNat
    execFcvt p d a ts td s = .next (s.clear.landF .smul (.s d) ((fcvtWord td.toNat r.1).setWidth 2048) 0 r.2.1
      (if r.2.2 then ckiT2RSV else 0)).done :=
  finish_runSlot_act p _ (fun u =>
    let r := convert ts.toNat td.toNat u.cx.fmt (u.cx.rs a).toNat
    u.landF .smul (.s d) ((fcvtWord td.toNat r.1).setWidth 2048) 0 r.2.1 (if r.2.2 then ckiT2RSV else 0)) s h

theorem execFclass_lands (p : Pred) (d a : BitVec 6) (t : BitVec 4) (s : State) (h : s.Runs p [.s a]) :
    execFclass p d a t s =
      .next (s.clear.landS .salu d (BitVec.ofNat 64 (fClass (fmtOf t.toNat) (s.cx.rs a).toNat))).done :=
  finish_runSlot_act p _ (fun u => u.landS .salu d (BitVec.ofNat 64 (fClass (fmtOf t.toNat) (u.cx.rs a).toNat))) s h

/-- Settles O18: each instruction's landed result by the lemma of its form. -/
theorem scalarFloatsComplete : Obligations.ScalarFloatsComplete := by
  intro s p d a b c num cond t ts td F fm x y res
  refine ⟨fun hab => ⟨?_, ?_, ?_, ?_, ?_, ?_⟩, fun habc => ?_, fun ha => ⟨?_, ?_⟩⟩
  · exact scalarFp_lands fAdd p d a b t s hab
  · exact scalarFp_lands fSub p d a b t s hab
  · exact scalarFp_lands fMul p d a b t s hab
  · exact scalarMinMax_lands false p d a b num t s hab
  · exact scalarMinMax_lands true p d a b num t s hab
  · exact scalarPred_lands (fun v w => condFloat F cond.toNat v.toNat w.toNat) p d a b s hab
  · exact execFfma_lands p d a b c t s habc
  · exact execFcvt_lands p d a ts td s ha
  · exact execFclass_lands p d a t s ha

end Sys2Proof.Machine
end

section
/-! SUPPORT. Scalar integer and predicate instructions (04 R98-R105, R111): what each form of slot 1 lands, the
division of 04 R103 and the bit counts of 04 R102. -/

namespace Sys2Proof.Machine

/-! The forms of slot 1. -/

/-- Two registers (04 R100). -/
theorem scalar2_lands (cls : LatClass) (f : Nat → Word → Word → Int) (p : Pred) (d a b : BitVec 6) (t : BitVec 4) (s : State)
    (h : s.Runs p [.s a, .s b]) :
    scalar2 cls f p d a b t s = .next (s.clear.landS cls d (putT t.toNat (f t.toNat (s.cx.rs a) (s.cx.rs b)))).done :=
  finish_runSlot_act p _ (fun u => u.landS cls d (putT t.toNat (f t.toNat (u.cx.rs a) (u.cx.rs b)))) s h

/-- One register (04 R100). -/
theorem scalar1_lands (cls : LatClass) (f : Nat → Word → Int) (p : Pred) (d a : BitVec 6) (t : BitVec 4) (s : State)
    (h : s.Runs p [.s a]) :
    scalar1 cls f p d a t s = .next (s.clear.landS cls d (putT t.toNat (f t.toNat (s.cx.rs a)))).done :=
  finish_runSlot_act p _ (fun u => u.landS cls d (putT t.toNat (f t.toNat (u.cx.rs a)))) s h

/-- A register and the sign-extended immediate (04 R105). -/
theorem scalarImm_lands (f : Nat → Word → Word → Int) (p : Pred) (d a : BitVec 6) (t : BitVec 4) (imm : BitVec 32) (s : State)
    (h : s.Runs p [.s a]) :
    scalarImm f p d a t imm s =
      .next (s.clear.landS .salu d (putT t.toNat (f t.toNat (s.cx.rs a) (imm.signExtend 64)))).done :=
  finish_runSlot_act p _ (fun u => u.landS .salu d (putT t.toNat (f t.toNat (u.cx.rs a) (imm.signExtend 64)))) s h

/-- Two predicates into a third (04 R111). -/
theorem pred2_lands (f : Word → Word → Word) (p : Pred) (d a b : BitVec 6) (s : State)
    (h : s.Runs p [.p (a.setWidth 5), .p (b.setWidth 5)]) :
    pred2 f p d a b s =
      .next (s.clear.landP .pred (d.setWidth 5) (f (s.cx.rp (a.setWidth 5)) (s.cx.rp (b.setWidth 5)))).done :=
  finish_runSlot_act p _ (fun u => u.landP .pred (d.setWidth 5) (f (u.cx.rp (a.setWidth 5)) (u.cx.rp (b.setWidth 5)))) s h

/-- A predicate into a scalar (04 R111). -/
theorem predToScalar_lands (f : Word → Word) (p : Pred) (d a : BitVec 6) (s : State) (h : s.Runs p [.p (a.setWidth 5)]) :
    predToScalar f p d a s = .next (s.clear.landS .salu d (f (s.cx.rp (a.setWidth 5)))).done :=
  finish_runSlot_act p _ (fun u => u.landS .salu d (f (u.cx.rp (a.setWidth 5)))) s h

/-! Division (04 R103): by zero, the one quotient that does not fit, and every other. -/

theorem divRem_zero (t : Nat) (a : Int) : divRem t a 0 = ((if signedT t then -1 else (2 ^ typeWidth t : Nat) - 1 : Int), a) :=
  if_pos rfl

theorem divRem_overflow {t : Nat} {a b : Int} (h : signedT t = true ∧ a = -(2 ^ (typeWidth t - 1) : Nat) ∧ b = -1) :
    divRem t a b = (a, 0) := by
  have hb : b ≠ 0 := by omega
  rw [divRem, if_neg hb, if_pos h, h.2.1]

theorem divRem_exact {t : Nat} {a b : Int} (hb : b ≠ 0)
    (h : ¬(signedT t = true ∧ a = -(2 ^ (typeWidth t - 1) : Nat) ∧ b = -1)) :
    divRem t a b = (a.tdiv b, a - a.tdiv b * b) := by
  rw [divRem, if_neg hb, if_neg h]

/-- Settles O15: every instruction has the form of two registers; its quotient and remainder are those of `divRem`. -/
theorem integerResultsComplete : Obligations.IntegerResultsComplete := by
  intro s p d a b t h w x y vx vy px n res
  have op (cls : LatClass) (f : Nat → Word → Word → Int) := scalar2_lands cls f p d a b t s h
  have hdiv : exec (.div p d a b t) s = res .sdiv (divRem t.toNat vx vy).1 := op .sdiv opDiv
  have hrem : exec (.rem p d a b t) s = res .sdiv (divRem t.toNat vx vy).2 := op .sdiv opRem
  refine ⟨op .salu opAdd, op .salu opSub, op .salu opAnd, op .salu opOr, op .salu opXor, op .salu opAndn, op .salu opShl,
    op .salu opShr, op .salu opShra, op .salu opRotl, op .salu opMin, op .salu opMax, op .smul opMul, op .smul opMulh,
    fun hy ho => ?_, fun hy => ?_, fun ho => ?_⟩
  · rw [hdiv, hrem, divRem_exact hy ho]
    exact ⟨rfl, rfl⟩
  · rw [hdiv, hrem, hy, divRem_zero]
    exact ⟨rfl, rfl⟩
  · rw [hdiv, hrem, divRem_overflow ho]
    exact ⟨rfl, rfl⟩

/-! Bit counts (04 R102). -/

theorem clzFrom_zero (n : Nat) : clzFrom 0 n = n := by
  induction n with
  | zero => rfl
  | succ n ih => rw [clzFrom, Nat.zero_testBit, ih, if_neg Bool.false_ne_true, Nat.add_comm]

theorem ctzFrom_zero (n : Nat) : ctzFrom 0 n = n := by
  induction n with
  | zero => rfl
  | succ n ih => rw [ctzFrom, Nat.zero_mod, Nat.zero_div, ih, if_neg Nat.zero_ne_one, Nat.add_comm]

/-- A number whose top bit is clear fits in the bits below it. -/
theorem lt_two_pow_of_top_clear {x n : Nat} (h : x < 2 ^ (n + 1)) (hb : ¬x.testBit n = true) : x < 2 ^ n := by
  refine Nat.lt_pow_two_of_testBit x fun i hi => ?_
  rcases Nat.eq_or_lt_of_le hi with rfl | hi
  · exact eq_false_of_ne_true hb
  · exact Nat.testBit_lt_two_pow (Nat.lt_of_lt_of_le h (Nat.pow_le_pow_right Nat.two_pos hi))

/-- The highest set bit of a number below 2^n stands right below its leading zeros. -/
theorem clzFrom_bounds {x n : Nat} (h0 : x ≠ 0) (h : x < 2 ^ n) : 2 ^ (n - 1 - clzFrom x n) ≤ x ∧ x < 2 ^ (n - clzFrom x n) := by
  induction n with
  | zero => omega
  | succ n ih =>
    unfold clzFrom
    split
    case isTrue hb => exact ⟨Nat.ge_two_pow_of_testBit hb, h⟩
    case isFalse hb =>
      have := ih (lt_two_pow_of_top_clear h hb)
      rwa [show n + 1 - 1 - (1 + clzFrom x n) = n - 1 - clzFrom x n by omega,
        show n + 1 - (1 + clzFrom x n) = n - clzFrom x n by omega]

/-- The lowest set bit of a number below 2^n stands right above its trailing zeros. -/
theorem ctzFrom_divides {x n : Nat} (h0 : x ≠ 0) (h : x < 2 ^ n) : x % 2 ^ ctzFrom x n = 0 ∧ x / 2 ^ ctzFrom x n % 2 = 1 := by
  induction n generalizing x with
  | zero => omega
  | succ n ih =>
    unfold ctzFrom
    split
    case isTrue hb => exact ⟨Nat.mod_one x, by rwa [Nat.pow_zero, Nat.div_one]⟩
    case isFalse hb =>
      obtain ⟨hz, ho⟩ := ih (x := x / 2) (by omega) (by omega)
      rw [Nat.add_comm 1, Nat.pow_succ', ← Nat.div_div_eq_div_mul, Nat.mod_mul, hz]
      exact ⟨by omega, ho⟩

theorem popFrom_eq_length (x n : Nat) : popFrom x n = ((List.range n).filter fun i => x.testBit i).length := by
  induction n generalizing x with
  | zero => rfl
  | succ n ih =>
    have hs : (fun i => x.testBit i) ∘ Nat.succ = fun i => (x / 2).testBit i := funext fun i => Nat.testBit_succ x i
    rw [popFrom, ih, List.range_succ_eq_map, List.filter_cons, List.filter_map, hs, Nat.testBit_zero]
    rcases Nat.mod_two_eq_zero_or_one x with h | h <;> simp [h, Nat.add_comm]

/-- Settles O16: the forms of slot 1, and the counts by their bounds. -/
theorem bitCountsAndSelectsComplete : Obligations.BitCountsAndSelectsComplete := by
  intro s p d a b c k cond t w x y px vx vy res
  have hpx : px < 2 ^ w := Nat.mod_lt _ (Nat.two_pow_pos w)
  refine ⟨fun ha => ?one, fun hab => ⟨?addsh, ?cmp⟩, fun habc => ?sel, fun h0 => ?zero,
    fun h0 => ⟨(clzFrom_bounds h0 hpx).1, (clzFrom_bounds h0 hpx).2, ctzFrom_divides h0 hpx⟩, popFrom_eq_length px w⟩
  case one =>
    have op (f : Nat → Word → Int) := scalar1_lands .salu f p d a t s ha
    exact ⟨op opClz, op opCtz, op opPopc, op opVal, op opVal⟩
  case addsh =>
    exact scalar2_lands .salu (fun t x y => valT t x.toNat + valT t y.toNat * (2 ^ k.toNat : Nat)) p d a b t s hab
  case cmp =>
    exact scalarPred_lands (fun x y => condInt cond.toNat (valT t.toNat x.toNat) (valT t.toNat y.toNat)) p d a b s hab
  case sel =>
    exact finish_runSlot_act p _
      (fun u => u.landS .salu d (if (u.cx.rp (c.setWidth 5)).getLsbD 0 then u.cx.rs a else u.cx.rs b)) s habc
  case zero =>
    rw [h0]
    exact ⟨clzFrom_zero w, ctzFrom_zero w⟩

/-! Immediates (04 R105). -/

/-- The shifts count by the immediate as it stands. -/
theorem shCount_setWidth (t : Nat) (imm : BitVec 32) : shCount t (imm.setWidth 64) = imm.toNat % typeWidth t := by
  rw [shCount, BitVec.toNat_setWidth_of_le (by decide)]

/-- MOVHI's word: the immediate above the low half of the register. -/
theorem low_or_shifted_eq_append (x : Word) (imm : BitVec 32) :
    ((x &&& 0xFFFFFFFF) ||| (imm.setWidth 64 <<< 32) : Word) = imm ++ x.setWidth 32 := by
  have hm : ∀ i < 64, (0xFFFFFFFF : Word).getLsbD i = decide (i < 32) := by decide
  refine BitVec.eq_of_getLsbD_eq fun i hi => ?_
  simp only [BitVec.getLsbD_or, BitVec.getLsbD_and, BitVec.getLsbD_shiftLeft, BitVec.getLsbD_setWidth, BitVec.getLsbD_append]
  grind

/-- Settles O17: each instruction's landed result by the lemma of its form. -/
theorem immediateResultsComplete : Obligations.ImmediateResultsComplete := by
  intro s p d a t cond imm w x y vx vy n res
  refine ⟨fun ha => ?_, fun h => finish_runSlot_act p _ (fun u => u.landS .salu d (putT t.toNat vy)) s h⟩
  have op (f : Nat → Word → Word → Int) := scalarImm_lands f p d a t imm s ha
  have hn : n = shCount t.toNat (imm.setWidth 64) := (shCount_setWidth t.toNat imm).symm
  refine ⟨op opAdd, op opAnd, op opOr, op opXor, ?shli, ?shri, ?shrai, ?movhi, ?cmpi⟩
  case shli =>
    rw [hn]
    exact op fun t x _ => opShl t x (imm.setWidth 64)
  case shri =>
    rw [hn]
    exact op fun t x _ => opShr t x (imm.setWidth 64)
  case shrai =>
    rw [hn]
    exact op fun t x _ => opShra t x (imm.setWidth 64)
  case movhi =>
    rw [← low_or_shifted_eq_append]
    exact finish_runSlot_act p _ (fun u => u.landS .salu d ((u.cx.rs a &&& 0xFFFFFFFF) ||| (imm.setWidth 64 <<< 32))) s ha
  case cmpi =>
    rw [← boolWord_eq]
    exact finish_runSlot_act p _ (fun u => u.landP .pred (d.setWidth 5)
      (boolWord (condInt cond.toNat (valT t.toNat (u.cx.rs a).toNat) vy))) s ha

/-- Settles O19: each instruction's landed result by the lemma of its form. -/
theorem predicatesComplete : Obligations.PredicatesComplete := by
  intro s p d a b x y res
  refine ⟨fun hab => ?two, fun ha => ?toScalar,
    fun ha => finish_runSlot_act p _ (fun u => u.landP .pred (d.setWidth 5) (u.cx.rs a)) s ha⟩
  case two =>
    have op (f : Word → Word → Word) := pred2_lands f p d a b s hab
    exact ⟨op (· &&& ·), op (· ||| ·), op (· ^^^ ·), op fun x y => x &&& ~~~y⟩
  case toScalar =>
    have op (f : Word → Word) := predToScalar_lands f p d a s ha
    exact ⟨op fun x => BitVec.ofNat 64 (popFrom x.toNat 64), op fun x => BitVec.ofNat 64 (ctzFrom x.toNat 64), op id⟩

end Sys2Proof.Machine
end

section
/-! SUPPORT. System moves (04 R112, 15 R407): what time brings before a MOVSYS reads, and the choice that one of SYS.TLBI
draws (07 R201). -/

namespace Sys2Proof.Machine

/-- The end of an invalidation changes the TLBs and SYS.TLBI alone. -/
theorem tlbiDone_only (s : State) (part : Nat) : ∃ v l, s.tlbiDone part = { s with tlbi := v, tlb := l } := by
  unfold State.tlbiDone
  dsimp only
  split
  · exact ⟨s.tlbi, s.tlb, rfl⟩
  · split <;> exact ⟨_, _, rfl⟩

/-- A poll draws whether the invalidation has ended. -/
theorem pollTlbi_only (s : State) (part : Nat) :
    ∃ v l, s.pollTlbi part = { s with tlbi := v, tlb := l, draws := s.draws + 1 } := by
  have hc : (s.choose [true, false]).2 = { s with draws := s.draws + 1 } := rfl
  unfold State.pollTlbi
  split
  case h_1 u hu =>
    rw [hu] at hc
    subst hc
    exact tlbiDone_only _ part
  case h_2 u _ hu =>
    rw [hu] at hc
    exact ⟨s.tlbi, s.tlb, hc⟩

/-- Time that passes brings SYS.CCYC on, by a draw. -/
theorem tickCcyc_only (s : State) (n : Nat) :
    ∃ v, s.tickCcyc n = ({ s with draws := s.draws + 1 } : State).setCore n { s.core n with ccyc := v } :=
  ⟨_, rfl⟩

/-- The state whose register a MOVSYS reads: SYS.CCYC has moved on, the invalidation of SYS.TLBI may have ended. -/
def State.beforeRead (s : State) (num : BitVec 32) : State :=
  if num = 0x120 then s.tickCcyc s.cur.core else if num = 0x036 then s.pollTlbi s.myPart else s

/-- A MOVSYS of a register that may be read reads that state. -/
theorem execMovsys_reads (p : Pred) (d : BitVec 6) (num : BitVec 32) (s : State) (i : SysInfo) (h : s.Runs p [])
    (hi : sysInfo s.onControl num.toNat = some i) (hs : i.readSvc = true → s.cx.svc = true) :
    let u := s.clear.beforeRead num
    execMovsys p d num s = .next (u.landS .sysrd d (u.sysRead num.toNat)).done := by
  refine finish_runSlot p [] noBlock _ s _ h rfl ?_
  have hi' : sysInfo s.clear.onControl num.toNat = some i := hi
  have hr : ¬(i.readSvc = true ∧ (!s.clear.cx.svc) = true) := by
    rw [clear_cx]
    rintro ⟨hr, hn⟩
    simp [hs hr] at hn
  simp only [hi', if_neg hr]
  rfl

theorem landS_draws (s : State) (cls : LatClass) (d : BitVec 6) (x : Word) : (s.landS cls d x).draws = s.draws := by
  obtain h | ⟨l, h⟩ := landS_cases s cls d x <;> rw [h]
  rfl

/-- A context in service mode with nothing pending. -/
def serviceMode : State := State.reset.setCx { Context.reset with svc := true }

theorem serviceMode_svc : serviceMode.cx.svc = true := by rw [serviceMode, cx_setCx]

theorem serviceMode_runs : serviceMode.Runs ⟨false, 31⟩ [] := ⟨rfl, rfl, fun _ => rfl⟩

/-- Refutes O20: SYS.CCYC is not the only register whose read changes more than its destination; a MOVSYS of SYS.TLBI in
service mode also draws whether the invalidation has ended (07 R201). -/
theorem not_systemMovesCompleteOrTrap : ¬Obligations.SystemMovesCompleteOrTrap := by
  intro h
  obtain ⟨v, l, hpoll⟩ := pollTlbi_only serviceMode.clear serviceMode.clear.myPart
  have hsys : sysInfo serviceMode.onControl (0x036 : BitVec 32).toNat = some ⟨true, .service⟩ := rfl
  have hread := ((h serviceMode ⟨false, 31⟩ 1 0 0x036).1 serviceMode_runs).1 _ hsys (fun _ => serviceMode_svc) (by decide)
  have hrun := execMovsys_reads ⟨false, 31⟩ 1 0x036 serviceMode _ serviceMode_runs hsys fun _ => serviceMode_svc
  have hdraws := congrArg State.draws (Host.Outcome.next.inj (hrun.symm.trans hread))
  rw [done_draws, done_draws, landS_draws, landS_draws, show serviceMode.clear.beforeRead 0x036 = _ from hpoll] at hdraws
  exact absurd hdraws (Nat.succ_ne_self _)

end Sys2Proof.Machine
end

section
/-! SUPPORT. Vector instructions between registers and streams (04 R113-R133): what each form of slots 3 and 4 lands, and that
a slot with no active lane does nothing. -/

namespace Sys2Proof.Machine

/-! The forms of slots 3 and 4. -/

/-- A vector slot that nothing blocks and that cannot stop does its act on its sources' rows. -/
theorem finish_runVec_act (p : Pred) (srcs : List (BitVec 6)) (regs : List Reg) (dst : Option (BitVec 6))
    (keptP : Option (BitVec 5)) (keeps : Word → Bool) (act : Word → List VReg → State → State) (s : State)
    (h : s.RunsVec p srcs regs dst keptP keeps) :
    finish (runVec p srcs regs dst keptP keeps noBlock fun m vs u => .ok (act m vs u)) s =
      .next (act (s.mask p) (s.vals srcs) (s.clear.popped srcs)).done :=
  finish_runVec p srcs regs dst keptP keeps noBlock _ s _ h rfl rfl

/-- One source, element by element (04 R118). -/
theorem vec1_lands (cls : LatClass) (w : Nat) (f : BitVec 6 → Nat → Nat × Flag5) (p : Pred) (d a : BitVec 6) (s : State)
    (h : s.RunsVec p [a] [] (some d) none maskKeeps) :
    vec1 cls w f p d a s = .next ((s.clear.popped [a]).landElems cls d w (elemOn (s.mask p) w)
      (fun j => f s.cx.fmt (elem (s.row a) w j)) 0).done := by
  refine (finish_runVec_act p _ _ _ _ _ _ s h).trans ?_
  simp only [popped_fmt, clear_cx]
  rfl

/-- Two sources, element by element. -/
theorem vec2_lands (cls : LatClass) (w : Nat) (f : BitVec 6 → Nat → Nat → Nat × Flag5) (p : Pred) (d a b : BitVec 6) (s : State)
    (h : s.RunsVec p [a, b] [] (some d) none maskKeeps) :
    vec2 cls w f p d a b s = .next ((s.clear.popped [a, b]).landElems cls d w (elemOn (s.mask p) w)
      (fun j => f s.cx.fmt (elem (s.row a) w j) (elem (s.row b) w j)) 0).done := by
  refine (finish_runVec_act p _ _ _ _ _ _ s h).trans ?_
  simp only [popped_fmt, clear_cx]
  rfl

/-- Three sources, element by element. -/
theorem vec3_lands (cls : LatClass) (w : Nat) (f : BitVec 6 → Nat → Nat → Nat → Nat × Flag5) (p : Pred) (d a b c : BitVec 6)
    (s : State) (h : s.RunsVec p [a, b, c] [] (some d) none maskKeeps) :
    vec3 cls w f p d a b c s = .next ((s.clear.popped [a, b, c]).landElems cls d w (elemOn (s.mask p) w)
      (fun j => f s.cx.fmt (elem (s.row a) w j) (elem (s.row b) w j) (elem (s.row c) w j)) 0).done := by
  refine (finish_runVec_act p _ _ _ _ _ _ s h).trans ?_
  simp only [popped_fmt, clear_cx]
  rfl

/-- A comparison of two sources lands predicate bits (04 R118). -/
theorem vecBits_lands (f : Nat → Nat → Bool) (p : Pred) (d a b : BitVec 6) (s : State)
    (h : s.RunsVec p [a, b] [] none (some (d.setWidth 5)) maskKeeps) :
    vecBits f p d a b s = .next ((s.clear.popped [a, b]).landBits .valu (d.setWidth 5) (s.mask p)
      fun j => f (elem (s.row a) 32 j) (elem (s.row b) 32 j)).done :=
  finish_runVec_act p _ _ _ _ _ _ s h

/-- A conversion (04 R125). -/
theorem vecCvt_lands (ts td part : Nat) (f : State → Nat → Nat × Flag5) (regs : List Reg) (p : Pred) (d a : BitVec 6) (s : State)
    (h : s.RunsVec p [a] regs (some d) none (if typeWidth td < typeWidth ts then alwaysKeeps else maskKeeps)) :
    let u := s.clear.popped [a]
    vecCvt ts td part f regs p d a s = .next (u.landElems .vfma d (typeWidth td)
      (fun j => elemOn (s.mask p) (typeWidth td) j && cvtWrites (typeWidth ts) (typeWidth td) part j)
      (fun j => f u (elem (s.row a) (typeWidth ts) (cvtSource (typeWidth ts) (typeWidth td) part j))) 0).done :=
  finish_runVec_act p _ _ _ _ _ _ s h

/-- Saturation is asked for by the instruction's bit (04 R119). -/
theorem vintSat_eq (t : Nat) (sat : BitVec 8) (f : Int → Int → Int) (fm : BitVec 6) (x y : Nat) :
    vintSat t (sat == 1) f fm x y =
      (lowBits (typeWidth t) (if sat = 1 then (saturate t (f (valT t x) (valT t y))).1 else f (valT t x) (valT t y)), 0) := by
  simp only [vintSat, beq_iff_eq]

/-- Settles O27: each instruction's elements by the lemma of its form. -/
theorem vectorIntegersComplete : Obligations.VectorIntegersComplete := by
  intro s p d a b sat cond t w A B val low clip u res
  refine ⟨fun hab => ?two, fun ha => ?abs, fun hab => ?cmp⟩
  case two =>
    have op (cls : LatClass) (w : Nat) (f : BitVec 6 → Nat → Nat → Nat × Flag5) := vec2_lands cls w f p d a b s hab
    have opSat (f : Int → Int → Int) : vec2 .valu w (vintSat t.toNat (sat == 1) f) p d a b s =
        res .valu w fun j => low (clip (f (val (A j)) (val (B j)))) := by
      rw [op]
      simp only [vintSat_eq]
      rfl
    exact ⟨opSat (· + ·), opSat (· - ·), op .vfma w (vint t.toNat (· * ·)),
      op .vfma w (vint t.toNat fun x y => x * y / (2 ^ w : Nat)),
      op .valu w fun _ x y => (x * 2 ^ (y % w) % 2 ^ w, 0),
      op .valu w fun _ x y => (x / 2 ^ (y % w), 0),
      op .valu w fun _ x y => (low (val x / (2 ^ (y % w) : Nat)), 0),
      op .valu w (vint t.toNat min), op .valu w (vint t.toNat max),
      op .valu 32 fun _ x y => (x &&& y, 0), op .valu 32 fun _ x y => (x ||| y, 0), op .valu 32 fun _ x y => (x ^^^ y, 0)⟩
  case abs =>
    refine (vec1_lands .valu w (fun fm x => vintSat t.toNat (sat == 1) (fun u _ => if u < 0 then -u else u) fm x x) p d a s
      ha).trans ?_
    simp only [vintSat_eq]
    rfl
  case cmp =>
    exact vecBits_lands (fun x y => condInt cond.toNat (val x) (val y)) p d a b s hab

/-- Settles O28: each instruction's elements on the rows of its sources. -/
theorem vectorSelectsAndWidthsComplete : Obligations.VectorSelectsAndWidthsComplete := by
  intro s p d a b c sat uns part t w m
  refine ⟨fun h => ?sel, vec3_lands .vfma 32 (fun _ x y z => (dot4 t.toNat (sat == 1) x y z, 0)) p d a b c s,
    fun h => ⟨?satn, ?pack⟩, fun h => ⟨?widen, ?unpack⟩, fun h => ?packT2⟩
  case sel =>
    refine (finish_runVec_act p _ _ _ _ _ _ s h).trans ?_
    simp only [popped_rp, clear_cx]
    rfl
  all_goals exact finish_runVec_act p _ _ _ _ _ _ s h

/-- Settles O29: each instruction's elements by the lemma of its form. -/
theorem vectorFloatsComplete : Obligations.VectorFloatsComplete := by
  intro s p d a b c k num cond t ts td part w F fm m A B S u u1 two one cvt keeps
  refine ⟨fun h => ?two, vec3_lands .vfma w (fun fm x y z => fFma F fm x y z) p d a b c s,
    vecBits_lands (condFloat fp32 cond.toNat) p d a b s, fun h => ?one, fun h => ?cvt, fun h => ?quant, fun h => ?deq⟩
  case two =>
    have op (cls : LatClass) (f : BitVec 6 → Nat → Nat → Nat × Flag5) := vec2_lands cls w f p d a b s h
    exact ⟨op .vfma (fAdd F), op .vfma (fSub F), op .vfma (fMul F),
      op .valu fun _ x y => (fMinMax F (num == 1) false x y, 0), op .valu fun _ x y => (fMinMax F (num == 1) true x y, 0)⟩
  case one =>
    have op (cls : LatClass) (f : BitVec 6 → Nat → Nat × Flag5) := vec1_lands cls 32 f p d a s h
    exact ⟨op .vtrans fRcp, op .vtrans fRsq, op .vtrans fExp2, op .vtrans fLog2, op .valu fun _ x => (fClass fp32 x, 0)⟩
  case cvt =>
    refine (vecCvt_lands ts.toNat td.toNat part.toNat (fun v x =>
      ((convert ts.toNat td.toNat v.cx.fmt x).1, (convert ts.toNat td.toNat v.cx.fmt x).2.1)) [] p d a s h).trans ?_
    simp only [popped_fmt, clear_cx]
    rfl
  case quant =>
    refine (vecCvt_lands 8 td.toNat part.toNat (fun v x =>
      convertScaled 8 td.toNat v.cx.fmt x (v.cx.rk (k.setWidth 3)).toNat) _ p d a s h).trans ?_
    simp only [popped_fmt, popped_rk, clear_cx]
    rfl
  case deq =>
    refine (vecCvt_lands ts.toNat 8 part.toNat (fun v x =>
      convertScaled ts.toNat 8 v.cx.fmt x (v.cx.rk (k.setWidth 3)).toNat) _ p d a s h).trans ?_
    simp only [popped_fmt, popped_rk, clear_cx]
    rfl

/-- Settles O30: each instruction's row or lanes on the rows of its sources. -/
theorem laneOperationsComplete : Obligations.LaneOperationsComplete := by
  intro s p d a b c op n ln t m A u1 u0
  refine ⟨fun h => ⟨?red, ?compress⟩, fun h => ?perm, fun h => ?slide, fun h => ?bcast, fun h => ⟨?bcastLane, ?expand⟩,
    fun h => ?iota, fun h => ?countge, fun hon h => ?movvs, fun hon h => ?movsv⟩
  case compress | perm | slide | bcastLane | expand => exact finish_runVec_act p _ _ _ _ _ _ s h
  case red | bcast | iota | countge =>
    refine (finish_runVec_act p _ _ _ _ _ _ s h).trans ?_
    simp only [popped_fmt, popped_rs, clear_cx]
    rfl
  case movvs =>
    exact (if_pos hon).trans (finish_runVec_act p _ _ _ _ _ _ s h)
  case movsv =>
    refine (if_pos hon).trans ((finish_runVec_act p _ _ _ _ _ _ s h).trans ?_)
    simp only [popped_rs, clear_cx]
    rfl

/-! No active lane (04 R113). -/

/-- A vector slot with no active lane and a readable predicate does nothing, whatever it would do. -/
theorem runVec_off (p : Pred) (srcs : List (BitVec 6)) (regs : List Reg) (dst : Option (BitVec 6))
    (keptP : Option (BitVec 5)) (keeps : Word → Bool) (block : State → Option Nat)
    (act : Word → List VReg → State → Except Stop State) (s : State) (hm : s.mask p = 0) (hr : s.CanRead (predReads p)) :
    runVec p srcs regs dst keptP keeps block act s = .ok s := by
  unfold runVec
  simp only [hm, if_true, checkReads_ok s _ hr]

theorem finish_runVec_off (p : Pred) (srcs : List (BitVec 6)) (regs : List Reg) (dst : Option (BitVec 6))
    (keptP : Option (BitVec 5)) (keeps : Word → Bool) (block : State → Option Nat)
    (act : Word → List VReg → State → Except Stop State) (s : State) (hm : s.mask p = 0) (hr : s.CanRead (predReads p)) :
    finish (runVec p srcs regs dst keptP keeps block act) s = .next s.clear.done :=
  finish_ok _ s s.clear (runVec_off p srcs regs dst keptP keeps block act s.clear hm hr)

/-- A vector store is a vector slot whose block cause and act depend on its data. -/
theorem finish_runVecStore_off (p : Pred) (srcs idx : List (BitVec 6)) (regs : List Reg)
    (act : Word → List VReg → State → Except Stop State) (s : State) (hm : s.mask p = 0) (hr : s.CanRead (predReads p)) :
    finish (runVecStore p srcs idx regs act) s = .next s.clear.done := by
  refine finish_ok _ s s.clear ?_
  unfold runVecStore
  exact runVec_off p srcs regs none none neverKeeps _ _ s.clear hm hr

/-- Settles O31: five of the six are vector slots, VST a vector store. -/
theorem noActiveLaneNoEffect : Obligations.NoActiveLaneNoEffect := by
  intro s p d a b x sat t sc off hm hr
  refine ⟨?vadd, ?vcmp, ?vred, ?vld, ?vst, ?txin⟩
  case vst => exact finish_runVecStore_off p [d] [] [.s a, .s x] _ s hm hr
  all_goals exact finish_runVec_off p _ _ _ _ _ _ _ s hm hr

end Sys2Proof.Machine
end

section
/-! SUPPORT. The frame of the instructions between registers (04 R98, R113): a relation that each part of a slot's run meets. -/

namespace Sys2Proof.Machine

/-- What a slot that writes register `r` leaves: memory, the other contexts and its own but for the landing buffer, in which
every new entry is for `r`; the streams too unless it `pops`, and everything beside the contexts where it acts `alone`. -/
structure SlotFrame (alone pops : Prop) (r : Reg) (s t : State) : Prop where
  cur : t.cur = s.cur
  mem : t.mem = s.mem
  others : SameOthers s t
  node : alone → SameNode s t
  context : t.cx = { s.cx with landing := t.cx.landing, streams := t.cx.streams }
  streams : ¬pops → t.cx.streams = s.cx.streams
  landing : ∀ e ∈ t.cx.landing, e ∈ s.cx.landing ∨ e.reg = r

theorem sameNode_trans {s t u : State} (h : SameNode s t) (hu : SameNode t u) : SameNode s u := by
  obtain ⟨hst, hcore⟩ := h
  obtain ⟨htu, hcore'⟩ := hu
  refine ⟨htu.trans ?_, fun n => (hcore' n).trans ?_⟩
  · exact congrArg (fun x : State => { x with cores := u.cores, last := u.last, raised := u.raised }) hst
  · exact congrArg (fun k : Core => { k with ctxs := (u.core n).ctxs }) (hcore n)

theorem sameNode_setCx (s : State) (c : Context) : SameNode s (s.setCx c) := by
  refine ⟨rfl, fun n => ?_⟩
  by_cases hn : n = s.cur.core
  · subst hn
    rw [show (s.setCx c).core s.cur.core = _ from core_setCore s _ _]
    rfl
  · rw [show (s.setCx c).core n = _ from core_setCore_other s _ n _ hn]

section
variable {alone pops : Prop} {r : Reg}

theorem SlotFrame.trans {s t u : State} (h : SlotFrame alone pops r s t) (hu : SlotFrame alone pops r t u) :
    SlotFrame alone pops r s u where
  cur := hu.cur.trans h.cur
  mem := hu.mem.trans h.mem
  others := sameOthers_trans h.others hu.others h.cur
  node ha := sameNode_trans (h.node ha) (hu.node ha)
  context := hu.context.trans
    (congrArg (fun c : Context => { c with landing := u.cx.landing, streams := u.cx.streams }) h.context)
  streams hp := (hu.streams hp).trans (h.streams hp)
  landing e he := (hu.landing e he).elim (h.landing e) .inr

theorem slotFrame_refl (s : State) : SlotFrame alone pops r s s :=
  ⟨rfl, rfl, sameOthers_refl s, fun _ => ⟨rfl, fun _ => rfl⟩, rfl, fun _ => rfl, fun _ => .inl⟩

theorem slotFrame_clear (s : State) : SlotFrame alone pops r s s.clear :=
  ⟨rfl, rfl, sameOthers_refl s, fun _ => ⟨rfl, fun _ => rfl⟩, rfl, fun _ => rfl, fun _ => .inl⟩

theorem slotFrame_done (s : State) : SlotFrame alone pops r s s.done :=
  ⟨rfl, rfl, sameOthers_refl s, fun _ => ⟨rfl, fun _ => rfl⟩, rfl, fun _ => rfl, fun _ => .inl⟩

theorem mem_insertLand {e x : LandEntry} {l : List LandEntry} (h : x ∈ insertLand e l) : x = e ∨ x ∈ l := by
  induction l with
  | nil => exact .inl (List.mem_singleton.mp h)
  | cons y l ih =>
    unfold insertLand at h
    split at h
    · rcases List.mem_cons.mp h with rfl | h
      · exact .inr List.mem_cons_self
      · exact (ih h).imp_right (List.mem_cons_of_mem y)
    · exact List.mem_cons.mp h

theorem slotFrame_setLanding (s : State) {l : List LandEntry} (h : ∀ e ∈ l, e ∈ s.cx.landing ∨ e.reg = r) :
    SlotFrame alone pops r s (s.setCx { s.cx with landing := l }) where
  cur := rfl
  mem := rfl
  others := sameOthers_setCx s _
  node _ := sameNode_setCx s _
  context := by rw [cx_setCx]
  streams _ := by rw [cx_setCx]
  landing := by
    rw [cx_setCx]
    exact h

/-- A landed result adds at most an entry for its register. -/
theorem slotFrame_landF (s : State) (cls : LatClass) (v : BitVec 2048) (c : W32) (f : BitVec 5) (k : BitVec 11) :
    SlotFrame alone pops r s (s.landF cls r v c f k) := by
  unfold State.landF State.landLat
  dsimp only
  split
  · exact slotFrame_refl s
  · exact slotFrame_setLanding s fun e he => (mem_insertLand he).elim (fun h => .inr (h ▸ rfl)) .inl

/-- Pops change the streams alone. -/
theorem foldl_popOne_only (l : List (BitVec 4)) (c : Context) :
    l.foldl Context.popOne c = { c with streams := (l.foldl Context.popOne c).streams } :=
  pops_keep (fun x => { x with streams := (l.foldl Context.popOne c).streams }) (fun _ _ => rfl) l c

theorem slotFrame_popped (s : State) (srcs : List (BitVec 6)) : SlotFrame alone True r s (s.popped srcs) where
  cur := rfl
  mem := rfl
  others := sameOthers_setCx s _
  node _ := sameNode_setCx s _
  context := by
    rw [popped_cx, pops_keep Context.landing (fun _ _ => rfl)]
    exact foldl_popOne_only (popsOf srcs) s.cx
  streams hp := absurd trivial hp
  landing e he := by
    rw [popped_cx, pops_keep Context.landing (fun _ _ => rfl)] at he
    exact .inl he

/-! The acts of the slots, and the slots. -/

/-- Every act that a slot completes has the frame. -/
def ActFrame (alone pops : Prop) (r : Reg) (act : State → Except Stop State) : Prop :=
  ∀ s t, act s = .ok t → SlotFrame alone pops r s t

theorem actFrame_ok {f : State → State} (h : ∀ s, SlotFrame alone pops r s (f s)) :
    ActFrame alone pops r fun s => .ok (f s) := by
  rintro s _ ⟨⟩
  exact h s

theorem actFrame_checkReads (rs : List Reg) : ActFrame alone pops r fun s => (checkReads s rs).map fun _ => s := by
  intro s t h
  dsimp only at h
  cases hc : checkReads s rs <;> rw [hc] at h <;> cases h
  exact slotFrame_refl s

/-- A slot that completes has done nothing, or its act. -/
theorem runSlot_eq_ok {p : Pred} {rs : List Reg} {block : State → Option Nat} {act : State → Except Stop State} {s t : State}
    (h : runSlot p rs block act s = .ok t) : t = s ∨ act s = .ok t := by
  unfold runSlot at h
  split at h
  · split at h
    · cases h
    split at h
    · cases h
    · exact .inr h
  · split at h
    · cases h
    · cases h
      exact .inl rfl

/-- A vector slot that completes has done nothing, or its act on its sources' rows, the pops taken. -/
theorem runVec_eq_ok {p : Pred} {srcs : List (BitVec 6)} {regs : List Reg} {dst : Option (BitVec 6)} {keptP : Option (BitVec 5)}
    {keeps : Word → Bool} {block : State → Option Nat} {act : Word → List VReg → State → Except Stop State} {s t : State}
    (h : runVec p srcs regs dst keptP keeps block act s = .ok t) :
    t = s ∨ act (s.mask p) (s.vals srcs) (s.popped srcs) = .ok t := by
  unfold runVec at h
  dsimp only at h
  split at h
  · split at h
    · cases h
    · cases h
      exact .inl rfl
  iterate 5
    split at h
    · cases h
  split at h
  · exact .inr h
  · cases h

theorem actFrame_runSlot {p : Pred} {rs : List Reg} {block : State → Option Nat} {act : State → Except Stop State}
    (ha : ActFrame alone pops r act) : ActFrame alone pops r (runSlot p rs block act) := by
  intro s t h
  rcases runSlot_eq_ok h with rfl | h
  · exact slotFrame_refl t
  · exact ha s t h

theorem actFrame_runVec {p : Pred} {srcs : List (BitVec 6)} {regs : List Reg} {dst : Option (BitVec 6)}
    {keptP : Option (BitVec 5)} {keeps : Word → Bool} {block : State → Option Nat}
    {act : Word → List VReg → State → Except Stop State} (ha : ∀ m vs, ActFrame alone True r (act m vs)) :
    ActFrame alone True r (runVec p srcs regs dst keptP keeps block act) := by
  intro s t h
  rcases runVec_eq_ok h with rfl | h
  · exact slotFrame_refl t
  · exact (slotFrame_popped s srcs).trans (ha _ _ _ _ h)

/-- A slot that is not stopped has the frame of its body. -/
theorem slotFrame_finish {body : State → Except Stop State} (hb : ActFrame alone pops r body) {s t : State}
    (h : finish body s = .next t) (hl : t.last = none) : SlotFrame alone pops r s t := by
  cases hr : body s.clear with
  | ok u =>
    cases (finish_ok body s u hr).symm.trans h
    exact ((slotFrame_clear s).trans (hb _ _ hr)).trans (slotFrame_done u)
  | error e =>
    cases (finish_stop body s e hr).symm.trans h
    cases hl

end

/-! The instructions. -/

/-- A slot whose act lands one result. -/
theorem slotFrame_of_landF {p : Pred} {rs : List Reg} {block : State → Option Nat} {cls : LatClass} {r : Reg}
    {v : State → BitVec 2048} {c : State → W32} {f : State → BitVec 5} {k : State → BitVec 11} {s t : State}
    (h : finish (runSlot p rs block fun u => .ok (u.landF cls r (v u) (c u) (f u) (k u))) s = .next t)
    (hl : t.last = none) : SlotFrame True False r s t :=
  slotFrame_finish (actFrame_runSlot (actFrame_ok fun u => slotFrame_landF u cls (v u) (c u) (f u) (k u))) h hl

/-- A SETSYS lands in its register, where the number and the mode allow. -/
theorem slotFrame_setsys {p : Pred} {a : BitVec 6} {num : BitVec 32} {s t : State} (h : execSetsys p a num s = .next t)
    (hl : t.last = none) : SlotFrame True False (.sys (num.setWidth 12)) s t := by
  refine slotFrame_finish (actFrame_runSlot fun u v hv => ?_) h hl
  have hland := slotFrame_landF (alone := True) (pops := False) (r := .sys (num.setWidth 12)) u .salu
    ((u.cx.rs a).setWidth 2048) 0 0 0
  split at hv
  · cases hv
  · split at hv
    · cases hv
    · split at hv
      · cases hv
        exact hland
      · cases hv
    · cases hv
      exact hland

/-- Each of the others lands one result. -/
theorem slotFrame_of_scalarDest {i : Instr} {r : Reg} {s t : State} (hr : scalarDest i = some r) (h : exec i s = .next t)
    (hl : t.last = none) : SlotFrame True False r s t := by
  cases i <;> cases hr
  case setsys => exact slotFrame_setsys h hl
  all_goals exact slotFrame_of_landF h hl

/-! Vector instructions. -/

theorem slotFrame_landElems {alone pops : Prop} (s : State) (cls : LatClass) (d : BitVec 6) (w : Nat) (active : Nat → Bool)
    (f : Nat → Nat × Flag5) (k : BitVec 11) : SlotFrame alone pops (dstReg d) s (s.landElems cls d w active f k) :=
  slotFrame_landF s cls _ _ _ _

/-- A slot whose act lands one result. -/
theorem slotFrame_of_vec {p : Pred} {srcs : List (BitVec 6)} {regs : List Reg} {dst : Option (BitVec 6)}
    {keptP : Option (BitVec 5)} {keeps : Word → Bool} {block : State → Option Nat} {cls : LatClass} {r : Reg}
    {v : Word → List VReg → State → BitVec 2048} {c : Word → List VReg → State → W32} {f : Word → List VReg → State → BitVec 5}
    {k : Word → List VReg → State → BitVec 11} {s t : State}
    (h : finish (runVec p srcs regs dst keptP keeps block fun m vs u =>
      .ok (u.landF cls r (v m vs u) (c m vs u) (f m vs u) (k m vs u))) s = .next t)
    (hl : t.last = none) : SlotFrame True True r s t :=
  slotFrame_finish (actFrame_runVec fun m vs => actFrame_ok fun u =>
    slotFrame_landF u cls (v m vs u) (c m vs u) (f m vs u) (k m vs u)) h hl

/-- A slot whose act lands elements of a row. -/
theorem slotFrame_of_elems {p : Pred} {srcs : List (BitVec 6)} {regs : List Reg} {dst : Option (BitVec 6)}
    {keptP : Option (BitVec 5)} {keeps : Word → Bool} {block : State → Option Nat} {cls : LatClass} {d : BitVec 6} {w : Nat}
    {active : Word → Nat → Bool} {f : Word → List VReg → State → Nat → Nat × Flag5} {k : Word → List VReg → State → BitVec 11}
    {s t : State}
    (h : finish (runVec p srcs regs dst keptP keeps block fun m vs u =>
      .ok (u.landElems cls d w (active m) (f m vs u) (k m vs u))) s = .next t)
    (hl : t.last = none) : SlotFrame True True (dstReg d) s t :=
  slotFrame_finish (actFrame_runVec fun m vs => actFrame_ok fun u =>
    slotFrame_landElems u cls d w (active m) (f m vs u) (k m vs u)) h hl

/-- A slot that names one lane reads its predicate alone where that lane is masked off (04 R133). -/
theorem slotFrame_of_lane {c : Prop} [Decidable c] {p : Pred} {r : Reg} {x : Result} {s t : State}
    (hx : x = .next t → SlotFrame True True r s t)
    (h : (if c then x else finish (fun u => (checkReads u (predReads p)).map fun _ => u) s) = .next t) (hl : t.last = none) :
    SlotFrame True True r s t := by
  split at h
  · exact hx h
  · exact slotFrame_finish (actFrame_checkReads _) h hl

/-- Each vector instruction lands elements of a row, but for a few that land a whole row, a predicate or a scalar. -/
theorem slotFrame_of_vectorDest {i : Instr} {r : Reg} {s t : State} (hr : vectorDest i = some r) (h : exec i s = .next t)
    (hl : t.last = none) : SlotFrame True True r s t := by
  cases i <;> cases hr
  case movvs => exact slotFrame_of_lane (slotFrame_of_vec · hl) h hl
  case movsv => exact slotFrame_of_lane (slotFrame_of_elems · hl) h hl
  case vred | vcompress | vcmp | vfcmp | vcountge => exact slotFrame_of_vec h hl
  all_goals exact slotFrame_of_elems h hl

/-! MOVSYS. -/

/-- What time brings before a read touches no context. -/
theorem beforeRead_frame (s : State) (num : BitVec 32) :
    (s.beforeRead num).cur = s.cur ∧ (s.beforeRead num).mem = s.mem ∧ SameOthers s (s.beforeRead num) ∧
      (s.beforeRead num).cx = s.cx := by
  unfold State.beforeRead
  split
  case isTrue =>
    obtain ⟨v, hv⟩ := tickCcyc_only s s.cur.core
    rw [hv]
    exact ⟨rfl, rfl, sameOthers_setCo { s with draws := s.draws + 1 } { s.co with ccyc := v } rfl,
      cx_setCo { s with draws := s.draws + 1 } { s.co with ccyc := v } rfl⟩
  case isFalse =>
    split
    · obtain ⟨v, l, hv⟩ := pollTlbi_only s s.myPart
      rw [hv]
      exact ⟨rfl, rfl, sameOthers_refl s, rfl⟩
    · exact ⟨rfl, rfl, sameOthers_refl s, rfl⟩

theorem slotFrame_beforeRead {r : Reg} (s : State) (num : BitVec 32) :
    SlotFrame (num ≠ 0x120 ∧ num ≠ 0x036) False r s (s.beforeRead num) := by
  obtain ⟨hcur, hmem, hothers, hcx⟩ := beforeRead_frame s num
  refine ⟨hcur, hmem, hothers, fun ⟨hcyc, htlbi⟩ => ?_, by rw [hcx], fun _ => by rw [hcx], fun e he => .inl (hcx ▸ he)⟩
  rw [State.beforeRead, if_neg hcyc, if_neg htlbi]
  exact ⟨rfl, fun _ => rfl⟩

theorem slotFrame_movsys {p : Pred} {d : BitVec 6} {num : BitVec 32} {s t : State} (h : execMovsys p d num s = .next t)
    (hl : t.last = none) : SlotFrame (num ≠ 0x120 ∧ num ≠ 0x036) False (.s d) s t := by
  refine slotFrame_finish (actFrame_runSlot fun u v hv => ?_) h hl
  split at hv
  · cases hv
  · split at hv
    · cases hv
    · cases hv
      exact (slotFrame_beforeRead u num).trans (slotFrame_landF _ _ _ _ _ _)

/-- A frame without pops leaves all of the context but the landing buffer. -/
theorem SlotFrame.context_of_no_pops {alone : Prop} {r : Reg} {s t : State} (h : SlotFrame alone False r s t) :
    t.cx = { s.cx with landing := t.cx.landing } := by
  have hc := h.context
  rwa [h.streams not_false] at hc

theorem SlotFrame.sameMem {alone pops : Prop} {r : Reg} {s t : State} (h : SlotFrame alone pops r s t) : SameMem s t :=
  fun _ => by rw [h.mem]

/-- Settles O57: each kind of instruction has its frame. -/
theorem registerInstructionsFrame : Obligations.RegisterInstructionsFrame := by
  intro i r s t h hl
  refine ⟨fun hr => ?scalar, fun hr => ?vector, fun p d num hi => ?movsys⟩
  case scalar =>
    have hf := slotFrame_of_scalarDest hr h hl
    exact ⟨hf.sameMem, hf.others, hf.node trivial, hf.context_of_no_pops, hf.landing⟩
  case vector =>
    have hf := slotFrame_of_vectorDest hr h hl
    exact ⟨hf.sameMem, hf.others, hf.node trivial, hf.context, hf.landing⟩
  case movsys =>
    subst hi
    have hf := slotFrame_movsys h hl
    exact ⟨hf.sameMem, hf.others, fun hcyc htlbi => hf.node ⟨hcyc, htlbi⟩, hf.context_of_no_pops, hf.landing⟩

end Sys2Proof.Machine
end

section
/-! SUPPORT. Writes of bytes at a physical address: what they leave of memory and of the poison marks (06 R165, R166,
07 R191, R196), and a tile's image read back (05 R153). -/

namespace Sys2Proof.Machine

/-! Bytes and the numbers they spell. -/

theorem writeBytes_append (m : Mem) (a : Nat) (xs ys : List Byte) :
    Mem.writeBytes m a (xs ++ ys) = Mem.writeBytes (Mem.writeBytes m a xs) (a + xs.length) ys := by
  induction xs generalizing m a with
  | nil => rfl
  | cons x xs ih =>
    simp only [List.cons_append, List.length_cons, Mem.writeBytes, ih, Nat.add_assoc, Nat.add_comm 1]

theorem bytes_append (m : Mem) (a n k : Nat) : Mem.bytes m a (n + k) = Mem.bytes m a n ++ Mem.bytes m (a + n) k := by
  induction n generalizing a with
  | zero => simp [Mem.bytes]
  | succ n ih => rw [Nat.succ_add, Mem.bytes, ih, Mem.bytes, List.cons_append, Nat.add_assoc a 1 n, Nat.add_comm 1 n]

@[simp] theorem length_bytes (m : Mem) (a n : Nat) : (Mem.bytes m a n).length = n := by
  induction n generalizing a with
  | zero => rfl
  | succ n ih => rw [Mem.bytes, List.length_cons, ih]

theorem bytes_writeBytes (m : Mem) (a : Nat) (bs : List Byte) : Mem.bytes (Mem.writeBytes m a bs) a bs.length = bs := by
  induction bs generalizing m a with
  | nil => rfl
  | cons b bs ih =>
    have hfirst : Mem.read (Mem.writeBytes (Mem.write m a b) (a + 1) bs) a = b := by
      rw [read_writeBytes_other _ _ _ _ (.inl (Nat.lt_succ_self a)), read_write_same]
    rw [List.length_cons, Mem.bytes, Mem.writeBytes, ih, hfirst]

theorem readLE_eq_ofLE_bytes (m : Mem) (a n : Nat) : Mem.readLE m a n = ofLE (Mem.bytes m a n) := by
  induction n generalizing a with
  | zero => rfl
  | succ n ih => rw [Mem.readLE, Mem.bytes, ofLE, ih]

@[simp] theorem length_leBytes (v n : Nat) : (leBytes v n).length = n := by
  induction n generalizing v with
  | zero => rfl
  | succ n ih => rw [leBytes, List.length_cons, ih]

theorem ofLE_leBytes (v n : Nat) : ofLE (leBytes v n) = v % 256 ^ n := by
  induction n generalizing v with
  | zero => simp [leBytes, ofLE, Nat.mod_one]
  | succ n ih =>
    rw [leBytes, ofLE, ih, BitVec.toNat_ofNat, Nat.pow_succ' (n := n) (m := 256), Nat.mod_mul]

/-- A vector of whole bytes is what its own bytes spell. -/
theorem ofNat_ofLE_leBytes {n : Nat} (v : BitVec (8 * n)) : BitVec.ofNat (8 * n) (ofLE (leBytes v.toNat n)) = v := by
  have hlt : v.toNat < 256 ^ n := by
    have hv := v.isLt
    rwa [Nat.pow_mul] at hv
  rw [ofLE_leBytes, Nat.mod_eq_of_lt hlt, BitVec.ofNat_toNat, BitVec.setWidth_eq]

/-! Poison marks of single bytes. -/

theorem badByte_congr {s t : State} (h : t.poison = s.poison) (c : Nat) : t.badByte c = s.badByte c := by
  unfold State.badByte
  rw [h]

theorem badBytes_eq_false (s : State) (a n : Nat) (h : ∀ c, a ≤ c → c < a + n → s.badByte c = false) :
    s.badBytes a n = false := by
  induction n generalizing a with
  | zero => rfl
  | succ n ih =>
    rw [State.badBytes, h a (Nat.le_refl a) (by omega), ih (a + 1) fun c h1 h2 => h c (by omega) (by omega)]
    rfl

@[simp] theorem goodByte_mem (s : State) (a : Nat) : (s.goodByte a).mem = s.mem := by
  unfold State.goodByte
  dsimp only
  split <;> rfl

@[simp] theorem goodBytes_mem (s : State) (a n : Nat) : (s.goodBytes a n).mem = s.mem := by
  induction n generalizing s a with
  | zero => rfl
  | succ n ih => rw [State.goodBytes, ih, goodByte_mem]

/-- After a byte is made good its unit has no mark, or its mark has gained the byte's bit. -/
theorem goodByte_look (s : State) (a : Nat) :
    look (s.goodByte a).poison (poisonUnit a).1 = none ∨
      ∃ g, look s.poison (poisonUnit a).1 = some g ∧
        look (s.goodByte a).poison (poisonUnit a).1 = some (g ||| 2 ^ (a - (poisonUnit a).1)) := by
  unfold State.goodByte
  dsimp only
  split
  · exact .inl ‹_›
  · next g hg =>
    split
    · exact .inl (look_del_same _ _)
    · exact .inr ⟨g, hg, look_put_same _ _ _⟩

/-- The marks of the other units stand. -/
theorem goodByte_look_other (s : State) (a u : Nat) (h : u ≠ (poisonUnit a).1) :
    look (s.goodByte a).poison u = look s.poison u := by
  unfold State.goodByte
  dsimp only
  split
  · rfl
  · split
    · exact look_del_other _ _ _ h
    · exact look_put_other _ _ _ _ h

theorem badByte_goodByte_same (s : State) (a : Nat) : (s.goodByte a).badByte a = false := by
  unfold State.badByte
  obtain hnone | ⟨g, _, hg⟩ := goodByte_look s a
  · rw [hnone]
  · simp [hg, Nat.testBit_or, Nat.testBit_two_pow_self]

/-- No byte becomes bad. -/
theorem badByte_goodByte (s : State) (a c : Nat) (h : s.badByte c = false) : (s.goodByte a).badByte c = false := by
  unfold State.badByte at h ⊢
  by_cases hu : (poisonUnit c).1 = (poisonUnit a).1
  · rw [hu] at h ⊢
    obtain hnone | ⟨g, hold, hnew⟩ := goodByte_look s a
    · rw [hnone]
    · rw [hold] at h
      simp only [Bool.not_eq_false'] at h
      simp [hnew, Nat.testBit_or, h]
  · rw [goodByte_look_other s a _ hu]
    exact h

theorem badByte_goodBytes (s : State) (a n c : Nat) (h : s.badByte c = false ∨ a ≤ c ∧ c < a + n) :
    (s.goodBytes a n).badByte c = false := by
  induction n generalizing s a with
  | zero => exact h.resolve_right (by omega)
  | succ n ih =>
    refine ih _ _ ?_
    rcases h with hgood | ⟨hle, hlt⟩
    · exact .inl (badByte_goodByte s a c hgood)
    · by_cases hc : c = a
      · exact .inl (hc ▸ badByte_goodByte_same s a)
      · exact .inr ⟨by omega, by omega⟩

/-! What only logs, counts or notes leaves memory and its marks alone. -/

theorem countFor_mem (s : State) (core code n : Nat) : (s.countFor core code n).mem = s.mem := by
  obtain ⟨l, h⟩ := countFor_only s core code n
  rw [h]

@[simp] theorem scorrect_mem (s : State) : s.scorrect.mem = s.mem := by
  unfold State.scorrect State.raise
  split
  · rfl
  · exact countFor_mem _ _ _ _

@[simp] theorem logMem_mem (s : State) (kind count pa : Nat) : (s.logMem kind count pa).mem = s.mem := by
  unfold State.logMem
  split
  · rfl
  · dsimp only
    split <;> rfl

@[simp] theorem logMem_poison (s : State) (kind count pa : Nat) : (s.logMem kind count pa).poison = s.poison := by
  unfold State.logMem
  split
  · rfl
  · dsimp only
    split <;> rfl

@[simp] theorem logPartial_mem (s : State) (a n : Nat) : (s.logPartial a n).mem = s.mem := by
  unfold State.logPartial
  dsimp only
  split <;> split <;> simp only [logMem_mem]

@[simp] theorem unarm_mem (s : State) (a : Nat) : (s.unarm a).mem = s.mem := by
  unfold State.unarm
  split <;> rfl

@[simp] theorem unarm_poison (s : State) (a : Nat) : (s.unarm a).poison = s.poison := by
  unfold State.unarm
  split <;> rfl

@[simp] theorem touch_mem (s : State) (a n : Nat) : (s.touch a n).mem = s.mem := by
  unfold State.touch
  split <;> rfl

@[simp] theorem touch_poison (s : State) (a n : Nat) : (s.touch a n).poison = s.poison := by
  unfold State.touch
  split <;> rfl

/-! The bytes written, container by container. -/

/-- A part written changes memory and the marks of its bytes; besides them, a record. -/
theorem writePart_store (s : State) (a : Nat) (bs : List Byte) :
    (s.writePart a bs).mem = Mem.writeBytes s.mem a bs ∧ (s.writePart a bs).poison = (s.goodBytes a bs.length).poison := by
  unfold State.writePart
  split
  · exact ⟨rfl, rfl⟩
  · dsimp only
    split <;> exact ⟨rfl, rfl⟩

theorem take_toBoundary_pos (a : Nat) {bs : List Byte} (h : bs ≠ []) : 0 < (bs.take (4 - a % 4)).length := by
  have hpos := List.length_pos_iff.mpr h
  rw [List.length_take]
  omega

/-- The parts of a write put all its bytes into memory. -/
theorem writeFrom_mem (s : State) (a f : Nat) (bs : List Byte) (h : bs.length ≤ f) :
    (s.writeFrom a f bs).mem = Mem.writeBytes s.mem a bs := by
  induction f generalizing s a bs with
  | zero => rw [List.length_eq_zero_iff.mp (Nat.le_zero.mp h)]; rfl
  | succ f ih =>
    unfold State.writeFrom
    split
    · next hnil => rw [hnil]; rfl
    · next hne =>
      have hpart := take_toBoundary_pos a hne
      dsimp only
      rw [ih _ _ _ (by rw [List.length_take] at hpart; rw [List.length_drop]; omega), (writePart_store s a _).1,
        ← writeBytes_append, List.take_append_drop]

/-- Its bytes are good, and no other byte becomes bad. -/
theorem badByte_writeFrom (s : State) (a f c : Nat) (bs : List Byte) (hf : bs.length ≤ f)
    (h : s.badByte c = false ∨ a ≤ c ∧ c < a + bs.length) : (s.writeFrom a f bs).badByte c = false := by
  induction f generalizing s a bs with
  | zero => exact h.resolve_right (by omega)
  | succ f ih =>
    unfold State.writeFrom
    split
    · next hnil => exact h.resolve_right (by rw [hnil]; simp)
    · next hne =>
      have hpart := take_toBoundary_pos a hne
      have hlen : (bs.take (4 - a % 4)).length + (bs.drop (4 - a % 4)).length = bs.length := by
        rw [← List.length_append, List.take_append_drop]
      refine ih _ _ _ (by omega) ?_
      rw [badByte_congr (writePart_store s a _).2]
      by_cases hin : a + (bs.take (4 - a % 4)).length ≤ c
      · exact h.imp (fun hg => badByte_goodBytes s a _ c (.inl hg)) fun hr => ⟨hin, by omega⟩
      · exact .inl (badByte_goodBytes s a _ c (h.imp_right fun hr => ⟨hr.1, by omega⟩))

/-! Repair before a write (06 R165). -/

theorem sealedTile_eq_some {s : State} {a t : Nat} (h : s.sealedTile a = some t) : t = a / 16384 * 16384 := by
  unfold State.sealedTile at h
  dsimp only at h
  split at h
  · split at h
    · exact (Option.some.inj h).symm
    · exact absurd h nofun
  · split at h
    · obtain ⟨_, _, he⟩ := Option.map_eq_some_iff.mp h
      exact he.symm
    · exact absurd h nofun

/-- The container of a sealed tile that an aligned address falls in begins there. -/
theorem cellAt_eq {s : State} {a t : Nat} (h : s.sealedTile a = some t) (ha : a % 4 = 0) :
    t + 256 * ((a - t) / 256) + 4 * ((a - t) % 256 / 4) = a := by
  rw [sealedTile_eq_some h]
  omega

/-- A repair leaves memory or rewrites its one container. -/
theorem mendCell_mem (s : State) (t i j : Nat) :
    (s.mendCell t i j).mem = s.mem ∨
      ∃ x, (s.mendCell t i j).mem = Mem.writeBytes s.mem (t + 256 * i + 4 * j) (leBytes x 4) := by
  unfold State.mendCell
  split
  · split
    · next x _ => exact .inr ⟨x.toNat, by rw [scorrect_mem, goodBytes_mem]; rfl⟩
    · exact .inl (by rw [logMem_mem]; rfl)
  · exact .inl rfl

/-- Nothing is repaired where nothing is poisoned. -/
theorem mendCell_good (s : State) (t i j : Nat) (h : s.badCell t i j = false) : s.mendCell t i j = s := by
  unfold State.mendCell
  simp [h]

/-- What the repairs of a write to the words from `a` to `last` leave of memory. -/
structure MendFrame (a last : Nat) (s t : State) : Prop where
  read : ∀ c, c < a ∨ last / 4 < c / 4 → Mem.read t.mem c = Mem.read s.mem c
  wf : s.MemOk → t.MemOk

theorem mendFrame_mendCell (s : State) (a last t : Nat) (ht : s.sealedTile a = some t) (ha : a % 4 = 0) (hl : a ≤ last) :
    MendFrame a last s (s.mendCell t ((a - t) / 256) ((a - t) % 256 / 4)) := by
  obtain hm | ⟨x, hm⟩ := mendCell_mem s t ((a - t) / 256) ((a - t) % 256 / 4)
  · exact ⟨fun c _ => by rw [hm], fun hs => by rwa [State.MemOk, hm]⟩
  · rw [cellAt_eq ht ha] at hm
    refine ⟨fun c hc => ?_, fun hs => ?_⟩
    · rw [hm, read_writeBytes_other _ _ _ _ (by rw [length_leBytes]; omega)]
    · rw [State.MemOk, hm]
      exact wf_writeBytes _ _ _ hs

theorem mendFrame_mendFrom (s : State) (a last f : Nat) (ha : a % 4 = 0) : MendFrame a last s (s.mendFrom a last f) := by
  induction f generalizing s a with
  | zero => exact ⟨fun _ _ => rfl, id⟩
  | succ f ih =>
    unfold State.mendFrom
    split
    · exact ⟨fun _ _ => rfl, id⟩
    · next hl =>
      dsimp only
      split
      · next t ht =>
        have hcell := mendFrame_mendCell s a last t ht ha (by omega)
        have hrest := ih (s.mendCell t ((a - t) / 256) ((a - t) % 256 / 4)) (a + 4) (by omega)
        exact ⟨fun c hc => (hrest.read c (by omega)).trans (hcell.read c hc), fun hs => hrest.wf (hcell.wf hs)⟩
      · have hrest := ih s (a + 4) (by omega)
        exact ⟨fun c hc => hrest.read c (by omega), hrest.wf⟩

theorem mendFrom_good (s : State) (a last f : Nat) (ha : a % 4 = 0)
    (h : ∀ c, a ≤ c → c / 4 ≤ last / 4 → s.badByte c = false) : s.mendFrom a last f = s := by
  induction f generalizing a with
  | zero => rfl
  | succ f ih =>
    have hrest := ih (a + 4) (by omega) fun c h1 h2 => h c (by omega) h2
    unfold State.mendFrom
    split
    · rfl
    · next hl =>
      dsimp only
      split
      · next t ht =>
        have hcell : s.badCell t ((a - t) / 256) ((a - t) % 256 / 4) = false := by
          rw [State.badCell, cellAt_eq ht ha]
          exact badBytes_eq_false s a 4 fun c h1 h2 => h c h1 (by omega)
        rw [mendCell_good s t _ _ hcell, hrest]
      · exact hrest

theorem mendFrame_mend (s : State) (a n : Nat) : MendFrame (a / 4 * 4) (a + n - 1) s (s.mend a n) := by
  unfold State.mend
  split
  · exact ⟨fun _ _ => rfl, id⟩
  · exact mendFrame_mendFrom s _ _ _ (by omega)

theorem mend_good (s : State) (a n : Nat)
    (h : ∀ c, a / 4 ≤ c / 4 → c / 4 ≤ (a + n - 1) / 4 → s.badByte c = false) : s.mend a n = s := by
  unfold State.mend
  split
  · rfl
  · exact mendFrom_good s _ _ _ (by omega) fun c h1 h2 => h c (by omega) h2

/-! The write whole. -/

/-- Memory after a write: the bytes in what the repairs leave. -/
theorem writePhys_mem (s : State) (a : Nat) (bs : List Byte) :
    (s.writePhys a bs).mem = Mem.writeBytes (s.mend a bs.length).mem a bs := by
  unfold State.writePhys
  rw [touch_mem, unarm_mem, writeFrom_mem _ _ _ _ (Nat.le_succ _), logPartial_mem]

theorem bytes_writePhys (s : State) (a : Nat) (bs : List Byte) : Mem.bytes (s.writePhys a bs).mem a bs.length = bs := by
  rw [writePhys_mem, bytes_writeBytes]

/-- Bytes outside the aligned words of a write read as before. -/
theorem read_writePhys_outside (s : State) (a c : Nat) (bs : List Byte)
    (h : c / 4 < a / 4 ∨ (a + bs.length - 1) / 4 < c / 4) : Mem.read (s.writePhys a bs).mem c = Mem.read s.mem c := by
  rw [writePhys_mem]
  cases bs with
  | nil => exact (mendFrame_mend s a 0).read c (by simpa using h.imp (by omega) id)
  | cons b bs =>
    rw [read_writeBytes_other _ _ _ _ (by simp only [List.length_cons] at h ⊢; omega)]
    exact (mendFrame_mend s a _).read c (h.imp (by omega) id)

/-- Where no byte of its words is poisoned, every byte but those of the write reads as before. -/
theorem read_writePhys_good (s : State) (a c : Nat) (bs : List Byte)
    (hg : ∀ c, a / 4 ≤ c / 4 → c / 4 ≤ (a + bs.length - 1) / 4 → s.badByte c = false) (h : c < a ∨ a + bs.length ≤ c) :
    Mem.read (s.writePhys a bs).mem c = Mem.read s.mem c := by
  rw [writePhys_mem, mend_good s a _ hg, read_writeBytes_other _ _ _ _ h]

theorem memOk_writePhys (s : State) (a : Nat) (bs : List Byte) (h : s.MemOk) : (s.writePhys a bs).MemOk := by
  rw [State.MemOk, writePhys_mem]
  exact wf_writeBytes _ _ _ ((mendFrame_mend s a _).wf h)

theorem badByte_writePhys (s : State) (a c : Nat) (bs : List Byte) (h : a ≤ c ∧ c < a + bs.length) :
    (s.writePhys a bs).badByte c = false := by
  unfold State.writePhys
  rw [badByte_congr ((touch_poison _ _ _).trans (unarm_poison _ _))]
  exact badByte_writeFrom _ _ _ _ _ (Nat.le_succ _) (.inr h)

/-! The image of a tile (05 R153). -/

theorem length_flatMap_leBytes (rows : List VReg) :
    (rows.flatMap fun r => leBytes r.toNat 256).length = 256 * rows.length := by
  induction rows with
  | nil => rfl
  | cons r rows ih =>
    rw [List.flatMap_cons, List.length_append, length_leBytes, ih, List.length_cons, Nat.mul_succ, Nat.add_comm]

/-- The rows of a tile take 16,384 bytes. -/
theorem length_rowBytes (y : Tile) : (y.rows.toList.flatMap fun r => leBytes r.toNat 256).length = 16384 := by
  rw [length_flatMap_leBytes, Vector.length_toList]

/-- Rows of 256 bytes each, one behind the other, are where their numbers say. -/
theorem bytes_of_rows {m : Mem} (rows : List VReg) (a : Nat)
    (h : Mem.bytes m a (256 * rows.length) = rows.flatMap fun r => leBytes r.toNat 256) (i : Nat) (hi : i < rows.length) :
    Mem.bytes m (a + 256 * i) 256 = leBytes rows[i].toNat 256 := by
  induction rows generalizing a i with
  | nil => exact absurd hi (Nat.not_lt_zero i)
  | cons r rows ih =>
    rw [List.length_cons, Nat.mul_succ, Nat.add_comm, bytes_append, List.flatMap_cons] at h
    obtain ⟨hfirst, hrest⟩ := List.append_inj h (by rw [length_bytes, length_leBytes])
    cases i with
    | zero => exact hfirst
    | succ i =>
      have hrow := ih (a + 256) hrest i (Nat.lt_of_succ_lt_succ hi)
      rwa [Nat.add_assoc, Nat.add_comm 256, ← Nat.mul_succ] at hrow

/-- A vector whose 256 bytes stand in memory is read from them. -/
theorem readLE_of_bytes {m : Mem} {a : Nat} {v : VReg} (h : Mem.bytes m a 256 = leBytes v.toNat 256) :
    BitVec.ofNat 2048 (Mem.readLE m a 256) = v := by
  rw [readLE_eq_ofLE_bytes, h]
  exact ofNat_ofLE_leBytes (n := 256) v

theorem length_image (y : Tile) : y.image.length = 16896 := by
  rw [Tile.image, List.length_append, List.length_append, length_rowBytes, length_leBytes, length_leBytes]

/-- Where the parts of an image stand. -/
theorem bytes_of_image {m : Mem} {a : Nat} {y : Tile} (h : Mem.bytes m a 16896 = y.image) :
    Mem.bytes m a (256 * y.rows.toList.length) = (y.rows.toList.flatMap fun r => leBytes r.toNat 256) ∧
      Mem.bytes m (a + 16384) 256 = leBytes y.rsum.toNat 256 ∧ Mem.bytes m (a + 16640) 256 = leBytes y.csum.toNat 256 := by
  rw [Tile.image, show 16896 = 16384 + 256 + 256 from rfl, bytes_append, bytes_append] at h
  obtain ⟨hrest, hcsum⟩ := List.append_inj h (by
    rw [List.length_append, List.length_append, length_bytes, length_bytes, length_rowBytes, length_leBytes])
  obtain ⟨hrows, hrsum⟩ := List.append_inj hrest (by rw [length_bytes, length_rowBytes])
  exact ⟨by rw [Vector.length_toList]; exact hrows, hrsum, hcsum⟩

/-- The tile that an image of good bytes spells. -/
theorem imageAt_of_bytes {s : State} {a : Nat} {y : Tile} (h : Mem.bytes s.mem a 16896 = y.image)
    (hgood : ∀ n < 4096, s.badBytes (a + 4 * n) 4 = false) : s.imageAt a = { y with bad := [], good := [] } := by
  obtain ⟨hrows, hrsum, hcsum⟩ := bytes_of_image h
  have hrows' : (Vector.ofFn fun i : Fin 64 => BitVec.ofNat 2048 (Mem.readLE s.mem (a + 256 * i.val) 256)) = y.rows := by
    ext i hi : 1
    have hrow := bytes_of_rows _ a hrows i (by rwa [Vector.length_toList])
    rw [Vector.getElem_ofFn, readLE_of_bytes hrow, Vector.getElem_toList]
  have hbad : ((List.range 4096).filter fun n => s.badBytes (a + 4 * n) 4) = [] :=
    List.filter_eq_nil_iff.mpr fun n hn => by rw [hgood n (List.mem_range.mp hn)]; exact Bool.false_ne_true
  unfold State.imageAt
  rw [hrows', readLE_of_bytes hrsum, readLE_of_bytes hcsum, hbad, ite_self]

/-- A tile's image read back from where it was written, without its marks. -/
theorem imageAt_writePhys (s : State) (a : Nat) (y : Tile) :
    (s.writePhys a y.image).imageAt a = { y with bad := [], good := [] } := by
  have hbytes := bytes_writePhys s a y.image
  rw [length_image] at hbytes
  exact imageAt_of_bytes hbytes fun n hn => badBytes_eq_false _ _ _ fun c h1 h2 =>
    badByte_writePhys s a c _ ⟨by omega, by rw [length_image]; omega⟩

/-- Settles O23: the bytes of a write in the memory that its repairs leave, and a tile's image read back. -/
theorem storedBytesReadBack : Obligations.StoredBytesReadBack := by
  intro s pa bs t
  exact ⟨bytes_writePhys s pa bs, fun a ha => read_writePhys_outside s pa a bs ha,
    fun hg a ha => read_writePhys_good s pa a bs hg ha, memOk_writePhys s pa bs, imageAt_writePhys s pa⟩

end Sys2Proof.Machine
end

section
/-! SUPPORT. Slot-4 access to the accumulator tiles and the transposer (05 R144, R152-R154): each instruction that its
resources do not stop. -/

namespace Sys2Proof.Machine

/-! The taking of stream elements leaves the transposer alone. -/

@[simp] theorem popped_xowner (s : State) (l : List (BitVec 6)) : (s.popped l).co.xowner = s.co.xowner := by
  rw [popped_co]; rfl
@[simp] theorem popped_xf (s : State) (l : List (BitVec 6)) : (s.popped l).co.xf = s.co.xf := by rw [popped_co]; rfl
@[simp] theorem popped_xg (s : State) (l : List (BitVec 6)) : (s.popped l).co.xg = s.co.xg := by rw [popped_co]; rfl
@[simp] theorem popped_xpose (s : State) (l : List (BitVec 6)) : (s.popped l).co.xpose = s.co.xpose := by
  rw [popped_co]; rfl

/-- A context that holds the transposer passes its check. -/
theorem xposeCheck_ok (s : State) (l : List (BitVec 6)) (h : s.co.xowner = some s.cur.ctx) :
    (s.clear.popped l).xposeCheck = .ok () := by
  unfold State.xposeCheck
  rw [popped_xowner]
  exact if_pos h

/-! The transposer. -/

theorem execTxin_fills (p : Pred) (a : BitVec 6) (s : State) (h : s.RunsVec p [a] [] none none neverKeeps)
    (ho : s.co.xowner = some s.cur.ctx) (hf : s.co.xf.toNat < 64) :
    let u := s.clear.popped [a]
    execTxin p a s = .next (u.setCo { u.co with
      xpose := s.co.xpose.setRow s.co.xf.toNat (s.row a) fun i => (s.mask p).getLsbD i, xf := s.co.xf + 1 }).done := by
  refine finish_runVec _ _ _ _ _ _ _ _ _ _ h rfl ?_
  simp only [xposeCheck_ok s [a] ho, popped_xf, popped_xpose, clear_co, if_neg (Nat.not_le.mpr hf)]
  rfl

theorem execTxout_delivers (p : Pred) (d : BitVec 6) (s : State) (y : Tile) (fixed : Bool)
    (h : s.RunsVec p [] [] (some d) none maskKeeps) (ho : s.co.xowner = some s.cur.ctx) (hf : s.co.xf = 64)
    (hy : s.co.xpose.checkLine true s.co.xg.toNat = some (y, fixed)) :
    let last := decide (s.co.xg.toNat = 63)
    let w := ((s.clear.popped []).corrected fixed).1
    let u := w.setCo { w.co with xpose := y, xf := if last then 0 else s.co.xf, xg := if last then 0 else s.co.xg + 1 }
    execTxout p d s = .next (u.landElems .xpose d 32 (laneOn (s.mask p))
      (fun i => ((lane (y.line true s.co.xg.toNat) i).toNat, 0)) ((s.clear.popped []).corrected fixed).2).done := by
  refine finish_runVec _ _ _ _ _ _ _ _ _ _ h rfl ?_
  simp only [xposeCheck_ok s [] ho, popped_xf, popped_xg, popped_xpose, clear_co, hf, ne_eq, not_true_eq_false, if_false, hy]

theorem execTxclr_empties (p : Pred) (s : State) (h : s.RunsVec p [] [] none none neverKeeps)
    (ho : s.co.xowner = some s.cur.ctx) :
    let u := s.clear.popped []
    execTxclr p s = .next (u.setCo { u.co with xpose := Tile.zero, xf := 0, xg := 0 }).done := by
  refine finish_runVec _ _ _ _ _ _ _ _ _ _ h rfl ?_
  simp only [xposeCheck_ok s [] ho]

/-! Lines of a tile. -/

theorem execVaccrd_delivers (p : Pred) (d c a : BitVec 6) (col : BitVec 8) (s : State) (y : Tile) (fixed : Bool)
    (h : s.RunsVec p [] [.s a] (some d) none maskKeeps) :
    let r := (s.cx.rs a).toNat % 64
    let u := s.clear.popped []
    let t : BitVec 4 := c.setWidth 4
    let w := u.mendTile s.cur.core t.toNat
    let z := { w with raised := 0 }.corrected fixed
    u.tileCheck t = .ok () → (w.tile t).checkLine (col == 1) r = some (y, fixed) →
      execVaccrd p d c a col s = .next ((z.1.setTile t y).landElems .vacc d 32 (laneOn (s.mask p))
        (fun i => ((lane (y.line (col == 1) r) i).toNat, 0))
        (z.2 ||| (w.raised ||| (if (w.tile t).badLine (col == 1) r then ckiPOISON else 0)))).done := by
  intro r u t w z hcheck hline
  refine finish_runVec _ _ _ _ _ _ _ _ _ _ h rfl ?_
  simp only [popped_rs, popped_cur, clear_cx, clear_cur]
  rw [hcheck]
  dsimp only
  rw [hline]

/-- The tile that VACCWR leaves: row r, or column r lane by lane, under the mask. -/
def Tile.written (x : Tile) (col : BitVec 8) (r : Nat) (v : VReg) (m : Word) : Tile :=
  if col = 1 then (activeList m).foldl (fun x i => x.set i r (lane v i)) x else x.setRow r v fun i => m.getLsbD i

theorem execVaccwr_writes (p : Pred) (d b a : BitVec 6) (col : BitVec 8) (s : State)
    (h : s.RunsVec p [b] [.s a] none none neverKeeps) :
    let u := s.clear.popped [b]
    let t : BitVec 4 := d.setWidth 4
    let w := u.mendTile s.cur.core t.toNat
    u.tileCheck t = .ok () → execVaccwr p d b a col s =
      .next (w.setTile t ((w.tile t).written col ((s.cx.rs a).toNat % 64) (s.row b) (s.mask p))).landRaised.done := by
  intro u t w hcheck
  refine finish_runVec _ _ _ _ _ _ _ _ _ _ h rfl ?_
  simp only [popped_rs, popped_cur, clear_cx, clear_cur]
  rw [hcheck]
  rfl

/-! Images. -/

theorem execVspill_stores (p : Pred) (d a x : BitVec 6) (sc : BitVec 3) (off : BitVec 24) (s : State) (acc : Access)
    (h : s.RunsVec p [] [.s a, .s x] none none neverKeeps) :
    let u := s.clear.popped []
    let t : BitVec 4 := d.setWidth 4
    let w := u.mendTile s.cur.core t.toNat
    u.tileCheck t = .ok () → u.spillAccess (s.cx.addrM a x sc off) true = .ok acc →
      execVspill p d a x sc off s = .next (((w.storeAt (w.accessPa acc) (w.tile t).image).landRaised).landFlag
        (if (w.tile t).bad = [] then 0 else ckiPOISON)).done := by
  intro u t w hcheck hacc
  refine finish_runVec _ _ _ _ _ _ _ _ _ _ h rfl ?_
  simp only [popped_addrM, popped_cur, clear_cx, clear_cur]
  rw [hcheck, hacc]
  rfl

theorem execVfill_loads (p : Pred) (d a x : BitVec 6) (sc : BitVec 3) (off : BitVec 24) (s : State) (acc : Access)
    (y : Tile) (fixed : Bool) (h : s.RunsVec p [] [.s a, .s x] none none neverKeeps) :
    let u := s.clear.popped []
    let t : BitVec 4 := d.setWidth 4
    u.tileCheck t = .ok () → u.spillAccess (s.cx.addrM a x sc off) false = .ok acc →
      (u.imageAt (u.accessPa acc)).checkImage = some (y, fixed) →
      execVfill p d a x sc off s = .next (((u.corrected fixed).1.setTile t { y with bad := [], good := [] }).landFlag
        ((u.corrected fixed).2 ||| (if u.badBytes (u.accessPa acc) 16896 then ckiPOISON else 0))).done := by
  intro u t hcheck hacc himage
  refine finish_runVec _ _ _ _ _ _ _ _ _ _ h rfl ?_
  simp only [popped_addrM, clear_cx]
  rw [hcheck, hacc]
  dsimp only
  rw [himage]

/-- Settles O32: each instruction by its lemma. -/
theorem accumulatorAccessCompletes : Obligations.AccumulatorAccessCompletes := by
  intro s p d a b c x col sc off m r
  refine ⟨execTxin_fills p a s, fun h ho hf y fixed hy => execTxout_delivers p d s y fixed h ho hf hy,
    execTxclr_empties p s, fun h hc y fixed hy => execVaccrd_delivers p d c a col s y fixed h hc hy,
    fun h hc => ⟨fun hcol => ?row, fun hcol => ?col⟩,
    fun h hc => ⟨fun acc hacc => execVspill_stores p d a x sc off s acc h hc hacc,
      fun acc y fixed hacc hy => execVfill_loads p d a x sc off s acc y fixed h hc hacc hy⟩⟩
  case row =>
    refine (execVaccwr_writes p d b a col s h hc).trans ?_
    rw [Tile.written, if_neg hcol]
  case col =>
    refine (execVaccwr_writes p d b a col s h hc).trans ?_
    rw [Tile.written, if_pos hcol]

end Sys2Proof.Machine
end

section
/-! SUPPORT. The issue of matrix commands (05 R134, R144-R151, 06 R176-R180): each issues on mtx, or traps on its tiles or
its parameters. -/

namespace Sys2Proof.Machine

/-! What a slot does that issues a matrix command. -/

/-- A tile outside the task's mask stops a command, whatever its parameters. -/
theorem issueMatrix_denied (s : State) (d : BitVec 6) (cmd : Cmd) (prog : Nat) (bad : Bool)
    (h : Cmd.tiles cmd &&& ~~~s.tileMask ≠ 0) : s.issueMatrix d cmd prog bad = .error (s.trapHere 9 0 0) := if_pos h

/-- On granted tiles the parameters decide. -/
theorem issueMatrix_granted (s : State) (d : BitVec 6) (cmd : Cmd) (prog : Nat) (bad : Bool)
    (h : Cmd.tiles cmd &&& ~~~s.tileMask = 0) : s.issueMatrix d cmd prog bad =
      if bad = true then .error (s.trapHere 11 0 0) else .ok (s.issue .mtx d cmd prog) := if_neg (not_not_intro h)

/-- The three outcomes of a matrix command whose slot runs: RESOURCE_DENIED, MATRIX_PARAM, or the issue with what follows
it. -/
structure MatrixOutcome (s : State) (r : Result) (d : BitVec 6) (cmd : Cmd) (prog : Nat) (bad : Prop)
    (after : State → State) : Prop where
  denied : ¬Cmd.tiles cmd &&& ~~~s.tileMask = 0 → r = .next (s.stoppedBy 9 0 0)
  param : Cmd.tiles cmd &&& ~~~s.tileMask = 0 → bad → r = .next (s.stoppedBy 11 0 0)
  issues : ¬bad → Cmd.tiles cmd &&& ~~~s.tileMask = 0 → r = .next (after (s.clear.issue .mtx d cmd prog)).done

theorem matrixOutcome_finish {p : Pred} {rs : List Reg} {act : State → Except Stop State} {s : State} {d : BitVec 6}
    {cmd : Cmd} {prog : Nat} {bad : Bool} {wrong : Prop} {after : State → State} (h : s.Runs p rs) (hf : slotBlock .mtx s = none)
    (hbad : bad = true ↔ wrong) (hact : act s.clear = (s.clear.issueMatrix d cmd prog bad).map after) :
    MatrixOutcome s (finish (runSlot p rs (slotBlock .mtx) act) s) d cmd prog wrong after where
  denied hm := finish_runSlot_trap _ _ _ _ _ _ _ _ h hf (by rw [hact, issueMatrix_denied s.clear d cmd prog bad hm]; rfl)
  param hm hw := finish_runSlot_trap _ _ _ _ _ _ _ _ h hf (by
    rw [hact, issueMatrix_granted s.clear d cmd prog bad hm, if_pos (hbad.mpr hw)]; rfl)
  issues hw hm := finish_runSlot _ _ _ _ _ _ h hf (by
    rw [hact, issueMatrix_granted s.clear d cmd prog bad hm, if_neg (mt hbad.mp hw)]; rfl)

/-- A slot that only issues has these outcomes, with nothing after the issue. -/
theorem matrixOutcome_issue {p : Pred} {rs : List Reg} {act : State → Except Stop State} {s : State} {d : BitVec 6}
    {cmd : Cmd} {prog : Nat} {bad : Bool} {wrong : Prop} (h : s.Runs p rs) (hf : slotBlock .mtx s = none) (hbad : bad = true ↔ wrong)
    (hact : act s.clear = s.clear.issueMatrix d cmd prog bad) :
    MatrixOutcome s (finish (runSlot p rs (slotBlock .mtx) act) s) d cmd prog wrong id :=
  matrixOutcome_finish h hf hbad (by rw [hact, Except.map_id]; rfl)

/-- What follows an issue follows it alone, and not a trap. -/
theorem match_ok_eq_map (e : Except Stop State) (f : State → State) :
    (match e with
      | .error x => .error x
      | .ok t => .ok (f t)) = e.map f := by
  cases e <;> rfl

/-! Row-based commands (05 R134-R150). -/

theorem execMma_outcome (p : Pred) (d : BitVec 6) (ta tb : BitVec 4) (s : State) :
    let q := mmaPar s.cx.m
    s.Runs p (mRegs ++ if q.chain then scaleRegs q.rowsc q.ksel q.start q.m else []) → slotBlock .mtx s = none →
      MatrixOutcome s (execMma p d ta tb s) d (.mma ta.toNat tb.toNat s.cx.m s.cx.k) q.start (q.bad = true)
        (·.rowBased q.start) :=
  fun h hf => matrixOutcome_finish h hf Iff.rfl (match_ok_eq_map _ _)

theorem execMload_outcome (p : Pred) (d c a b : BitVec 6) (t : BitVec 4) (nrow ncol : BitVec 7) (s : State)
    (h : s.Runs p [.s a, .s b, .m 7]) (hf : slotBlock .mtx s = none) :
    let start := fld (s.cx.rm 7).toNat 0 7
    MatrixOutcome s (execMload p d c a b t nrow ncol s) d
      (.mload (c.setWidth 4) (s.cx.rs a) (s.cx.rs b) t.toNat nrow.toNat ncol.toNat start) start
      (rowsBad nrow.toNat ncol.toNat start (s.cx.rs a) (s.cx.rs b) = true) (·.rowBased start) :=
  matrixOutcome_finish h hf Iff.rfl (match_ok_eq_map _ _)

theorem execMstore_outcome (p : Pred) (d c a b : BitVec 6) (t tt : BitVec 4) (nrow ncol : BitVec 7) (s : State) :
    let m6 := s.cx.rm 6
    let start := fld (s.cx.rm 7).toNat 0 7
    s.Runs p ([.s a, .s b, .m 6, .m 7] ++ scaleRegs (m6.getLsbD 51) (fld m6.toNat 48 3) start nrow.toNat) →
      slotBlock .mtx s = none →
      MatrixOutcome s (execMstore p d c a b t tt nrow ncol s) d
        (.mstore (c.setWidth 4) (s.cx.rs a) (s.cx.rs b) t.toNat tt.toNat nrow.toNat ncol.toNat start m6 s.cx.k) start
        (rowsBad nrow.toNat ncol.toNat start (s.cx.rs a) (s.cx.rs b) = true) (·.rowBased start) :=
  fun h hf => matrixOutcome_finish h hf Iff.rfl (match_ok_eq_map _ _)

/-! The zeroing of tiles and the lattice commands (05 R148, 06 R176-R180). -/

theorem execMzero_outcome (p : Pred) (d : BitVec 6) (mask : BitVec 16) (s : State) (h : s.Runs p [])
    (hf : slotBlock .mtx s = none) : MatrixOutcome s (execMzero p d mask s) d (.mzero mask) 0 False id :=
  matrixOutcome_issue h hf (iff_of_false Bool.false_ne_true id) rfl

theorem execSealAcc_outcome (p : Pred) (d c : BitVec 6) (s : State) (h : s.Runs p []) (hf : slotBlock .mtx s = none) :
    MatrixOutcome s (execSealAcc p d c s) d (.sealAcc (c.setWidth 4)) 0 False id :=
  matrixOutcome_issue h hf (iff_of_false Bool.false_ne_true id) rfl

theorem execSeal_outcome (p : Pred) (d a b : BitVec 6) (s : State) (h : s.Runs p [.s a, .s b])
    (hf : slotBlock .mtx s = none) :
    MatrixOutcome s (execSeal p d a b s) d (.seal (s.cx.rs a) (s.cx.rs b).toNat) 0
      (tileAligned (s.cx.rs a) 16384 = false ∨ 2 ^ 24 < (s.cx.rs b).toNat) id :=
  matrixOutcome_issue h hf (by rw [Bool.or_eq_true, Bool.not_eq_true', decide_eq_true_iff, clear_cx]) rfl

theorem execSquery_outcome (p : Pred) (d a b : BitVec 6) (s : State) (h : s.Runs p [.s a, .s b])
    (hf : slotBlock .mtx s = none) :
    MatrixOutcome s (execSquery p d a b s) d (.squery (s.cx.rs a) (s.cx.rs b)) 0
      (tileAligned (s.cx.rs a) 16384 = false ∨ tileAligned (s.cx.rs b) 64 = false) id :=
  matrixOutcome_issue h hf (by simp only [clear_cx, Bool.or_eq_true, Bool.not_eq_true']) rfl

theorem execSqueryAcc_outcome (p : Pred) (d c b : BitVec 6) (s : State) (h : s.Runs p [.s b])
    (hf : slotBlock .mtx s = none) :
    MatrixOutcome s (execSqueryAcc p d c b s) d (.squeryAcc (c.setWidth 4) (s.cx.rs b)) 0
      (tileAligned (s.cx.rs b) 64 = false) id :=
  matrixOutcome_issue h hf (iff_of_eq (Bool.not_eq_true' _)) rfl

theorem scheckMem_outcome (fix : Bool) (p : Pred) (d a b c : BitVec 6) (s : State) (h : s.Runs p [.s a, .s b, .s c])
    (hf : slotBlock .mtx s = none) :
    MatrixOutcome s (scheckMem fix p d a b c s) d (.scheck (s.cx.rs a) (s.cx.rs b).toNat (s.cx.rs c) fix) 0
      (tileAligned (s.cx.rs a) 16384 = false ∨ 2 ^ 24 < (s.cx.rs b).toNat ∨ tileAligned (s.cx.rs c) 32 = false) id :=
  matrixOutcome_issue h hf (by
    rw [Bool.or_eq_true, Bool.or_eq_true, Bool.not_eq_true', Bool.not_eq_true', decide_eq_true_iff, or_assoc, clear_cx]) rfl

theorem scheckTile_outcome (fix : Bool) (p : Pred) (d c a : BitVec 6) (s : State) (h : s.Runs p [.s a])
    (hf : slotBlock .mtx s = none) :
    MatrixOutcome s (scheckTile fix p d c a s) d (.scheckAcc (c.setWidth 4) (s.cx.rs a) fix) 0
      (tileAligned (s.cx.rs a) 32 = false) id :=
  matrixOutcome_issue h hf (iff_of_eq (Bool.not_eq_true' _)) rfl

/-! The parameter registers (05 R151). -/

theorem execMsetp_writes (p : Pred) (c a : BitVec 6) (s : State) (h : s.Runs p [.s a]) :
    execMsetp p c a s = .next (s.clear.landLat 1 true (.m (c.setWidth 3))
      ((s.cx.rs a &&& mWritable c.toNat).setWidth 2048) 0 0 0).done :=
  finish_runSlot_act _ _ _ _ h

theorem execMgetp_reads (p : Pred) (d c : BitVec 6) (s : State) (h : s.Runs p [.m (c.setWidth 3)]) :
    execMgetp p d c s = .next (s.clear.landS .sysrd d (s.cx.mword (c.setWidth 3))).done :=
  finish_runSlot_act _ _ _ _ h

/-- Settles O34: each command by its outcome. A command of memory names no tile, so its tiles are granted under every
mask. -/
theorem matrixCommandsIssue : Obligations.MatrixCommandsIssue := by
  intro s p d a b c ta tb t tt nrow ncol mask x y free ok stops run q start m6
  refine ⟨execMsetp_writes p c a s, execMgetp_reads p d c s, fun h hf => ?mma, fun h hf => ?mload, fun h hf => ?mstore,
    fun h hf => ?tiles, fun h hf => ?sealQuery, fun h hf => ?queryTile, fun h hf => ?check, fun h hf => ?checkTile⟩
  case mma =>
    have ho := execMma_outcome p d ta tb s h hf
    exact ⟨⟨ho.denied, ho.param⟩, fun hb => ho.issues (ne_true_of_eq_false hb)⟩
  case mload =>
    have ho := execMload_outcome p d c a b t nrow ncol s h hf
    exact ⟨⟨ho.denied, ho.param⟩, fun hb => ho.issues (ne_true_of_eq_false hb)⟩
  case mstore =>
    have ho := execMstore_outcome p d c a b t tt nrow ncol s h hf
    exact ⟨⟨ho.denied, ho.param⟩, fun hb => ho.issues (ne_true_of_eq_false hb)⟩
  case tiles =>
    have hz := execMzero_outcome p d mask s h hf
    have hs := execSealAcc_outcome p d c s h hf
    exact ⟨⟨hz.denied, hz.param⟩, ⟨hs.denied, hs.param⟩, hz.issues id, hs.issues id⟩
  case sealQuery =>
    have hs := execSeal_outcome p d a b s h hf
    have hq := execSquery_outcome p d a b s h hf
    have hx : tileAligned x 16384 = true → ¬tileAligned x 16384 = false := ne_false_of_eq_true
    refine ⟨⟨hs.denied, hs.param⟩, ⟨hq.denied, hq.param⟩, fun ha => ⟨fun hn => ?_, fun hy => ?_⟩⟩
    · exact hs.issues (not_or.mpr ⟨hx ha, Nat.not_lt.mpr hn⟩) BitVec.zero_and
    · exact hq.issues (not_or.mpr ⟨hx ha, ne_false_of_eq_true hy⟩) BitVec.zero_and
  case queryTile =>
    have ho := execSqueryAcc_outcome p d c b s h hf
    exact ⟨⟨ho.denied, ho.param⟩, fun hb => ho.issues (ne_false_of_eq_true hb)⟩
  case check =>
    have hc := scheckMem_outcome false p d a b c s h hf
    have hx := scheckMem_outcome true p d a b c s h hf
    exact ⟨⟨hc.denied, hc.param⟩, ⟨hx.denied, hx.param⟩,
      fun hb => ⟨hc.issues hb BitVec.zero_and, hx.issues hb BitVec.zero_and⟩⟩
  case checkTile =>
    have hc := scheckTile_outcome false p d c a s h hf
    have hx := scheckTile_outcome true p d c a s h hf
    exact ⟨⟨hc.denied, hc.param⟩, ⟨hx.denied, hx.param⟩,
      fun hb => ⟨hc.issues (ne_false_of_eq_true hb), hx.issues (ne_false_of_eq_true hb)⟩⟩

end Sys2Proof.Machine
end

section
/-! SUPPORT. The steps of the engines of a core and of a stack (05 R137-R150, 06 R160-R180, 08 R213-R217, R223,
13 R353-R355, 16 R436). -/

namespace Sys2Proof.Machine

/-! Copies, stores handed over, segments (09 R232, 08 R223, R215). -/

theorem execCopyComplete_performs (core : BitVec 9) (ctx : BitVec 2) (s t : State) (p : Pending)
    (h : s.choose (s.copyTurn core.toNat ctx) = (some p, t)) :
    execCopyComplete core ctx s =
      .next (((t.actCmd core.toNat ctx p).runCpy core.toNat ctx p).publish core.toNat).rest := by
  unfold execCopyComplete
  simp only [h, settle_eq]

/-- The state after words of a handed-over store are performed: the rest of the store stays in the queue, and NTDRAINs that
have nothing left to wait for complete. -/
def State.ntPerformed (s : State) (n : Nat) (x : NtStore) (ws : List (Nat × BitVec 4 × W32)) : State :=
  let u := (s.actFor n x.ctx).ntWords n ws
  let left := x.words.filter fun w => !ws.contains w
  let queue := if left = [] then (u.core n).nt.filter (fun y => y.num ≠ x.num)
    else (u.core n).nt.map (fun y => if y.num = x.num then { y with words := left } else y)
  let v := u.setCore n { u.core n with nt := queue }
  (v.flagCtx n x.ctx v.raised).drainAll n [0, 1, 2, 3]

theorem execNtStorePerform_performs (core : BitVec 9) (s t r : State) (x : NtStore) (ws : List (Nat × BitVec 4 × W32))
    (h : s.choose (ntReady [] (s.core core.toNat).nt) = (some x, t)) (hw : t.ntRow x = (ws, r)) :
    execNtStorePerform core s = .next ((r.ntPerformed core.toNat x ws).publish core.toNat).rest := by
  unfold execNtStorePerform
  simp only [h, hw, settle_eq]
  rfl

/-! The end of a phase (08 R216). -/

/-- Every task of the group has arrived, none of it is away, and the group asks for the phase to end. -/
structure State.PhaseDue (s : State) (part : Nat) (lid : BitVec 64) (grp : BitVec 32) : Prop where
  tasks : s.groupCtxs part lid grp ≠ []
  arrived : ∀ x ∈ s.groupCtxs part lid grp, (s.ctxAt x.1 x.2.1).atPhase = true
  here : s.awayFrom part lid grp = false
  asked : s.phaseAsked (s.groupCtxs part lid grp) (s.groupCores part (lid, grp)) = true

/-- A phase that is due passes the first test of its event. -/
theorem State.PhaseDue.passes {s : State} {part : Nat} {lid : BitVec 64} {grp : BitVec 32} (h : s.PhaseDue part lid grp) :
    ¬(s.groupCtxs part lid grp = [] ∨ (!((s.groupCtxs part lid grp).all fun (n, i, _) => (s.ctxAt n i).atPhase)) = true ∨
      s.awayFrom part lid grp = true ∨
      (!s.phaseAsked (s.groupCtxs part lid grp) (s.groupCores part (lid, grp))) = true) := by
  have harrived : ((s.groupCtxs part lid grp).all fun (n, i, _) => (s.ctxAt n i).atPhase) = true :=
    List.all_eq_true.mpr h.arrived
  simp [h.tasks, harrived, h.here, h.asked]

/-- A halted pair of the group's control cores holds the phase. -/
theorem execPhaseComplete_held (part : BitVec 6) (lid : BitVec 64) (grp : BitVec 32) (s : State)
    (h : s.PhaseDue part.toNat lid grp) (hb : s.barrierHeld (s.groupCores part.toNat (lid, grp)) = true) :
    execPhaseComplete part lid grp s = .next s.rest :=
  (if_neg h.passes).trans (if_pos hb)

/-- A pair that finds a mismatch halts. -/
theorem execPhaseComplete_splits (part : BitVec 6) (lid : BitVec 64) (grp : BitVec 32) (s t : State) (q : Nat)
    (h : s.PhaseDue part.toNat lid grp) (hb : s.barrierHeld (s.groupCores part.toNat (lid, grp)) = false)
    (hs : s.barrierSplits ((s.groupCores part.toNat (lid, grp)).map (· / 8)).eraseDups = (some q, t)) :
    execPhaseComplete part lid grp s = .next (t.lockstepHalt q).rest := by
  refine (if_neg h.passes).trans ((if_neg (by rw [hb]; exact Bool.false_ne_true)).trans ?_)
  simp only [hs, settle_eq]

/-- The state after a phase has ended: every log folded into every base, the next phase begun, the tasks released. -/
def State.phaseEnded (u : State) (lid : BitVec 64) (grp : BitVec 32) (cores : List Nat) (members : List Nat)
    (ts : List (Nat × BitVec 2 × Task)) : State :=
  let logs := members.map (u.memberEntries (some (lid, grp)))
  let posted := (members.zip logs).flatMap fun x => x.2.mapIdx fun j e => (x.1, j, e)
  let w := (u.foldCores posted cores).eachCore
    (fun s n => s.setCore n { s.core n with log := (s.core n).log.nextPhase }) cores
  { w with remote := w.remote.filter fun x => !members.contains x.1 }.releaseAll (anyRace logs) ts

theorem execPhaseComplete_ends (part : BitVec 6) (lid : BitVec 64) (grp : BitVec 32) (s t u : State) (m : Nat)
    (rest : List Nat)
    (h : s.PhaseDue part.toNat lid grp) (hb : s.barrierHeld (s.groupCores part.toNat (lid, grp)) = false)
    (hs : s.barrierSplits ((s.groupCores part.toNat (lid, grp)).map (· / 8)).eraseDups = (none, t))
    (hu : t.eachCore State.closeOnce (s.groupCores part.toNat (lid, grp)) = u)
    (hclosed : ∀ m ∈ s.groupCores part.toNat (lid, grp), (u.core m).log.closed = [])
    (hm : s.groupCores part.toNat (lid, grp) = m :: rest) :
    execPhaseComplete part lid grp s = .next (u.phaseEnded lid grp (s.groupCores part.toNat (lid, grp))
      (u.core m).log.members (s.groupCtxs part.toNat lid grp)).rest := by
  have hnone : ¬((s.groupCores part.toNat (lid, grp)).any fun n => (u.core n).log.closed != []) = true := by
    rw [List.any_eq_true]
    rintro ⟨n, hn, hne⟩
    rw [hclosed n hn] at hne
    exact absurd hne (by decide)
  refine (if_neg h.passes).trans ((if_neg (by rw [hb]; exact Bool.false_ne_true)).trans ?_)
  simp only [hs, hu]
  refine (if_neg hnone).trans ?_
  rw [hm]
  rfl

/-! Rows of matrix commands (05 R141, R149, R150). -/

/-- The command served has a row left: one row of it. -/
theorem execMmaRowCommit_steps (core : BitVec 9) (s : State) (i : BitVec 2) (p : Pending)
    (h : (s.core core.toNat).serving = some (i, p)) (hr : p.rowLeft = true) :
    execMmaRowCommit core s = .next (s.rowStep core.toNat i p).rest := by
  unfold execMmaRowCommit
  simp only [h, hr, if_true, settle_eq]

/-- A row that commits leaves its command with the next one to do. -/
theorem rowStep_commits (s t : State) (n : Nat) (i : BitVec 2) (p x : Pending)
    (h : (s.actCmd n i p).commitRow n p = .ok x t) : s.rowStep n i p = (t.setCmd n i .mtx x).noteNext n i x := by
  unfold State.rowStep
  rw [h]

theorem commitRow_of_mload (s : State) (n : Nat) (p : Pending) (tile : BitVec 4) (a st : Word) (ty nr nc s0 : Nat)
    (hp : p.cmd = .mload tile a st ty nr nc s0) : s.commitRow n p = s.loadMatRow n p tile a st ty nc := by
  unfold State.commitRow
  simp only [hp]

theorem commitRow_of_mstore (s : State) (n : Nat) (p : Pending) (tile : BitVec 4) (a st : Word) (ty tt nr nc s0 : Nat)
    (m6 : Word) (ks : Vector W32 8) (hp : p.cmd = .mstore tile a st ty tt nr nc s0 m6 ks) :
    s.commitRow n p = (s.storeMatRow n p tile.toNat p.prog (rowAddr a st p.prog) ty tt nc
      (scaleOf ks (m6.getLsbD 51) (fld m6.toNat 48 3) p.prog)).bind fun x t =>
        .ok { x with prog := if x.ahead = [] then p.prog + 1 else p.prog } t := by
  unfold State.commitRow
  simp only [hp]

/-- The command served commits its row. -/
theorem execMmaRowCommit_commits (core : BitVec 9) (s t : State) (i : BitVec 2) (p x : Pending)
    (h : (s.core core.toNat).serving = some (i, p)) (hr : p.rowLeft = true)
    (hx : (s.actCmd core.toNat i p).commitRow core.toNat p = .ok x t) :
    execMmaRowCommit core s = .next ((t.setCmd core.toNat i .mtx x).noteNext core.toNat i x).rest := by
  rw [execMmaRowCommit_steps core s i p h hr, rowStep_commits s t core.toNat i p x hx]

/-- MLOAD: the containers of the row's elements in the tile. -/
theorem commitRow_mload (s t : State) (n : Nat) (p : Pending) (tile : BitVec 4) (a st : Word) (ty nr nc s0 : Nat)
    (xs : List Nat) (hp : p.cmd = .mload tile a st ty nr nc s0)
    (hx : s.operandRow n (rowAddr a st p.prog) ty nc = .ok xs t) :
    let w := t.mendTile n tile.toNat
    let new := ofLanes fun j => loadContainer ty (xs.getD j 0)
    let nan := isFloatT ty && (List.range nc).any fun j => fp32.read (lane new j).toNat == .nan
    let put (x : Tile) : Tile := x.setRow p.prog new fun j => decide (j < nc)
    s.commitRow n p = .ok { p with prog := p.prog + 1, cki := p.cki ||| w.raised ||| (if nan then ckiCNAN else 0) }
      (w.setCore n { w.core n with tiles := vmod (w.core n).tiles tile.toNat put }) := by
  rw [commitRow_of_mload s n p tile a st ty nr nc s0 hp, State.loadMatRow, hx]
  rfl

/-- MSTORE: a row whose bytes translate whole is put in memory, all of it or its first pieces. -/
theorem commitRow_mstore (s t : State) (n : Nat) (p : Pending) (tile : BitVec 4) (a st : Word) (ty tt nr nc s0 : Nat)
    (m6 : Word) (ks : Vector W32 8) (l : List (Xlat × Marked)) (v : State) (left : List (Nat × Marked))
    (hp : p.cmd = .mstore tile a st ty tt nr nc s0 m6 ks) (ha : p.ahead = []) :
    let w := s.mendTile n tile.toNat
    let x := (w.core n).tiles[tile.toNat]?.getD Tile.zero
    let outs := (List.range nc).map fun j => (convertScaled tt ty p.fmt (lane (x.rows[p.prog]?.getD 0) j).toNat
      (scaleOf ks (m6.getLsbD 51) (fld m6.toNat 48 3) p.prog).toNat).1
    let bytes := outs.flatMap fun y => leBytes y (typeWidth ty / 8)
    let nan := isFloatT ty && outs.any fun y => (fmtOf ty).read y == .nan
    (w.tasteSums (x.badTo p.prog nc)).piecesFrom n (rowAddr a st p.prog) (bytes.length + 1) (clean bytes) = .ok l t →
    (if l.length ≤ 1 then (t.putPieces l, []) else t.putRow l) = (v, left) →
    s.commitRow n p = .ok { p with
      parts := [], ahead := left, cki := p.cki ||| v.raised ||| (if nan then ckiCNAN else 0)
      prog := if left = [] then p.prog + 1 else p.prog } v := by
  intro w x outs bytes nan hpieces hput
  rw [commitRow_of_mstore s n p tile a st ty tt nr nc s0 m6 ks hp, State.storeMatRow, if_neg (not_not_intro ha)]
  dsimp only
  rw [hpieces]
  dsimp only
  rw [hput]
  rfl

/-! The end of a matrix command (05 R147). -/

/-- What is left of a matrix command with no row to commit. -/
def State.endCmd (s : State) (n : Nat) (i : BitVec 2) (p : Pending) : State :=
  match p.cmd with
  | .mma ta tb r ks => s.endMma n i p ta tb r ks
  | .mzero m => (s.setCore n { s.core n with
      tiles := (s.core n).tiles.mapIdx fun t x => if m.getLsbD t then Tile.zero else x }).complete n i .mtx p
  | .mload .. => s.complete n i .mtx p
  | .mstore .. => s.complete n i .mtx p
  | _ => s.runLattice n i p

theorem execMatrixComplete_ends (core : BitVec 9) (s : State) (i : BitVec 2) (p q : Pending)
    (h : (s.core core.toNat).serving = some (i, p)) :
    let u := (s.actFor core.toNat i).allRows core.toNat i p.seq 65
    u.cmd core.toNat i .mtx p.seq = some q → q.phase = .waiting → q.rowLeft = false →
      execMatrixComplete core s = .next ((u.actCmd core.toNat i q).endCmd core.toNat i q).rest := by
  intro u hq hw hr
  unfold execMatrixComplete
  simp only [h]
  rw [hq]
  dsimp only
  rw [if_neg (by simp [hw, hr])]
  unfold State.endCmd
  cases q.cmd <;> rfl

theorem endCmd_mma (v : State) (n : Nat) (i : BitVec 2) (q : Pending) (ta tb : Nat) (r : Vector Word 8) (ks : Vector W32 8)
    (hq : q.cmd = .mma ta tb r ks) : v.endCmd n i q = v.endMma n i q ta tb r ks := by
  unfold State.endCmd
  simp only [hq]

theorem endCmd_mzero (v : State) (n : Nat) (i : BitVec 2) (q : Pending) (m : BitVec 16) (hq : q.cmd = .mzero m) :
    v.endCmd n i q = (v.setCore n { v.core n with
      tiles := (v.core n).tiles.mapIdx fun t x => if m.getLsbD t then Tile.zero else x }).complete n i .mtx q := by
  unfold State.endCmd
  simp only [hq]

theorem endCmd_mload (v : State) (n : Nat) (i : BitVec 2) (q : Pending) (tile : BitVec 4) (a st : Word) (ty nr nc s0 : Nat)
    (hq : q.cmd = .mload tile a st ty nr nc s0) : v.endCmd n i q = v.complete n i .mtx q := by
  unfold State.endCmd
  simp only [hq]

theorem endCmd_mstore (v : State) (n : Nat) (i : BitVec 2) (q : Pending) (tile : BitVec 4) (a st : Word)
    (ty tt nr nc s0 : Nat) (m6 : Word) (ks : Vector W32 8) (hq : q.cmd = .mstore tile a st ty tt nr nc s0 m6 ks) :
    v.endCmd n i q = v.complete n i .mtx q := by
  unfold State.endCmd
  simp only [hq]

/-! The lattice commands (06 R176-R180). -/

theorem endCmd_sealAcc (v : State) (n : Nat) (i : BitVec 2) (q : Pending) (t : BitVec 4) (hq : q.cmd = .sealAcc t) :
    let x := (v.core n).tiles.get t.toFin
    let summed (x : Tile) : Tile := { Tile.ofRows x.rows with bad := x.bad, good := x.good }
    let w := (v.setCore n { v.core n with tiles := vmod (v.core n).tiles t.toNat summed }).tasteSums (x.bad != [])
    v.endCmd n i q = w.complete n i .mtx (q.take w) := by
  unfold State.endCmd State.runLattice
  simp only [hq]

theorem endCmd_scheckAcc (v w : State) (n : Nat) (i : BitVec 2) (q : Pending) (t : BitVec 4) (r : Word) (fix : Bool)
    (f : Finding) (hq : q.cmd = .scheckAcc t r fix) (hs : q.stage ≠ 1) (hf : v.examineAcc n t fix = (f, w)) :
    v.endCmd n i q = w.report n i { q with tally := q.tally.add f t.toNat, cki := q.cki ||| fixFlags fix w.raised } := by
  unfold State.endCmd State.runLattice
  simp only [hq, if_neg hs, hf]

theorem endCmd_squeryAcc (v : State) (n : Nat) (i : BitVec 2) (q : Pending) (t : BitVec 4) (image : Word)
    (hq : q.cmd = .squeryAcc t image) :
    v.endCmd n i q = v.query n i q (Tile.record ((v.core n).tiles.get t.toFin)) t.toNat image := by
  unfold State.endCmd State.runLattice
  simp only [hq]

theorem endCmd_squery (v w : State) (n : Nat) (i : BitVec 2) (q : Pending) (a image : Word) (t : Nat)
    (hq : q.cmd = .squery a image) (ht : v.tileOf n a = .ok t w) :
    v.endCmd n i q = w.query n i q (w.latOf t) a.toNat image := by
  unfold State.endCmd State.runLattice
  simp only [hq, ht]

/-- SEAL, SCHECK and SFIX of memory report when their walk is through. -/
theorem endCmd_walk (v w : State) (n : Nat) (i : BitVec 2) (q y z : Pending)
    (hq : (∃ a c, q.cmd = .seal a c) ∨ ∃ a c r fix, q.cmd = .scheck a c r fix) (hs : q.stage ≠ 1) (hf : q.failed = none)
    (hw : v.walkFrom n q (walkLength q.cmd + 1) = (.ok y w, z)) : v.endCmd n i q = w.report n i y := by
  have hgo : ¬(q.stage = 1 ∨ q.failed.isSome = true) := by simp [hs, hf]
  unfold State.endCmd State.runLattice
  obtain ⟨a, c, hc⟩ | ⟨a, c, r, fix, hc⟩ := hq <;> rw [hc] at hw <;> simp only [hc, if_neg hgo, hw]

/-! Walks, reports and images (06 R177-R180). -/

theorem walkTile_seal (v w : State) (n : Nat) (q : Pending) (a : Word) (c t : Nat) (hq : q.cmd = .seal a c)
    (ht : v.tileOf n (tileVa a q.prog) = .ok t w) :
    v.walkTile n q = .ok { q with prog := q.prog + 1, cki := q.cki ||| (w.sealTile t).raised } (w.sealTile t) := by
  unfold State.walkTile
  simp only [hq, ht]
  rfl

theorem walkTile_scheck (v w x : State) (n : Nat) (q : Pending) (a r : Word) (c t : Nat) (fix : Bool) (f : Finding)
    (hq : q.cmd = .scheck a c r fix) (ht : v.tileOf n (tileVa a q.prog) = .ok t w) (hf : w.examine t = (f, x)) :
    let y := if fix then x else w
    v.walkTile n q = .ok { q with
      prog := q.prog + 1, tally := q.tally.add f (tileVa a q.prog).toNat, cki := q.cki ||| fixFlags fix y.raised } y := by
  unfold State.walkTile
  simp only [hq, ht, Eng.bind, hf]

/-- A tile with no poisoned container is given the record of its sums. -/
theorem sealTile_clean (v : State) (t : Nat) (h : v.badCells t = []) :
    v.sealTile t = v.setLat t ⟨ofLanes fun i => sumFrom (v.cell t i) 0 64,
      ofLanes fun j => sumFrom (fun i => v.cell t i j) 0 64, false, []⟩ :=
  if_pos h

theorem walkFrom_step (v w : State) (n : Nat) (q y : Pending) (k : Nat) (h : q.prog < walkLength q.cmd)
    (hy : v.walkTile n q = .ok y w) : v.walkFrom n q (k + 1) = w.walkFrom n y k := by
  rw [State.walkFrom, if_pos h, hy]

theorem walkFrom_end (v : State) (n : Nat) (q : Pending) (k : Nat) (h : walkLength q.cmd ≤ q.prog) :
    v.walkFrom n q (k + 1) = (.ok q v, q) := by
  rw [State.walkFrom, if_neg (Nat.not_lt.mpr h)]

/-- A command that writes no record is complete. -/
theorem report_none (v : State) (n : Nat) (i : BitVec 2) (q : Pending) (hf : q.failed = none) (hr : resultAt q.cmd = none) :
    v.report n i q = v.complete n i .mtx q := by
  unfold State.report
  simp only [hr, hf]

/-- One whose record is written is complete. -/
theorem report_writes (v w : State) (n : Nat) (i : BitVec 2) (q : Pending) (r : Word) (x : Unit)
    (hf : q.failed = none) (hr : resultAt q.cmd = some r) (hw : v.engPut n q.parts r (clean q.tally.bytes) = .ok x w) :
    v.report n i q = w.complete n i .mtx q := by
  unfold State.report
  simp only [hr, hf, hw]

theorem query_writes (v w z : State) (n : Nat) (i : BitVec 2) (q : Pending) (r : LatRec) (a : Nat) (image : Word)
    (x : Unit) (hw : v.someRows n image (clean (queryImage r a)) = (none, w))
    (hz : w.engPut n q.parts image (clean (queryImage r a)) = .ok x z) :
    v.query n i q r a image = z.complete n i .mtx q := by
  unfold State.query
  simp only [hw, hz]

/-! The assist, and a halted pair (05 R140, 16 R435, R436). -/

section Assist

variable (core : BitVec 9) (s t : State) (i : BitVec 2) (p : Pending)

/-- A pair that disagrees on an assist halts. -/
theorem execSubnormalAssist_halts
    (h : (s.core core.toNat).matrixCmds.find? (fun x => x.2.phase == .assist) = some (i, p))
    (hn : s.device.halts.contains (core.toNat / 8) = false) (hd : s.disagrees (core.toNat / 8) = (true, t)) :
    execSubnormalAssist core s = .next (t.lockstepHalt (core.toNat / 8)).rest := by
  unfold execSubnormalAssist
  simp only [h, hn, hd, Bool.false_eq_true, if_false, settle_eq]

/-- One that agrees runs it. -/
theorem execSubnormalAssist_runs
    (h : (s.core core.toNat).matrixCmds.find? (fun x => x.2.phase == .assist) = some (i, p))
    (hn : s.device.halts.contains (core.toNat / 8) = false) (hd : s.disagrees (core.toNat / 8) = (false, t)) :
    execSubnormalAssist core s = t.runAssist core.toNat i p := by
  unfold execSubnormalAssist
  simp only [h, hn, hd, Bool.false_eq_true, if_false]

end Assist

theorem runAssist_ok (t w : State) (n : Nat) (i : BitVec 2) (p : Pending) (ta tb : Nat) (r : Vector Word 8)
    (ks : Vector W32 8) (y : BitVec 11) (hp : p.cmd = .mma ta tb r ks)
    (hy : (t.actCmd n i p).assistFrom n p ta tb (mmaPar r) p.marks = .ok y w) :
    t.runAssist n i p = .next (w.setCmd n i .mtx { p with
      marks := [], phase := .waiting, cki := p.cki ||| ckiSUBNA ||| y ||| w.raised }).rest := by
  unfold State.runAssist
  simp only [hp, hy, settle_eq]

/-- A halted pair passes its self-test: reset, it takes up what it held. -/
theorem execLockstepSelftest_passes (cluster : BitVec 6) (s : State) (h : s.device.halts.contains cluster.toNat = true) :
    let u := s.setDevice { s.device with halts := s.device.halts.filter (· ≠ cluster.toNat), held := [] }
    let reset := u.cores.filter fun x => x.1 ≠ 512 + cluster.toNat ∧ x.1 ≠ 576 + cluster.toNat
    execLockstepSelftest cluster true s =
      .next (({ u with cores := reset }.wakeCores (clusterCores cluster.toNat)).handleHeld s.device.held).rest := by
  unfold execLockstepSelftest
  simp only [h, Bool.not_true, Bool.false_eq_true, if_false, if_true, settle_eq]

/-- It fails: its cluster is retired. -/
theorem execLockstepSelftest_fails (cluster : BitVec 6) (s : State) (h : s.device.halts.contains cluster.toNat = true) :
    let u := s.setDevice { s.device with halts := s.device.halts.filter (· ≠ cluster.toNat), held := [] }
    execLockstepSelftest cluster false s = .next ((u.retireCluster cluster.toNat).handleHeld s.device.held).rest := by
  unfold execLockstepSelftest
  simp only [h, Bool.not_true, Bool.false_eq_true, if_false, settle_eq]

/-! Passes of a stack's engine (13 R353-R355). -/

/-- With every buffer of its domain taken, an engine offers no page. -/
theorem execSweepPageOffer_full (dom : BitVec 3) (s u : State) (hu : s.mergeAll.deliverAll dom.toNat = u)
    (hb : 8 ≤ (u.bufs.filter fun b => b.dom = dom.toNat).length) :
    execSweepPageOffer dom s = .next u.pumpSweeps.rest := by
  unfold execSweepPageOffer
  simp only [hu, if_pos hb, settle_eq]

theorem execSweepPageOffer_steps (dom : BitVec 3) (s t u : State) (j : EngineJob) (hu : s.mergeAll.deliverAll dom.toNat = u)
    (hb : (u.bufs.filter fun b => b.dom = dom.toNat).length < 8) (hj : u.choose (u.engineJobs dom.toNat) = (some j, t)) :
    execSweepPageOffer dom s = .next ((t.engineStep dom.toNat j).deliverSome dom.toNat).pumpSweeps.rest := by
  unfold execSweepPageOffer
  simp only [hu, if_neg (Nat.not_le.mpr hb), hj, settle_eq]

/-- Whether a catch-up pass of a stack's engine can begin in a sweep. -/
def Sweep.owesPass (x : Sweep) (d : Nat) : Bool :=
  x.st != .opened && x.mainDone d && (x.engine d).walk.isNone && !(x.engine d).idle && (x.nextPage d 0 true).isSome

theorem execSweepCatchupPass_begins (dom : BitVec 3) (s t : State) (id : Nat) (x : Sweep)
    (h : s.mergeAll.choose (s.mergeAll.sweeps.filter fun x => x.2.owesPass dom.toNat) = (some (id, x), t)) :
    execSweepCatchupPass dom s = .next ((t.setSweep id (x.modEngine dom.toNat fun e =>
      { e with walk := some 0, hit := false })).deliverAll dom.toNat).pumpSweeps.rest := by
  unfold execSweepCatchupPass
  dsimp only
  unfold Sweep.owesPass at h
  rw [h]
  rfl

/-- Settles O50: each event by its lemma. -/
theorem engineEventsComplete : Obligations.EngineEventsComplete := by
  intro s core ctx part cluster lid grp dom n on
  refine ⟨fun p t => execCopyComplete_performs core ctx s t p,
    fun x t ws r h hw => execNtStorePerform_performs core s t r x ws h hw, settle_eq _,
    fun ht ha hh hk => ?phase, fun i p h => ⟨execMmaRowCommit_steps core s i p h, ?mload, ?mstore, fun q hq hw hr => ?ends⟩,
    fun v i q => ?walks, fun i p t h hn => ⟨execSubnormalAssist_halts core s t i p h hn, ?assist⟩,
    fun h => ⟨execLockstepSelftest_passes cluster s h, execLockstepSelftest_fails cluster s h⟩,
    execSweepPageOffer_full dom s _ rfl, fun hb j t hj => execSweepPageOffer_steps dom s t _ j rfl hb hj,
    fun id x t hx => execSweepCatchupPass_begins dom s t id x hx⟩
  case phase =>
    have hdue : s.PhaseDue part.toNat lid grp := ⟨ht, ha, hh, hk⟩
    exact ⟨execPhaseComplete_held part lid grp s hdue,
      fun q t hb hs => execPhaseComplete_splits part lid grp s t q hdue hb hs,
      fun t hb hs hclosed m rest hm => execPhaseComplete_ends part lid grp s t _ m rest hdue hb hs rfl hclosed hm⟩
  case mload =>
    exact fun tile a st ty nr nc s0 xs t hr hp hx => execMmaRowCommit_commits core s _ i p _ h hr
      (commitRow_mload _ t n p tile a st ty nr nc s0 xs hp hx)
  case mstore =>
    exact fun tile a st ty tt nr nc s0 m6 ks l t v left hr hp hahead hl hv => execMmaRowCommit_commits core s _ i p _ h hr
      (commitRow_mstore _ t n p tile a st ty tt nr nc s0 m6 ks l v left hp hahead hl hv)
  case ends =>
    let v := ((s.actFor n i).allRows n i p.seq 65).actCmd n i q
    have hends : ∀ {w : State}, v.endCmd n i q = w → exec (.matrixComplete core) s = on w := fun hv =>
      (execMatrixComplete_ends core s i p q h hq hw hr).trans (congrArg on hv)
    exact ⟨fun tile a st ty nr nc s0 hc => hends (endCmd_mload v n i q tile a st ty nr nc s0 hc),
      fun tile a st ty tt nr nc s0 m6 ks hc => hends (endCmd_mstore v n i q tile a st ty tt nr nc s0 m6 ks hc),
      fun t hc => hends (endCmd_sealAcc v n i q t hc),
      fun t r fix f w hc hs hf => hends (endCmd_scheckAcc v w n i q t r fix f hc hs hf),
      fun t image hc => hends (endCmd_squeryAcc v n i q t image hc),
      fun a image t w hc ht => hends (endCmd_squery v w n i q a image t hc ht),
      fun y w z hc hs hf hwalk => hends (endCmd_walk v w n i q y z hc hs hf hwalk),
      fun ta tb r ks hc => hends (endCmd_mma v n i q ta tb r ks hc), fun m hc => hends (endCmd_mzero v n i q m hc)⟩
  case walks =>
    exact ⟨fun a c hq t w ht => walkTile_seal v w n q a c t hq ht, sealTile_clean v,
      fun a c r fix hq t w f x ht hf => walkTile_scheck v w x n q a r c t fix f hq ht hf,
      fun k hk y w hy => walkFrom_step v w n q y k hk hy, fun k hk => walkFrom_end v n q k hk,
      fun hf => ⟨report_none v n i q hf, fun r x w hr hw => report_writes v w n i q r x hf hr hw⟩,
      fun r a image w x z hw hz => query_writes v w z n i q r a image x hw hz⟩
  case assist =>
    exact fun hd ta tb r ks hp y w hy => (execSubnormalAssist_runs core s t i p h hn hd).trans
      (runAssist_ok t w n i p ta tb r ks y hp hy)

end Sys2Proof.Machine
end

section
/-! SUPPORT. Scalar stores of a compute core (07 R185-R187, 08 R212, R223, R227): what an access that translates and one that
misses give, and each store by the KIND of its address. -/

namespace Sys2Proof.Machine

/-! Translated accesses (07 R185). -/

/-- An access keeps its virtual address. -/
theorem access_va {s : State} {va : Word} {n al : Nat} {w : Bool} {acc : Access} (h : s.access va n al w = .ok acc) :
    acc.va = va := by
  unfold State.access at h
  split at h
  · rw [← Except.ok.inj h]
  · cases h

/-- One that the table does not translate is XLATE_MISS with its cause. -/
theorem access_miss {s : State} {va : Word} {n al c : Nat} {w : Bool} (h : s.xlate va.toNat n al w = .error c) :
    s.access va n al w = .error (xlateMiss s c va) := by
  unfold State.access
  rw [h]

/-! What a store's repairs have raised lands with it; where nothing is raised, nothing lands. -/

theorem landRaised_of_raised_zero (s : State) (h : s.raised = 0) : s.landRaised = s := by
  obtain ⟨⟩ := s
  subst h
  rfl

/-! One entry of the log (08 R212). -/

/-- A plain store reads no base, so its entry meets no poison. -/
theorem meetBases_store (s : State) (core sz : Nat) (lms : BitVec 12) (off data : Nat) :
    s.meetBases core [s.entry 1 sz lms off data] = (s, false) := by
  have hop : ¬((s.entry 1 sz lms off data).op ≠ 1 ∧ s.lmsBad core (s.entry 1 sz lms off data).lms
      (s.entry 1 sz lms off data).off (s.entry 1 sz lms off data).bytes = true) := fun h => h.1 rfl
  simp only [State.meetBases, State.meetBase, if_neg hop, Bool.or_self]

theorem logStore_store (s : State) (sz : Nat) (lms : BitVec 12) (off data : Nat) (l : Log)
    (h : Log.store s.co.log (s.lmsBase s.cur.core) s.floorOf [s.entry 1 sz lms off data] = .ok l) :
    s.logStore [s.entry 1 sz lms off data] = .ok (s.putLog s.cur.core l) := by
  simp only [State.logStore, meetBases_store, h]
  rfl

/-! A scalar store by the KIND of its address (07 R186). -/

theorem localStore_slice (s : State) (acc : Access) (n : Nat) (v : Word) (hk : acc.loc.kind ≤ 1) :
    s.localStore acc n v = .ok (s.storeAt (s.accessPa acc) (leBytes v.toNat n)) := by
  unfold State.localStore
  rw [if_neg (by omega), if_neg (by omega)]

theorem localStore_lms (s : State) (acc : Access) (n : Nat) (v : Word) (hk : acc.loc.kind = 2) :
    s.localStore acc n v = s.logStore [s.entry 1 (sizeLog n) acc.loc.lms (s.accessLms acc) v.toNat] := by
  unfold State.localStore
  rw [if_neg (by omega), if_pos hk]

theorem localStore_direct (s : State) (acc : Access) (n : Nat) (v : Word) (hk : acc.loc.kind = 3) :
    s.localStore acc n v = .error (kindFault s acc.va) :=
  if_pos hk

/-! Non-temporal words (08 R223). -/

/-- The copy engine's queue takes another entry while it holds fewer than 32. -/
theorem handOver_appends (s : State) (ws : List (Nat × BitVec 4 × W32)) (h : s.co.nt.length < 32) :
    s.handOver ws = .ok (s.setCo { s.co with nt := s.co.nt ++ [⟨s.co.ntNum, s.cur.ctx, ws⟩], ntNum := s.co.ntNum + 1 }) :=
  if_neg (Nat.not_le.mpr h)

/-! Each store on a compute core. -/

@[simp] theorem clear_onControl (s : State) : s.clear.onControl = s.onControl := rfl

section
variable (p : Pred) (d a x : BitVec 6) (t : BitVec 4) (sc ms : BitVec 3) (off : BitVec 24) (s : State)

/-- ST on a compute core does what the store at its translated address does. -/
theorem execSt_stores (acc : Access) (u : State) (h : s.Runs p [.s d, .s a, .s x]) (hc : s.onControl = false)
    (ha : s.access (s.cx.addrM a x sc off) (memSize t.toNat) (memSize t.toNat) true = .ok acc)
    (hu : s.clear.localStore acc (memSize t.toNat) (s.cx.rs d) = .ok u) :
    execSt p d a x t sc off s = .next u.landRaised.done := by
  refine finish_runStore p [.s d] [.s a, .s x] _ s u h ?_
  simp only [clear_onControl, hc, Bool.false_eq_true, if_false, clear_cx, clear_access, ha, hu]

theorem execSt_traps (acc : Access) (c k : Nat) (va : Word) (h : s.Runs p [.s d, .s a, .s x]) (hc : s.onControl = false)
    (ha : s.access (s.cx.addrM a x sc off) (memSize t.toNat) (memSize t.toNat) true = .ok acc)
    (hu : s.clear.localStore acc (memSize t.toNat) (s.cx.rs d) = .error (.trap c k s.cur.slot va)) :
    execSt p d a x t sc off s = .next (s.stoppedBy c k va) := by
  refine finish_runStore_trap p [.s d] [.s a, .s x] _ s c k va h ?_
  simp only [clear_onControl, hc, Bool.false_eq_true, if_false, clear_cx, clear_access, ha, hu]

theorem execSt_misses (c : Nat) (h : s.Runs p [.s d, .s a, .s x]) (hc : s.onControl = false)
    (hx : s.xlate (s.cx.addrM a x sc off).toNat (memSize t.toNat) (memSize t.toNat) true = .error c) :
    execSt p d a x t sc off s = .next (s.stoppedBy 7 c (s.cx.addrM a x sc off)) := by
  refine finish_runStore_trap p [.s d] [.s a, .s x] _ s 7 c _ h ?_
  simp only [clear_onControl, hc, Bool.false_eq_true, if_false, clear_cx, clear_access, access_miss hx]
  rfl

/-- STNT to a DIRECT entry puts its words at the end of the copy engine's queue (08 R223). -/
theorem execStnt_hands_over (acc : Access) (h : s.Runs p [.s d, .s a, .s x])
    (ha : s.access (s.cx.addrM a x sc off) (memSize t.toNat) (memSize t.toNat) true = .ok acc) (hk : acc.loc.kind = 3)
    (hn : s.co.nt.length < 32) :
    execStnt p d a x t sc off s = .next (s.clear.setCo { s.co with
      nt := s.co.nt ++ [⟨s.co.ntNum, s.cur.ctx, ntWords acc.loc.off (memSize t.toNat) (s.cx.rs d).toNat⟩]
      ntNum := s.co.ntNum + 1 }).done := by
  rw [← landRaised_of_raised_zero (s.clear.setCo _) rfl]
  refine finish_runStore p [.s d] [.s a, .s x] _ s _ h ?_
  simp only [clear_cx, clear_access, ha, hk, ne_eq, not_true_eq_false, if_false]
  exact handOver_appends s.clear _ hn

theorem execStnt_kindFaults (acc : Access) (h : s.Runs p [.s d, .s a, .s x])
    (ha : s.access (s.cx.addrM a x sc off) (memSize t.toNat) (memSize t.toNat) true = .ok acc) (hk : acc.loc.kind ≠ 3) :
    execStnt p d a x t sc off s = .next (s.stoppedBy 8 0 (s.cx.addrM a x sc off)) := by
  refine finish_runStore_trap p [.s d] [.s a, .s x] _ s 8 0 _ h ?_
  simp only [clear_cx, clear_access, ha, if_pos hk]
  rfl

theorem execStnt_misses (c : Nat) (h : s.Runs p [.s d, .s a, .s x])
    (hx : s.xlate (s.cx.addrM a x sc off).toNat (memSize t.toNat) (memSize t.toNat) true = .error c) :
    execStnt p d a x t sc off s = .next (s.stoppedBy 7 c (s.cx.addrM a x sc off)) := by
  refine finish_runStore_trap p [.s d] [.s a, .s x] _ s 7 c _ h ?_
  simp only [clear_cx, clear_access, access_miss hx]
  rfl

/-- STCMB to a PRIVATE or CORE entry combines in place; poison of the bytes it read lands with it (08 R227). -/
theorem execStcmb_combines (acc : Access) (h : s.Runs p [.s d, .s a, .s x])
    (ha : s.access (s.cx.addrM a x sc off) (codeBytes (combineCode ms.toNat t.toNat))
      (codeBytes (combineCode ms.toNat t.toNat)) true = .ok acc) (hk : acc.loc.kind ≤ 1) :
    let code := combineCode ms.toNat t.toNat
    let r := s.clear.combineAt (s.accessPa acc) code ((s.cx.rs d).toNat % 2 ^ (8 * codeBytes code))
    execStcmb p d a x t sc ms off s = .next (r.1.landFlag (if r.2 then ckiPOISON else 0)).landRaised.done := by
  refine finish_runStore p [.s d] [.s a, .s x] _ s _ h ?_
  simp only [clear_cx, clear_access, ha, if_neg (show ¬acc.loc.kind = 3 by omega), if_neg (show ¬acc.loc.kind = 2 by omega)]
  rfl

/-- STCMB to an LMS entry appends its entry (08 R218). -/
theorem execStcmb_logs (acc : Access) (u : State) (h : s.Runs p [.s d, .s a, .s x])
    (ha : s.access (s.cx.addrM a x sc off) (codeBytes (combineCode ms.toNat t.toNat))
      (codeBytes (combineCode ms.toNat t.toNat)) true = .ok acc) (hk : acc.loc.kind = 2)
    (hu : s.clear.logStore [s.entry (16 + combineCode ms.toNat t.toNat) (sizeLog (codeBytes (combineCode ms.toNat t.toNat)))
      acc.loc.lms (s.accessLms acc) (s.cx.rs d).toNat] = .ok u) :
    execStcmb p d a x t sc ms off s = .next u.landRaised.done := by
  refine finish_runStore p [.s d] [.s a, .s x] _ s u h ?_
  simp only [clear_cx, clear_access, ha, hk, Nat.reduceEqDiff, if_false, if_true]
  exact hu

theorem execStcmb_kindFaults (acc : Access) (h : s.Runs p [.s d, .s a, .s x])
    (ha : s.access (s.cx.addrM a x sc off) (codeBytes (combineCode ms.toNat t.toNat))
      (codeBytes (combineCode ms.toNat t.toNat)) true = .ok acc) (hk : acc.loc.kind = 3) :
    execStcmb p d a x t sc ms off s = .next (s.stoppedBy 8 0 (s.cx.addrM a x sc off)) := by
  refine finish_runStore_trap p [.s d] [.s a, .s x] _ s 8 0 _ h ?_
  simp only [clear_cx, clear_access, ha, if_pos hk]
  rfl

theorem execStcmb_misses (c : Nat) (h : s.Runs p [.s d, .s a, .s x])
    (hx : s.xlate (s.cx.addrM a x sc off).toNat (codeBytes (combineCode ms.toNat t.toNat))
      (codeBytes (combineCode ms.toNat t.toNat)) true = .error c) :
    execStcmb p d a x t sc ms off s = .next (s.stoppedBy 7 c (s.cx.addrM a x sc off)) := by
  refine finish_runStore_trap p [.s d] [.s a, .s x] _ s 7 c _ h ?_
  simp only [clear_cx, clear_access, access_miss hx]
  rfl

end

/-- Settles O22: ST by the store at its address, STNT and STCMB by their lemmas, one for each KIND and for a miss. -/
theorem scalarStoresCompleteOrFault : Obligations.ScalarStoresCompleteOrFault := by
  intro s p d a x t sc ms off h hc va v n code m
  refine ⟨fun acc ha => ⟨fun hk => ?slice, fun hk l hl => ?lms, fun hk => ?direct,
      execStnt_hands_over p d a x t sc off s acc h ha, execStnt_kindFaults p d a x t sc off s acc h ha⟩,
    fun c hx => ⟨execSt_misses p d a x t sc off s c h hc hx, execStnt_misses p d a x t sc off s c h hx⟩,
    fun c hx => execStcmb_misses p d a x t sc ms off s c h hx,
    fun acc ha => ⟨execStcmb_combines p d a x t sc ms off s acc h ha,
      fun hk w hw => execStcmb_logs p d a x t sc ms off s acc w h ha hk hw,
      execStcmb_kindFaults p d a x t sc ms off s acc h ha⟩⟩
  case slice => exact execSt_stores p d a x t sc off s acc _ h hc ha (localStore_slice s.clear acc n v hk)
  case lms =>
    exact execSt_stores p d a x t sc off s acc _ h hc ha
      ((localStore_lms s.clear acc n v hk).trans (logStore_store s.clear _ _ _ _ l hl))
  case direct =>
    have hva : acc.va = va := access_va ha
    exact execSt_traps p d a x t sc off s acc 8 0 va h hc ha (hva ▸ localStore_direct s.clear acc n v hk)

end Sys2Proof.Machine
end

section
/-! SUPPORT. The issue of copy commands (09 R240-R245, 08 R223): what a command's parameters decide, and what a stream's binding
decides besides. -/

namespace Sys2Proof.Machine

/-! Commands that take an engine slot. -/

/-- The two outcomes of a copy command whose slot runs: COPY_PARAM or the issue. -/
structure CopyOutcome (s : State) (r : Result) (d : BitVec 6) (cmd : Cmd) (bad : Prop) : Prop where
  param : bad → r = .next (s.stoppedBy 13 0 0)
  issues : ¬bad → r = .next (s.clear.issue .cpy d cmd 0).done

theorem copyOutcome_finish {p : Pred} {rs : List Reg} {act : State → Except Stop State} {s : State} {d : BitVec 6} {cmd : Cmd}
    {bad : Bool} {wrong : Prop} (h : s.Runs p rs) (hf : slotBlock .cpy s = none) (hbad : bad = true ↔ wrong)
    (hact : act s.clear = s.clear.issueCopy d cmd bad) :
    CopyOutcome s (finish (runSlot p rs (slotBlock .cpy) act) s) d cmd wrong where
  param hw := finish_runSlot_trap _ _ _ _ _ _ _ _ h hf (hact.trans (if_pos (hbad.mpr hw)))
  issues hw := finish_runSlot _ _ _ _ _ _ h hf (hact.trans (if_neg (mt hbad.mp hw)))

section
variable {p : Pred} {d a b c : BitVec 6} {s : State} (hf : slotBlock .cpy s = none)
include hf

theorem execCpy_outcome (h : s.Runs p [.s a, .s b, .s c]) :
    CopyOutcome s (execCpy p d a b c s) d (.cpy (s.cx.rs a) (s.cx.rs b) (s.cx.rs c).toNat)
      (lenBad (s.cx.rs a) (s.cx.rs b) (s.cx.rs c) = true) :=
  copyOutcome_finish h hf Iff.rfl rfl

theorem execCpycrc_outcome (h : s.Runs p [.s a, .s b, .s c]) :
    CopyOutcome s (execCpycrc p d a b c s) d (.cpycrc (s.cx.rs a) (s.cx.rs b) (s.cx.rs c).toNat true)
      (lenBad (s.cx.rs a) (s.cx.rs b) (s.cx.rs c) = true) :=
  copyOutcome_finish h hf Iff.rfl rfl

/-- A multicast must reach a core besides. -/
theorem execCpymc_outcome (clusters cores : BitVec 8) (dom : BitVec 3) (h : s.Runs p [.s a, .s b, .s c]) :
    CopyOutcome s (execCpymc p d a b c clusters cores dom s) d
      (.cpymc (s.cx.rs a) (s.cx.rs b) (s.cx.rs c).toNat clusters cores dom)
      (lenBad (s.cx.rs a) (s.cx.rs b) (s.cx.rs c) = true ∨ mcTargets clusters cores dom = []) :=
  copyOutcome_finish h hf (by rw [Bool.or_eq_true, List.isEmpty_iff, clear_cx]) rfl

/-- A copy of rows: 16-byte places and strides, and no byte in a row of both sides. -/
theorem execCpy2_outcome (rows rlen : BitVec 10) (h : s.Runs p [.s a, .s b, .s c]) :
    let ds : W32 := (s.cx.rs c).setWidth 32
    let ss : W32 := (s.cx.rs c >>> 32).setWidth 32
    CopyOutcome s (execCpy2 p d a b c rows rlen s) d
      (.cpy2 (s.cx.rs a) (s.cx.rs b) (rows.toNat + 1) (16 * (rlen.toNat + 1)) ds ss)
      (¬((s.cx.rs a).toNat % 16 = 0 ∧ (s.cx.rs b).toNat % 16 = 0 ∧ ds.toNat % 16 = 0 ∧ ss.toNat % 16 = 0 ∧
        rowsShare (s.cx.rs a) (s.cx.rs b) (rows.toNat + 1) (16 * (rlen.toNat + 1)) ds ss = false)) :=
  copyOutcome_finish h hf
    (by
      rw [clear_cx]
      simp only [Bool.or_eq_true, decide_eq_true_eq, Classical.not_and_iff_not_or_not, ne_eq, Bool.not_eq_false, or_assoc])
    rfl

theorem execCpycrcChk_outcome (h : s.Runs p [.s b, .s c]) :
    CopyOutcome s (execCpycrcChk p d b c s) d (.cpycrc 0 (s.cx.rs b) (s.cx.rs c).toNat false)
      (2 ^ 40 ≤ (s.cx.rs c).toNat) :=
  copyOutcome_finish h hf decide_eq_true_iff rfl

/-- NTDRAIN has no parameter; it waits for the stores handed over so far (08 R223). -/
theorem execNtdrain_issues (h : s.Runs p []) :
    execNtdrain p d s = .next (s.clear.issue .cpy d (.ntdrain s.co.ntNum) 0).done :=
  finish_runSlot _ _ _ _ _ _ h hf rfl

end

/-! Commands of a stream (09 R242). -/

/-- A command issued, and its stream bound to the number it has. -/
def State.issueBound (s : State) (d : BitVec 6) (q : BitVec 4) (kind : BindKind) (cmd : Cmd) : State :=
  let u := s.issue .cpy d cmd 0
  u.setCx (u.cx.setStream q ((u.cx.stream q).bindTo ⟨kind, s.nextSeq .cpy⟩))

/-- What a CPYQ's address and count must be. -/
def streamLegal (va count : Word) : Prop := va.toNat % 16 = 0 ∧ count ≠ 0 ∧ count.toNat < 2 ^ 32

section
variable {s : State} {d : BitVec 6} {q : BitVec 4} {kind : BindKind} {cmd : Cmd} {va count : Word}

theorem issueStream_param (h : ¬streamLegal va count) :
    s.issueStream d q kind cmd va count = .error (s.trapHere 13 0 0) := by
  refine if_pos ?_
  simpa only [streamLegal, Classical.not_and_iff_not_or_not, Classical.not_not, Nat.not_lt, ne_eq] using h

/-- With a legal address and count the stream decides. -/
theorem issueStream_legal (h : streamLegal va count) : s.issueStream d q kind cmd va count =
    if (s.cx.stream q).held = true then .error (s.trapHere 14 0 0) else .ok (s.issueBound d q kind cmd) := by
  obtain ⟨hva, hn, hlt⟩ := h
  exact if_neg (not_or.mpr ⟨not_not_intro hva, not_or.mpr ⟨hn, Nat.not_le.mpr hlt⟩⟩)

end

/-- The three outcomes of a CPYQ whose slot runs: COPY_PARAM, STREAM_BUSY, or the issue with the stream bound. -/
structure StreamOutcome (s : State) (r : Result) (d : BitVec 6) (q : BitVec 4) (kind : BindKind) (cmd : Cmd)
    (legal : Prop) : Prop where
  issues : legal → (s.cx.stream q).held = false → r = .next (s.clear.issueBound d q kind cmd).done
  param : ¬legal → r = .next (s.stoppedBy 13 0 0)
  busy : legal → (s.cx.stream q).held = true → r = .next (s.stoppedBy 14 0 0)

theorem streamOutcome_finish {p : Pred} {rs : List Reg} {act : State → Except Stop State} {s : State} {d : BitVec 6}
    {q : BitVec 4} {kind : BindKind} {cmd : Cmd} {va count : Word} (h : s.Runs p rs)
    (hact : act s.clear = s.clear.issueStream d q kind cmd va count) :
    StreamOutcome s (finish (runSlot p rs noBlock act) s) d q kind cmd (streamLegal va count) where
  issues hl hh := finish_runSlot _ _ _ _ _ _ h rfl
    (hact.trans ((issueStream_legal hl).trans (if_neg (ne_true_of_eq_false hh))))
  param hl := finish_runSlot_trap _ _ _ _ _ _ _ _ h rfl (hact.trans (issueStream_param hl))
  busy hl hh := finish_runSlot_trap _ _ _ _ _ _ _ _ h rfl (hact.trans ((issueStream_legal hl).trans (if_pos hh)))

section
variable {p : Pred} {d a b : BitVec 6} {s : State} (c : BitVec 6) (stride : BitVec 20) (h : s.Runs p [.s a, .s b])
include h

theorem execCpyqIn_outcome :
    StreamOutcome s (execCpyqIn p d c a b stride s) d (c.setWidth 4) .cpyqIn
      (.cpyqIn (c.setWidth 4) (s.cx.rs a) (s.cx.rs b).toNat stride) (streamLegal (s.cx.rs a) (s.cx.rs b)) :=
  streamOutcome_finish h rfl

theorem execCpyqOut_outcome :
    StreamOutcome s (execCpyqOut p d c a b stride s) d (c.setWidth 4) .cpyqOut
      (.cpyqOut (c.setWidth 4) (s.cx.rs a) (s.cx.rs b).toNat stride) (streamLegal (s.cx.rs a) (s.cx.rs b)) :=
  streamOutcome_finish h rfl

end

/-- Settles O35: each command by its outcome. -/
theorem copyCommandsIssue : Obligations.CopyCommandsIssue := by
  intro s p d a b c rows rlen stride clusters cores dom x y z free run bound param
  refine ⟨fun h hf => ?copies, fun h hf => ?check, fun h hf => execNtdrain_issues hf h, fun h => ?streams⟩
  case copies =>
    have hc := execCpy_outcome (d := d) hf h
    have hr := execCpycrc_outcome (d := d) hf h
    have hm := execCpymc_outcome (d := d) hf clusters cores dom h
    have h2 := execCpy2_outcome (d := d) hf rows rlen h
    exact ⟨fun hl => ⟨hc.issues (ne_true_of_eq_false hl), hr.issues (ne_true_of_eq_false hl),
        fun ht => hm.issues (not_or.mpr ⟨ne_true_of_eq_false hl, ht⟩)⟩,
      fun hl => ⟨hc.param hl, hr.param hl⟩, hm.param, fun hl => h2.issues (not_not_intro hl), h2.param⟩
  case check =>
    have ho := execCpycrcChk_outcome (d := d) hf h
    exact ⟨fun hn => ho.issues (Nat.not_le.mpr hn), ho.param⟩
  case streams =>
    have hi := execCpyqIn_outcome (d := d) c stride h
    have ho := execCpyqOut_outcome (d := d) c stride h
    exact ⟨fun hl hh => ⟨hi.issues hl hh, ho.issues hl hh⟩, fun hl => ⟨hi.param hl, ho.param hl⟩,
      fun hl hh => ⟨hi.busy hl hh, ho.busy hl hh⟩⟩

end Sys2Proof.Machine
end

section
/-! SUPPORT. Ordering through store logs by an instruction (08 R214-R217, R228-R231): what an acquire answers, one lemma for each
of its answers, and REL, PHASE and LOGSTAT. -/

namespace Sys2Proof.Machine

/-! Acquires (08 R229, R230). -/

/-- A log takes an acquire without a token, and one whose token is not marked SHORT and of no later phase than its own. -/
def Log.Takes (l : Log) (tok : Option Word) : Prop := ∀ t ∈ tok, t.getLsbD 63 = false ∧ tokenPhase t ≤ l.phase.toNat

theorem Log.takes_none (l : Log) : l.Takes none := nofun

theorem Log.takes_some (l : Log) (t : Word) : l.Takes (some t) ↔ t.getLsbD 63 = false ∧ tokenPhase t ≤ l.phase.toNat := by
  simp only [Log.Takes, Option.mem_some_iff, forall_eq']

/-- An acquire of writer `w` with none of the causes of ORDER_PARAM. -/
structure State.Acquires (s : State) (w : Word) (tok : Option Word) : Prop where
  declares : s.declares = true
  member : w.toNat < s.co.log.members.length
  takes : s.co.log.Takes tok

/-- The state after a replay that has reached a cursor: the cursor as a token, SHORT or not, and the flag of the poison that it
consumed. -/
def State.landCursor (u : State) (d : BitVec 6) (l : Log) (cur : Nat) (short bad : Bool) : State :=
  (u.landS .seqret d (l.tokenAt cur ||| if short then 0x8000000000000000 else 0)).landFlag (if bad then ckiPOISON else 0)

theorem landCursor_notShort (u : State) (d : BitVec 6) (l : Log) (cur : Nat) (bad : Bool) : u.landCursor d l cur false bad =
    (u.landS .seqret d (l.tokenAt cur)).landFlag (if bad then ckiPOISON else 0) := by
  simp only [State.landCursor, Bool.false_eq_true, if_false, BitVec.ofNat_eq_ofNat, BitVec.or_zero]

/-- What an acquire does with its target, SHORT and a tail: a replay that does not reach the tail blocks. -/
def State.replayTarget (s : State) (d : BitVec 6) (w : Nat) (x : Bool × Nat) : Except Stop State :=
  let r := s.replayTo w x.2
  if r.2.1 < x.2 then .error (.block 9) else .ok (r.1.landCursor d s.co.log (max r.2.1 x.2) x.1 r.2.2)

section
variable {s : State} {d : BitVec 6} {w t : Word} {tok : Option Word}

theorem acquire_refuses (hd : s.declares = true) (h : s.co.log.members.length ≤ w.toNat ∨ ¬s.co.log.Takes tok) :
    s.acquire d w tok = .error (s.trapHere 15 0 0) := by
  unfold State.acquire
  rw [hd]
  refine if_pos (h.imp_right fun ht => ?_)
  cases tok with
  | none => exact absurd s.co.log.takes_none ht
  | some t =>
    rw [Log.takes_some] at ht
    simpa only [Bool.or_eq_true, decide_eq_true_eq, Classical.not_and_iff_not_or_not, Bool.not_eq_false, Nat.not_le] using ht

/-- One that is not refused: the own log answers at once, a token of an older phase asks for nothing, and any other acquire
replays up to its target. -/
theorem acquire_eq (h : s.Acquires w tok) : s.acquire d w tok =
    if w.toNat = s.selfIndex s.cur.core then .ok (s.landS .seqret d (s.co.log.tokenAt s.co.log.published))
    else if tok.any (fun t => decide (tokenPhase t < s.co.log.phase.toNat)) = true then
      .ok (s.landS .seqret d (s.co.log.tokenAt (s.co.log.cursors.getD w.toNat 0)))
    else (s.acqTarget w.toNat tok).bind (s.replayTarget d w.toNat) := by
  unfold State.acquire
  rw [h.declares]
  refine (if_neg (not_or.mpr ⟨Nat.not_le.mpr h.member, ?_⟩)).trans ?_
  · cases tok with
    | none => exact Bool.false_ne_true
    | some t =>
      obtain ⟨h63, hp⟩ := (Log.takes_some _ _).mp h.takes
      simp only [h63, Bool.false_or, decide_eq_true_eq, Nat.not_lt, hp]
  · cases s.acqTarget w.toNat tok <;> rfl

/-- A replay that reaches its tail delivers its cursor. -/
theorem replayTarget_reaches {v n cur : Nat} {bad : Bool} {u : State} (short : Bool) (hr : s.replayTo v n = (u, cur, bad))
    (hn : n ≤ cur) : s.replayTarget d v (short, n) = .ok (u.landCursor d s.co.log cur short bad) := by
  unfold State.replayTarget
  simp only [hr, if_neg (Nat.not_lt.mpr hn), Nat.max_eq_left hn]


theorem acquire_own (h : s.Acquires w tok) (hw : w.toNat = s.selfIndex s.cur.core) :
    s.acquire d w tok = .ok (s.landS .seqret d (s.co.log.tokenAt s.co.log.published)) :=
  (acquire_eq h).trans (if_pos hw)

theorem acquire_older (h : s.Acquires w (some t)) (hw : w.toNat ≠ s.selfIndex s.cur.core)
    (ht : tokenPhase t < s.co.log.phase.toNat) :
    s.acquire d w (some t) = .ok (s.landS .seqret d (s.co.log.tokenAt (s.co.log.cursors.getD w.toNat 0))) :=
  (acquire_eq h).trans ((if_neg hw).trans (if_pos (decide_eq_true ht)))

theorem acquire_other (h : s.Acquires w tok) (hw : w.toNat ≠ s.selfIndex s.cur.core)
    (ht : ∀ t ∈ tok, tokenPhase t = s.co.log.phase.toNat) :
    s.acquire d w tok = (s.acqTarget w.toNat tok).bind (s.replayTarget d w.toNat) := by
  refine (acquire_eq h).trans ((if_neg hw).trans (if_neg ?_))
  rw [Option.any_eq_true]
  exact fun ⟨t, hm, hlt⟩ => Nat.ne_of_lt (of_decide_eq_true hlt) (ht t hm)

/-- The answer of an acquire of another member whose replay reaches the target that it asks for. -/
theorem acquire_replays {n cur : Nat} {short bad : Bool} {u : State} (h : s.Acquires w tok)
    (hw : w.toNat ≠ s.selfIndex s.cur.core) (ht : ∀ t ∈ tok, tokenPhase t = s.co.log.phase.toNat)
    (hg : s.acqTarget w.toNat tok = .ok (short, n)) (hr : s.replayTo w.toNat n = (u, cur, bad)) (hn : n ≤ cur) :
    s.acquire d w tok = .ok (u.landCursor d s.co.log cur short bad) := by
  rw [acquire_other h hw ht, hg]
  exact replayTarget_reaches short hr hn

theorem acquire_stops {e : Stop} (h : s.Acquires w tok) (hw : w.toNat ≠ s.selfIndex s.cur.core)
    (ht : ∀ t ∈ tok, tokenPhase t = s.co.log.phase.toNat) (hg : s.acqTarget w.toNat tok = .error e) :
    s.acquire d w tok = .error e := by
  rw [acquire_other h hw ht, hg]
  rfl

/-! The target of a token (08 R229, R230). -/

theorem acqTarget_published {v : Nat} (h : tokenTail t ≤ s.memberPublished s.co.log.group (s.co.log.members.getD v 0)) :
    s.acqTarget v (some t) = .ok (false, tokenTail t) := if_pos h

theorem acqTarget_short {v : Nat} (h : s.memberPublished s.co.log.group (s.co.log.members.getD v 0) < tokenTail t)
    (hg : s.writerGone s.co.log (s.co.log.members.getD v 0) = true) :
    s.acqTarget v (some t) = .ok (true, s.memberPublished s.co.log.group (s.co.log.members.getD v 0)) :=
  (if_neg (Nat.not_le.mpr h)).trans (if_pos hg)

theorem acqTarget_waits {v : Nat} (h : s.memberPublished s.co.log.group (s.co.log.members.getD v 0) < tokenTail t)
    (hg : s.writerGone s.co.log (s.co.log.members.getD v 0) = false) :
    s.acqTarget v (some t) = .error (.block 6) :=
  (if_neg (Nat.not_le.mpr h)).trans (if_neg (ne_true_of_eq_false hg))

end

/-! The instructions of an acquire. -/

section
variable {p : Pred} {d a b : BitVec 6} {s : State}

theorem execAcqCur_lands {u : State} (h : s.Runs p [.s a]) (hu : s.clear.acquire d (s.cx.rs a) none = .ok u) :
    execAcqCur p d a s = .next u.done :=
  finish_runAct _ _ _ _ _ h hu

theorem execAcqCur_refuses (h : s.Runs p [.s a]) (hd : s.declares = true)
    (ha : s.co.log.members.length ≤ (s.cx.rs a).toNat) : execAcqCur p d a s = .next (s.stoppedBy 15 0 0) :=
  finish_runAct_trap _ _ _ _ _ _ _ h (acquire_refuses (s := s.clear) hd (.inl ha))

theorem execAcq_lands {u : State} (h : s.Runs p [.s a, .s b])
    (hu : s.clear.acquire d (s.cx.rs a) (some (s.cx.rs b)) = .ok u) : execAcq p d a b s = .next u.done :=
  finish_runAct _ _ _ _ _ h hu

theorem execAcq_refuses (h : s.Runs p [.s a, .s b]) (hd : s.declares = true)
    (hr : s.co.log.members.length ≤ (s.cx.rs a).toNat ∨ ¬s.co.log.Takes (some (s.cx.rs b))) :
    execAcq p d a b s = .next (s.stoppedBy 15 0 0) :=
  finish_runAct_trap _ _ _ _ _ _ _ h (acquire_refuses (s := s.clear) hd hr)

theorem execAcq_blocks {k : Nat} (h : s.Runs p [.s a, .s b])
    (hu : s.clear.acquire d (s.cx.rs a) (some (s.cx.rs b)) = .error (.block k)) :
    execAcq p d a b s = .next (s.blockedBy k) :=
  finish_runAct_block _ _ _ _ _ h hu

end

/-! REL, PHASE and LOGSTAT (08 R216, R228, R231). -/

section
variable (p : Pred) (d : BitVec 6) (s : State)

theorem execRel_closes (hd : s.declares = true) (h : s.Runs p []) :
    let u := s.clear.closeSegment s.cur.core
    execRel p d s = .next (u.landS .seqret d (u.co.log.tokenAt u.co.log.tail)).done :=
  finish_runSlot _ _ _ _ _ _ h rfl (if_pos hd)

theorem execPhase_issues (h : s.Runs p []) (t : Task) (ht : s.cx.task = some t) (hr : t.released = true) :
    execPhase p d s = .next
      ((s.clear.setCx { s.cx with task := some { t with released := false } }).landS .seqret d (token t.phases 0)).done := by
  refine finish_runAct _ _ _ _ _ h ?_
  simp only [clear_cx, ht, hr, if_true]

theorem declares_passes {s : State} (hd : s.declares = true) : ¬(!s.declares) = true := by simp [hd]

theorem logstat_declares {s : State} (d : BitVec 6) (f : Log → Word) (hd : s.declares = true) :
    s.logstat d f = .ok (s.landS .seqret d (f s.co.log)) := by
  rw [State.logstat, if_pos hd]

/-- A LOGSTAT of a task with an LMS delivers what it reads of the log. -/
theorem finish_logstat {rs : List Reg} (hd : s.declares = true) (h : s.Runs p rs) (f : State → Log → Word) :
    finish (runSlot p rs noBlock fun s => s.logstat d (f s)) s =
      .next (s.clear.landS .seqret d (f s.clear s.co.log)).done :=
  finish_runSlot _ _ _ _ _ _ h rfl (logstat_declares (s := s.clear) d _ hd)

theorem execLogstatCursor_reads (a : BitVec 6) (hd : s.declares = true) (h : s.Runs p [.s a])
    (ha : (s.cx.rs a).toNat < s.co.log.members.length) :
    execLogstatCursor p d a s = .next (s.clear.landS .seqret d (s.co.log.tokenAt
      (if (s.cx.rs a).toNat = s.selfIndex s.cur.core then s.co.log.published
        else s.co.log.cursors.getD (s.cx.rs a).toNat 0))).done :=
  finish_runSlot _ _ _ _ _ _ h rfl
    ((if_neg (declares_passes hd)).trans ((if_neg (Nat.not_le.mpr ha)).trans (logstat_declares d _ hd)))

theorem execLogstatCursor_refuses (a : BitVec 6) (hd : s.declares = true) (h : s.Runs p [.s a])
    (ha : s.co.log.members.length ≤ (s.cx.rs a).toNat) :
    execLogstatCursor p d a s = .next (s.stoppedBy 15 0 0) :=
  finish_runSlot_trap _ _ _ _ _ _ _ _ h rfl ((if_neg (declares_passes hd)).trans (if_pos ha))

end

/-- Settles O37: REL, PHASE and each LOGSTAT by its lemma, and each answer of an acquire by the lemma of that answer. -/
theorem orderingInstructionsComplete : Obligations.OrderingInstructionsComplete := by
  intro s p d a b hd l res
  refine ⟨fun h => ?reads, fun h ha => ⟨execLogstatCursor_reads p d s a hd h ha, ?acqCur⟩,
    fun h ha => ⟨execLogstatCursor_refuses p d s a hd h ha, execAcqCur_refuses h hd ha⟩, fun h hr => ?refused,
    fun h ha h63 hp => ?acq⟩
  case reads =>
    have reads := finish_logstat p d s hd h
    exact ⟨execRel_closes p d s hd h, execPhase_issues p d s h, reads fun _ l => l.tokenAt l.published,
      reads fun _ l => l.tokenAt l.tail, reads fun _ l => BitVec.ofNat 64 (l.capacity - l.tail),
      reads fun _ l => BitVec.ofNat 64 l.view.length, reads fun _ l => BitVec.ofNat 64 l.members.length,
      reads fun s _ => BitVec.ofNat 64 (s.selfIndex s.cur.core), reads fun _ l => BitVec.ofNat 64 l.rebuilt⟩
  case acqCur =>
    have hc : s.clear.Acquires (s.cx.rs a) none := ⟨hd, ha, l.takes_none⟩
    refine ⟨fun hw => execAcqCur_lands h (acquire_own hc hw), fun hw t u cur bad hg hr hn =>
      execAcqCur_lands h (landCursor_notShort u d l cur bad ▸ acquire_replays hc hw nofun hg hr hn)⟩
  case refused =>
    refine execAcq_refuses h hd (hr.imp_right fun ht => ?_)
    rwa [Log.takes_some, Classical.not_and_iff_not_or_not, Bool.not_eq_false, Nat.not_le]
  case acq =>
    have hc : s.clear.Acquires (s.cx.rs a) (some (s.cx.rs b)) := ⟨hd, ha, (Log.takes_some _ _).mpr ⟨h63, hp⟩⟩
    refine ⟨fun hw => execAcq_lands h (acquire_own hc hw), fun hw ht => execAcq_lands h (acquire_older hc hw ht),
      fun hw ht => ?_⟩
    have hcur : ∀ t ∈ some (s.cx.rs b), tokenPhase t = l.phase.toNat := fun t hm => Option.mem_some_iff.mp hm ▸ ht
    refine ⟨fun hpub u cur bad hr hn => ?published, fun hpub hg u cur bad hr hn => ?short, fun hpub hg => ?waits⟩
    case published => exact execAcq_lands h (acquire_replays hc hw hcur (acqTarget_published hpub) hr hn)
    case short => exact execAcq_lands h (acquire_replays hc hw hcur (acqTarget_short hpub hg) hr hn)
    case waits => exact execAcq_blocks h (acquire_stops hc hw hcur (acqTarget_waits hpub hg))

end Sys2Proof.Machine
end

section
/-! SUPPORT. Every outcome is a next state: the shared ends of a slot, an event and a landing operation, the dispatch over
them, and the attempt of a core that runs any meaning (log entry 63). -/

namespace Sys2Proof.Machine

/-- An outcome that is a state, no fault and no refusal. -/
def Answers {σ : Type} (r : Host.Outcome σ Fault Refusal) : Prop := ∃ t, r = .next t

theorem answers_next {σ : Type} (t : σ) : Answers (.next t) := ⟨t, rfl⟩

/-! The ends that meanings share. -/

theorem settle_answers (s : State) : Answers (settle s) := answers_next _

/-- A stopped slot is a state as well: the one that its stop leaves. -/
theorem finish_answers (body : State → Except Stop State) (s : State) : Answers (finish body s) := by
  unfold finish
  split <;> exact answers_next _

/-- A fault of a landing operation moors the ferry. -/
theorem landStep_answers (act : Landing → State → LandOut) (s : State) : Answers (landStep act s) := by
  unfold landStep
  repeat' split
  all_goals exact settle_answers _

theorem landFerry_answers (act : Ferry → Except Nat Ferry) (s : State) : Answers (landFerry act s) := landStep_answers _ s

theorem landMasked_answers (bit : Nat) (act : Landing → State → LandOut) (s : State) : Answers (landMasked bit act s) :=
  landStep_answers _ s

theorem counterAt_answers (k : BitVec 4) (inc : Bool) (s : State) : Answers (counterAt k inc s) :=
  landMasked_answers _ _ s

theorem landPushes_answers (x : Landing → State → W32) (s : State) : Answers (landPushes x s) := landStep_answers _ s

theorem ite_answers {c : Prop} [Decidable c] {a b : Result} (ha : Answers a) (hb : Answers b) :
    Answers (if c then a else b) := by
  split
  · exact ha
  · exact hb

theorem settle_ite_answers {c : Prop} [Decidable c] (s t : State) : Answers (if c then settle s else settle t) :=
  ite_answers (settle_answers s) (settle_answers t)

/-- A management command answers its status, or nothing yet. -/
theorem command_answers (opc : Nat) (r : MgmtReq) (allowed : State → Session → Bool) (form : Bool)
    (act : State → Option Answer × State) (s : State) : Answers (command opc r allowed form act s) := by
  simp only [command]
  repeat' split
  all_goals exact settle_answers _

theorem runAssist_answers (s : State) (n : Nat) (i : BitVec 2) (p : Pending) : Answers (s.runAssist n i p) := by
  simp only [State.runAssist]
  repeat' split
  all_goals exact settle_answers _

theorem execSubnormalAssist_answers (core : BitVec 9) (s : State) : Answers (execSubnormalAssist core s) := by
  simp only [execSubnormalAssist]
  split
  · exact settle_answers _
  · refine ite_answers (settle_answers _) ?_
    split
    · exact settle_answers _
    · exact runAssist_answers _ _ _ _

theorem execMinimalClear_answers (r : MgmtReq) (s : State) : Answers (execMinimalClear r s) := by
  obtain ⟨t, ht⟩ := command_answers 7 r owned true (fun s => (some (.of mgOK), s.setDevice { s.device with fails := 0 })) s
  unfold execMinimalClear
  rw [ht]
  exact ite_answers (settle_answers _) (answers_next t)

theorem execMgmtRequestReject_answers (r : MgmtReq) (opc : BitVec 16) (kind : RejectKind) (s : State) :
    Answers (execMgmtRequestReject r opc kind s) := by
  cases kind with
  | badForm => exact command_answers opc.toNat r (fun s x => anySession opc.toNat || owned s x) false (fun s => (none, s)) s
  | _ => exact settle_answers _

theorem execNode_answers (m : BitVec 3) (s : State) : Answers (execNode m s) := by
  unfold execNode
  split <;> exact landStep_answers _ _

/-- The meaning of every instruction and of every event ends in one of the shared ways. -/
theorem exec_answers (i : Instr) (s : State) : Answers (exec i s) := by
  cases i with
  -- Operations of a landing (12 R304).
  | kill | jz | jmp | godst =>
    unfold exec
    exact landStep_answers _ _
  | pushi | pushh | poph | dup | swap | ferryAdd | ferrySub | ferryAnd | ferryOr | ferryXor | ferryMin | ferryMax | amax | eq
  | lt | crd | cwr =>
    unfold exec
    exact landFerry_answers _ _
  | ldwImm | ldw | addwImm | addw | cmb | loadq | clone | dlvr | park =>
    unfold exec
    exact landMasked_answers _ _ _
  | ctr | ctrInc =>
    unfold exec
    exact counterAt_answers _ _ _
  | hops =>
    unfold exec
    exact landPushes_answers _ _
  | node m => exact execNode_answers m s
  | go => exact ite_answers (landStep_answers _ _) (landStep_answers _ _)
  -- A lane move runs as a vector slot where its lane is active.
  | movvs | movsv => exact ite_answers (finish_answers _ _) (finish_answers _ _)
  -- Management commands (18 R466).
  | partWrite | freezeClear | elogRead | portEnable | imageLoad | ownerSet | keyLoad =>
    unfold exec
    exact command_answers _ _ _ _ _ _
  | linkReset | partSwapOut | partSwapIn | partDestroy =>
    unfold exec
    simp only [execLinkReset, execPartSwapOut, execPartSwapIn, execPartDestroy]
    exact command_answers _ _ _ _ _ _
  | minimalClear r => exact execMinimalClear_answers r s
  | mgmtRequestReject r opc kind => exact execMgmtRequestReject_answers r opc kind s
  -- Events: those that settle at once, those that settle on both sides of one test, and by family those of more paths.
  | subnormalAssist core => exact execSubnormalAssist_answers core s
  | cspWrite | lttCommit | logcWrite | logxWrite | tlbiWrite | smpcWrite | smptWrite | tmrWrite | pcselWrite | launchAccept
  | faultReply | faultReplyTimeout | bar0WriteDiscarded | completionWrite | energyCharge | agingPromote | fenceIDone
  | clockThrottle | mgmtLinkLoss | getVersion | getCapabilities | getDigests | spdmUnsupported | debugNonce | segmentPublish
  | linkAck | counterRotate | debugToken | statusTimeUpdate | reachabilityNotice | coldReset | ptpMessage | keyExchange =>
    exact settle_answers _
  | ownershipTableWrite | cxlMemWrite | cxlMemRead | scheduleDecision | residencyLimit | fullSave | stubAbandon | groupSave
  | ackTimeout | rekeyStart | rekeyDeadline | hbmRowSpare | sampleTick | scresume | negotiateAlgorithms | cackWrite
  | startStageDone | startStageTimeout | thermalTrip | getCertificate | challenge | holdSignal =>
    exact settle_ite_answers _ _
  | torusMemberReport | torusMemberTimeout | overdueResult | timerExpire | logFull | preemptDivert | contextRestore
  | exitDrainEnd | fetchTrap | scstop | mailboxRegister =>
    unfold exec
    simp only [execTorusMemberReport, execTorusMemberTimeout, execOverdueResult, execTimerExpire, execLogFull,
      execPreemptDivert, execContextRestore, execExitDrainEnd, execFetchTrap, execScstop, execMailboxRegister]
    repeat' split
    all_goals exact settle_answers _
  | copyComplete | ntStorePerform | phaseComplete | mmaRowCommit | matrixComplete | lockstepSelftest | atomHome | atomReply
  | atomRetransmit | sweepPageOffer | sweepCatchupPass =>
    unfold exec
    simp only [execCopyComplete, execNtStorePerform, execPhaseComplete, execMmaRowCommit, execMatrixComplete,
      execLockstepSelftest, execAtomHome, execAtomReply, execAtomRetransmit, execSweepPageOffer, execSweepCatchupPass]
    repeat' split
    all_goals exact settle_answers _
  | ferryReceive | landingStart | mooringReland | mooredFaultService | escapeTimeout | combineSlotTimeout | verdictMark
  | frameReceive | frameClose | retryRequest | laneFault | linkTrainDone | linkKeyed =>
    unfold exec
    simp only [execFerryReceive, execLandingStart, execMooringReland, execMooredFaultService, execEscapeTimeout,
      execCombineSlotTimeout, execVerdictMark, execFrameReceive, execFrameClose, execRetryRequest, execLaneFault,
      execLinkTrainDone, execLinkKeyed]
    repeat' split
    all_goals exact settle_answers _
  | sliceScrub | hbmScrub | getMeasurements | finish | keyUpdate | endSession | getEncapsulatedRequest
  | deliverEncapsulatedResponse | doeUnsupported =>
    unfold exec
    simp only [execSliceScrub, execHbmScrub, execGetMeasurements, execFinish, execKeyUpdate, execEndSession,
      execGetEncapsulatedRequest, execDeliverEncapsulatedResponse, execDoeUnsupported]
    repeat' split
    all_goals exact settle_answers _
  -- All that is left are slots of a bundle (10 R251).
  | nop => exact finish_answers .ok s
  | _ => exact finish_answers _ _

/-- An attempt in which nothing fails and nothing is refused. -/
inductive Attempt.Answers : Attempt → Prop where
  | issued (t : State) : Answers (.issued t)
  | trapped (t : State) : Answers (.trapped t)
  | blocked (t : State) : Answers (.blocked t)
  | stalled (t : State) : Answers (.stalled t)

theorem trapAttempt_answers (s t : State) (n : Nat) (i : BitVec 2) : (s.trapAttempt n i t).Answers := by
  simp only [State.trapAttempt]
  repeat' split
  all_goals constructor

theorem compared_answers (s : State) (n : Nat) {r : Result} (hr : Answers r) : Answers (s.compared n r) := by
  obtain ⟨t, rfl⟩ := hr
  unfold State.compared
  refine ite_answers (answers_next t) ?_
  split
  · exact settle_answers _
  · exact answers_next _

/-! An attempt of a core, for any meaning that always answers (10 R251). -/

section
variable {run : Instr → State → Result} (h : ∀ i s, Answers (run i s))
include h

theorem runSlots_answers (s : State) (l : List (Nat × Instr)) : Answers (runSlots run s l) := by
  induction l generalizing s with
  | nil => exact answers_next _
  | cons x rest ih =>
    obtain ⟨k, i⟩ := x
    obtain ⟨t, ht⟩ := h i { s with cur := { s.cur with slot := k }, last := none }
    simp only [runSlots, ht]
    cases t.last with
    | none => exact ih t
    | some e =>
      obtain ⟨u, hu⟩ := ih (s.pastStop run k i)
      simp only [hu]
      exact answers_next _

/-- A stop that decides blocks, stalls or traps; without one the bundle issues, or traps at its end. -/
theorem attempt_answers (s : State) (n : Nat) (i : BitVec 2) : (s.attempt run n i).Answers := by
  simp only [State.attempt]
  split
  · exact trapAttempt_answers _ _ _ _
  · split
    · exact trapAttempt_answers _ _ _ _
    · rename_i l _
      obtain ⟨⟨t, stops⟩, ht⟩ := runSlots_answers h
        { s with cur := ⟨n, i, 0, none⟩, last := none, ended := false, raised := 0 } (slotOrder l)
      simp only [ht]
      split
      · constructor
      · constructor
      · exact trapAttempt_answers _ _ _ _
      · split
        · constructor
        · split
          · constructor
          · exact trapAttempt_answers _ _ _ _

theorem tryAll_answers (s : State) (n : Nat) (l : List (BitVec 2)) : Answers (State.tryAll run s n l) := by
  induction l generalizing s with
  | nil => exact settle_answers s
  | cons i rest ih =>
    have ha := attempt_answers h ((s.landDue n i).takeIssue n i) n i
    rw [State.tryAll]
    generalize ((s.landDue n i).takeIssue n i).attempt run n i = a at ha ⊢
    cases ha with
    | issued | trapped | stalled => exact settle_answers _
    | blocked t => exact ih t

theorem issueCore_answers (s : State) (n : Nat) : Answers (s.issueCore run n) := by
  simp only [State.issueCore]
  refine ite_answers (settle_answers s) (ite_answers (settle_answers _) ?_)
  exact compared_answers _ n (tryAll_answers h _ n _)

theorem move_answers (s : State) : Answers (s.move run) := by
  unfold State.move
  split
  · exact h _ _
  · exact issueCore_answers h _ _
  · exact issueCore_answers h _ _

theorem gatedMove_answers (s : State) : Answers (s.gatedMove run) := by
  unfold State.gatedMove
  split <;> exact ite_answers (settle_answers _) (move_answers h s)

theorem landMove_answers (s : State) (l : Landing) : Answers (s.landMove run l) := by
  unfold State.landMove
  split
  · exact h _ s
  · exact landStep_answers _ s

end

theorem closeStep_answers {r : Result} (h : Answers r) : Answers (closeStep r) := by
  obtain ⟨t, rfl⟩ := h
  exact answers_next _

/-- Settles O8: every meaning answers, an attempt runs meanings and traps, and the end of a step keeps the answer. -/
theorem everyStepAnswersNext : Obligations.EveryStepAnswersNext := by
  intro s
  refine closeStep_answers ?_
  split
  · exact ite_answers (gatedMove_answers exec_answers s) (landMove_answers exec_answers s _)
  · exact gatedMove_answers exec_answers s

end Sys2Proof.Machine
end

section
/-! SUPPORT. Waiting for a timeline and reading it (09 R233, R236, R246, R247). -/

namespace Sys2Proof.Machine

/-! A wait for a number. -/

section
variable {s : State} {d : BitVec 6} {tl : Tl} {n : Word}

theorem wait_param (h : (s.cx.tl tl).issued.toNat < n.toNat) : s.wait d tl n = .error (s.trapHere 15 0 0) := if_pos h

/-- A number that has been issued and that no stopped command holds back is a matter of the counter. -/
theorem wait_issued (h : n.toNat ≤ (s.cx.tl tl).issued.toNat) (hs : (s.cx.tl tl).stopBefore n = none) :
    s.wait d tl n = if (s.cx.tl tl).count.toNat < n.toNat then .error (.block 4)
      else .ok (s.landS .seqret d (s.cx.tl tl).count) := by
  simp only [State.wait, if_neg (Nat.not_lt.mpr h), hs]

end

/-- The outcomes of a wait whose slot runs and that no stopped command ends: ORDER_PARAM, the counter, or a block. -/
structure WaitOutcome (s : State) (r : Result) (d : BitVec 6) (tl : Tl) (n : Word) : Prop where
  param : (s.cx.tl tl).issued.toNat < n.toNat → r = .next (s.stoppedBy 15 0 0)
  delivers : n.toNat ≤ (s.cx.tl tl).issued.toNat → (s.cx.tl tl).stopBefore n = none →
    n.toNat ≤ (s.cx.tl tl).count.toNat → r = .next (s.clear.landS .seqret d (s.cx.tl tl).count).done
  blocks : n.toNat ≤ (s.cx.tl tl).issued.toNat → (s.cx.tl tl).stopBefore n = none →
    (s.cx.tl tl).count.toNat < n.toNat → r = .next (s.blockedBy 4)

theorem waitOutcome_finish {p : Pred} {rs : List Reg} {act : State → Except Stop State} {s : State} {d : BitVec 6} {tl : Tl}
    {n : Word} (h : s.Runs p rs) (hact : act s.clear = s.clear.wait d tl n) :
    WaitOutcome s (finish (runAct p rs act) s) d tl n where
  param hn := finish_runAct_trap _ _ _ _ _ _ _ h (hact.trans (wait_param hn))
  delivers hi hs hn := finish_runAct _ _ _ _ _ h
    (hact.trans ((wait_issued (s := s.clear) hi hs).trans (if_neg (Nat.not_lt.mpr hn))))
  blocks hi hs hn := finish_runAct_block _ _ _ _ _ h
    (hact.trans ((wait_issued (s := s.clear) hi hs).trans (if_pos hn)))

section
variable {p : Pred} {d : BitVec 6} {s : State} (tl : BitVec 3)

theorem execTwait_outcome {a : BitVec 6} (h : s.Runs p [.s a]) :
    WaitOutcome s (execTwait p d tl a s) d (tlOf tl.toNat) (s.cx.rs a) := waitOutcome_finish h rfl

theorem execTwaitImm_outcome {n : BitVec 20} (h : s.Runs p []) :
    WaitOutcome s (execTwaitImm p d tl n s) d (tlOf tl.toNat) (n.setWidth 64) := waitOutcome_finish h rfl

/-! Reads of a timeline. -/

variable (h : s.Runs p [])
include h

/-- A TREAD delivers what it reads. -/
theorem finish_tread (f : State → Word) :
    finish (runSlot p [] noBlock fun s => .ok (s.landS .sysrd d (f s))) s =
      .next (s.clear.landS .sysrd d (f s.clear)).done :=
  finish_runSlot_act p [] (fun s => s.landS .sysrd d (f s)) s h

theorem execTreadRetire_retires :
    let u := s.clear.landS .sysrd d (s.cx.tl (tlOf tl.toNat)).stopNum
    execTreadRetire p d tl s = .next (u.setCx (u.cx.retire (tlOf tl.toNat))).done :=
  finish_runSlot _ _ _ _ _ _ h rfl rfl

/-- The offset of the first copy that is not done. -/
theorem execTreadProg_offset {q : Pending} (hq : s.cx.cpy.cmds.find? (fun q => q.phase ≠ .done) = some q) :
    execTreadProg p d s = .next (s.clear.landS .sysrd d (BitVec.ofNat 64 (q.offset % 2 ^ 40))).done :=
  finish_runSlot _ _ _ _ _ _ h rfl (by simp only [clear_cx, hq])

/-- Where every copy is done it is all ones. -/
theorem execTreadProg_none (hq : s.cx.cpy.cmds.find? (fun q => q.phase ≠ .done) = none) :
    execTreadProg p d s = .next (s.clear.landS .sysrd d (BitVec.allOnes 64)).done :=
  finish_runSlot _ _ _ _ _ _ h rfl (by simp only [clear_cx, hq]; rfl)

end

/-- Settles O36: both waits by their outcomes, and each read by its lemma. -/
theorem timelineReadsComplete : Obligations.TimelineReadsComplete := by
  intro s p d a tl n t num
  refine ⟨fun h hi hs => ?wait, fun h => (execTwait_outcome tl h).param, fun h => (execTwaitImm_outcome tl h).param,
    fun h => (execTwaitImm_outcome tl h).delivers, fun h => ?reads⟩
  case wait =>
    have hw := execTwait_outcome (d := d) tl h
    exact ⟨hw.delivers hi hs, hw.blocks hi hs⟩
  case reads =>
    have reads := finish_tread (d := d) h
    exact ⟨reads fun s => (s.cx.tl (tlOf tl.toNat)).count, reads fun s => (s.cx.tl (tlOf tl.toNat)).issued,
      reads fun s => (s.cx.tl (tlOf tl.toNat)).stopNum, execTreadRetire_retires tl h, fun q => execTreadProg_offset h,
      execTreadProg_none h, reads fun s => s.cx.cpy.crc⟩

end Sys2Proof.Machine
end

section
/-! SUPPORT. Atomics (09 R248-R250): the issue, and the three events that perform a request, bring its reply and send it
again. -/

namespace Sys2Proof.Machine

/-! The issue (09 R248). -/

theorem clear_atomRecord (s : State) (va : Word) : s.clear.atomRecord va = s.atomRecord va := rfl

/-- What an ATOM issues: its target, the value it captures, its record, and for a CAS the record's first word. -/
def State.atomCmd (s : State) (a b : BitVec 6) (code : BitVec 4) (r : Nat) : Cmd :=
  .atom code.toNat (s.cx.rs a) (BitVec.ofNat 64 ((s.cx.rs b).toNat % 2 ^ (8 * codeBytes code.toNat))) (BitVec.ofNat 64 r)
    (if code = 11 then BitVec.ofNat 64 (Mem.readLE s.mem r 8) else 0)

section
variable {s : State} {p : Pred} {a b c : BitVec 6} {code : BitVec 4} (d : BitVec 6) (h : s.Runs p [.s a, .s b, .s c])
  (hf : slotBlock .atm s = none)
include h hf

theorem execAtom_issues (ha : (s.cx.rs a).toNat % codeBytes code.toNat = 0) {l : Local}
    (hl : s.atomRecord (s.cx.rs c) = .ok l) :
    let r := sliceBase s.cur.core + l.off
    execAtom p d a b c code s = .next (((s.clear.issue .atm d (s.atomCmd a b code r) 0).takeReqId (s.nextSeq .atm)).landFlag
      (if code = 11 ∧ s.badBytes r 8 = true then ckiPOISON else 0)).done := by
  refine finish_runSlot _ _ _ _ _ _ h hf ?_
  have hcas : (code.toNat = 11) = (code = 11) := by simp [← BitVec.toNat_inj]
  simp only [clear_cx, ha, ne_eq, not_true_eq_false, if_false, clear_atomRecord, hl, clear_badBytes, hcas, decide_eq_true_eq,
    Bool.and_eq_true]
  rfl

theorem execAtom_misaligned (ha : (s.cx.rs a).toNat % codeBytes code.toNat ≠ 0) :
    execAtom p d a b c code s = .next (s.stoppedBy 7 5 (s.cx.rs a)) :=
  finish_runSlot_trap _ _ _ _ _ _ _ _ h hf (if_pos ha)

end

/-! At the home (09 R249). -/

section
variable {s t : State} {n : Nat} {i : BitVec 2} {p : Pending} {k : Nat} {x v e : Word} {y : Xlat}

theorem atomAgain_sends {st : Nat} {old : Word} (h : s.atomFar n p p.prog p.faddr.toNat k v e = (t, st, old)) :
    s.atomAgain n i p k v e = t.setCmd n i .atm { p with reply := some (st, old) } := by
  simp only [State.atomAgain, h]

/-- A code that the host window does not take stops there (18 R465). -/
theorem atomFirst_stops (hy : s.atomXlat n x (codeBytes k) = .ok y t) (h0 : homeOf y = 0) (hk : hostAtom k = false) :
    s.atomFirst n i p k x v e = t.stopCmd n i .atm (p.take t) 4 x := by
  simp only [State.atomFirst, hy, Eng.bind, h0, hk, Bool.not_false, and_self, if_true, engineEnd]
  rfl

/-- A home of this node performs it and holds the old value as its reply. -/
theorem atomFirst_here {old : Nat} {z : State} (hy : s.atomXlat n x (codeBytes k) = .ok y t)
    (hh : farHome (homeOf y) = false) (hz : t.atomHere y k x v e = .ok old z) :
    s.atomFirst n i p k x v e = z.setCmd n i .atm { p.take z with
      phase := .reqSent, stage := 1, prog := homeOf y, reply := some (0, BitVec.ofNat 64 old) } := by
  have h0 : homeOf y ≠ 0 := fun h0 => by simp [h0, farHome] at hh
  simp only [State.atomFirst, hy, Eng.bind, h0, hh, hz, false_and, Bool.false_eq_true, if_false, engineEnd]

/-- A home beyond the package is sent the request. -/
theorem atomFirst_far {st : Nat} {old : Word} {z : State} (hy : s.atomXlat n x (codeBytes k) = .ok y t)
    (hh : farHome (homeOf y) = true) (hk : homeOf y = 0 → hostAtom k = true)
    (hz : t.atomFar n p (homeOf y) y.pa k v e = (z, st, old)) :
    s.atomFirst n i p k x v e = z.setCmd n i .atm { p.take z with
      phase := .reqSent, stage := 1, prog := homeOf y, faddr := BitVec.ofNat 64 y.pa, reply := some (st, old) } := by
  have hno : ¬(homeOf y = 0 ∧ (!hostAtom k) = true) := fun ⟨h0, h⟩ => by simp [hk h0] at h
  simp only [State.atomFirst, hy, Eng.bind, if_neg hno, hh, hz, if_true, engineEnd]

end

/-! The events of an atomic. -/

section
variable {s u : State} {core : BitVec 9} {ctx : BitVec 2} {q : Pending} {k : Nat} {x v r e : Word}

section
variable (hq : s.choose (s.atomTurn core.toNat ctx) = (some q, u)) (hc : q.cmd = .atom k x v r e)
include hq hc

theorem execAtomHome_first (hs : q.stage ≠ 1) :
    execAtomHome core ctx s = .next ((u.actFor core.toNat ctx).atomFirst core.toNat ctx q k x v e).rest := by
  simp only [execAtomHome, hq, hc, if_neg hs]
  rfl

theorem execAtomHome_again (hs : q.stage = 1) :
    execAtomHome core ctx s = .next ((u.actFor core.toNat ctx).atomAgain core.toNat ctx q k v e).rest := by
  simp only [execAtomHome, hq, hc, if_pos hs]
  rfl

end

theorem execAtomReply_completes {st : Nat} {old : Word}
    (hq : s.choose ((s.ctxAt core.toNat ctx).atm.cmds.filter fun q => q.phase == .reqSent && q.reply.isSome) = (some q, u))
    (hc : q.cmd = .atom k x v r e) (hr : q.reply = some (st, old)) :
    let z := (u.actCmd core.toNat ctx q).writePart' ⟨r.toNat, false, none, 0⟩ (clean (leBytes (old.toNat + st * 2 ^ 64) 16))
    execAtomReply core ctx s = .next (z.complete core.toNat ctx .atm (q.take z)).rest := by
  simp only [execAtomReply, hq, hc, hr]
  rfl

section
variable (hq : s.choose ((s.ctxAt core.toNat ctx).atm.cmds.filter Pending.sentFar) = (some q, u))
  (hc : q.cmd = .atom k x v r e)
include hq hc

theorem execAtomRetransmit_sends (hs : q.sends < 7) :
    execAtomRetransmit core ctx s = .next ((u.actFor core.toNat ctx).atomAgain core.toNat ctx
      { q with sends := q.sends + 1, reply := none } k v e).rest := by
  simp only [execAtomRetransmit, hq, hc, hs, if_true]
  rfl

theorem execAtomRetransmit_stops (hs : 7 ≤ q.sends) :
    execAtomRetransmit core ctx s = .next ((u.actCmd core.toNat ctx q).stopCmd core.toNat ctx .atm q 10 x).rest := by
  simp only [execAtomRetransmit, hq, hc, if_neg (Nat.not_lt.mpr hs)]
  rfl

end
end

/-- Settles O38: the issue and its trap, the request at each kind of home, the reply, and each sending again by its lemma. -/
theorem atomicsIssueAndComplete : Obligations.AtomicsIssueAndComplete := by
  intro s p d a b c code core ctx w n cmds
  refine ⟨fun h hf ha l hl => execAtom_issues d h hf ha hl, fun h hf ha => execAtom_misaligned d h hf ha,
    fun q u k x v r e hq hc => ?home, fun q u k x v r e st old hq hc hr => execAtomReply_completes hq hc hr,
    fun q u hq k x v r e hc => ?retransmit⟩
  case home =>
    refine ⟨fun hs y t hy => ?first, fun hs t st old hz => ?again⟩
    case first =>
      have hfirst := execAtomHome_first hq hc hs
      exact ⟨fun h0 hk => hfirst.trans (by rw [atomFirst_stops hy h0 hk]),
        fun hh old z hz => hfirst.trans (by rw [atomFirst_here hy hh hz]),
        fun hh hk z st old hz => hfirst.trans (by rw [atomFirst_far hy hh hk hz])⟩
    case again => exact (execAtomHome_again hq hc hs).trans (by rw [atomAgain_sends hz])
  case retransmit =>
    refine ⟨fun hs t st old hz => ?_, execAtomRetransmit_stops hq hc⟩
    exact (execAtomRetransmit_sends hq hc hs).trans (by rw [atomAgain_sends hz])

end Sys2Proof.Machine
end

section
/-! SUPPORT. An attempt of a bundle that nothing stops (10 R251, R252), and slot-0 instructions that steer fetch, keep regions
and fences, or end their bundle (10 R259-R275, 15 R420-R430). -/

namespace Sys2Proof.Machine

/-! An attempt (10 R251). -/

/-- The state in which an attempt begins: the context executes, and nothing of an earlier bundle is left. -/
def State.poised (s : State) (core : Nat) (i : BitVec 2) : State :=
  { s with cur := ⟨core, i, 0, none⟩, last := none, ended := false, raised := 0 }

/-- A bundle that nothing stops and that does not end itself issues, and its boundary follows. -/
theorem attempt_issues {run : Instr → State → Result} {s : State} {core : Nat} {i : BitVec 2} {f : Fetched}
    {l : List (Nat × Instr)} {t u : State} (he : (s.ctxAt core i).efaults = [])
    (hf : (s.poised core i).fetchBundle core (s.ctxAt core i) = .ok (f, l))
    (hr : runSlots run (s.poised core i) (slotOrder l) = .next (t, [])) (hn : t.ended = false) (hu : t.endBundle = .ok u) :
    s.attempt run core i = .issued ((u.countBundle core l).afterBundle core i (s.ctxAt core i).svc) := by
  have hp : ({ s with cur := ⟨core, i, 0, none⟩, last := none, ended := false, raised := 0 } : State) = s.poised core i := rfl
  have hc : (s.poised core i).ctxAt core i = s.ctxAt core i := rfl
  have hd : decisive [] = none := rfl
  simp only [State.attempt, hp, hc, he, hf, hr, hd, hn, hu, Bool.false_eq_true, if_false]

/-- A slot that is not stopped hands its state to the slots behind it. -/
theorem runSlots_cons_next {run : Instr → State → Result} {s t : State} {k : Nat} {i : Instr} (rest : List (Nat × Instr))
    (h : run i { s with cur := { s.cur with slot := k }, last := none } = .next t) (hl : t.last = none) :
    runSlots run s ((k, i) :: rest) = runSlots run t rest := by
  rw [runSlots, h]
  simp only [hl]

/-- Each decoded instruction comes from the word of its slot, counted from the first slot on. -/
theorem decodeSlots_mem {control : Bool} {n k : Nat} {i : Instr} {ws : List Nat} {l : List (Nat × Instr)}
    (h : decodeSlots control n ws = some l) (hi : (k, i) ∈ l) :
    ∃ j w, k = n + j ∧ ws[j]? = some w ∧ decodeSlot k w = .ok i := by
  induction ws generalizing n l with
  | nil =>
    cases h
    cases hi
  | cons w rest ih =>
    unfold decodeSlots at h
    split at h
    next x m hx hm =>
      split at h
      · cases h
      cases h
      rcases List.mem_cons.mp hi with he | hi
      · cases he
        exact ⟨0, w, rfl, rfl, hx⟩
      · obtain ⟨j, v, rfl, hv, hd⟩ := ih hm hi
        exact ⟨j + 1, v, by omega, hv, hd⟩
    next => cases h

/-- Each instruction of a fetched bundle is that of the word in its slot. -/
theorem fetchBundle_mem {s : State} {core : Nat} {c : Context} {ws : Fetched × List (Nat × Instr)} {k : Nat} {i : Instr}
    (h : s.fetchBundle core c = .ok ws) (hi : (k, i) ∈ ws.2) :
    ∃ w, ws.1.slots[k]? = some w ∧ decodeSlot k w = .ok i := by
  unfold State.fetchBundle at h
  split at h
  · cases h
  split at h
  next l hl =>
    cases h
    obtain ⟨j, w, rfl, hw, hd⟩ := decodeSlots_mem hl hi
    rw [Nat.zero_add] at hd ⊢
    exact ⟨w, hw, hd⟩
  next => cases h

/-- Settles O7: an attempt, a slot, and the slots of a fetched bundle, each by its lemma. -/
theorem attemptRunsTheDecodedBundle : Obligations.AttemptRunsTheDecodedBundle :=
  ⟨fun _ _ _ _ _ _ _ he hf hr hn hu => attempt_issues he hf hr hn hu, fun _ _ _ rest _ h hl => runSlots_cons_next rest h hl,
    fun _ _ _ _ h _ _ hi => fetchBundle_mem h hi⟩

/-! Branches (10 R259, R261, R265, R269, R270). -/

theorem execBr_branches (p : Pred) (bt : BitVec 4) (s : State) (h : s.Runs p [.b (bt.setWidth 3)]) :
    execBr p bt s = .next (s.clear.setCx (s.cx.branch (s.cx.rb (bt.setWidth 3)))).done :=
  finish_runSlot_act p _ (fun u => u.setCx (u.cx.branch (u.cx.rb (bt.setWidth 3)))) s h

/-- The link lands, and the branch stands behind the redirections that were pending. -/
theorem execBrl_branches (p : Pred) (bt : BitVec 4) (link : BitVec 3) (s : State) (h : s.Runs p [.b (bt.setWidth 3)]) :
    let t := s.clear.landB link (s.clear.linkIp s.cur.core s.cx)
    execBrl p bt link s = .next (t.setCx (t.cx.branch (s.cx.rb (bt.setWidth 3)))).done :=
  finish_runSlot_act p _ (fun u =>
    let t := u.landB link (u.linkIp u.cur.core u.cx)
    t.setCx (t.cx.branch (u.cx.rb (bt.setWidth 3)))) s h

/-- To an armed bank, BANKSW branches into it. -/
theorem execBanksw_armed (p : Pred) (pd : BitVec 5) (bt : BitVec 4) (s : State) (h : s.Runs p [.b (bt.setWidth 3)])
    (hs : s.cx.svc = false) (hk : s.co.fis.getLsbD (otherBank s.cx.ip) = true) :
    let t := s.clear.landP .pred pd (BitVec.allOnes 64)
    execBanksw p pd bt s = .next (t.setCx (t.cx.branch
      (BitVec.ofNat 14 (otherBank s.cx.ip * 8192 + ipPos (s.cx.rb (bt.setWidth 3)))))).done :=
  finish_runSlot _ _ _ _ _ _ h rfl ((if_neg (ne_true_of_eq_false hs)).trans (if_pos hk))

/-- To an unarmed bank it does not branch. -/
theorem execBanksw_unarmed (p : Pred) (pd : BitVec 5) (bt : BitVec 4) (s : State) (h : s.Runs p [.b (bt.setWidth 3)])
    (hs : s.cx.svc = false) (hk : s.co.fis.getLsbD (otherBank s.cx.ip) = false) :
    execBanksw p pd bt s = .next (s.clear.landP .pred pd 0).done :=
  finish_runSlot _ _ _ _ _ _ h rfl ((if_neg (ne_true_of_eq_false hs)).trans (if_neg (ne_true_of_eq_false hk)))

theorem execLbrk_pops (p : Pred) (lx : BitVec 4) (s : State) (h : s.Runs p []) :
    execLbrk p lx s = .next (s.clear.setCx { s.cx with loopOp := some (lx.toNat, none) }).done :=
  finish_runSlot_act p _ (fun u => u.setCx { u.cx with loopOp := some (lx.toNat, none) }) s h

/-- Settles O11: each instruction by its lemma. -/
theorem branchesComplete : Obligations.BranchesComplete :=
  fun s p bt lx pd link =>
    ⟨execBr_branches p bt s, execBrl_branches p bt link s,
      fun h hs => ⟨execBanksw_armed p pd bt s h hs, execBanksw_unarmed p pd bt s h hs⟩,
      fun h => ⟨execLbrk_pops p lx s h, rfl⟩⟩

/-! Loops (10 R264). -/

/-- Whether a body lies inside the innermost of the loops that stay. -/
def insideInnermost (nest : Vector Loop 4) (start fin : BitVec 14) : Bool :=
  match innermost nest with
  | none => true
  | some e => (nest[e]?.getD Loop.idle).holds start && (nest[e]?.getD Loop.idle).holds fin

theorem insideInnermost_iff (nest : Vector Loop 4) (start fin : BitVec 14) :
    insideInnermost nest start fin = true ↔ ∀ e, innermost nest = some e →
      (nest[e]?.getD Loop.idle).holds start = true ∧ (nest[e]?.getD Loop.idle).holds fin = true := by
  unfold insideInnermost
  cases innermost nest <;> simp

/-- The start of the body of a LOOP here: the bundle that follows in sequence. -/
def State.loopStart (s : State) : BitVec 14 := s.seqAfter s.cur.core s.cx s.cx.ip

/-- The end of a body: a position in this bank. -/
def State.loopFin (s : State) (endp : BitVec 13) : BitVec 14 := BitVec.ofNat 14 (s.cx.ip.toNat / 8192 * 8192 + endp.toNat)

/-- The loop that a LOOP sets up, its depth the number of loops that stay. -/
def State.newLoop (s : State) (t : Nat) (count : Word) (endp : BitVec 13) : Loop :=
  ⟨s.loopStart, s.loopFin endp, true, BitVec.ofNat 2 ((popFrom' s.cx.loops t).toList.filter (·.act)).length,
    count.setWidth 32, Vector.replicate 6 0, Vector.replicate 6 0⟩

/-- The set-up: four checks, then what a count of 0 and any other leave. -/
theorem loopSetup_eq (s : State) (t : Nat) (count : Word) (endp : BitVec 13) :
    s.loopSetup t count endp =
      if 2 ^ 32 ≤ count.toNat then none
      else if ipPos (s.loopFin endp) < ipPos s.loopStart then none
      else if s.cx.redir ≠ [] then none
      else if (!insideInnermost (popFrom' s.cx.loops t) s.loopStart (s.loopFin endp)) = true then none
      else if count = 0 then some { s.cx with loopOp := some (t, none), skip := some (s.loopFin endp) }
      else some { s.cx with loopOp := some (t, some (s.newLoop t count endp)) } := rfl

/-- What the four checks ask. -/
structure State.LoopLegal (s : State) (t : Nat) (count : Word) (endp : BitVec 13) : Prop where
  small : count.toNat < 2 ^ 32
  ordered : ipPos s.loopStart ≤ ipPos (s.loopFin endp)
  straight : s.cx.redir = []
  inside : insideInnermost (popFrom' s.cx.loops t) s.loopStart (s.loopFin endp) = true

/-- The context that a legal LOOP leaves: for a count of 0 it goes on past the body. -/
theorem loopSetup_legal {s : State} {t : Nat} {count : Word} {endp : BitVec 13} (h : s.LoopLegal t count endp) :
    s.loopSetup t count endp =
      if count = 0 then some { s.cx with loopOp := some (t, none), skip := some (s.loopFin endp) }
      else some { s.cx with loopOp := some (t, some (s.newLoop t count endp)) } := by
  rw [loopSetup_eq, if_neg (Nat.not_le.mpr h.small), if_neg (Nat.not_lt.mpr h.ordered), if_neg (not_not_intro h.straight),
    h.inside, Bool.not_true, if_neg Bool.false_ne_true]

/-- A LOOP that is not legal has no set-up. -/
theorem loopSetup_illegal {s : State} {t : Nat} {count : Word} {endp : BitVec 13} (h : ¬s.LoopLegal t count endp) :
    s.loopSetup t count endp = none := by
  rw [loopSetup_eq]
  refine ite_eq_left_iff.mpr fun hc => ite_eq_left_iff.mpr fun ho => ite_eq_left_iff.mpr fun hr => if_pos ?_
  rw [Bool.not_eq_true', Bool.eq_false_iff]
  exact fun hi => h ⟨Nat.not_le.mp hc, Nat.not_lt.mp ho, Classical.not_not.mp hr, hi⟩

theorem loopSetup_clear (s : State) (t : Nat) (count : Word) (endp : BitVec 13) :
    s.clear.loopSetup t count endp = s.loopSetup t count endp := rfl

/-- A legal LOOP leaves the context of its set-up. -/
theorem execLoop_legal {p : Pred} {lx : BitVec 4} {a : BitVec 6} {endp : BitVec 13} {s : State} {c : Context}
    (h : s.Runs p [.s a]) (hc : s.loopSetup lx.toNat (s.cx.rs a) endp = some c) :
    execLoop p lx a endp s = .next (s.clear.setCx c).done := by
  refine finish_runSlot _ _ _ _ _ _ h rfl ?_
  rw [clear_cx, loopSetup_clear, hc]

/-- One that is not traps. -/
theorem execLoop_illegal {p : Pred} {lx : BitVec 4} {a : BitVec 6} {endp : BitVec 13} {s : State}
    (h : s.Runs p [.s a]) (hc : ¬s.LoopLegal lx.toNat (s.cx.rs a) endp) :
    execLoop p lx a endp s = .next (s.stoppedBy 6 0 0) := by
  refine finish_runSlot_trap _ _ _ _ _ _ _ _ h rfl ?_
  rw [clear_cx, loopSetup_clear, loopSetup_illegal hc]
  rfl

/-- Settles O12: a legal LOOP by its set-up, for a count of 0 and for any other; an illegal one traps. -/
theorem loopSetsUpOrTraps : Obligations.LoopSetsUpOrTraps := by
  intro s p lx a endp h n start fin nest inside legal
  have hl : legal ↔ s.LoopLegal lx.toNat n endp :=
    ⟨fun ⟨hc, ho, hr, hi⟩ => ⟨hc, ho, hr, (insideInnermost_iff ..).mpr hi⟩,
      fun ⟨hc, ho, hr, hi⟩ => ⟨hc, ho, hr, (insideInnermost_iff ..).mp hi⟩⟩
  refine ⟨fun hg hz => ⟨?_, rfl⟩, fun hg hz => ⟨?_, rfl⟩, fun hg => ?_⟩
  · exact execLoop_legal h ((loopSetup_legal (hl.mp hg)).trans (if_pos hz))
  · exact execLoop_legal h ((loopSetup_legal (hl.mp hg)).trans (if_neg hz))
  · exact execLoop_illegal h (mt hl.mpr hg)

/-! Regions and fences (15 R424, R427, R430, 10 R272). -/

theorem execCrgnOpen_opens (p : Pred) (bt mask : BitVec 4) (s : State) (h : s.Runs p [.b (bt.setWidth 3)]) :
    execCrgnOpen p bt mask s = .next (s.clear.setCx { s.cx with
      regionOp := some (some ⟨s.cx.rb (bt.setWidth 3), mask, s.cx.s, token s.co.log.phase s.co.log.tail⟩) }).done :=
  finish_runSlot_act p _ (fun u => u.setCx { u.cx with
    regionOp := some (some ⟨u.cx.rb (bt.setWidth 3), mask, u.cx.s, token u.co.log.phase u.co.log.tail⟩) }) s h

theorem execCrgnClose_closes (p : Pred) (s : State) (h : s.Runs p []) :
    execCrgnClose p s = .next (s.clear.setCx { s.cx with regionOp := some none }).done :=
  finish_runSlot_act p _ (fun u => u.setCx { u.cx with regionOp := some none }) s h

theorem execChkerr_reads (p : Pred) (a : BitVec 6) (pd : BitVec 5) (m : BitVec 11) (s : State) (h : s.Runs p []) :
    let t := (s.clear.landS .salu a (s.cx.cki.setWidth 64)).landP .pred pd
      (if s.cx.cki &&& m = 0 then 0 else BitVec.allOnes 64)
    execChkerr p a pd m s = .next (t.setCx { t.cx with ckiClr := s.cx.cki &&& m }).done := by
  have hw : boolWord (s.cx.cki &&& m != 0) = if s.cx.cki &&& m = 0 then 0 else BitVec.allOnes 64 := by
    simp only [boolWord_eq, bne_iff_ne, ite_not]
  rw [← hw]
  exact finish_runSlot_act p _ (fun u =>
    let v := (u.landS .salu a (u.cx.cki.setWidth 64)).landP .pred pd (boolWord (u.cx.cki &&& m != 0))
    v.setCx { v.cx with ckiClr := u.cx.cki &&& m }) s h

/-- A validation that is allowed here is queued. -/
theorem execFenceI_queues (p : Pred) (pd : BitVec 5) (bank : BitVec 2) (s : State) (h : s.Runs p [])
    (hb : ¬(bank = 2 ∧ s.cx.svc = false)) :
    let t := s.clear.landLat (s.latency .pred) false (.p pd) 0 0 0 0
    execFenceI p pd bank s =
      .next (t.setCo { t.co with fences := t.co.fences ++ [⟨s.cur.ctx, pd, bank, false, s.cx.ic⟩] }).done := by
  refine finish_runSlot _ _ _ _ _ _ h rfl ?_
  rw [if_neg (by simpa only [clear_cx, Bool.not_eq_true'] using hb)]
  rfl

/-- Settles O13: each instruction by its lemma. -/
theorem regionsAndFencesComplete : Obligations.RegionsAndFencesComplete :=
  fun s p bt mask a pd m bank =>
    ⟨fun h => ⟨execCrgnOpen_opens p bt mask s h, rfl⟩, fun h => ⟨execCrgnClose_closes p s h, rfl⟩,
      execChkerr_reads p a pd m s, execFenceI_queues p pd bank s⟩

/-! Ends of a bundle (10 R274, R275, 15 R420, R426, R428, R429). -/

section
variable {p : Pred} {s u : State} (h : s.Runs p [])
include h

theorem execYield_ends (hu : s.clear.endBundle = .ok u) :
    execYield p s = .next (State.done { u.setCx
      (if s.clear.rollsBack then { u.cx.afterYield with ip := u.cx.ip } else u.cx.afterYield) with ended := true }) := by
  refine finish_runSlot p [] _ _ s _ h rfl ?_
  rw [hu]

theorem execExit_ends (hu : s.clear.endBundle = .ok u) :
    execExit p s = .next (State.done { u.setCx u.cx.afterExit with ended := true }) := by
  refine finish_runSlot p [] _ _ s _ h rfl ?_
  rw [hu]

/-- TRAP's bundle issues before its trap is taken. -/
theorem execTrap_ends {val : BitVec 16} (hs : s.cx.stubEnds = false) (hu : s.clear.endBundle = .ok u) :
    let t := u.takeTrap s.cur.core s.cur.ctx ⟨48, 0, 7, 0, 0, 0, val⟩
    execTrap p val s =
      .next (State.done { (if s.cx.svc then t.setCx { t.cx with ip := s.cx.ip } else t) with ended := true }) := by
  refine finish_runSlot p [] _ _ s _ h rfl ?_
  rw [clear_cx, hs, hu]
  rfl

/-- In a stub that may not go on, TRAP is cut off. -/
theorem execTrap_cutOff {val : BitVec 16} (hs : s.cx.stubEnds = true) : execTrap p val s = .next (s.stoppedBy 48 0 0) :=
  finish_runSlot_trap p [] _ _ s 48 0 0 h rfl (by rw [clear_cx, hs]; rfl)

/-- ERET lands what the handler has pending and leaves service mode. -/
theorem execEret_returns (hs : s.cx.svc = true)
    (hr : (s.clear.afterIssue s.cur.core s.cur.ctx s.clear.isLiteral).landing.all (·.ready) = true) :
    let t := (s.clear.setCore s.cur.core ({ s.co with bundles := s.co.bundles + 1 }.setCtx s.cur.ctx
      (s.clear.afterIssue s.cur.core s.cur.ctx s.clear.isLiteral))).landAll s.cur.core s.cur.ctx
    execEret p s = .next (State.done { t.setCx t.cx.leaveService with ended := true }) := by
  have hn : (s.clear.afterIssue s.cur.core s.cur.ctx s.clear.isLiteral).landing.any (fun e => !e.ready) = false := by
    rw [← List.not_all_eq_any_not, hr]
    rfl
  refine finish_runSlot p [] _ _ s _ h rfl ?_
  rw [clear_cx, hs]
  exact if_neg (ne_true_of_eq_false hn)

/-- Outside service mode ERET is PRIV. -/
theorem execEret_priv (hs : s.cx.svc = false) : execEret p s = .next (s.stoppedBy 19 0 0) :=
  finish_runSlot_trap p [] _ _ s 19 0 0 h rfl (by rw [clear_cx, hs]; rfl)

end

/-- Settles O14: each instruction by its lemma. -/
theorem bundleEndersComplete : Obligations.BundleEndersComplete :=
  fun _ _ _ _ h =>
    ⟨fun hu => ⟨execYield_ends h hu, execExit_ends h hu, fun hs => execTrap_ends h hs hu⟩, execTrap_cutOff h,
      fun hs hr => execEret_returns h hs hr, execEret_priv h⟩

end Sys2Proof.Machine
end

section
/-! SUPPORT. The landing buffer (10 R252-R257): the latency of a class, which entries land at a boundary, what a landed value
changes, and what a boundary leaves. -/

namespace Sys2Proof.Machine

/-! Latencies and entries (02 R67, 10 R253). -/

/-- In service mode and on a control core every class has its native latency. -/
theorem latency_native {s : State} {k : LatClass} (h : s.cx.svc = true ∨ s.onControl = true) :
    s.latency k = Config.native k.num :=
  if_pos (Bool.or_eq_true_iff.mpr h)

/-- Elsewhere it is the entry of the image's table. -/
theorem latency_image {s : State} {k : LatClass} {t : Task} (hs : s.cx.svc = false) (ho : s.onControl = false)
    (ht : s.cx.task = some t) : s.latency k = t.lat.getD k.num (Config.native k.num) := by
  unfold State.latency
  rw [hs, ho, ht]
  rfl

theorem mem_insertLand_self (e : LandEntry) (l : List LandEntry) : e ∈ insertLand e l := by
  induction l with
  | nil => exact List.mem_singleton_self e
  | cons x l ih =>
    unfold insertLand
    split
    · exact List.mem_cons_of_mem x ih
    · exact List.mem_cons_self

/-- A scalar result waits in the landing buffer for its class's count. -/
theorem landS_waits (s : State) (k : LatClass) (d : BitVec 6) (x : Word) (hd : d ≠ 0) :
    ∃ e ∈ (s.landS k d x).cx.landing,
      e.reg = .s d ∧ e.val = x.setWidth 2048 ∧ e.left = s.latency k ∧ e.issue = s.cx.ic := by
  have hs : ¬(Reg.s d = .s 0 ∧ (0 : BitVec 5) = 0 ∧ (0 : BitVec 11) = 0) := fun h => hd (Reg.s.inj h.1)
  unfold State.landS State.landF State.landLat
  dsimp only
  rw [if_neg hs, cx_setCx]
  exact ⟨_, mem_insertLand_self _ _, rfl, rfl, rfl, rfl⟩

/-! Which entries land (10 R254, R256). -/

/-- An entry whose count is reached lands where its result exists and its register waits for no overdue write. -/
def LandEntry.lands (e : LandEntry) (held : List Reg) : Prop := e.left = 0 ∧ e.ready = true ∧ e.reg ∉ held

/-- The registers that wait for an overdue write, behind one entry more. -/
def heldNext (held : List Reg) (e : LandEntry) : List Reg :=
  if e.left = 0 ∧ ¬(e.ready = true ∧ e.reg ∉ held) then e.reg :: held else held

theorem dueSplit_cons_lands {e : LandEntry} {held : List Reg} (l : List LandEntry) (h : e.lands held) :
    dueSplit held (e :: l) = (e :: (dueSplit (heldNext held e) l).1, (dueSplit (heldNext held e) l).2) := by
  obtain ⟨hl, hr, hh⟩ := h
  rw [heldNext, if_neg fun hn => hn.2 ⟨hr, hh⟩, dueSplit, if_pos hl,
    if_pos ⟨hr, fun hc => hh (List.contains_iff_mem.mp hc)⟩]

theorem dueSplit_cons_stays {e : LandEntry} {held : List Reg} (l : List LandEntry) (h : ¬e.lands held) :
    dueSplit held (e :: l) = ((dueSplit (heldNext held e) l).1, e :: (dueSplit (heldNext held e) l).2) := by
  rw [heldNext, dueSplit]
  by_cases hl : e.left = 0
  · have hn : ¬(e.ready = true ∧ e.reg ∉ held) := fun hn => h ⟨hl, hn⟩
    have hc : ¬(e.ready = true ∧ ¬held.contains e.reg = true) := by rwa [List.contains_iff_mem]
    rw [if_pos hl, if_neg hc, if_pos ⟨hl, hn⟩]
  · rw [if_neg hl, if_neg fun hn => hl hn.1]

theorem dueSplit_sublist (held : List Reg) (l : List LandEntry) :
    (dueSplit held l).1.Sublist l ∧ (dueSplit held l).2.Sublist l := by
  induction l generalizing held with
  | nil => exact ⟨.slnil, .slnil⟩
  | cons e l ih =>
    obtain ⟨h1, h2⟩ := ih (heldNext held e)
    by_cases h : e.lands held
    · rw [dueSplit_cons_lands l h]
      exact ⟨h1.cons_cons e, h2.cons e⟩
    · rw [dueSplit_cons_stays l h]
      exact ⟨h1.cons e, h2.cons_cons e⟩

theorem dueSplit_length (held : List Reg) (l : List LandEntry) :
    (dueSplit held l).1.length + (dueSplit held l).2.length = l.length := by
  induction l generalizing held with
  | nil => rfl
  | cons e l ih =>
    have hl := ih (heldNext held e)
    by_cases h : e.lands held
    · rw [dueSplit_cons_lands l h]
      simp only [List.length_cons]
      omega
    · rw [dueSplit_cons_stays l h]
      simp only [List.length_cons]
      omega

/-- What lands has its count reached and its result there. -/
theorem ready_of_mem_dueSplit {held : List Reg} {l : List LandEntry} {x : LandEntry} (hx : x ∈ (dueSplit held l).1) :
    x.left = 0 ∧ x.ready = true := by
  induction l generalizing held with
  | nil => cases hx
  | cons e l ih =>
    by_cases h : e.lands held
    · rw [dueSplit_cons_lands l h] at hx
      rcases List.mem_cons.mp hx with rfl | hx
      · exact ⟨h.1, h.2.1⟩
      · exact ih hx
    · rw [dueSplit_cons_stays l h] at hx
      exact ih hx

/-- What does not land stays. -/
theorem mem_dueSplit (held : List Reg) {l : List LandEntry} {x : LandEntry} (hx : x ∈ l) :
    x ∈ (dueSplit held l).1 ∨ x ∈ (dueSplit held l).2 := by
  induction l generalizing held with
  | nil => cases hx
  | cons e l ih =>
    have hrest : x ∈ l → _ := ih (heldNext held e)
    by_cases h : e.lands held
    · rw [dueSplit_cons_lands l h]
      rcases List.mem_cons.mp hx with rfl | hx
      · exact .inl List.mem_cons_self
      · exact (hrest hx).imp_left (List.mem_cons_of_mem e)
    · rw [dueSplit_cons_stays l h]
      rcases List.mem_cons.mp hx with rfl | hx
      · exact .inr List.mem_cons_self
      · exact (hrest hx).imp_right (List.mem_cons_of_mem e)

theorem mem_stays {held : List Reg} {l : List LandEntry} {x : LandEntry} (hx : x ∈ l) (h : x.left ≠ 0 ∨ x.ready = false) :
    x ∈ (dueSplit held l).2 := by
  refine (mem_dueSplit held hx).resolve_left fun hd => ?_
  obtain ⟨hl, hr⟩ := ready_of_mem_dueSplit hd
  exact h.elim (fun hn => hn hl) fun hf => Bool.false_ne_true (hf.symm.trans hr)

/-- A list is split part by part, the second behind the registers that the first holds. -/
theorem dueSplit_append (held : List Reg) (l m : List LandEntry) :
    dueSplit held (l ++ m) = ((dueSplit held l).1 ++ (dueSplit (l.foldl heldNext held) m).1,
      (dueSplit held l).2 ++ (dueSplit (l.foldl heldNext held) m).2) := by
  induction l generalizing held with
  | nil => rfl
  | cons e l ih =>
    rw [List.cons_append, List.foldl_cons]
    by_cases h : e.lands held
    · rw [dueSplit_cons_lands _ h, dueSplit_cons_lands l h, ih]
      rfl
    · rw [dueSplit_cons_stays _ h, dueSplit_cons_stays l h, ih]
      rfl

/-- A held register was held before, or the entry is an overdue write of it. -/
theorem mem_heldNext {held : List Reg} {e : LandEntry} {r : Reg} :
    r ∈ heldNext held e ↔ r ∈ held ∨ e.left = 0 ∧ e.ready = false ∧ e.reg = r := by
  unfold heldNext
  split
  next h =>
    obtain ⟨hl, hn⟩ := h
    rw [List.mem_cons]
    constructor
    · rintro (rfl | hr)
      · by_cases hm : e.reg ∈ held
        · exact .inl hm
        · exact .inr ⟨hl, Bool.eq_false_iff.mpr fun hr => hn ⟨hr, hm⟩, rfl⟩
      · exact .inl hr
    · rintro (hr | ⟨-, -, rfl⟩)
      · exact .inr hr
      · exact .inl rfl
  next h =>
    refine ⟨.inl, fun hr => hr.resolve_right ?_⟩
    rintro ⟨hl, hf, -⟩
    exact h ⟨hl, fun hn => Bool.false_ne_true (hf.symm.trans hn.1)⟩

/-- Behind a list the registers of its overdue writes are held. -/
theorem mem_foldl_heldNext {held : List Reg} {l : List LandEntry} {r : Reg} :
    r ∈ l.foldl heldNext held ↔ r ∈ held ∨ ∃ y ∈ l, y.left = 0 ∧ y.ready = false ∧ y.reg = r := by
  induction l generalizing held with
  | nil => simp
  | cons e l ih => simp only [List.foldl_cons, ih, mem_heldNext, or_assoc, List.mem_cons, exists_eq_or_imp]

/-- A due entry lands that no overdue write of its register precedes. -/
theorem due_lands {before after : List LandEntry} {x : LandEntry} (hl : x.left = 0) (hr : x.ready = true)
    (hb : ∀ y ∈ before, y.left = 0 → y.ready = false → y.reg ≠ x.reg) : x ∈ (dueSplit [] (before ++ x :: after)).1 := by
  have hh : x.reg ∉ before.foldl heldNext [] := by
    rw [mem_foldl_heldNext]
    rintro (h | ⟨y, hy, hyl, hyr, he⟩)
    · cases h
    · exact hb y hy hyl hyr he
  rw [dueSplit_append, dueSplit_cons_lands after ⟨hl, hr, hh⟩]
  exact List.mem_append_right _ List.mem_cons_self

/-- An entry behind an overdue write of its register stays, in its place. -/
theorem stays_behind_overdue {front after : List LandEntry} {x y : LandEntry} (hy : y ∈ front) (hl : y.left = 0)
    (hr : y.ready = false) (he : y.reg = x.reg) :
    ∃ a b, (dueSplit [] (front ++ x :: after)).2 = a ++ x :: b ∧ a.Sublist front ∧ b.Sublist after ∧ y ∈ a := by
  have hh : x.reg ∈ front.foldl heldNext [] := mem_foldl_heldNext.mpr (.inr ⟨y, hy, hl, hr, he⟩)
  rw [dueSplit_append, dueSplit_cons_stays after fun h => h.2.2 hh]
  exact ⟨_, _, rfl, (dueSplit_sublist _ _).2, (dueSplit_sublist _ _).2, mem_stays hy (.inr hr)⟩

theorem ageLanding_left (l : List LandEntry) : (ageLanding l).map (·.left) = l.map fun e => e.left - 1 := List.map_map

/-! What a landed value changes (01 R24, 10 R252). -/

/-- A file of registers read after a write of one of them. -/
theorem get_set_bitVec {α : Type} {w : Nat} (v : Vector α (2 ^ w)) (a b : BitVec w) (x : α) :
    (v.set a.toNat x a.isLt).get b.toFin = if b = a then x else v.get b.toFin := by
  show (v.set a.toNat x a.isLt)[b.toNat] = if b = a then x else v[b.toNat]
  rw [Vector.getElem_set]
  simp only [← BitVec.toNat_inj, eq_comm]

/-- A file of registers of another size, read after a write of one of them. -/
theorem getElem?_vmod {α : Type} {n : Nat} (v : Vector α n) (i j : Nat) (f : α → α) :
    (vmod v i f)[j]? = if j = i then v[j]?.map f else v[j]? := by
  unfold vmod
  split
  next h =>
    rw [Vector.getElem?_set]
    split
    next hj =>
      subst hj
      rw [if_pos rfl, Vector.getElem?_eq_getElem h]
      rfl
    next hj => rw [if_neg (Ne.symm hj)]
  next h =>
    split
    next hj =>
      subst hj
      rw [Vector.getElem?_eq_none (Nat.not_lt.mp h)]
      rfl
    next => rfl

section
variable (c : Context) {e : LandEntry}

theorem setReg_s {a : BitVec 6} (h : e.reg = .s a) :
    (a ≠ 0 → (c.setReg e).rs a = e.val.setWidth 64) ∧ (c.setReg e).rs 0 = 0 ∧ ∀ b, b ≠ a → (c.setReg e).rs b = c.rs b := by
  unfold Context.setReg
  rw [h]
  dsimp only
  split
  next ha => exact ⟨fun hn => absurd ha hn, rfl, fun _ _ => rfl⟩
  next ha =>
    have hget := fun b => get_set_bitVec (w := 6) c.s a b (e.val.setWidth 64)
    refine ⟨fun _ => ?_, rfl, fun b hb => ?_⟩
    · exact (if_neg ha).trans ((hget a).trans (if_pos rfl))
    · exact congrArg (fun x => if b = 0 then 0 else x) ((hget b).trans (if_neg hb))

theorem setReg_v {a : BitVec 5} (h : e.reg = .v a) :
    (c.setReg e).rv a = e.val ∧ (c.setReg e).vchk.get a.toFin = e.chk ∧ ∀ b, b ≠ a → (c.setReg e).rv b = c.rv b := by
  unfold Context.setReg
  rw [h]
  have hv := fun b => get_set_bitVec (w := 5) c.v a b e.val
  have hchk := get_set_bitVec (w := 5) c.vchk a a e.chk
  exact ⟨(hv a).trans (if_pos rfl), hchk.trans (if_pos rfl), fun b hb => (hv b).trans (if_neg hb)⟩

theorem setReg_p {a : BitVec 5} (h : e.reg = .p a) :
    (a.toNat < 24 → (c.setReg e).rp a = e.val.setWidth 64) ∧ ∀ b, b ≠ a → (c.setReg e).rp b = c.rp b := by
  unfold Context.setReg Context.rp
  rw [h]
  dsimp only
  refine ⟨fun ha => ?_, fun b hb => ?_⟩
  · rw [getElem?_vmod, if_pos rfl, Vector.getElem?_eq_getElem ha]
    rfl
  · rw [getElem?_vmod, if_neg fun he => hb (BitVec.eq_of_toNat_eq he)]

theorem setReg_b {a : BitVec 3} (h : e.reg = .b a) :
    (c.setReg e).rb a = e.val.setWidth 14 ∧ ∀ b, b ≠ a → (c.setReg e).rb b = c.rb b := by
  unfold Context.setReg
  rw [h]
  have hb := fun b => get_set_bitVec (w := 3) c.b a b (e.val.setWidth 14)
  exact ⟨(hb a).trans (if_pos rfl), fun b hn => (hb b).trans (if_neg hn)⟩

theorem setReg_m {a : BitVec 3} (h : e.reg = .m a) :
    (c.setReg e).rm a = e.val.setWidth 64 ∧ ∀ b, b ≠ a → (c.setReg e).rm b = c.rm b := by
  unfold Context.setReg
  rw [h]
  have hm := fun b => get_set_bitVec (w := 3) c.m a b (e.val.setWidth 64)
  exact ⟨(hm a).trans (if_pos rfl), fun b hn => (hm b).trans (if_neg hn)⟩

theorem setReg_k {a : BitVec 3} (h : e.reg = .k a) :
    (c.setReg e).rk a = e.val.setWidth 32 ∧ ∀ b, b ≠ a → (c.setReg e).rk b = c.rk b := by
  unfold Context.setReg
  rw [h]
  have hk := fun b => get_set_bitVec (w := 3) c.k a b (e.val.setWidth 32)
  exact ⟨(hk a).trans (if_pos rfl), fun b hn => (hk b).trans (if_neg hn)⟩

theorem setReg_fmt (h : e.reg = .fmt) : c.setReg e = { c with fmt := e.val.setWidth 6 } := by
  unfold Context.setReg
  rw [h]

theorem stream_setStream (a b : BitVec 4) (q : StreamReg) :
    (c.setStream a q).stream b = if b = a then q else c.stream b :=
  get_set_bitVec (w := 4) c.streams a b q

/-- A push stands last in its stream. -/
theorem setReg_push {a : BitVec 4} (h : e.reg = .push a) :
    ((c.setReg e).stream a).outq = (c.stream a).outq ++ [⟨e.val, e.chk⟩] ∧
      ((c.setReg e).stream a).inq = (c.stream a).inq ∧ ∀ b, b ≠ a → (c.setReg e).stream b = c.stream b := by
  have hc : c.setReg e = c.setStream a { c.stream a with outq := (c.stream a).outq ++ [⟨e.val, e.chk⟩] } := by
    unfold Context.setReg
    rw [h]
    rfl
  rw [hc, stream_setStream, if_pos rfl]
  exact ⟨rfl, rfl, fun b hb => (stream_setStream c a b _).trans (if_neg hb)⟩

/-- Of a context a landed value changes its register files alone. -/
theorem setReg_only (e : LandEntry) :
    c.setReg e = { c with
      s := (c.setReg e).s, v := (c.setReg e).v, vchk := (c.setReg e).vchk, p := (c.setReg e).p, b := (c.setReg e).b
      m := (c.setReg e).m, k := (c.setReg e).k, fmt := (c.setReg e).fmt, streams := (c.setReg e).streams } := by
  unfold Context.setReg
  cases e.reg with
  | s n =>
    dsimp only
    split <;> rfl
  | _ => rfl

@[simp] theorem setReg_restore (e : LandEntry) : (c.setReg e).restore = c.restore := by rw [setReg_only]
@[simp] theorem setReg_fpf (e : LandEntry) : (c.setReg e).fpf = c.fpf := by rw [setReg_only]
@[simp] theorem setReg_cki (e : LandEntry) : (c.setReg e).cki = c.cki := by rw [setReg_only]
@[simp] theorem setReg_ckiSet (e : LandEntry) : (c.setReg e).ckiSet = c.ckiSet := by rw [setReg_only]

end

/-! System registers (15 R408). -/

section
variable (s : State) (core : Nat) (i : BitVec 2) (v : Word)

theorem sysWrite_shchk : s.sysWrite core i 0x001 v = s.setCtxAt core i { s.ctxAt core i with shchk := v.getLsbD 4 } := rfl

theorem sysWrite_fpf : s.sysWrite core i 0x002 v = s.setCtxAt core i { s.ctxAt core i with fpf := v.setWidth 5 } := rfl

theorem sysWrite_cki : s.sysWrite core i 0x004 v = s.setCtxAt core i { s.ctxAt core i with cki := v.setWidth 11 } := rfl

theorem sysWrite_pmk : s.sysWrite core i 0x005 v = s.setCtxAt core i { s.ctxAt core i with pmk := v.setWidth 16 } := rfl

theorem sysWrite_tip : s.sysWrite core i 0x021 v = s.setCtxAt core i { s.ctxAt core i with tip := v.setWidth 14 } := rfl

theorem sysWrite_tmr :
    s.sysWrite core i 0x130 v = s.setCtxAt core i { s.ctxAt core i with tmr := v, tpend := false } := rfl

/-- The four scratch registers follow one another. -/
theorem sysWrite_scr {j : Nat} (hj : j < 4) :
    s.sysWrite core i (0x028 + j) v =
      s.setCtxAt core i { s.ctxAt core i with scr := vmod (s.ctxAt core i).scr j fun _ => v } := by
  unfold State.sysWrite
  dsimp only
  iterate 7 rw [if_neg (by omega)]
  rw [if_pos (by omega), Nat.add_sub_cancel_left]

end

theorem apply_sys (s : State) (core : Nat) (i : BitVec 2) {e : LandEntry} {n : BitVec 12} (h : e.reg = .sys n) :
    s.apply core i e = s.sysWrite core i n.toNat (e.val.setWidth 64) := by
  unfold State.apply
  rw [h]

theorem apply_own (s : State) (core : Nat) (i : BitVec 2) {e : LandEntry} (h : ∀ n, e.reg ≠ .sys n) :
    s.apply core i e = s.setCtxAt core i ((s.ctxAt core i).setReg e) := by
  unfold State.apply
  split
  next n hn => exact absurd hn (h n)
  next => rfl

/-! A boundary (10 R254). -/

/-- Results for the context's own registers land one after another. -/
theorem applyAll_own (s : State) (core : Nat) (i : BitVec 2) {l : List LandEntry} (h : ∀ e ∈ l, ∀ n, e.reg ≠ .sys n) :
    (s.applyAll core i l).ctxAt core i = l.foldl Context.setReg (s.ctxAt core i) := by
  induction l generalizing s with
  | nil => rfl
  | cons e l ih =>
    rw [List.foldl_cons, State.applyAll, apply_own s core i (h e List.mem_cons_self),
      ih _ fun x hx => h x (List.mem_cons_of_mem e hx), ctxAt_setCtxAt]

theorem foldl_setReg_restore (l : List LandEntry) (c : Context) : (l.foldl Context.setReg c).restore = c.restore := by
  induction l generalizing c with
  | nil => rfl
  | cons e l ih => rw [List.foldl_cons, ih, setReg_restore]

/-- With no record to restore nothing more lands. -/
theorem applyRestore_none {s : State} {core : Nat} {i : BitVec 2} (h : (s.ctxAt core i).restore = none) :
    s.applyRestore core i = s := by
  unfold State.applyRestore
  dsimp only
  rw [h]

/-- Outside a region no error is caught. -/
theorem catches_no_region {c : Context} (h : c.region = none) (code : Nat) : c.catches code = false := by
  unfold Context.catches
  rw [h]

/-- What the context holds as the due entries begin to land: the entries that stay, the check bits that CHKERR has cleared
gone. -/
def Context.boundary (c : Context) : Context :=
  { c with landing := (dueSplit [] c.landing).2, cki := c.cki &&& ~~~c.ckiClr, ckiClr := 0 }

/-- A boundary outside a region, with no record to restore and no system register due: the registers, then the flags, then
the check bits set from outside. -/
theorem landDue_own {s : State} {core : Nat} {i : BitVec 2} (hg : (s.ctxAt core i).region = none)
    (hr : (s.ctxAt core i).restore = none)
    (h : ∀ e ∈ (dueSplit [] (s.ctxAt core i).landing).1, ∀ n, e.reg ≠ .sys n) :
    (s.landDue core i).ctxAt core i =
      (((dueSplit [] (s.ctxAt core i).landing).1.foldl Context.setReg (s.ctxAt core i).boundary).orFlags
        (dueSplit [] (s.ctxAt core i).landing).1).orSet := by
  have happ := applyAll_own (s.setCtxAt core i (s.ctxAt core i).boundary) core i h
  rw [ctxAt_setCtxAt] at happ
  have hrest : (((s.setCtxAt core i (s.ctxAt core i).boundary).applyAll core i
      (dueSplit [] (s.ctxAt core i).landing).1).ctxAt core i).restore = none := by
    rw [happ, foldl_setReg_restore]
    exact hr
  unfold State.landDue
  dsimp only
  rw [catches_no_region hg, Bool.and_false, if_neg Bool.false_ne_true, ctxAt_setCtxAt]
  change (((((s.setCtxAt core i (s.ctxAt core i).boundary).applyAll core i _).applyRestore core i).ctxAt core i).orFlags _).orSet
    = _
  rw [applyRestore_none hrest, happ]

/-- Where CHKERR has cleared nothing, the check bits are as they were. -/
theorem boundary_of_ckiClr {c : Context} (h : c.ckiClr = 0) : c.boundary = { c with landing := (dueSplit [] c.landing).2 } := by
  have hk : c.cki &&& ~~~c.ckiClr = c.cki := by rw [h]; exact BitVec.and_allOnes
  rw [Context.boundary, hk, h]

/-- Where nothing has set a check bit from outside, none is ORed in. -/
theorem orSet_of_ckiSet {c : Context} (h : c.ckiSet = 0) : c.orSet = c := by
  have hk : c.cki ||| c.ckiSet = c.cki := by rw [h]; exact BitVec.or_zero
  rw [Context.orSet, hk, ← h]

/-- The flags of one entry join those that stood before it. -/
theorem orFlags_setReg (c : Context) (e : LandEntry) :
    (c.setReg e).orFlags [e] = { c.setReg e with fpf := c.fpf ||| e.fpf, cki := c.cki ||| e.cki } := by
  unfold Context.orFlags
  rw [setReg_fpf, setReg_cki]
  rfl

section
variable {s : State} {core : Nat} {i : BitVec 2} {e : LandEntry} (hl : (s.ctxAt core i).landing = [e])
  (hg : (s.ctxAt core i).region = none) (hr : (s.ctxAt core i).restore = none) (hc : (s.ctxAt core i).ckiClr = 0)
  (hs : (s.ctxAt core i).ckiSet = 0)
include hl hg hr hc hs

/-- The one entry of the buffer lands with its flags. -/
theorem landDue_single_lands (hn : ∀ n, e.reg ≠ .sys n) (h0 : e.left = 0) (hy : e.ready = true) :
    (s.landDue core i).ctxAt core i = { ({ s.ctxAt core i with landing := [] } : Context).setReg e with
      fpf := (s.ctxAt core i).fpf ||| e.fpf, cki := (s.ctxAt core i).cki ||| e.cki } := by
  have hd : dueSplit [] [e] = ([e], []) := dueSplit_cons_lands [] ⟨h0, hy, List.not_mem_nil⟩
  rw [landDue_own hg hr (by simpa only [hl, hd, List.forall_mem_singleton] using hn), boundary_of_ckiClr hc, hl, hd,
    orSet_of_ckiSet]
  · exact orFlags_setReg _ e
  · exact (setReg_ckiSet ..).trans hs

/-- The one entry of the buffer waits, and the context is as it was. -/
theorem landDue_single_waits (h : e.left ≠ 0 ∨ e.ready = false) : (s.landDue core i).ctxAt core i = s.ctxAt core i := by
  have hd : dueSplit [] [e] = ([], [e]) := dueSplit_cons_stays [] fun ⟨h0, hy, _⟩ =>
    h.elim (fun hn => hn h0) fun hf => Bool.false_ne_true (hf.symm.trans hy)
  have hdue : (dueSplit [] (s.ctxAt core i).landing).1 = [] := by rw [hl, hd]
  rw [landDue_own hg hr (by rw [hdue]; exact fun _ hx => absurd hx List.not_mem_nil), hdue, boundary_of_ckiClr hc, hl, hd, ← hl]
  exact orSet_of_ckiSet hs

end

/-- Settles O58: the count of a result, the entries that land at a boundary, the registers, the system registers, and a
boundary with any buffer and with a buffer of one entry, each by its lemmas. -/
theorem resultsLandAtTheirCount : Obligations.ResultsLandAtTheirCount := by
  refine ⟨fun s k => ⟨latency_native, fun hs ho t ht => latency_image hs ho ht, landS_waits s k⟩, fun l => ?_, fun c e => ?_,
    fun s core i e n v hn hv => ?_, fun s core i hg hr hd => landDue_own hg hr hd,
    fun s core i e hl hg hr hc hs hn => ⟨landDue_single_lands hl hg hr hc hs hn, landDue_single_waits hl hg hr hc hs⟩⟩
  · obtain ⟨hdue, hstay⟩ := dueSplit_sublist [] l
    refine ⟨hdue, hstay, fun x hx => ready_of_mem_dueSplit hx, fun x hx h => mem_stays hx h, ?_, ?_, dueSplit_length [] l,
      ageLanding_left l⟩
    · rintro x before after rfl h0 hy hb
      exact due_lands h0 hy hb
    · rintro x y before mid after rfl h0 hy he
      exact stays_behind_overdue (List.mem_append_right before List.mem_cons_self) h0 hy he
  · exact ⟨fun a h => setReg_s c h, fun a h => setReg_v c h, fun a h => setReg_p c h, fun a h => setReg_b c h,
      fun a h => setReg_m c h, fun a h => setReg_k c h, fun h => setReg_fmt c h, fun a h => setReg_push c h⟩
  · intro c c'
    have happ : s.apply core i e = s.sysWrite core i n.toNat v := hv ▸ apply_sys s core i hn
    have hc' {d : Context} (h : s.sysWrite core i n.toNat v = s.setCtxAt core i d) : c' = d := by
      show (s.apply core i e).ctxAt core i = d
      rw [happ, h, ctxAt_setCtxAt]
    refine ⟨happ, ?_, ?_, ?_, ?_, ?_, ?_, fun j hj h => hc' (h ▸ sysWrite_scr s core i v hj)⟩
    · rintro rfl
      exact hc' (sysWrite_shchk s core i v)
    · rintro rfl
      exact hc' (sysWrite_fpf s core i v)
    · rintro rfl
      exact hc' (sysWrite_cki s core i v)
    · rintro rfl
      exact hc' (sysWrite_pmk s core i v)
    · rintro rfl
      exact hc' (sysWrite_tip s core i v)
    · rintro rfl
      exact hc' (sysWrite_tmr s core i v)

end Sys2Proof.Machine
end

section
/-! SUPPORT. LAUNCH and the posts into a mailbox (11 R292-R296). -/

namespace Sys2Proof.Machine

/-! LAUNCH (11 R292, R295). -/

section
variable {s u : State} {p : Pred} {d a c : BitVec 6} {r : LaunchRec} {n : Nat} {pt : Part} {t : Task}
  (h : s.Runs p [.s a]) (hr : s.clear.launchRecord (s.cx.rs a) = .ok (r, u))
  (hp : u.partOfCore u.cur.core = some (n, pt)) (ht : u.cx.task = some t)
include h hr hp ht

/-- Where no entries are to be had it delivers 0 and clears p[C]. -/
theorem execLaunch_refuses (he : u.takeEntries n pt t.lid (1 + recRsv r) = none) :
    execLaunch p d a c s = .next (u.landBoth d c 0 false).done := by
  refine finish_runSlot _ _ _ _ _ _ h rfl ?_
  simp only [clear_cx, hr, hp, ht, he]

/-- Where they are, the record is accepted as a child, behind the charge on the reservation that gives them. -/
theorem execLaunch_accepts {own : Bool} (he : u.takeEntries n pt t.lid (1 + recRsv r) = some own) :
    let v := if own then u.modLaunch n t.lid fun l => { l with resUsed := l.resUsed + (1 + recRsv r) } else u
    let mine := match v.launch n t.lid with
      | some l => l.image
      | none => 0
    execLaunch p d a c s = .next ((v.landBoth d c (v.nextLid n) true).acceptLaunch n r none none
      (if recImage r = 0 then mine else recImage r) (some t.lid) own true).done := by
  refine finish_runSlot _ _ _ _ _ _ h rfl ?_
  simp only [clear_cx, hr, hp, ht, he] <;> rfl

end

/-! MPOST (11 R296). -/

section
variable {s u : State} {p : Pred} {d a b c : BitVec 6} {r : LaunchRec} {n : Nat} {x : Mbox}
  (h : s.Runs p [.s a, .s b]) (hr : s.clear.launchRecord (s.cx.rs b) = .ok (r, u))
include h hr

/-- A number that is no mailbox of the partition has status 2. -/
theorem execMpostLaunch_noBox (hx : u.postBox (u.cx.rs a) = none) :
    execMpostLaunch p d a b c s = .next (u.landStatus d c 2).done := by
  refine finish_runSlot _ _ _ _ _ _ h rfl ?_
  simp only [clear_cx, hr, hx]

theorem execMpostMsg_noBox (hx : u.postBox (u.cx.rs a) = none) :
    execMpostMsg p d a b c s = .next (u.landStatus d c 2).done := by
  refine finish_runSlot _ _ _ _ _ _ h rfl ?_
  simp only [clear_cx, hr, hx]

variable (hx : u.postBox (u.cx.rs a) = some (n, x))
include hx

/-- A consumer mailbox takes no launch record. -/
theorem execMpostLaunch_consumer (hc : x.prod = false) :
    execMpostLaunch p d a b c s = .next (u.landStatus d c 2).done := by
  refine finish_runSlot _ _ _ _ _ _ h rfl ?_
  simp only [clear_cx, hr, hx, hc, Bool.not_false, if_true]

/-- A producer mailbox with 64 posts that await acceptance is full. -/
theorem execMpostLaunch_full (hc : x.prod = true) (hf : 64 ≤ x.posts) :
    execMpostLaunch p d a b c s = .next (u.landStatus d c 1).done := by
  refine finish_runSlot _ _ _ _ _ _ h rfl ?_
  simp only [clear_cx, hr, hx, hc, Bool.not_true, Bool.false_eq_true, if_false, if_pos hf]

/-- One with room holds the record in its next slot, and its slots are examined. -/
theorem execMpostLaunch_posts (hc : x.prod = true) (hf : x.posts < 64) :
    let seq := x.nextl + BitVec.ofNat 32 x.posts
    let v := u.writePhys (x.base + 64 * (seq.toNat % 64)) (leBytes (withCrc (setFld r 0 32 seq.toNat)).toNat 64)
    let z := (v.setMbox n { v.mbox n with posts := x.posts + 1 }).landStatus d c 0
    execMpostLaunch p d a b c s = .next (z.examineSlot (BitVec.ofNat 12 n) 65).done := by
  refine finish_runSlot _ _ _ _ _ _ h rfl ?_
  simp only [clear_cx, hr, hx, hc, Bool.not_true, Bool.false_eq_true, if_false, if_neg (Nat.not_le.mpr hf)]

/-- A mailbox with 64 records unread is full. -/
theorem execMpostMsg_full (hf : 64 ≤ x.unread) :
    execMpostMsg p d a b c s = .next (u.landStatus d c 1).done := by
  refine finish_runSlot _ _ _ _ _ _ h rfl ?_
  simp only [clear_cx, hr, hx, if_pos hf]

/-- One with room is posted a record of TYPE 2. -/
theorem execMpostMsg_posts (hf : x.unread < 64) :
    execMpostMsg p d a b c s = .next ((u.post (BitVec.ofNat 12 n)
      (BitVec.ofNat 512 (2 * 2 ^ 32 + rf r 64 432 * 2 ^ 64))).landStatus d c 0).done := by
  refine finish_runSlot _ _ _ _ _ _ h rfl ?_
  simp only [clear_cx, hr, hx, if_neg (Nat.not_le.mpr hf)]

end

/-- Settles O41: LAUNCH refused and accepted, and each answer of the two posts, by its lemma. -/
theorem launchesAndPostsComplete : Obligations.LaunchesAndPostsComplete := by
  intro s p d a b c
  refine ⟨fun h r u n pt t hr hp ht => ?_, fun h r u hr => ⟨fun hx => ?_, fun n x hx => ?_⟩⟩
  · exact ⟨execLaunch_refuses h hr hp ht, fun own he => execLaunch_accepts h hr hp ht he⟩
  · exact ⟨execMpostLaunch_noBox h hr hx, execMpostMsg_noBox h hr hx⟩
  · exact ⟨execMpostLaunch_consumer h hr hx, execMpostLaunch_full h hr hx, execMpostLaunch_posts h hr hx,
      execMpostMsg_full h hr hx, execMpostMsg_posts h hr hx⟩

end Sys2Proof.Machine
end

section
/-! SUPPORT. The scheduler's events (11 R285-R291). -/

namespace Sys2Proof.Machine

/-! Decisions (11 R289). -/

/-- An ACTIVE partition that no running command is about decides. -/
theorem execScheduleDecision_decides {part : BitVec 6} {s : State} (ha : Part.state (s.part part.toNat) = 1)
    (hr : ∀ r ∈ s.device.running, r.part ≠ part.toNat) :
    execScheduleDecision part s = .next (s.decideOne part.toNat).rest := by
  have hidle : s.device.running.any (fun r => r.part == part.toNat) = false :=
    List.any_eq_false.mpr fun r hm he => hr r hm (eq_of_beq he)
  exact if_pos ⟨ha, by rw [hidle]; rfl⟩

/-! Energy and ageing (11 R290, R291). -/

theorem execEnergyCharge_charges (part : BitVec 6) (lid : BitVec 64) (uj : BitVec 32) (s : State) :
    execEnergyCharge part lid uj s = .next (s.modLaunch part.toNat lid fun l =>
      if l.metered = true ∧ l.tick ≠ s.tickNow then { l.charged s.time uj.toNat with tick := s.tickNow } else l).rest := rfl

theorem execAgingPromote_promotes (part : BitVec 6) (lid : BitVec 64) (s : State) :
    execAgingPromote part lid s = .next (s.modLaunch part.toNat lid fun l =>
      if l.waiting = true ∧ 0 < l.cls ∧ 10000000 ≤ l.waitedAt s.time ∧ (l.metered = true → l.tick = s.tickNow) then
        l.setClass s.time (l.cls - 1) else l).rest := rfl

/-! Torus members (11 R288). -/

section
variable {part : BitVec 6} {lid : BitVec 64} {s : State} {l : Launch} (hl : s.launch part.toNat lid = some l)
include hl

/-- The report of a member that accepted brings its counts, and the launch may end. -/
theorem execTorusMemberReport_merges {node : BitVec 15} {report : MemberReport} (hm : l.members.contains node = true)
    (ha : report.accepted = true) : execTorusMemberReport part lid node report s =
      .next ((s.modLaunch part.toNat lid fun l => l.merge node report).tryFinish part.toNat lid).rest := by
  unfold execTorusMemberReport
  simp only [hl, hm, ha, Bool.not_true, Bool.false_eq_true, if_false, if_true, settle_eq]

/-- A refusal fails the launch. -/
theorem execTorusMemberReport_fails {node : BitVec 15} {report : MemberReport} (hm : l.members.contains node = true)
    (ha : report.accepted = false) :
    execTorusMemberReport part lid node report s = .next (s.torusFail part.toNat lid).rest := by
  unfold execTorusMemberReport
  simp only [hl, hm, ha, Bool.not_true, Bool.false_eq_true, if_false, settle_eq]

/-- The silence of a member that has still to report fails it too. -/
theorem execTorusMemberTimeout_fails (hm : l.members ≠ []) :
    execTorusMemberTimeout part lid s = .next (s.torusFail part.toNat lid).rest := by
  unfold execTorusMemberTimeout
  simp only [hl, if_neg hm, settle_eq]

end

/-- Settles O51: each event by its lemma. -/
theorem schedulingEventsComplete : Obligations.SchedulingEventsComplete := by
  intro s part lid uj node report n on
  refine ⟨execScheduleDecision_decides, execEnergyCharge_charges part lid uj s, execAgingPromote_promotes part lid s,
    fun l hl => ⟨fun hm => ⟨?_, ?_⟩, ?_⟩⟩
  · exact execTorusMemberReport_merges hl hm
  · exact execTorusMemberReport_fails hl hm
  · exact execTorusMemberTimeout_fails hl

end Sys2Proof.Machine
end

section
/-! SUPPORT. A field of a word written: what it holds, and what the other fields keep; the ferry's stack (12 R299). -/

namespace Sys2Proof.Machine

/-! A written field. -/

theorem fld_lt (x lo n : Nat) : fld x lo n < 2 ^ n := Nat.mod_lt _ (Nat.two_pow_pos n)

/-- A word by one of its fields, what lies above it and what lies below. -/
theorem eq_above_fld_below (x lo n : Nat) : x = x / 2 ^ (lo + n) * 2 ^ (lo + n) + (fld x lo n * 2 ^ lo + x % 2 ^ lo) := by
  have hmod := Laws.Encoding.mod_eq_bits x (Nat.le_add_right lo n)
  rw [← Laws.Encoding.fld_eq_bits] at hmod
  rw [← hmod, Nat.div_add_mod']

/-- A field above what a sum adds below it reads the upper part alone. -/
theorem fld_of_above {v lo r a : Nat} (n : Nat) (hr : r < 2 ^ lo) (h : lo ≤ a) :
    fld (v * 2 ^ lo + r) a n = fld v (a - lo) n := by
  obtain ⟨k, rfl⟩ := Nat.le.dest h
  unfold fld
  rw [Nat.pow_add, ← Nat.div_div_eq_div_mul, Nat.add_comm, Nat.add_mul_div_right _ _ (Nat.two_pow_pos lo),
    Nat.div_eq_of_lt hr, Nat.zero_add, Nat.add_sub_cancel_left]

theorem field_and_below_lt {v lo n r : Nat} (hv : v < 2 ^ n) (hr : r < 2 ^ lo) : v * 2 ^ lo + r < 2 ^ (lo + n) := by
  have hle : (v + 1) * 2 ^ lo ≤ 2 ^ n * 2 ^ lo := Nat.mul_le_mul_right _ hv
  rw [Nat.pow_add, Nat.mul_comm (2 ^ lo)]
  rw [Nat.succ_mul] at hle
  omega

section
variable {w : Nat} (x : BitVec w) {lo n : Nat} (v : Nat) (h : lo + n ≤ w)
include h

theorem toNat_setFld :
    (setFld x lo n v).toNat = x.toNat / 2 ^ (lo + n) * 2 ^ (lo + n) + (v % 2 ^ n * 2 ^ lo + x.toNat % 2 ^ lo) := by
  have hsplit := eq_above_fld_below x.toNat lo n
  have hlow : v % 2 ^ n * 2 ^ lo + x.toNat % 2 ^ lo < 2 ^ (lo + n) :=
    field_and_below_lt (Nat.mod_lt _ (Nat.two_pow_pos n)) (Nat.mod_lt _ (Nat.two_pow_pos lo))
  have hhigh : x.toNat / 2 ^ (lo + n) < 2 ^ (w - (lo + n)) :=
    Nat.div_lt_of_lt_mul (by rw [← Nat.pow_add, Nat.add_sub_cancel' h]; exact x.isLt)
  have hfits := field_and_below_lt hhigh hlow
  rw [Nat.add_sub_cancel' h] at hfits
  rw [setFld, BitVec.toNat_ofNat]
  have he : x.toNat - fld x.toNat lo n * 2 ^ lo + v % 2 ^ n * 2 ^ lo =
      x.toNat / 2 ^ (lo + n) * 2 ^ (lo + n) + (v % 2 ^ n * 2 ^ lo + x.toNat % 2 ^ lo) := by omega
  rw [he, Nat.mod_eq_of_lt hfits]

/-- The field reads what was written. -/
theorem fld_setFld_same : fld (setFld x lo n v).toNat lo n = v % 2 ^ n := by
  rw [toNat_setFld x v h, fld_above _ _ _ _ _ (Nat.le_refl _),
    fld_here _ _ _ _ (Nat.mod_lt _ (Nat.two_pow_pos n)) (Nat.mod_lt _ (Nat.two_pow_pos lo))]

/-- A field that does not overlap it reads as before. -/
theorem fld_setFld_other {a m : Nat} (ha : a + m ≤ lo ∨ lo + n ≤ a) : fld (setFld x lo n v).toNat a m = fld x.toNat a m := by
  have hr := Nat.mod_lt x.toNat (Nat.two_pow_pos lo)
  rw [toNat_setFld x v h]
  conv => rhs; rw [eq_above_fld_below x.toNat lo n]
  obtain hb | hb := ha
  · rw [fld_above _ _ _ _ _ (Nat.le_trans hb (Nat.le_add_right lo n)), fld_above _ _ _ _ _ hb,
      fld_above _ _ _ _ _ (Nat.le_trans hb (Nat.le_add_right lo n)), fld_above _ _ _ _ _ hb]
  · rw [fld_of_above _ (field_and_below_lt (Nat.mod_lt _ (Nat.two_pow_pos n)) hr) hb,
      fld_of_above _ (field_and_below_lt (fld_lt _ _ _) hr) hb]

end

/-! The stack (12 R299). -/

section
variable (f : Ferry) (x : W32) (k n : Nat)

theorem ferrySp_setSp : ferrySp (setSp f n) = n % 8 := fld_setFld_same _ _ (by decide)

@[simp] theorem setHdr_manifest (lo v : Nat) : (setHdr f lo n v).manifest = f.manifest := rfl
@[simp] theorem setHdr_program (lo v : Nat) : (setHdr f lo n v).program = f.program := rfl
@[simp] theorem setHdr_cargo (lo v : Nat) : (setHdr f lo n v).cargo = f.cargo := rfl
@[simp] theorem setE_program : (setE f n x).program = f.program := rfl
@[simp] theorem setE_cargo : (setE f n x).cargo = f.cargo := rfl
@[simp] theorem setSp_manifest : (setSp f n).manifest = f.manifest := by rw [setSp, setHdr_manifest]
@[simp] theorem setSp_program : (setSp f n).program = f.program := by rw [setSp, setHdr_program]
@[simp] theorem setSp_cargo : (setSp f n).cargo = f.cargo := by rw [setSp, setHdr_cargo]

@[simp] theorem ferryE_setSp : ferryE (setSp f n) k = ferryE f k := by rw [ferryE, setSp_manifest, ferryE]
@[simp] theorem ferryH_setSp : ferryH (setSp f n) k = ferryH f k := by rw [ferryH, setSp_manifest, ferryH]

variable {k n} (hn : n < 4)
include hn

theorem ferryE_setE_same : ferryE (setE f n x) n = x := by
  unfold ferryE setE
  rw [fld_setFld_same _ _ (by omega), Nat.mod_eq_of_lt x.isLt, BitVec.ofNat_toNat, BitVec.setWidth_eq]

theorem ferryE_setE_other (h : k ≠ n) : ferryE (setE f n x) k = ferryE f k := by
  unfold ferryE setE
  rw [fld_setFld_other _ _ (by omega) (by omega)]

/-- The host words lie below the entries. -/
theorem ferryH_setE (h : k < 4) : ferryH (setE f n x) k = ferryH f k := by
  unfold ferryH setE
  rw [fld_setFld_other _ _ (by omega) (by omega)]

end

theorem pushW_full {f : Ferry} (x : W32) (h : 4 ≤ ferrySp f) : pushW f x = .error 2 := if_pos h

theorem popW_empty {f : Ferry} (h : ferrySp f = 0) : popW f = .error 3 := if_pos h

theorem pushW_room {f : Ferry} (x : W32) (h : ferrySp f < 4) :
    pushW f x = .ok (setSp (setE f (ferrySp f) x) (ferrySp f + 1)) := if_neg (Nat.not_le.mpr h)

theorem popW_of_sp {g : Ferry} {n : Nat} (h : ferrySp g = n + 1) :
    popW g = .ok (ferryE g n, setSp (setE g n 0) n) := by
  simp only [popW, h, Nat.add_eq_zero_iff, Nat.one_ne_zero, and_false, if_false, Nat.add_sub_cancel]

/-- Settles O43: a push writes the entry at SP and raises SP, a pop clears it again; the other entries lie in other bits. -/
theorem landingStackHoldsFour : Obligations.LandingStackHoldsFour := by
  intro f x
  refine ⟨fun h => ?_, pushW_full x, popW_empty⟩
  have hsp : ferrySp (setSp (setE f (ferrySp f) x) (ferrySp f + 1)) = ferrySp f + 1 := by
    rw [ferrySp_setSp, Nat.mod_eq_of_lt (by omega)]
  have hpop := popW_of_sp hsp
  rw [ferryE_setSp, ferryE_setE_same f x h] at hpop
  refine ⟨_, _, pushW_room x h, hsp, hpop, ?_, fun k hk => ⟨?_, ?_⟩, by simp, by simp, fun k hk => ?_⟩
  · rw [ferrySp_setSp, Nat.mod_eq_of_lt (by omega)]
  · rw [ferryE_setSp, ferryE_setE_other f x h (by omega)]
  · rw [ferryE_setSp, ferryE_setE_other _ _ h (by omega), ferryE_setSp, ferryE_setE_other f x h (by omega)]
  · rw [ferryH_setSp, ferryH_setE f x h hk]

end Sys2Proof.Machine
end

section
/-! SUPPORT. A step of a landing (12 R300, R304), and the operations that its program names (12 R305-R315). -/

namespace Sys2Proof.Machine

/-! The next operation (12 R300). -/

theorem step_of_landing {s : State} {l : Landing} (h : s.router.landing = some l) (hs : s.device.stopped = false) :
    step s = closeStep (s.landMove exec l) := by
  simp only [step, h, hs, Bool.false_eq_true, if_false]

/-- A halfword of the program decodes as it does alone. -/
theorem decodeTableWord_ferryOp (f : Ferry) (k : Nat) : decodeTableWord 16 (ferryOp f k) = decodeLanding (ferryOp f k) := by
  rw [decodeTableWord, if_pos rfl, ferryOp, Nat.mod_eq_of_lt (fld_lt _ _ _)]

theorem landMove_decoded {run : Instr → State → Result} {s : State} {l : Landing} {i : Instr} (hp : l.pos < 16)
    (hi : decodeTableWord 16 (ferryOp l.ferry l.pos) = some i) : s.landMove run l = run i s := by
  rw [decodeTableWord_ferryOp] at hi
  simp only [State.landMove, Landing.operation, if_pos hp, hi]

/-- Past the last position, or on a reserved halfword, there is no operation. -/
theorem operation_eq_none {l : Landing} (h : 16 ≤ l.pos ∨ decodeTableWord 16 (ferryOp l.ferry l.pos) = none) :
    l.operation = none := by
  unfold Landing.operation
  split
  case isTrue hp =>
    rw [decodeTableWord_ferryOp] at h
    exact h.resolve_left (Nat.not_le.mpr hp)
  case isFalse => rfl

theorem landMove_reserved {run : Instr → State → Result} {s : State} {l : Landing} (hl : s.router.landing = some l)
    (h : 16 ≤ l.pos ∨ decodeTableWord 16 (ferryOp l.ferry l.pos) = none) :
    s.landMove run l = .next ((s.landFault l 1).pump).rest := by
  simp only [State.landMove, operation_eq_none h]
  exact landStep_fault _ s l 1 hl rfl

/-- Settles O5: a step of a landing is its move, which runs the decoded operation or moors the ferry. -/
theorem stepRunsTheLandingOperation : Obligations.StepRunsTheLandingOperation := by
  intro s l hl hs
  rw [step_of_landing hl hs]
  refine ⟨fun i hp hi => ?_, fun h => ?_⟩
  · rw [landMove_decoded hp hi]
  · rw [landMove_reserved hl h]
    rfl

end Sys2Proof.Machine
end

section
/-! SUPPORT. Stack and arithmetic operations of a landing (12 R305, R306). -/

namespace Sys2Proof.Machine

/-! Operations that take two entries. -/

/-- An operation that takes two entries faults where one of them is missing. -/
structure TakesTwo (act : Ferry → Except Nat Ferry) : Prop where
  top : ∀ {f e}, popW f = .error e → act f = .error e
  below : ∀ {f b f1 e}, popW f = .ok (b, f1) → popW f1 = .error e → act f = .error e

theorem binary_ok {op : W32 → W32 → W32} {f f1 f2 : Ferry} {a b : W32} (hb : popW f = .ok (b, f1))
    (ha : popW f1 = .ok (a, f2)) : binary op f = pushW f2 (op a b) := by
  simp only [binary, hb, ha]

theorem takesTwo_binary (op : W32 → W32 → W32) : TakesTwo (binary op) where
  top h := by simp only [binary, h]
  below hb h := by simp only [binary, hb, h]

/-- A missing entry moors the ferry as it stood. -/
theorem TakesTwo.moors {act : Ferry → Except Nat Ferry} (ht : TakesTwo act) {s : State} {l : Landing}
    (hl : s.router.landing = some l) (e : Nat) :
    (popW l.ferry = .error e → landFerry act s = .next ((s.landFault l e).pump).rest) ∧
    (∀ b f1, popW l.ferry = .ok (b, f1) → popW f1 = .error e →
      landFerry act s = .next ((s.landFault l e).pump).rest) :=
  ⟨fun h => landFerry_fault _ s l e hl (ht.top h), fun _ _ hb h => landFerry_fault _ s l e hl (ht.below hb h)⟩

/-- With both entries there, a binary operation pushes its result. -/
theorem landFerry_binary {op : W32 → W32 → W32} {s : State} {l : Landing} {f1 f2 g : Ferry} {a b : W32}
    (hl : s.router.landing = some l) (hb : popW l.ferry = .ok (b, f1)) (ha : popW f1 = .ok (a, f2))
    (hg : pushW f2 (op a b) = .ok g) : landFerry (binary op) s = .next (s.landed l g (l.pos + 1)) :=
  landFerry_ok _ s l g hl ((binary_ok hb ha).trans hg)

/-! What the operations compute (12 R306). -/

theorem minMaxW_min (a b : W32) : minMaxW false false a b = if a.toInt ≤ b.toInt then a else b := by
  simp only [minMaxW, BitVec.slt, Bool.false_eq_true, if_false, decide_eq_true_eq, ← Int.not_le, ite_not]

theorem minMaxW_max (a b : W32) : minMaxW false true a b = if a.toInt < b.toInt then b else a := by
  simp only [minMaxW, BitVec.slt, Bool.false_eq_true, if_false, if_true, decide_eq_true_eq]

theorem flagW_decide (c : Prop) [Decidable c] : flagW (decide c) = if c then 1 else 0 := by
  simp only [flagW, decide_eq_true_eq]

theorem flagW_beq (a b : W32) : flagW (a == b) = if a = b then 1 else 0 := by
  simp only [flagW, beq_iff_eq]

theorem flagW_lt (u : BitVec 1) (a b : W32) : flagW (if u = 1 then decide (a < b) else a.slt b) =
    if (if u = 1 then (a.toNat : Int) < b.toNat else a.toInt < b.toInt) then 1 else 0 := by
  by_cases hu : u = 1
  · simp only [hu, if_true, flagW_decide, BitVec.lt_def, Int.ofNat_lt]
  · simp only [hu, if_false, BitVec.slt, flagW_decide]

/-! The operations of the landing in progress. -/

section
variable {s : State} {l : Landing} (hl : s.router.landing = some l)
include hl

theorem execPushi_pushes (i : BitVec 10) {g : Ferry} (h : pushW l.ferry (i.signExtend 32) = .ok g) :
    execPushi i s = .next (s.landed l g (l.pos + 1)) := landFerry_ok _ s l g hl h

theorem execPushi_faults (i : BitVec 10) {e : Nat} (h : pushW l.ferry (i.signExtend 32) = .error e) :
    execPushi i s = .next ((s.landFault l e).pump).rest := landFerry_fault _ s l e hl h

theorem execPushh_pushes (k : BitVec 2) {g : Ferry} (h : pushW l.ferry (ferryH l.ferry k.toNat) = .ok g) :
    execPushh k s = .next (s.landed l g (l.pos + 1)) := landFerry_ok _ s l g hl h

theorem execPushh_faults (k : BitVec 2) {e : Nat} (h : pushW l.ferry (ferryH l.ferry k.toNat) = .error e) :
    execPushh k s = .next ((s.landFault l e).pump).rest := landFerry_fault _ s l e hl h

theorem execDup_pushes (k : BitVec 2) {g : Ferry} (hk : k.toNat < ferrySp l.ferry)
    (h : pushW l.ferry (ferryE l.ferry (ferrySp l.ferry - 1 - k.toNat)) = .ok g) :
    execDup k s = .next (s.landed l g (l.pos + 1)) :=
  landFerry_ok _ s l g hl ((if_neg (Nat.not_le.mpr hk)).trans h)

theorem execDup_underflows (k : BitVec 2) (hk : ferrySp l.ferry ≤ k.toNat) :
    execDup k s = .next ((s.landFault l 3).pump).rest := landFerry_fault _ s l 3 hl (if_pos hk)

theorem execPoph_pops (k : BitVec 3) {x : W32} {g : Ferry} (h : popW l.ferry = .ok (x, g)) :
    execPoph k s = .next (s.landed l (if k = 4 then g else setH g k.toNat x) (l.pos + 1)) :=
  landFerry_ok _ s l _ hl (by simp only [h])

theorem execPoph_faults (k : BitVec 3) {e : Nat} (h : popW l.ferry = .error e) :
    execPoph k s = .next ((s.landFault l e).pump).rest := landFerry_fault _ s l e hl (by simp only [h])

theorem execEqZ_pushes {x : W32} {g h : Ferry} (hp : popW l.ferry = .ok (x, g))
    (hh : pushW g (if x = 0 then 1 else 0) = .ok h) : execEq 1 s = .next (s.landed l h (l.pos + 1)) :=
  landFerry_ok _ s l h hl (by simp only [if_true, hp, flagW_beq, hh])

theorem execEqZ_faults {e : Nat} (h : popW l.ferry = .error e) :
    execEq 1 s = .next ((s.landFault l e).pump).rest := landFerry_fault _ s l e hl (by simp only [if_true, h])

theorem execSwap_swaps {a b : W32} {f1 f2 f3 g : Ferry} (hb : popW l.ferry = .ok (b, f1)) (ha : popW f1 = .ok (a, f2))
    (h3 : pushW f2 b = .ok f3) (hg : pushW f3 a = .ok g) : execSwap s = .next (s.landed l g (l.pos + 1)) :=
  landFerry_ok _ s l g hl (by simp only [hb, ha, h3, hg])

/-- SWAP takes two entries too. -/
theorem execSwap_moors (e : Nat) :
    (popW l.ferry = .error e → execSwap s = .next ((s.landFault l e).pump).rest) ∧
    (∀ b f1, popW l.ferry = .ok (b, f1) → popW f1 = .error e → execSwap s = .next ((s.landFault l e).pump).rest) :=
  TakesTwo.moors ⟨fun h => by simp only [h], fun hb h => by simp only [hb, h]⟩ hl e

/-- A missing entry moors the ferry under every operation that takes two. -/
theorem twoEntries_moor (u : BitVec 1) (e : Nat) {op : Instr} (hop : op ∈ ([.swap, .ferryAdd, .ferrySub, .ferryAnd, .ferryOr,
    .ferryXor, .ferryMin u, .ferryMax u, .amax, .eq 0, .lt u] : List Instr)) :
    (popW l.ferry = .error e → exec op s = .next ((s.landFault l e).pump).rest) ∧
    (∀ b f1, popW l.ferry = .ok (b, f1) → popW f1 = .error e → exec op s = .next ((s.landFault l e).pump).rest) := by
  have hbin (f : W32 → W32 → W32) := (takesTwo_binary f).moors hl e
  simp only [List.mem_cons, List.not_mem_nil, or_false] at hop
  rcases hop with rfl | rfl | rfl | rfl | rfl | rfl | rfl | rfl | rfl | rfl | rfl
  case inl => exact execSwap_moors hl e
  all_goals exact hbin _

end

/-- Settles O44: each operation by its lemma; those that take two entries share theirs. -/
theorem landingArithmeticCompletes : Obligations.LandingArithmeticCompletes := by
  intro s l i k2 k3 u hl f on moored
  refine ⟨fun g => ⟨execPushi_pushes hl i, execPushh_pushes hl k2, execDup_pushes hl k2⟩,
    fun e => ⟨execPushi_faults hl i, execPushh_faults hl k2⟩, execDup_underflows hl k2,
    fun x g hp => ⟨execPoph_pops hl k3 hp, fun h => execEqZ_pushes hl hp⟩,
    ⟨fun e h => ⟨execPoph_faults hl k3 h, execEqZ_faults hl h, fun op hop => (twoEntries_moor hl u e hop).1 h⟩,
      fun e b f1 hb h op hop => (twoEntries_moor hl u e hop).2 b f1 hb h⟩,
    fun b f1 a f2 hb ha => ⟨fun f3 g => execSwap_swaps hl hb ha, fun g => ?results⟩⟩
  case results =>
    have hbin {op : W32 → W32 → W32} (x : W32) (hx : op a b = x) (hg : pushW f2 x = .ok g) :
        landFerry (binary op) s = on g := landFerry_binary hl hb ha (by rw [hx, hg])
    exact ⟨hbin _ rfl, hbin _ rfl, hbin _ rfl, hbin _ rfl, hbin _ rfl, hbin _ (minMaxW_min a b), hbin _ (minMaxW_max a b),
      hbin _ rfl, hbin _ rfl, hbin _ rfl, hbin _ (flagW_beq a b), hbin _ (flagW_lt u a b)⟩

end Sys2Proof.Machine
end

section
/-! SUPPORT. Branches, departures, deliveries and ends of a landing (12 R305, R311-R315, R325, R331). -/

namespace Sys2Proof.Machine

/-! What a granted operation does. -/

section
variable {s t : State} {l : Landing} {bit : Nat} {act : Landing → State → LandOut} (hl : s.router.landing = some l)
  (hg : s.granted l.ferry bit = true)
include hl hg

theorem landMasked_next {l' : Landing} (ha : act l s = .next l' t) :
    landMasked bit act s = .next (t.landed l' l'.ferry (l.pos + 1)) :=
  (landMasked_granted bit act s l hl hg).trans (landStep_next act s l l' t hl ha)

theorem landMasked_done (ha : act l s = .done l t) : landMasked bit act s = .next (t.landOver l) :=
  (landMasked_granted bit act s l hl hg).trans (landStep_done act s l t hl ha)

theorem landMasked_faults {e : Nat} (ha : act l s = .fault e) :
    landMasked bit act s = .next ((s.landFault l e).pump).rest :=
  (landMasked_granted bit act s l hl hg).trans (landStep_fault act s l e hl ha)

end

/-! Branches (12 R305). -/

section
variable {s : State} {l : Landing} {k : BitVec 4}

/-- A target above 15 is ILLEGAL, taken or not. -/
theorem landBranch_far (f : Ferry) (yes : Bool) (h : 15 < l.pos + 1 + k.toNat) : landBranch l f k yes s = .fault 1 :=
  if_pos h

theorem landBranch_taken (f : Ferry) (h : l.pos + 1 + k.toNat ≤ 15) :
    landBranch l f k true s = .goto { l with ferry := f } (l.pos + 1 + k.toNat) s :=
  if_neg (Nat.not_lt.mpr h)

theorem landBranch_passed (f : Ferry) (h : l.pos + 1 + k.toNat ≤ 15) :
    landBranch l f k false s = .next { l with ferry := f } s :=
  if_neg (Nat.not_lt.mpr h)

end

/-! Routes (12 R313, R325). -/

/-- A ferry at its budget that would leave on the escape lanes is moored. -/
theorem route_spent {s : State} {f : Ferry} {pos : Nat} (hr : s.reaches (ferryTenant f) (ferryTarget f) = true)
    (hd : dimPort (s.extent (ferryTenant f)) s.node (ferryTarget f) ≠ none) (hb : ferryHops f = ferryBudget f) :
    s.route f none pos = s.moor f 5 pos 0 0 := by
  obtain ⟨port, hport⟩ := Option.ne_none_iff_exists'.mp hd
  simp only [State.route, hr, if_true, State.sendEscape, hport, if_pos hb]

/-- A slot of another tenant is PERM (12 R331). -/
theorem slotFor_perm {s : State} {f : Ferry} {k : Nat} {y : CSlot} (hk : k < 8192) (hy : look s.router.slots k = some y)
    (ht : y.tenant.toNat ≠ ferryTenant f) : s.slotFor f k = .error 4 := by
  simp only [State.slotFor, if_neg (Nat.not_le.mpr hk), hy, if_neg ht]
  rfl

/-! GO through a port whose axis has more than one node (12 R312, R325, 16 R445). -/

section
variable {s : State} {l : Landing} {q : Nat} (he : s.extent (ferryTenant l.ferry) (axisPort q) ≠ 1)
include he

theorem goPort_leaves (hd : s.deadPort q = false) (hb : ferryHops l.ferry ≠ ferryBudget l.ferry) :
    goPort q l s = .done l (s.enqueue q 2 l.ferry) := by
  simp only [goPort, if_neg he, hd, Bool.false_eq_true, if_false, if_neg hb]

theorem goPort_spent (hd : s.deadPort q = false) (hb : ferryHops l.ferry = ferryBudget l.ferry) :
    goPort q l s = .done l (s.moor l.ferry 5 l.pos 0 0) := by
  simp only [goPort, if_neg he, hd, Bool.false_eq_true, if_false, if_pos hb, faultBudget]

theorem goPort_dead (hd : s.deadPort q = true) : goPort q l s =
    .done l (if ferryTarget l.ferry = s.node then s.arrive l.ferry 6 none else s.route l.ferry none l.pos) := by
  simp only [goPort, if_neg he, hd, if_true]
  split <;> rfl

end

section
variable {s : State} {l : Landing} (hl : s.router.landing = some l)
include hl

section
variable {k : BitVec 4}

theorem execJmp_goes (h : l.pos + 1 + k.toNat ≤ 15) :
    execJmp k s = .next (s.landed l l.ferry (l.pos + 1 + k.toNat)) :=
  landStep_goto _ s l l _ s hl (landBranch_taken l.ferry h)

theorem execJmp_illegal (h : 15 < l.pos + 1 + k.toNat) : execJmp k s = .next ((s.landFault l 1).pump).rest :=
  landStep_fault _ s l 1 hl (landBranch_far l.ferry true h)

variable {x : W32} {g : Ferry} (hp : popW l.ferry = .ok (x, g))
include hp

theorem execJz_goes (h : l.pos + 1 + k.toNat ≤ 15) :
    execJz k s = .next (s.landed l g (if x = 0 then l.pos + 1 + k.toNat else l.pos + 1)) := by
  by_cases hx : x = 0
  · rw [if_pos hx]
    refine landStep_goto _ s l { l with ferry := g } _ s hl ?_
    simp only [hp, beq_iff_eq.mpr hx, landBranch_taken g h]
  · rw [if_neg hx]
    refine landStep_next _ s l { l with ferry := g } s hl ?_
    simp only [hp, beq_eq_false_iff_ne.mpr hx, landBranch_passed g h]

theorem execJz_illegal (h : 15 < l.pos + 1 + k.toNat) : execJz k s = .next ((s.landFault l 1).pump).rest :=
  landStep_fault _ s l 1 hl (by simp only [hp, landBranch_far g _ h])

end

theorem execKill_ends : execKill s = .next (s.landOver l) := landStep_done _ s l s hl rfl

/-! CLONE (12 R311). -/

theorem execClone_records {d : BitVec 15} {g own copy : Ferry} (hg : s.granted l.ferry 5 = true)
    (hn : l.clones.length < 3) (hd : s.popCoord l.ferry = .ok (d, g)) (ho : pushW g 0 = .ok own)
    (hc : pushW g 1 = .ok copy) :
    execClone s = .next (s.landed { l with clones := l.clones ++ [setHdr (setHdr copy 16 15 d.toNat) 83 2 2] } own
      (l.pos + 1)) := by
  refine landMasked_next (l' := { l with
    ferry := own, clones := l.clones ++ [setHdr (setHdr copy 16 15 d.toNat) 83 2 2] }) hl hg ?_
  simp only [if_neg (Nat.not_le.mpr hn), hd, ho, hc]

theorem execClone_fourth (hg : s.granted l.ferry 5 = true) (hn : 3 ≤ l.clones.length) :
    execClone s = .next ((s.landFault l 1).pump).rest :=
  landMasked_faults hl hg (if_pos hn)

/-! GODST (12 R313). -/

theorem execGodst_there (ht : ferryTarget l.ferry = s.node) : execGodst s = .next (s.landed l l.ferry (l.pos + 1)) :=
  landStep_next _ s l l s hl (if_pos ht)

theorem execGodst_leaves (ht : ferryTarget l.ferry ≠ s.node) : execGodst s = .next ((s.route l.ferry none l.pos).landOver l) :=
  landStep_done _ s l _ hl (if_neg ht)

theorem execGodst_spent (ht : ferryTarget l.ferry ≠ s.node) (hr : s.reaches (ferryTenant l.ferry) (ferryTarget l.ferry) = true)
    (hd : dimPort (s.extent (ferryTenant l.ferry)) s.node (ferryTarget l.ferry) ≠ none)
    (hb : ferryHops l.ferry = ferryBudget l.ferry) :
    execGodst s = .next ((s.moor l.ferry 5 l.pos 0 0).landOver l) := by
  rw [execGodst_leaves hl ht, route_spent hr hd hb]

/-! GO (12 R312). -/

section
variable {port : BitVec 3} {q : Nat}
  (hq : (port ≠ 6 ∧ s.granted l.ferry 6 = true ∧ q = port.toNat) ∨ (port = 6 ∧ s.adaptivePort l.ferry = some q))
include hq

/-- A granted GO, or one on the adaptive lane, is a GO through the port it names. -/
theorem execGo_eq : execGo port s = landStep (goPort q) s := by
  obtain ⟨hp, hg, rfl⟩ | ⟨hp, ha⟩ := hq
  · simp only [execGo, if_neg hp]
    exact landMasked_granted 6 _ s l hl hg
  · simp only [execGo, if_pos hp, landStep, hl, ha]

theorem execGo_ends {t : State} (h : goPort q l s = .done l t) : execGo port s = .next (t.landOver l) :=
  (execGo_eq hl hq).trans (landStep_done _ s l t hl h)

end

theorem execGo_denied {port : BitVec 3} (hp : port ≠ 6) (hg : s.granted l.ferry 6 = false) :
    execGo port s = .next ((s.landFault l 4).pump).rest :=
  (if_neg hp).trans (landMasked_denied 6 _ s l hl hg)

/-! Without their permission (12 R331). -/

theorem execClone_denied (hg : s.granted l.ferry 5 = false) : execClone s = .next ((s.landFault l 4).pump).rest :=
  landMasked_denied 5 _ s l hl hg

theorem execDlvr_denied (hg : s.granted l.ferry 4 = false) : execDlvr s = .next ((s.landFault l 4).pump).rest :=
  landMasked_denied 4 _ s l hl hg

theorem execPark_denied (hg : s.granted l.ferry 2 = false) : execPark s = .next ((s.landFault l 4).pump).rest :=
  landMasked_denied 2 _ s l hl hg

/-! DLVR (12 R314). -/

section
variable (hg : s.granted l.ferry 4 = true) {x : W32} {g : Ferry} (hp : popW l.ferry = .ok (x, g))
include hg hp

theorem execDlvr_illegal (hx : 2 ^ 12 ≤ x.toNat) : execDlvr s = .next ((s.landFault l 1).pump).rest :=
  landMasked_faults hl hg (by simp only [hp, if_pos hx, faultIllegal])

theorem execDlvr_delivers (hx : x.toNat < 2 ^ 12) (ho : s.ownsLandCore (popOrZero g).2 (x.toNat % 512) = true) :
    execDlvr s = .next ((s.deliverFerry (popOrZero g).2 (x.toNat % 512 * 8 + x.toNat / 512) (popOrZero g).1).landOver l) :=
  landMasked_done hl hg
    (by simp only [hp, if_neg (Nat.not_le.mpr hx), ho, Bool.not_true, Bool.false_eq_true, if_false])

theorem execDlvr_perm (hx : x.toNat < 2 ^ 12) (ho : s.ownsLandCore (popOrZero g).2 (x.toNat % 512) = false) :
    execDlvr s = .next ((s.landFault l 4).pump).rest :=
  landMasked_faults hl hg
    (by simp only [hp, if_neg (Nat.not_le.mpr hx), ho, Bool.not_false, if_true, faultPerm])

end

/-! PARK (12 R315). -/

section
variable (hg : s.granted l.ferry 2 = true) {x : W32} {g : Ferry} (hp : popW l.ferry = .ok (x, g))
include hg hp

theorem execPark_faults {e : Nat} (he : s.slotFor g x.toNat = .error e) :
    execPark s = .next ((s.landFault l e).pump).rest :=
  landMasked_faults hl hg (by simp only [hp, he])

theorem execPark_ends {y : CSlot} (hy : s.slotFor g x.toNat = .ok y) :
    execPark s = .next ((if y.st = 1 then s.moor g 18 0 x.toNat 0 else s.arrive g 7 none).landOver l) :=
  landMasked_done hl hg
    (by simp only [hp, hy])

end
end

/-- Settles O45: each operation's end by its lemma. -/
theorem landingBranchesAndEndsComplete : Obligations.LandingBranchesAndEndsComplete := by
  intro s l k port hl f on moored ends t
  refine ⟨fun ht => ⟨execJmp_goes hl ht, fun x g hp => execJz_goes hl hp ht⟩,
    fun ht => ⟨execJmp_illegal hl ht, fun x g hp => execJz_illegal hl hp ht⟩, execKill_ends hl,
    fun hg hn d g own copy => execClone_records hl hg hn, execClone_fourth hl, execGodst_there hl, execGodst_leaves hl,
    execGodst_spent hl, fun q hq he =>
      ⟨fun hd hb => execGo_ends hl hq (goPort_leaves he hd hb), fun hd hb => execGo_ends hl hq (goPort_spent he hd hb),
        fun hd => execGo_ends hl hq (goPort_dead he hd)⟩,
    execGo_denied hl, execClone_denied hl, execDlvr_denied hl, execPark_denied hl,
    fun hg x g hp => execDlvr_illegal hl hg hp, fun hg x g e hp => execPark_faults hl hg hp,
    fun x y hx hy ht => slotFor_perm hx hy ht,
    fun hg x g hp hx => ⟨execDlvr_delivers hl hg hp hx, execDlvr_perm hl hg hp hx⟩, fun hg x g y hp hy => ?park⟩
  case park =>
    have hends := execPark_ends hl hg hp hy
    exact ⟨fun h1 => hends.trans (by rw [if_pos h1]), fun h1 => hends.trans (by rw [if_neg h1])⟩

end Sys2Proof.Machine
end

section
/-! SUPPORT. Windows, counters, slots, coordinates and cargo of a landing (12 R307-R310, R315, R331). -/

namespace Sys2Proof.Machine

/-! Operations that go on with a changed ferry. -/

section
variable {s t : State} {l : Landing} {g : Ferry} {act : Landing → State → LandOut} (hl : s.router.landing = some l)
include hl

theorem landStep_ferry (ha : act l s = .next { l with ferry := g } t) :
    landStep act s = .next (t.landed l g (l.pos + 1)) :=
  landStep_next act s l { l with ferry := g } t hl ha

theorem landMasked_ferry {bit : Nat} (hg : s.granted l.ferry bit = true) (ha : act l s = .next { l with ferry := g } t) :
    landMasked bit act s = .next (t.landed l g (l.pos + 1)) :=
  (landMasked_granted bit act s l hl hg).trans (landStep_ferry hl ha)

end

/-! Parts of an operation. -/

section
variable {s : State} {l : Landing} {f g : Ferry} {i w : Nat}

theorem ldwAt_reads (hw : s.windowWord f i = some w) (hg : pushW f (s.winGet w) = .ok g) :
    ldwAt l f i s = .next { l with ferry := g } s := by
  simp only [ldwAt, hw, hg]

/-- Outside the window LDW and ADDW are PERM (12 R307, R331). -/
theorem ldwAt_outside (hw : s.windowWord f i = none) : ldwAt l f i s = .fault 4 := by
  simp only [ldwAt, hw, faultPerm]

theorem addwAt_changes (c : BitVec 4) (v : W32) (hw : s.windowWord f i = some w) (hg : pushW f (s.winGet w) = .ok g) :
    addwAt l f i c v s = .next { l with ferry := g }
      (s.winSet w (BitVec.ofNat 32 (combine c.toNat (s.winGet w).toNat v.toNat))) := by
  simp only [addwAt, hw, hg]

theorem addwAt_outside (c : BitVec 4) (v : W32) (hw : s.windowWord f i = none) : addwAt l f i c v s = .fault 4 := by
  simp only [addwAt, hw, faultPerm]

end

section
variable {s : State} {l : Landing} (hl : s.router.landing = some l)
include hl

/-! Windows (12 R307). -/

section
variable (hg : s.granted l.ferry 0 = true)
include hg

theorem execLdwImm_reads {i : BitVec 9} {w : Nat} {g : Ferry} (hw : s.windowWord l.ferry i.toNat = some w)
    (h : pushW l.ferry (s.winGet w) = .ok g) : execLdwImm i s = .next (s.landed l g (l.pos + 1)) :=
  landMasked_ferry hl hg (ldwAt_reads hw h)

theorem execLdwImm_outside {i : BitVec 9} (hw : s.windowWord l.ferry i.toNat = none) :
    execLdwImm i s = .next ((s.landFault l 4).pump).rest :=
  landMasked_faults hl hg (ldwAt_outside hw)

variable {x : W32} {f1 : Ferry} (hp : popW l.ferry = .ok (x, f1))
include hp

theorem execLdw_reads {w : Nat} {g : Ferry} (hw : s.windowWord f1 x.toNat = some w) (h : pushW f1 (s.winGet w) = .ok g) :
    execLdw s = .next (s.landed l g (l.pos + 1)) :=
  landMasked_ferry hl hg (by simp only [hp, ldwAt_reads hw h])

theorem execLdw_outside (hw : s.windowWord f1 x.toNat = none) : execLdw s = .next ((s.landFault l 4).pump).rest :=
  landMasked_faults hl hg (by simp only [hp, ldwAt_outside hw])

end

section
variable (hg : s.granted l.ferry 1 = true) (c : BitVec 4) {v : W32} {f1 : Ferry} (hv : popW l.ferry = .ok (v, f1))
include hg hv

theorem execAddwImm_changes {i : BitVec 5} {w : Nat} {g : Ferry} (hw : s.windowWord f1 i.toNat = some w)
    (h : pushW f1 (s.winGet w) = .ok g) : execAddwImm i c s =
      .next ((s.winSet w (BitVec.ofNat 32 (combine c.toNat (s.winGet w).toNat v.toNat))).landed l g (l.pos + 1)) :=
  landMasked_ferry hl hg (by simp only [hv, addwAt_changes c v hw h])

theorem execAddwImm_outside {i : BitVec 5} (hw : s.windowWord f1 i.toNat = none) :
    execAddwImm i c s = .next ((s.landFault l 4).pump).rest :=
  landMasked_faults hl hg (by simp only [hv, addwAt_outside c v hw])

variable {x : W32} {f2 : Ferry} (hp : popW f1 = .ok (x, f2))
include hp

theorem execAddw_changes {w : Nat} {g : Ferry} (hw : s.windowWord f2 x.toNat = some w)
    (h : pushW f2 (s.winGet w) = .ok g) : execAddw c s =
      .next ((s.winSet w (BitVec.ofNat 32 (combine c.toNat (s.winGet w).toNat v.toNat))).landed l g (l.pos + 1)) :=
  landMasked_ferry hl hg (by simp only [hv, hp, addwAt_changes c v hw h])

theorem execAddw_outside (hw : s.windowWord f2 x.toNat = none) : execAddw c s = .next ((s.landFault l 4).pump).rest :=
  landMasked_faults hl hg (by simp only [hv, hp, addwAt_outside c v hw])

end

/-! Counters (12 R308). -/

section
variable (hg : s.granted l.ferry 3 = true) {k : BitVec 4} {g : Ferry}
  (h : pushW l.ferry ((look s.router.ctrs (ferryTenant l.ferry * 16 + k.toNat)).getD 0) = .ok g)
include hg h

theorem counterAt_pushes (inc : Bool) :
    let key := ferryTenant l.ferry * 16 + k.toNat
    let ctr := (look s.router.ctrs key).getD 0
    counterAt k inc s = .next ((if inc then s.setRouter { s.router with ctrs := put s.router.ctrs key (ctr + 1) }
      else s).landed l g (l.pos + 1)) := by
  unfold counterAt
  exact landMasked_ferry hl hg (by simp only [h])

theorem execCtr_reads : execCtr k s = .next (s.landed l g (l.pos + 1)) := counterAt_pushes hl hg h false

theorem execCtrInc_raises :
    let key := ferryTenant l.ferry * 16 + k.toNat
    let ctr := (look s.router.ctrs key).getD 0
    execCtrInc k s =
      .next ((s.setRouter { s.router with ctrs := put s.router.ctrs key (ctr + 1) }).landed l g (l.pos + 1)) :=
  counterAt_pushes hl hg h true

end

/-! CMB (12 R315, R318). -/

section
variable (hg : s.granted l.ferry 2 = true) {v x : W32} {f1 f2 : Ferry} (hv : popW l.ferry = .ok (v, f1))
  (hp : popW f1 = .ok (x, f2))
include hg hv hp

theorem execCmb_faults {e : Nat} (he : s.slotFor f2 x.toNat = .error e) :
    execCmb s = .next ((s.landFault l e).pump).rest :=
  landMasked_faults hl hg (by simp only [hv, hp, he])

variable {y : CSlot} (hy : s.slotFor f2 x.toNat = .ok y)
include hy

/-- A contribution to an armed slot, which leaves ARMED with the last one. -/
theorem execCmb_armed (h1 : y.st = 1) {z : CSlot} {flag : W32} {g : Ferry} (hz : y.combine v = (z, flag))
    (h : push2 f2 flag z.value = .ok g) : execCmb s = .next ((if z.st = 2 then (s.setSlot x.toNat z).slotLeft x.toNat
      else s.setSlot x.toNat z).landed l g (l.pos + 1)) :=
  landMasked_ferry hl hg (by simp only [hv, hp, hy, if_pos h1, hz, h])

/-- A slot that has left ARMED counts it as late. -/
theorem execCmb_late (h1 : y.st ≠ 1) {g : Ferry} (h : push2 f2 2 y.value = .ok g) : execCmb s =
    .next ((s.setSlot x.toNat { y with flags := y.flags ||| 4, late := y.late + 1 }).landed l g (l.pos + 1)) :=
  landMasked_ferry hl hg (by simp only [hv, hp, hy, if_neg h1, h])

end

/-! Coordinates and counts (12 R309). -/

/-- A value pushed. -/
theorem landPushes_pushes {x : Landing → State → W32} {g : Ferry} (h : pushW l.ferry (x l s) = .ok g) :
    landPushes x s = .next (s.landed l g (l.pos + 1)) :=
  landStep_ferry hl (by simp only [h])

theorem execNode_here {g : Ferry} (h : pushW l.ferry (s.node.setWidth 32) = .ok g) :
    execNode 0 s = .next (s.landed l g (l.pos + 1)) := landPushes_pushes hl h

theorem execNode_dest {g : Ferry} (h : pushW l.ferry ((ferryDest l.ferry).setWidth 32) = .ok g) :
    execNode 1 s = .next (s.landed l g (l.pos + 1)) := landPushes_pushes hl h

theorem execNode_orig {g : Ferry} (h : pushW l.ferry ((ferryOrig l.ferry).setWidth 32) = .ok g) :
    execNode 2 s = .next (s.landed l g (l.pos + 1)) := landPushes_pushes hl h

theorem execNode_fall {g : Ferry} (h : pushW l.ferry ((ferryFall l.ferry).setWidth 32) = .ok g) :
    execNode 3 s = .next (s.landed l g (l.pos + 1)) := landPushes_pushes hl h

theorem execHops_reads {b : BitVec 1} {g : Ferry}
    (h : pushW l.ferry (BitVec.ofNat 32 (if b = 1 then ferryBudget l.ferry else ferryHops l.ferry)) = .ok g) :
    execHops b s = .next (s.landed l g (l.pos + 1)) := landPushes_pushes hl h

theorem execLoadq_reads {m : BitVec 3} {g : Ferry} (hg : s.granted l.ferry 6 = true)
    (h : pushW l.ferry (BitVec.ofNat 32 (s.loadq m.toNat)) = .ok g) : execLoadq m s = .next (s.landed l g (l.pos + 1)) :=
  landMasked_ferry hl hg (by simp only [h])

section
variable {x : BitVec 15} {g : Ferry} (hp : s.popCoord l.ferry = .ok (x, g))
include hp

theorem execNode_setDest :
    execNode 4 s = .next (s.landed l (setHdr (setHdr g 16 15 x.toNat) 83 1 0) (l.pos + 1)) := by
  unfold execNode
  exact landStep_ferry hl (by simp only [hp])

theorem execNode_setFall : execNode 5 s = .next (s.landed l (setHdr g 32 15 x.toNat) (l.pos + 1)) := by
  unfold execNode
  exact landStep_ferry hl (by simp only [hp])

end

/-! Cargo (12 R310). -/

section
variable {k : BitVec 6}

theorem execCrd_reads {g : Ferry} (hk : k.toNat < ferryClen l.ferry / 4)
    (h : pushW l.ferry (cargoWord l.ferry k.toNat) = .ok g) : execCrd k s = .next (s.landed l g (l.pos + 1)) :=
  landFerry_ok _ s l g hl ((if_neg (Nat.not_le.mpr hk)).trans h)

theorem execCwr_writes {x : W32} {g : Ferry} (hp : popW l.ferry = .ok (x, g)) (hk : k.toNat < ferryClen l.ferry / 4) :
    execCwr k s = .next (s.landed l (setCargoWord g k.toNat x) (l.pos + 1)) :=
  landFerry_ok _ s l _ hl ((if_neg (Nat.not_le.mpr hk)).trans (by simp only [hp]))

theorem execCrd_beyond (hk : ferryClen l.ferry / 4 ≤ k.toNat) : execCrd k s = .next ((s.landFault l 1).pump).rest :=
  landFerry_fault _ s l 1 hl (if_pos hk)

theorem execCwr_beyond (hk : ferryClen l.ferry / 4 ≤ k.toNat) : execCwr k s = .next ((s.landFault l 1).pump).rest :=
  landFerry_fault _ s l 1 hl (if_pos hk)

end

/-! Without their permission (12 R331). -/

theorem execLdwImm_denied (i : BitVec 9) (hg : s.granted l.ferry 0 = false) :
    execLdwImm i s = .next ((s.landFault l 4).pump).rest := landMasked_denied 0 _ s l hl hg

theorem execLdw_denied (hg : s.granted l.ferry 0 = false) : execLdw s = .next ((s.landFault l 4).pump).rest :=
  landMasked_denied 0 _ s l hl hg

theorem execAddwImm_denied (i : BitVec 5) (c : BitVec 4) (hg : s.granted l.ferry 1 = false) :
    execAddwImm i c s = .next ((s.landFault l 4).pump).rest := landMasked_denied 1 _ s l hl hg

theorem execAddw_denied (c : BitVec 4) (hg : s.granted l.ferry 1 = false) :
    execAddw c s = .next ((s.landFault l 4).pump).rest := landMasked_denied 1 _ s l hl hg

theorem execCmb_denied (hg : s.granted l.ferry 2 = false) : execCmb s = .next ((s.landFault l 4).pump).rest :=
  landMasked_denied 2 _ s l hl hg

theorem counterAt_denied (k : BitVec 4) (inc : Bool) (hg : s.granted l.ferry 3 = false) :
    counterAt k inc s = .next ((s.landFault l 4).pump).rest := landMasked_denied 3 _ s l hl hg

theorem execLoadq_denied (m : BitVec 3) (hg : s.granted l.ferry 6 = false) :
    execLoadq m s = .next ((s.landFault l 4).pump).rest := landMasked_denied 6 _ s l hl hg

end

/-- Settles O46: each operation, granted and not, by its lemma. -/
theorem landingResourcesComplete : Obligations.LandingResourcesComplete := by
  intro s l i9 i5 c k m k6 b hl f on moored key ctr
  refine ⟨fun hg => ⟨fun w g => execLdwImm_reads hl hg, execLdwImm_outside hl hg, fun x f1 w g hp => execLdw_reads hl hg hp,
      fun x f1 hp => execLdw_outside hl hg hp⟩,
    fun hg => ⟨execAddwImm_denied hl i5 c hg, execAddw_denied hl c hg⟩,
    fun hg => ⟨counterAt_denied hl k false hg, counterAt_denied hl k true hg⟩, execCmb_denied hl, execLoadq_denied hl m,
    fun hg => ⟨execLdwImm_denied hl i9 hg, execLdw_denied hl hg⟩,
    fun hg v f1 hv => ⟨fun w g => execAddwImm_changes hl hg c hv, fun x f2 w g hp => execAddw_changes hl hg c hv hp,
      execAddwImm_outside hl hg c hv, fun x f2 hp => execAddw_outside hl hg c hv hp⟩,
    fun hg v f1 x f2 e hv hp => execCmb_faults hl hg hv hp, fun hg g h => ⟨execCtr_reads hl hg h, execCtrInc_raises hl hg h⟩,
    fun hg v f1 x f2 y hv hp hy => ⟨fun h1 z flag g => execCmb_armed hl hg hv hp hy h1,
      fun h1 g => execCmb_late hl hg hv hp hy h1⟩,
    fun g => ⟨execNode_here hl, execNode_dest hl, execNode_orig hl, execNode_fall hl, execHops_reads hl, execLoadq_reads hl,
      execCrd_reads hl⟩,
    fun x g => execCwr_writes hl, fun hk => ⟨execCrd_beyond hl hk, execCwr_beyond hl hk⟩,
    fun x g hp => ⟨execNode_setDest hl hp, execNode_setFall hl hp⟩⟩

end Sys2Proof.Machine
end

section
/-! SUPPORT. The core's side of ferries: FBUILD, FSEND, CSLOT, DWAIT, DREAD and FRECV (12 R338-R344). -/

namespace Sys2Proof.Machine

/-! What FBUILD reads stands beside the streams it pops. -/

section
variable (s : State) (l : List (BitVec 6))

@[simp] theorem popped_task : (s.popped l).cx.task = s.cx.task := by
  rw [popped_cx, pops_keep Context.task (fun _ _ => rfl)]

theorem popped_template (n : Nat) : (s.clear.popped l).template n = s.template n := by
  unfold State.template
  rw [popped_task]
  rfl

theorem popped_domainNode (x : Nat) : (s.clear.popped l).domainNode x = s.domainNode x := rfl
theorem popped_ownsCoreHere (n : Nat) : (s.clear.popped l).ownsCoreHere n = s.ownsCoreHere n := rfl

end

/-! FBUILD (12 R339). -/

/-- The options and the length that FBUILD takes. -/
def State.buildOk (s : State) (x : Word) (opts : BitVec 5) (clen : BitVec 9) : Prop :=
  clen.toNat ≤ 256 ∧ clen.toNat % 4 = 0 ∧ (opts.getLsbD 0 = true → s.domainNode (fld x.toNat 0 15) = true) ∧
    (opts.getLsbD 1 = true → s.domainNode (fld x.toNat 15 15) = true) ∧
    (opts.getLsbD 2 = true → s.ownsCoreHere (fld x.toNat 30 9) = true)

/-- What its check computes is that they are not. -/
theorem buildBad_iff (s : State) (x : Word) (opts : BitVec 5) (clen : BitVec 9) :
    (decide (256 < clen.toNat) || decide (clen.toNat % 4 ≠ 0) ||
      (opts.getLsbD 0 && !s.domainNode (fld x.toNat 0 15)) || (opts.getLsbD 1 && !s.domainNode (fld x.toNat 15 15)) ||
      (opts.getLsbD 2 && !s.ownsCoreHere (fld x.toNat 30 9))) = false ↔ s.buildOk x opts clen := by
  simp only [State.buildOk, Bool.or_eq_false_iff, Bool.and_eq_false_imp, Bool.not_eq_false', decide_eq_false_iff_not, Nat.not_lt,
    ne_eq, Decidable.not_not, and_assoc]

section
variable {s : State} {p : Pred} {a b c : BitVec 6} {opts : BitVec 5} {tpl : BitVec 8} {clen : BitVec 9}
  (h : s.RunsRows p (if clen = 0 then [] else [c]) [.s a, .s b])
include h

theorem execFbuild_builds (hok : s.buildOk (s.cx.rs a) opts clen) {t : BitVec 768} (ht : s.template tpl.toNat = some t) :
    let srcs := if clen = 0 then [] else [c]
    let u := s.clear.popped srcs
    execFbuild p a b c opts tpl clen s = .next (u.setCx { u.cx with
      staging := some (buildFerry t opts (s.cx.rs a) (s.cx.rs b) ((s.vals srcs).headD 0) clen.toNat) }).done := by
  refine finish_runRows _ _ _ _ _ _ _ h rfl ?_
  simp only [popped_template, popped_domainNode, popped_ownsCoreHere, popped_rs, clear_cx, ht, (buildBad_iff _ _ _ _).mpr hok]

theorem execFbuild_traps (hbad : ¬s.buildOk (s.cx.rs a) opts clen ∨ s.template tpl.toNat = none) :
    execFbuild p a b c opts tpl clen s = .next (s.stoppedBy 16 0 0) := by
  refine finish_runRows_trap _ _ _ _ _ _ _ _ _ h rfl ?_
  simp only [popped_template, popped_domainNode, popped_ownsCoreHere, popped_rs, clear_cx]
  obtain hbad | hnone := hbad
  · rw [← buildBad_iff, Bool.not_eq_false] at hbad
    simp only [hbad]
    cases s.template tpl.toNat <;> rfl
  · simp only [hnone]
    rfl

end

/-! FSEND (12 R340). -/

/-- The ferry that a staging buffer becomes: the identity fields of its issuer, and no flag set. -/
def State.sentFerry (s : State) (f : Ferry) : Ferry :=
  let lid := match s.cx.task with
    | some t => t.lid.toNat
    | none => 0
  setHdr (setHdr (setHdr (setHdr (setHdr (setHdr (setHdr f 0 15 s.node.toNat) 48 12
    (s.tenantOfCore s.cur.core)) 64 8 0) 81 6 0) 128 32 (s.nextSeq .fry).toNat) 176 11 (s.cur.core * 4 + s.cur.ctx.toNat)) 192 16 lid

section
variable {s : State} {p : Pred} {d : BitVec 6} (h : s.Runs p []) (hf : slotBlock .fry s = none)
include h hf

theorem execFsend_issues {f : Ferry} (hs : s.cx.staging = some f) :
    execFsend p d s = .next (s.clear.issueFry d (.fsend (s.sentFerry f))).done := by
  refine finish_runSlot _ _ _ _ _ _ h hf ?_
  simp only [clear_cx, hs]
  rfl

theorem execFsend_traps (hs : s.cx.staging = none) : execFsend p d s = .next (s.stoppedBy 16 0 0) := by
  refine finish_runSlot_trap _ _ _ _ _ _ _ _ h hf ?_
  simp only [clear_cx, hs]
  rfl

end

/-! CSLOT (12 R344). -/

theorem clear_template (s : State) (n : Nat) : s.clear.template n = s.template n := rfl

section
variable {s : State} {p : Pred} {d a b c : BitVec 6} {tpl : BitVec 8} (form code : Nat) (h : s.Runs p [.s a, .s b, .s c])
  (hf : slotBlock .fry s = none)
include h hf

theorem cslotAct_issues {t : BitVec 768} {pa : Nat} (ht : s.template tpl.toNat = some t)
    (hr : s.recordAt (s.cx.rs b) 64 64 false false = .ok pa) :
    cslotAct form code p d a b c tpl s =
      .next (s.clear.issueFry d (.cslot form code (s.cx.rs a) (s.cx.rs c) tpl t pa)).done := by
  refine finish_runSlot _ _ _ _ _ _ h hf ?_
  simp only [clear_template, ht, clear_cx, clear_recordAt, hr]

theorem cslotAct_traps (ht : s.template tpl.toNat = none) :
    cslotAct form code p d a b c tpl s = .next (s.stoppedBy 16 0 0) := by
  refine finish_runSlot_trap _ _ _ _ _ _ _ _ h hf ?_
  simp only [clear_template, ht]
  rfl

end

/-! Delivery queues (12 R341-R343). -/

theorem oldest_nil {s : State} {dq : BitVec 3} (h : (s.co.dq dq).items = []) (act : Delivery → State) :
    s.oldest dq act = .error (s.trapHere 17 0 0) := by
  simp only [State.oldest, h]

theorem oldest_cons {s : State} {dq : BitVec 3} {x : Delivery} {rest : List Delivery} (h : (s.co.dq dq).items = x :: rest)
    (act : Delivery → State) : s.oldest dq act = .ok (act x) := by
  simp only [State.oldest, h]

/-- A result that lands leaves the delivery queues. -/
theorem landF_dq (s : State) (cls : LatClass) (r : Reg) (val : BitVec 2048) (chk : W32) (fpf : BitVec 5) (cki : BitVec 11)
    (dq : BitVec 3) : (s.landF cls r val chk fpf cki).co.dq dq = s.co.dq dq := by
  unfold State.landF
  obtain h | ⟨l, h⟩ := landLat_cases s (s.latency cls) (decide (Config.native cls.num ≤ s.latency cls)) r val chk fpf cki
  · rw [h]
  · rw [h, co_setCx]
    rfl

/-- FRECV: the oldest entry's cargo lands, and the queue loses the entry. -/
def State.takeCargo (d : BitVec 6) (dq : BitVec 3) (s : State) (x : Delivery) : State :=
  let u := s.landCargo d x
  u.setCo (u.co.setDq dq (u.co.dq dq).consume)

section
variable {s : State} {p : Pred} {d a : BitVec 6} {dq : BitVec 3}

theorem execDwait_delivers (h : s.Runs p [.s a]) (hn : (s.cx.rs a).toNat ≤ (s.co.dq dq).count.toNat) :
    execDwait p d a dq s = .next (s.clear.landS .seqret d (s.co.dq dq).count).done :=
  finish_runAct _ _ _ _ _ h (if_neg (Nat.not_lt.mpr hn))

theorem execDwait_blocks (h : s.Runs p [.s a]) (hn : (s.co.dq dq).count.toNat < (s.cx.rs a).toNat) :
    execDwait p d a dq s = .next (s.blockedBy 5) :=
  finish_runAct_block _ _ _ _ _ h (if_pos hn)

variable (h : s.Runs p [])
include h

theorem execDreadCnt_reads : execDreadCnt p d dq s = .next (s.clear.landS .sysrd d (s.co.dq dq).count).done :=
  finish_runSlot_act p [] (fun s => s.landS .sysrd d (s.co.dq dq).count) s h

theorem execDreadCons_reads : execDreadCons p d dq s = .next (s.clear.landS .sysrd d (s.co.dq dq).cons).done :=
  finish_runSlot_act p [] (fun s => s.landS .sysrd d (s.co.dq dq).cons) s h

/-- What an instruction does with the oldest entry. -/
theorem finish_oldest {x : Delivery} {rest : List Delivery} (hq : (s.co.dq dq).items = x :: rest)
    (act : State → Delivery → State) :
    finish (runSlot p [] noBlock fun s => s.oldest dq fun x => act s x) s = .next (act s.clear x).done :=
  finish_runSlot _ _ _ _ _ _ h rfl (oldest_cons (s := s.clear) hq _)

/-- On an empty queue it traps with QUEUE_EMPTY. -/
theorem finish_oldest_empty (hq : (s.co.dq dq).items = []) (act : State → Delivery → State) :
    finish (runSlot p [] noBlock fun s => s.oldest dq fun x => act s x) s = .next (s.stoppedBy 17 0 0) :=
  finish_runSlot_trap _ _ _ _ _ _ _ _ h rfl (oldest_nil (s := s.clear) hq _)

theorem execFrecv_empty (hq : (s.co.dq dq).items = []) : execFrecv p d dq s = .next (s.stoppedBy 17 0 0) :=
  finish_oldest_empty h hq (State.takeCargo d dq)

theorem execFrecv_takes {x : Delivery} {rest : List Delivery} (hq : (s.co.dq dq).items = x :: rest) :
    let u := s.clear.landF .vld (.v (d.setWidth 5)) x.cargo (laneSum x.cargo) 0 0
    execFrecv p d dq s = .next (u.setCo (u.co.setDq dq { s.co.dq dq with items := rest, cons := (s.co.dq dq).cons + 1 })).done := by
  intro u
  have hconsume : (u.co.dq dq).consume = { s.co.dq dq with items := rest, cons := (s.co.dq dq).cons + 1 } := by
    rw [landF_dq, DeliveryQueue.consume, clear_co, hq]
    rfl
  rw [← hconsume]
  exact finish_oldest h hq (State.takeCargo d dq)

end

/-- Settles O39: each instruction, with its outcome and its trap, by its lemma. -/
theorem ferryInstructionsComplete : Obligations.FerryInstructionsComplete := by
  intro s p d a b c opts tpl clen code dq srcs x ok
  refine ⟨fun h => ⟨fun hok t ht => execFbuild_builds h hok ht, fun hbad => execFbuild_traps h hbad⟩,
    fun h hf => ⟨fun f hs => execFsend_issues h hf hs, fun hs => execFsend_traps h hf hs⟩,
    fun h hf => ⟨fun t pa ht hr => ⟨?_, ?_, ?_⟩, fun ht => ⟨?_, ?_, ?_⟩⟩,
    fun h => ⟨execDwait_delivers h, execDwait_blocks h⟩,
    fun h => ⟨execDreadCnt_reads h, execDreadCons_reads h, fun y rest hq => ⟨?_, ?_, ?_, ?_, execFrecv_takes h hq⟩,
      fun hq => ⟨execFrecv_empty h hq, ?_, ?_, ?_, ?_⟩⟩⟩
  · exact cslotAct_issues 0 code.toNat h hf ht hr
  · exact cslotAct_issues 1 0 h hf ht hr
  · exact cslotAct_issues 2 0 h hf ht hr
  · exact cslotAct_traps 0 code.toNat h hf ht
  · exact cslotAct_traps 1 0 h hf ht
  · exact cslotAct_traps 2 0 h hf ht
  · exact finish_oldest h hq fun s x => s.landS .sysrd d x.desc0
  · exact finish_oldest h hq fun s x => s.landS .sysrd d x.desc1
  · exact finish_oldest h hq fun s _ => s.landS .sysrd d ((s.co.dq dq).cons + 1)
  · exact finish_oldest h hq fun s x => s.landCargo d x
  · exact finish_oldest_empty h hq fun s x => s.landCargo d x
  · exact finish_oldest_empty h hq fun s x => s.landS .sysrd d x.desc0
  · exact finish_oldest_empty h hq fun s x => s.landS .sysrd d x.desc1
  · exact finish_oldest_empty h hq fun s _ => s.landS .sysrd d ((s.co.dq dq).cons + 1)

end Sys2Proof.Machine
end

section
/-! SUPPORT. CTXSAVE and CTXRSTR (15 R431-R433). -/

namespace Sys2Proof.Machine

/-! The place of a record (15 R413, R431). -/

section
variable {s : State} {va : Word}

theorem recordPlace_slice {acc : Access} (ha : s.access va 32768 64 true = .ok acc) (hk : acc.loc.kind < 2) :
    s.recordPlace false va = .ok (s.accessPa acc) := by
  simp only [State.recordPlace, Bool.false_eq_true, if_false, ha, if_neg (Nat.not_le.mpr hk)]

/-- LMS and DIRECT entries take no record. -/
theorem recordPlace_kindFault {acc : Access} (ha : s.access va 32768 64 true = .ok acc) (hk : 2 ≤ acc.loc.kind) :
    s.recordPlace false va = .error (kindFault s va) := by
  simp only [State.recordPlace, Bool.false_eq_true, if_false, ha, if_pos hk]

theorem recordPlace_miss {c : Nat} (hx : s.xlate va.toNat 32768 64 true = .error c) :
    s.recordPlace false va = .error (xlateMiss s c va) := by
  simp only [State.recordPlace, Bool.false_eq_true, if_false, access_miss hx]

theorem recordPlace_region (h : s.hasSaves s.cur.core = true) :
    s.recordPlace true va = .ok (recordBase s.cur.core s.cur.ctx) := by
  simp only [State.recordPlace, if_true, h]

/-- A partition without save regions has no place for one. -/
theorem recordPlace_noRegion (h : s.hasSaves s.cur.core = false) : s.recordPlace true va = .error (kindFault s 0) := by
  simp only [State.recordPlace, if_true, h, Bool.false_eq_true, if_false]

end

/-! Saving and restoring at a place, and the traps where there is none. -/

section
variable {sr : Bool} {p : Pred} {regs : List Reg} {va : State → Word} {s : State} (groups : BitVec 10) (h : s.Runs p regs)
include h

section
variable (hmay : ¬(sr ∧ !s.cx.svc ∧ !s.cx.drain))
include hmay

theorem ctxsave_saves {pa : Nat} (hpa : s.clear.recordPlace sr (va s.clear) = .ok pa) :
    ctxsave sr p regs groups va s = .next (s.clear.saveNow groups pa).done :=
  finish_runSlot _ _ _ _ _ _ h rfl ((if_neg hmay).trans (by simp only [hpa]))

theorem ctxsave_traps {c k : Nat} {a : Word} (hpa : s.clear.recordPlace sr (va s.clear) = .error (.trap c k s.cur.slot a)) :
    ctxsave sr p regs groups va s = .next (s.stoppedBy c k a) :=
  finish_runSlot_trap _ _ _ _ _ _ _ _ h rfl ((if_neg hmay).trans (by simp only [hpa]))

end

section
variable (hmay : ¬(sr ∧ !s.cx.svc))
include hmay

theorem ctxrstr_restores {pa : Nat} (hpa : s.clear.recordPlace sr (va s.clear) = .ok pa)
    (hsig : Mem.readLE s.mem pa 4 = 0x00585443) :
    ctxrstr sr p regs groups va s = .next (s.clear.restoreNow groups pa).done :=
  finish_runSlot _ _ _ _ _ _ h rfl ((if_neg hmay).trans
    (by simp only [hpa, clear_mem, hsig, ne_eq, not_true_eq_false, if_false]))

/-- A record that does not begin with its signature is KIND_FAULT. -/
theorem ctxrstr_unsigned {pa : Nat} (hpa : s.clear.recordPlace sr (va s.clear) = .ok pa)
    (hsig : Mem.readLE s.mem pa 4 ≠ 0x00585443) :
    ctxrstr sr p regs groups va s = .next (s.stoppedBy 8 0 (va s.clear)) :=
  finish_runSlot_trap _ _ _ _ _ _ _ _ h rfl ((if_neg hmay).trans (by simp only [hpa, clear_mem]; exact if_pos hsig))

theorem ctxrstr_traps {c k : Nat} {a : Word} (hpa : s.clear.recordPlace sr (va s.clear) = .error (.trap c k s.cur.slot a)) :
    ctxrstr sr p regs groups va s = .next (s.stoppedBy c k a) :=
  finish_runSlot_trap _ _ _ _ _ _ _ _ h rfl ((if_neg hmay).trans (by simp only [hpa]))

end
end

/-! A translated address. -/

section
variable {p : Pred} {a : BitVec 6} {s : State} (groups : BitVec 10) (h : s.Runs p [.s a])
include h

section
variable {acc : Access} (ha : s.access (s.cx.rs a) 32768 64 true = .ok acc)
include ha

theorem execCtxsave_saves (hk : acc.loc.kind < 2) :
    execCtxsave p a groups s = .next (s.clear.saveNow groups (s.accessPa acc)).done :=
  ctxsave_saves groups h (fun hsr => Bool.false_ne_true hsr.1) (recordPlace_slice (s := s.clear) ha hk)

theorem execCtxsave_kindFaults (hk : 2 ≤ acc.loc.kind) : execCtxsave p a groups s = .next (s.stoppedBy 8 0 (s.cx.rs a)) :=
  ctxsave_traps groups h (fun hsr => Bool.false_ne_true hsr.1) (recordPlace_kindFault (s := s.clear) ha hk)

theorem execCtxrstr_restores (hk : acc.loc.kind < 2) (hsig : Mem.readLE s.mem (s.accessPa acc) 4 = 0x00585443) :
    execCtxrstr p a groups s = .next (s.clear.restoreNow groups (s.accessPa acc)).done :=
  ctxrstr_restores groups h (fun hsr => Bool.false_ne_true hsr.1) (recordPlace_slice (s := s.clear) ha hk) hsig

theorem execCtxrstr_unsigned (hk : acc.loc.kind < 2) (hsig : Mem.readLE s.mem (s.accessPa acc) 4 ≠ 0x00585443) :
    execCtxrstr p a groups s = .next (s.stoppedBy 8 0 (s.cx.rs a)) :=
  ctxrstr_unsigned groups h (fun hsr => Bool.false_ne_true hsr.1) (recordPlace_slice (s := s.clear) ha hk) hsig

theorem execCtxrstr_kindFaults (hk : 2 ≤ acc.loc.kind) : execCtxrstr p a groups s = .next (s.stoppedBy 8 0 (s.cx.rs a)) :=
  ctxrstr_traps groups h (fun hsr => Bool.false_ne_true hsr.1) (recordPlace_kindFault (s := s.clear) ha hk)

end

section
variable {c : Nat} (hx : s.xlate (s.cx.rs a).toNat 32768 64 true = .error c)
include hx

theorem execCtxsave_misses : execCtxsave p a groups s = .next (s.stoppedBy 7 c (s.cx.rs a)) :=
  ctxsave_traps groups h (fun hsr => Bool.false_ne_true hsr.1) (recordPlace_miss (s := s.clear) hx)

theorem execCtxrstr_misses : execCtxrstr p a groups s = .next (s.stoppedBy 7 c (s.cx.rs a)) :=
  ctxrstr_traps groups h (fun hsr => Bool.false_ne_true hsr.1) (recordPlace_miss (s := s.clear) hx)

end
end

/-! The save region, for service mode and, of CTXSAVE, stubs. -/

section
variable {p : Pred} {s : State} (groups : BitVec 10)

theorem maySave {s : State} (hm : s.cx.svc = true ∨ s.cx.drain = true) : ¬(true ∧ !s.cx.svc ∧ !s.cx.drain) := by
  rintro ⟨-, hv, hd⟩
  rcases hm with hm | hm <;> simp [hm] at hv hd

theorem mayRestore {s : State} (hm : s.cx.svc = true) : ¬(true ∧ !s.cx.svc) := by
  simp [hm]

variable (h : s.Runs p [])
include h

theorem execCtxsaveSr_saves (hr : s.hasSaves s.cur.core = true) (hm : s.cx.svc = true ∨ s.cx.drain = true) :
    execCtxsaveSr p groups s = .next (s.clear.saveNow groups (recordBase s.cur.core s.cur.ctx)).done :=
  ctxsave_saves groups h (maySave hm) (recordPlace_region (s := s.clear) hr)

theorem execCtxsaveSr_noRegion (hr : s.hasSaves s.cur.core = false) (hm : s.cx.svc = true ∨ s.cx.drain = true) :
    execCtxsaveSr p groups s = .next (s.stoppedBy 8 0 0) :=
  ctxsave_traps groups h (maySave hm) (recordPlace_noRegion (s := s.clear) hr)

theorem execCtxsaveSr_priv (hv : s.cx.svc = false) (hd : s.cx.drain = false) :
    execCtxsaveSr p groups s = .next (s.stoppedBy 19 0 0) :=
  finish_runSlot_trap _ _ _ _ _ _ _ _ h rfl (if_pos (by simp [hv, hd]))

theorem execCtxrstrSr_restores (hr : s.hasSaves s.cur.core = true) (hm : s.cx.svc = true)
    (hsig : Mem.readLE s.mem (recordBase s.cur.core s.cur.ctx) 4 = 0x00585443) :
    execCtxrstrSr p groups s = .next (s.clear.restoreNow groups (recordBase s.cur.core s.cur.ctx)).done :=
  ctxrstr_restores groups h (mayRestore hm) (recordPlace_region (s := s.clear) hr) hsig

theorem execCtxrstrSr_unsigned (hr : s.hasSaves s.cur.core = true) (hm : s.cx.svc = true)
    (hsig : Mem.readLE s.mem (recordBase s.cur.core s.cur.ctx) 4 ≠ 0x00585443) :
    execCtxrstrSr p groups s = .next (s.stoppedBy 8 0 0) :=
  ctxrstr_unsigned groups h (mayRestore hm) (recordPlace_region (s := s.clear) hr) hsig

theorem execCtxrstrSr_noRegion (hr : s.hasSaves s.cur.core = false) (hm : s.cx.svc = true) :
    execCtxrstrSr p groups s = .next (s.stoppedBy 8 0 0) :=
  ctxrstr_traps groups h (mayRestore hm) (recordPlace_noRegion (s := s.clear) hr)

theorem execCtxrstrSr_priv (hv : s.cx.svc = false) : execCtxrstrSr p groups s = .next (s.stoppedBy 19 0 0) :=
  finish_runSlot_trap _ _ _ _ _ _ _ _ h rfl (if_pos (by simp [hv]))

end

/-- Settles O42: each form, at a place and without one, by its lemma. -/
theorem savedContextsComplete : Obligations.SavedContextsComplete := by
  intro s p a groups
  refine ⟨fun h acc ha hk => ⟨execCtxsave_saves groups h ha hk, execCtxrstr_restores groups h ha hk,
      execCtxrstr_unsigned groups h ha hk⟩,
    fun h => ⟨fun c hx => ⟨execCtxsave_misses groups h hx, execCtxrstr_misses groups h hx⟩,
      fun acc ha hk => ⟨execCtxsave_kindFaults groups h ha hk, execCtxrstr_kindFaults groups h ha hk⟩⟩,
    fun h hr => ⟨execCtxsaveSr_saves groups h hr, execCtxrstrSr_restores groups h hr, execCtxrstrSr_unsigned groups h hr⟩,
    fun h hr => ⟨execCtxsaveSr_noRegion groups h hr, execCtxrstrSr_noRegion groups h hr⟩,
    fun h hv => ⟨execCtxrstrSr_priv groups h hv, execCtxsaveSr_priv groups h hv⟩⟩

end Sys2Proof.Machine
end

section
/-! SUPPORT. Taking a trap outside open regions, and leaving service mode (15 R404-R406, R429). -/

namespace Sys2Proof.Machine

/-! A notice leaves the contexts and memory. -/

theorem noticeFor_ctxAt (s : State) (core code b9 who : Nat) (body : BitVec 256) (n : Nat) (j : BitVec 2) :
    (s.noticeFor core code b9 who body).ctxAt n j = s.ctxAt n j := by
  unfold State.noticeFor
  split <;> rfl

theorem core_setCtxAt (s : State) (n : Nat) (i : BitVec 2) (c : Context) :
    (s.setCtxAt n i c).core n = (s.core n).setCtx i c := by
  rw [State.setCtxAt, core_setCore]

/-! The context that takes the trap. -/

/-- The context after a trap that no region catches: nested in service mode, else in service at the vector, halted there where
the service bank is not armed. -/
def Context.afterTrap (c : Context) (k : Core) (t : TrapInfo) : Context :=
  let c' := { (c.record t).enterService with ip := k.tvec.setWidth 14 }
  if c.svc then
    { c with st := .halted, nested := true, skip := none, ckiClr := 0, restore := none, loopOp := none, regionOp := none }
  else if k.fis.getLsbD 2 then { c' with st := if c.st = .issuing then .issuing else .ready }
  else { c' with st := .halted, nested := true }

section
variable {s : State} {core : Nat} {i : BitVec 2} {t : TrapInfo} (hcode : t.code ≠ 32)
  (hcatch : (s.ctxAt core i).catches t.code = false)
include hcode hcatch

theorem takeTrap_ctxAt : (s.takeTrap core i t).ctxAt core i = (s.ctxAt core i).afterTrap (s.core core) t := by
  simp only [State.takeTrap, Context.afterTrap, if_neg hcode, hcatch, core_setCtxAt, setCtx_tvec, setCtx_fis,
    Bool.false_eq_true, if_false]
  split
  · rw [noticeFor_ctxAt, ctxAt_setCtxAt]
  · split
    · rw [ctxAt_setCtxAt]
    · rw [noticeFor_ctxAt, ctxAt_setCtxAt]

theorem takeTrap_ctxAt_other {n : Nat} {j : BitVec 2} (h : n ≠ core ∨ j ≠ i) :
    (s.takeTrap core i t).ctxAt n j = s.ctxAt n j := by
  have hset (u : State) (c : Context) : (u.setCtxAt core i c).ctxAt n j = u.ctxAt n j :=
    ctxAt_setCtxAt_other u core n i j c h
  simp only [State.takeTrap, if_neg hcode, hcatch, Bool.false_eq_true, if_false]
  split
  · rw [noticeFor_ctxAt, hset, hset]
  · split
    · rw [hset, hset]
    · rw [noticeFor_ctxAt, hset, hset]

/-- Where the service bank is armed, no notice is posted and memory stays. -/
theorem takeTrap_mem (hsvc : (s.ctxAt core i).svc = false) (harm : (s.core core).fis.getLsbD 2 = true) :
    (s.takeTrap core i t).mem = s.mem := by
  simp only [State.takeTrap, if_neg hcode, hcatch, hsvc, core_setCtxAt, setCtx_fis, harm, Bool.false_eq_true, if_false,
    if_true, setCtxAt_mem]

end

/-! What that context holds. -/

section
variable (c : Context) (k : Core) (t : TrapInfo)

/-- The record of a trap by its packed cause. -/
theorem record_eq : ∃ w, w = BitVec.ofNat 64 (t.code + t.cause * 2 ^ 8 + t.slot * 2 ^ 16 + t.engine * 2 ^ 24) ∧
    c.record t = { c with
      tcause := w, tip := c.ip, taddr := t.addr, tseq := t.seq, tval := t.val, tmr := if t.code = 49 then 0 else c.tmr
      tpend := c.tpend && t.code != 49 } := ⟨_, rfl, rfl⟩

/-- The program's registers and its task stay. -/
theorem afterTrap_registers :
    let c' := c.afterTrap k t
    c'.s = c.s ∧ c'.v = c.v ∧ c'.p = c.p ∧ c'.b = c.b ∧ c'.m = c.m ∧ c'.k = c.k ∧ c'.fmt = c.fmt ∧ c'.fpf = c.fpf ∧
      c'.cki = c.cki ∧ c'.task = c.task := by
  obtain ⟨w, -, hrec⟩ := record_eq c t
  simp only [Context.afterTrap, hrec]
  split
  · exact ⟨rfl, rfl, rfl, rfl, rfl, rfl, rfl, rfl, rfl, rfl⟩
  · split <;> exact ⟨rfl, rfl, rfl, rfl, rfl, rfl, rfl, rfl, rfl, rfl⟩

/-- In service mode the context halts, and its record, latch and IP stay (15 R406). -/
theorem afterTrap_nested (h : c.svc = true) :
    let c' := c.afterTrap k t
    c'.st = .halted ∧ c'.nested = true ∧ c'.svc = true ∧ c'.ip = c.ip ∧ c'.tip = c.tip ∧ c'.tcause = c.tcause ∧
      c'.latch = c.latch ∧ c'.landing = c.landing := by
  unfold Context.afterTrap
  rw [if_pos h]
  exact ⟨rfl, rfl, h, rfl, rfl, rfl, rfl, rfl⟩

/-- Outside service mode it is in service at the vector, whether the bank is armed or not: only its state differs. -/
theorem afterTrap_service (h : c.svc = false) : ∃ st nested, c.afterTrap k t =
    { (c.record t).enterService with ip := k.tvec.setWidth 14, st := st, nested := nested } := by
  unfold Context.afterTrap
  rw [if_neg (by rw [h]; exact Bool.false_ne_true)]
  split
  · exact ⟨_, _, rfl⟩
  · exact ⟨_, _, rfl⟩

theorem afterTrap_armed (h : c.svc = false) (harm : k.fis.getLsbD 2 = true) :
    (c.afterTrap k t).st = .ready ∨ (c.afterTrap k t).st = .issuing := by
  unfold Context.afterTrap
  rw [if_neg (by rw [h]; exact Bool.false_ne_true), if_pos harm]
  by_cases hi : c.st = .issuing
  · exact .inr (if_pos hi)
  · exact .inl (if_neg hi)

theorem afterTrap_unarmed (h : c.svc = false) (harm : k.fis.getLsbD 2 = false) :
    (c.afterTrap k t).st = .halted ∧ (c.afterTrap k t).nested = true := by
  unfold Context.afterTrap
  rw [if_neg (by rw [h]; exact Bool.false_ne_true), if_neg (by rw [harm]; exact Bool.false_ne_true)]
  exact ⟨rfl, rfl⟩

/-- The record, the latch and the vector of a context that enters service (15 R404, R405). -/
theorem afterTrap_enters (h : c.svc = false) :
    let c' := c.afterTrap k t
    c'.tcause = BitVec.ofNat 64 (t.code + t.cause * 2 ^ 8 + t.slot * 2 ^ 16 + t.engine * 2 ^ 24) ∧ c'.tip = c.ip ∧
      c'.taddr = t.addr ∧ c'.tseq = t.seq ∧ c'.tval = t.val ∧ c'.svc = true ∧ c'.ip = k.tvec.setWidth 14 ∧
      c'.latch = some ⟨c.landing, c.redir, c.loops, c.ip, c.drain⟩ ∧ c'.landing = [] ∧ c'.redir = [] ∧
      ∀ l ∈ c'.loops.toList, l.act = false := by
  obtain ⟨st, nested, hin⟩ := afterTrap_service c k t h
  obtain ⟨w, hw, hrec⟩ := record_eq c t
  have hidle : ∀ l ∈ (Vector.replicate 4 Loop.idle).toList, l.act = false := by decide
  rw [hin, hrec, ← hw]
  exact ⟨rfl, rfl, rfl, rfl, rfl, rfl, rfl, rfl, rfl, rfl, hidle⟩

/-- Leaving service brings back what the latch holds (15 R429). -/
theorem afterTrap_leaveService (h : c.svc = false) :
    let b := (c.afterTrap k t).leaveService
    b.landing = c.landing ∧ b.redir = c.redir ∧ b.loops = c.loops ∧ b.drain = c.drain ∧ b.ip = c.ip ∧ b.svc = false := by
  obtain ⟨st, nested, hin⟩ := afterTrap_service c k t h
  obtain ⟨w, -, hrec⟩ := record_eq c t
  rw [hin, hrec]
  exact ⟨rfl, rfl, rfl, rfl, rfl, rfl⟩

end

/-- Service mode nests no region's rollback. -/
theorem catches_in_service {c : Context} (h : c.svc = true) (code : Nat) : c.catches code = false := by
  unfold Context.catches
  split
  · simp [h]
  · rfl

/-- Settles O59: the context that took the trap is `Context.afterTrap`, whose fields are read off case by case. -/
theorem trapsEnterAndLeaveService : Obligations.TrapsEnterAndLeaveService := by
  intro s core i t hcode c k u c'
  refine ⟨fun hcatch => ?keeps, fun hcatch hsvc => ?enters, fun hsvc => ?nests⟩
  case keeps =>
    have hc' : c' = c.afterTrap k t := takeTrap_ctxAt hcode hcatch
    obtain ⟨hs, hv, hp, hb, hm, hk, hfmt, hfpf, hcki, htask⟩ := afterTrap_registers c k t
    rw [hc']
    exact ⟨hs, hv, hp, hb, hm, hk, hfmt, hfpf, hcki, htask, fun n j h => takeTrap_ctxAt_other hcode hcatch h⟩
  case enters =>
    have hc' : c' = c.afterTrap k t := takeTrap_ctxAt hcode hcatch
    obtain ⟨hcause, htip, haddr, hseq, hval, hin, hip, hlatch, hland, hredir, hloops⟩ := afterTrap_enters c k t hsvc
    have hleave := afterTrap_leaveService c k t hsvc
    rw [hc']
    exact ⟨hcause, htip, haddr, hseq, hval, hin, hip, hlatch, hland, hredir, hloops,
      fun h => ⟨afterTrap_armed c k t hsvc h, takeTrap_mem hcode hcatch hsvc h⟩, afterTrap_unarmed c k t hsvc, hleave⟩
  case nests =>
    have hc' : c' = c.afterTrap k t := takeTrap_ctxAt hcode (catches_in_service hsvc t.code)
    rw [hc']
    exact afterTrap_nested c k t hsvc

end Sys2Proof.Machine
end

section
/-! SUPPORT. The router's events fail at one point (12 R322): the model has the head of an adaptive lane arrive here with its
ESC bit, and the bit decides from which part of the mooring a full pool's oldest ferry takes its entry (12 R326). -/

namespace Sys2Proof.Machine

/-! The mooring under an arrival that finds the pool full. -/

@[simp] theorem countTenant_router (s : State) (t code n : Nat) : (s.countTenant t code n).router = s.router := by
  unfold State.countTenant
  split <;> rfl

/-- The router's clock alone moves on. -/
theorem routerTick_router (s : State) : ∃ c, s.routerTick.router = { s.router with cycle := c } := by
  have hchoose : (s.choose [false, true]).2.router = s.router := rfl
  unfold State.routerTick
  generalize s.choose [false, true] = x at hchoose
  obtain ⟨later, t⟩ := x
  by_cases hl : later = some true
  · exact ⟨t.router.cycle + 1, by simp only [if_pos hl, State.setRouter, ← hchoose]⟩
  · exact ⟨t.router.cycle, by simp only [if_neg hl, ← hchoose]⟩

/-- A ferry that enters an open, empty mooring stands there alone, with the lane that it came by. -/
theorem moorAs_empty {s : State} (hm : s.router.moor = []) (hf : s.router.full = false) (esc : Bool) (f : Ferry) :
    (s.moorAs esc f 16 0 0 0).router.moor.map (·.esc) = [esc] := by
  have hroom : s.router.roomFor esc = true := by
    cases esc <;> simp [Router.roomFor, hm]
  simp [State.moorAs, hroom, State.moorNow, State.enter, State.setRouter, hm, State.judgeFull, hf]

/-- An arrival for a full pool moors the pool's oldest ferry under the arrival's own ESC bit. -/
theorem arrive_full {s : State} {a : Arrival} {rest : List Arrival} (hp : s.router.pool = a :: rest)
    (hn : 1024 ≤ s.router.pool.length) (ha : a.fsend = none) (hm : s.router.moor = []) (hf : s.router.full = false)
    (f : Ferry) (src : Nat) (who : Option (Nat × Nat)) :
    (s.arrive f src who).router.moor.map (·.esc) = [ferryEsc f] := by
  have hover : s.overflow (ferryEsc f) =
      (s.setRouter { s.router with pool := rest }).moorAs (ferryEsc f) a.ferry 16 0 0 0 := by
    rw [hp] at hn
    simp only [State.overflow, hp, if_neg (Nat.not_lt.mpr hn), ha, State.fryDone]
  show (s.overflow (ferryEsc f)).router.moor.map (·.esc) = _
  rw [hover]
  exact moorAs_empty (s := s.setRouter { s.router with pool := rest }) hm hf _ _

/-! The counterexample. -/

/-- A ferry for node 0 whose ESC bit is set. -/
def escapeFerry : Ferry := ⟨BitVec.ofNat 256 (2 ^ 81), 0, 0, []⟩

/-- After reset, that ferry on the adaptive lane of port 0, and a pool of 1,024 ferries that wait to land. -/
def crowdedNode : State :=
  { State.reset with router := { Router.reset with
      lanes := [(2, [escapeFerry])], pool := List.replicate 1024 ⟨⟨0, 0, 0, []⟩, 0, 0, none⟩ } }

/-- The crowded node once the ferry has been taken off its lane. -/
def emptiedNode : State := crowdedNode.setRouter { crowdedNode.router with lanes := [] }

theorem ferryEsc_escapeFerry : ferryEsc escapeFerry = true := by decide

theorem ferryEsc_cleared : ferryEsc (setHdr escapeFerry 81 2 0) = false := by decide

/-- What arrives there moors the oldest waiting ferry under its own ESC bit. -/
theorem arrive_emptiedNode (f : Ferry) :
    ((emptiedNode.routerTick.arrive f 6 none).rest).router.moor.map (·.esc) = [ferryEsc f] := by
  obtain ⟨c, hc⟩ := routerTick_router emptiedNode
  have hpool : List.replicate 1024 (⟨⟨0, 0, 0, []⟩, 0, 0, none⟩ : Arrival) =
      ⟨⟨0, 0, 0, []⟩, 0, 0, none⟩ :: List.replicate 1023 ⟨⟨0, 0, 0, []⟩, 0, 0, none⟩ := List.replicate_succ
  rw [rest_router]
  exact arrive_full (by rw [hc]; exact hpool) (by rw [hc]; exact Nat.le_of_eq List.length_replicate.symm) rfl (by rw [hc]; rfl)
    (by rw [hc]; rfl) f 6 none

theorem execEscapeTimeout_crowdedNode : execEscapeTimeout 0 crowdedNode =
    .next (emptiedNode.routerTick.arrive escapeFerry 6 none).rest := rfl

/-- Refutes O52: at `crowdedNode` the escape timeout of port 0 has its ferry arrive with ESC set, so that the oldest waiting
ferry is moored as one from the escape lanes; the statement has it arrive with ESC clear. -/
theorem not_routerEventsComplete : ¬ Obligations.RouterEventsComplete := by
  intro h
  obtain ⟨-, -, -, -, -, -, -, -, -, -, hescape, -⟩ :=
    h crowdedNode 0 escapeFerry 0 0 0 0 0 0 0 0 0 0 0 0 none 0 0 false 0 0 ⟨0, 0⟩
  have hsays : execEscapeTimeout 0 crowdedNode = .next (if ferryTarget escapeFerry = crowdedNode.node
      then emptiedNode.routerTick.arrive (setHdr escapeFerry 81 2 0) 6 none else emptiedNode.route escapeFerry none 0).rest :=
    hescape escapeFerry [] rfl
  have hhere : ferryTarget escapeFerry = crowdedNode.node := by decide
  rw [if_pos hhere] at hsays
  have hnext := Host.Outcome.next.inj (execEscapeTimeout_crowdedNode.symm.trans hsays)
  have hmoor := congrArg (fun s : State => s.router.moor.map (·.esc)) hnext
  have hesc := ((arrive_emptiedNode escapeFerry).symm.trans hmoor).trans (arrive_emptiedNode (setHdr escapeFerry 81 2 0))
  rw [ferryEsc_escapeFerry, ferryEsc_cleared] at hesc
  exact absurd hesc (by decide)

end Sys2Proof.Machine
end

section
/-! SUPPORT. Steps of a link: frames, acknowledgements, retries, keys and lanes (14 R385-R389, 16 R438-R445). -/

namespace Sys2Proof.Machine

/-! Sending (14 R385, R387). -/

section
variable {s t : State} {p l : Nat} {y : Link} {z : Filled} (hz : s.fillFrame p l 8 5 y.current = (z, t))
include hz

/-- The frame sealed, kept for its acknowledgement and sent, with its marks. -/
theorem sendFrame_sends (hf : z.flits ≠ []) :
    let body := frameBody y.txKey (linkIdOf t.node p l) y.txNext z.flits
    let u := t.setLink p l { y with
      txNext := y.txNext + 1, retry := y.retry ++ [⟨y.txNext, body, z.whole⟩], current := z.left' }
    s.sendFrame p l y = { u with out := u.out ++ [Out.frame p l y.txNext body] }.sendMarks p l z.whole := by
  simp only [State.sendFrame, hz, if_neg hf]

/-- Nothing is sent where no flit waits. -/
theorem sendFrame_empty (hf : z.flits = []) : s.sendFrame p l y = t := by
  simp only [State.sendFrame, hz, if_pos hf]

end

section
variable {port : BitVec 3} {link : BitVec 2} {s : State}

theorem execFrameClose_sends {y : Link} (hv : (s.link port.toNat link.toNat).live = true)
    (hr : (s.link port.toNat link.toNat).retry.length < 128) (hy : (s.link port.toNat link.toNat).rollTx = some y) :
    execFrameClose port link s = .next (s.sendFrame port.toNat link.toNat y).rest := by
  have hopen : ¬((!(s.link port.toNat link.toNat).live) = true ∨ 128 ≤ (s.link port.toNat link.toNat).retry.length) := by
    simp only [hv, Bool.not_true, Bool.false_eq_true, false_or, Nat.not_le, hr]
  simp only [execFrameClose, if_neg hopen, hy, settle_eq]

/-! Receiving (14 R386, R388, R389, 16 R438, R439). -/

/-- Whether a frame comes while a retry is awaited and is not that retry. -/
def State.lateFrame (s : State) (p l n : Nat) (re : Bool) : Bool :=
  (s.link p l).waiting && (!decide (n = (s.link p l).rxNext) || (s.skidPort p && !re))

theorem lateFrame_iff (s : State) (p l n : Nat) (re : Bool) : s.lateFrame p l n re = true ↔
    (s.link p l).waiting = true ∧ (n ≠ (s.link p l).rxNext ∨ (s.skidPort p = true ∧ re = false)) := by
  simp [State.lateFrame]

section
variable {counter : BitVec 64} {fs parts : List Ferry} {re : Bool} (ok : Bool)

/-- Behind a frame that stays outside, nothing but that frame's counter is taken. -/
theorem execFrameReceive_behind (ho : (s.link port.toNat link.toNat).outside = true)
    (hn : counter.toNat ≠ (s.link port.toNat link.toNat).rxNext) :
    execFrameReceive port link counter ok ⟨fs, parts, re⟩ s = .next s.rest :=
  if_pos (.inr ⟨ho, by simp [hn]⟩)

/-- What is done with a frame that is not behind one outside. -/
def State.judgeFrame (s : State) (p l n : Nat) (ok : Bool) (fs parts : List Ferry) (re : Bool) : Result :=
  let x := s.link p l
  let mine := decide (n = x.rxNext)
  let late := s.lateFrame p l n re
  if ok ∧ mine ∧ !late ∧ fs.any s.holdsBack then .next (s.setLink p l { x with outside := true }).rest
  else if ok ∧ mine ∧ !late then
    let t := ((s.setLink p l { x with waiting := false, outside := false }).rollRx p l).giveFerries p fs
    .next (t.signal .ack p l (t.link p l).rxNext).pump.rest
  else if late then .next s.rest
  else .next (s.frameFails p l mine fs parts).pump.rest

theorem execFrameReceive_judged (hv : (s.link port.toNat link.toNat).live = true)
    (hopen : (s.link port.toNat link.toNat).outside = false ∨ counter.toNat = (s.link port.toNat link.toNat).rxNext) :
    execFrameReceive port link counter ok ⟨fs, parts, re⟩ s =
      s.judgeFrame port.toNat link.toNat counter.toNat ok fs parts re := by
  refine if_neg ?_
  rintro (hd | ⟨ho, hm⟩)
  · simp [hv] at hd
  · rcases hopen with h | h
    · exact Bool.false_ne_true (h.symm.trans ho)
    · simp [h] at hm

end
end

section
variable {s : State} {p l n : Nat} {ok : Bool} {fs parts : List Ferry} {re : Bool}

/-- A frame that comes while a retry is awaited is passed over. -/
theorem judgeFrame_late (hl : s.lateFrame p l n re = true) : s.judgeFrame p l n ok fs parts re = .next s.rest := by
  simp only [State.judgeFrame, hl, Bool.not_true, Bool.false_eq_true, false_and, and_false, if_false, if_true]

variable (hl : s.lateFrame p l n re = false)
include hl

/-- One of the expected counter whose tag is good stays outside where the mooring holds one of its ferries back. -/
theorem judgeFrame_held (hn : n = (s.link p l).rxNext) (hh : fs.any s.holdsBack = true) :
    s.judgeFrame p l n true fs parts re = .next (s.setLink p l { s.link p l with outside := true }).rest := by
  simp only [State.judgeFrame, hl, decide_eq_true hn, hh, Bool.not_false, and_self, if_true]

/-- Else it hands its ferries over, and is acknowledged. -/
theorem judgeFrame_good (hn : n = (s.link p l).rxNext) (hh : fs.any s.holdsBack = false) :
    let t := ((s.setLink p l { s.link p l with waiting := false, outside := false }).rollRx p l).giveFerries p fs
    s.judgeFrame p l n true fs parts re = .next (t.signal .ack p l (t.link p l).rxNext).pump.rest := by
  simp only [State.judgeFrame, hl, decide_eq_true hn, hh, Bool.not_false, Bool.false_eq_true, and_self, and_false,
    if_true, if_false]

/-- Any other fails. -/
theorem judgeFrame_bad (hb : ok = false ∨ n ≠ (s.link p l).rxNext) : s.judgeFrame p l n ok fs parts re =
    .next (s.frameFails p l (decide (n = (s.link p l).rxNext)) fs parts).pump.rest := by
  have hgood : ∀ c : Prop, ¬(ok = true ∧ decide (n = (s.link p l).rxNext) = true ∧ c) := by
    rintro c ⟨hok, hn, -⟩
    rcases hb with hb | hb
    · exact Bool.false_ne_true (hb.symm.trans hok)
    · exact hb (of_decide_eq_true hn)
  simp only [State.judgeFrame, hl, if_neg (hgood _), Bool.false_eq_true, if_false]

end

/-! Retries and acknowledgements (16 R438). -/

section
variable {port : BitVec 3} {link lane : BitVec 2} {s : State}

section
variable (hv : (s.link port.toNat link.toNat).live = true)
include hv

theorem execRetryRequest_goBack {counter : BitVec 64} (hs : s.skidPort port.toNat = false) :
    execRetryRequest port link counter s = .next (s.resendFrames port.toNat link.toNat
      ((s.link port.toNat link.toNat).retry.filter fun f => !isBehind f.counter counter.toNat)).rest := by
  simp only [execRetryRequest, hv, hs, Bool.not_true, Bool.false_eq_true, if_false, settle_eq]

/-- In skid mode the frame that failed is not sent again. -/
theorem execRetryRequest_skid {counter : BitVec 64} (hs : s.skidPort port.toNat = true) :
    let x := s.link port.toNat link.toNat
    let n := counter.toNat
    execRetryRequest port link counter s =
      .next ((s.setLink port.toNat link.toNat { x with retry := x.retry.filter fun f => f.counter ≠ n }).resendFrames
        port.toNat link.toNat (x.retry.filter fun f => f.counter ≠ n && !isBehind f.counter n)).rest := by
  simp only [execRetryRequest, hv, hs, Bool.not_true, Bool.false_eq_true, if_false, if_true, settle_eq]

theorem execAckTimeout_fails (hr : (s.link port.toNat link.toNat).retry ≠ []) :
    execAckTimeout port link s = .next (s.linkFail port.toNat link.toNat).pump.rest := if_pos ⟨hv, hr⟩

/-! Keys (14 R387). -/

theorem execRekeyStart_starts (hn : 2 ^ 40 - 2 ^ 32 ≤ (s.link port.toNat link.toNat).txNext)
    (hr : (s.link port.toNat link.toNat).rekeying = false) (hk : (s.link port.toNat link.toNat).nextTx = none) :
    let x := s.link port.toNat link.toNat
    execRekeyStart port link s =
      .next ((s.setLink port.toNat link.toNat { x with rekeying := true }).signal .keyUpdate port.toNat link.toNat x.txNext).rest :=
  if_pos ⟨hv, hn, by rw [hr]; rfl, by rw [hk]; rfl⟩

theorem execRekeyDeadline_fails (hn : (s.link port.toNat link.toNat).txNext = 2 ^ 40)
    (hk : (s.link port.toNat link.toNat).nextTx = none) :
    execRekeyDeadline port link s = .next (s.linkFail port.toNat link.toNat).pump.rest :=
  if_pos ⟨hv, hn, by rw [hk]; rfl⟩

/-- A key update that ends gives the key that follows. -/
theorem execLinkKeyed_updates (hr : (s.link port.toNat link.toNat).rekeying = true)
    (hs : (s.link port.toNat link.toNat).st ≠ .keying) :
    execLinkKeyed port link true s = .next (s.draw.2.setLink port.toNat link.toNat { s.link port.toNat link.toNat with
      rekeying := false, nextTx := some (s.draw.1.setWidth 256) }).rest := by
  simp only [execLinkKeyed, if_neg hs, hv, hr, and_self, if_true, settle_eq]

/-! Lanes (16 R443). -/

/-- A lane lost is logged; with no good one left the link fails, else it trains with what is left. -/
theorem execLaneFault_loses (hb : (s.link port.toNat link.toNat).lanes.getLsbD lane.toNat = true) :
    let p := port.toNat
    let l := link.toNat
    let x := s.link p l
    let id := linkIdOf s.node p l
    let good := x.lanes &&& ~~~(1#4 <<< lane.toNat)
    let t := (s.logTo 64 12 16 (id / 2 ^ 17) 1 id).setLink p l { x with lanes := good }
    execLaneFault port link lane s = .next (if good = 0 then (t.linkFail p l).pump
      else t.setLink p l { x with lanes := good, st := .training, width := trainWidth good, attempts := 0 }).rest := by
  simp only [execLaneFault, hv, hb, Bool.not_true, Bool.false_eq_true, or_self, if_false, settle_eq]
  split <;> rfl

end

/-! Training and keying (16 R443). -/

section
variable (ht : (s.link port.toNat link.toNat).st = .training)
include ht

theorem execLinkTrainDone_noLane (ok : Bool) (h0 : (s.link port.toNat link.toNat).lanes = 0) :
    execLinkTrainDone port link ok s = .next (s.linkFail port.toNat link.toNat).pump.rest := by
  simp only [execLinkTrainDone, ht, ne_eq, not_true_eq_false, if_false, h0, if_true, settle_eq]

variable (h0 : (s.link port.toNat link.toNat).lanes ≠ 0)
include h0

theorem execLinkTrainDone_keys :
    let x := s.link port.toNat link.toNat
    execLinkTrainDone port link true s = .next (s.setLink port.toNat link.toNat { x with
      st := .keying, width := trainWidth x.lanes, attempts := 0 }).rest := by
  simp only [execLinkTrainDone, ht, ne_eq, not_true_eq_false, if_false, if_neg h0, if_true, settle_eq]

theorem execLinkTrainDone_retries (ha : (s.link port.toNat link.toNat).attempts + 1 < 3) :
    let x := s.link port.toNat link.toNat
    execLinkTrainDone port link false s =
      .next (s.setLink port.toNat link.toNat { x with attempts := x.attempts + 1 }).rest := by
  simp only [execLinkTrainDone, ht, ne_eq, not_true_eq_false, if_false, if_neg h0, Bool.false_eq_true, if_pos ha, settle_eq]

/-- The third attempt that fails is the last. -/
theorem execLinkTrainDone_givesUp (ha : 2 ≤ (s.link port.toNat link.toNat).attempts) :
    execLinkTrainDone port link false s = .next (s.linkFail port.toNat link.toNat).pump.rest := by
  have hlast : ¬(s.link port.toNat link.toNat).attempts + 1 < 3 := by omega
  simp only [execLinkTrainDone, ht, ne_eq, not_true_eq_false, if_false, if_neg h0, Bool.false_eq_true, if_neg hlast, settle_eq]

end

section
variable (hk : (s.link port.toNat link.toNat).st = .keying)
include hk

theorem execLinkKeyed_fails :
    execLinkKeyed port link false s = .next (s.linkFail port.toNat link.toNat).pump.rest := by
  simp only [execLinkKeyed, hk, if_true, Bool.not_false, settle_eq]

/-- A link that retrained keeps its keys, and its retry buffer resumes. -/
theorem execLinkKeyed_resumes (hkeyed : (s.link port.toNat link.toNat).keyed = true) :
    let x := s.link port.toNat link.toNat
    execLinkKeyed port link true s = .next ((s.setLink port.toNat link.toNat { x with
      st := if x.width = 4 then .up else .degraded }).resendFrames port.toNat link.toNat x.retry).rest := by
  simp only [execLinkKeyed, hk, if_true, Bool.not_true, Bool.false_eq_true, if_false, hkeyed, settle_eq]

end
end

/-! Verdict marks (14 R388). -/

section
variable {port : BitVec 3} {f : Ferry} {mark : Bool} {s : State} {u : Unmarked} {rest : List Unmarked}
  (hu : takeFirst (fun (u : Unmarked) => u.port == port.toNat && u.ferry == f) s.router.marks = some (u, rest))
include hu

theorem execVerdictMark_gives (hv : u.via = none) :
    let t := s.setRouter { s.router with marks := rest }
    execVerdictMark port f mark s = .next (if mark then t.givePoisoned u.port f else t.takeFerry u.port f).pump.rest := by
  simp only [execVerdictMark, hu, hv, settle_eq]

theorem execVerdictMark_follows {q l : Nat} (hv : u.via = some (q, some l)) :
    execVerdictMark port f mark s = .next ((s.setRouter { s.router with marks := rest }).signal .mark q l mark.toNat).rest := by
  simp only [execVerdictMark, hu, hv, settle_eq]

theorem execVerdictMark_poisons {q : Nat} (hv : u.via = some (q, none)) :
    let t := s.setRouter { s.router with marks := rest }
    execVerdictMark port f mark s = .next (if mark then t.poisonQueued f else t).rest := by
  simp only [execVerdictMark, hu, hv, settle_eq]

end

/-- Settles O53: each step of a link by its lemma; a frame by what is done with it once it is not behind one outside. -/
theorem linkEventsComplete : Obligations.LinkEventsComplete := by
  intro s port link lane counter f fs parts ok mark re p l x n on
  refine ⟨fun hv hr y hy z t hz => ?close, fun hv => ?frame, fun hv => ?live, fun u rest hu => ?mark, rfl,
    fun ht => execLinkTrainDone_noLane ht ok,
    fun ht h0 => ⟨execLinkTrainDone_keys ht h0, execLinkTrainDone_retries ht h0, execLinkTrainDone_givesUp ht h0⟩,
    fun hk => ⟨execLinkKeyed_fails hk, execLinkKeyed_resumes hk⟩⟩
  case close =>
    have hsends := execFrameClose_sends hv hr hy
    exact ⟨fun hf => hsends.trans (by rw [sendFrame_sends hz hf]), fun hf => hsends.trans (by rw [sendFrame_empty hz hf])⟩
  case frame =>
    intro late frame
    have notLate (hl : ¬late) : s.lateFrame p l n re = false := Bool.eq_false_iff.mpr (mt (lateFrame_iff s p l n re).mp hl)
    have judged (good : Bool) (ho : x.outside = false ∨ n = x.rxNext) : frame good = s.judgeFrame p l n good fs parts re :=
      execFrameReceive_judged good hv ho
    refine ⟨execFrameReceive_behind ok, fun hn hl => ⟨fun hh => ?_, fun hh => ?_⟩, fun hl => ?_, fun ho hl hb => ?_⟩
    · exact (judged true (.inr hn)).trans (judgeFrame_held (notLate hl) hn hh)
    · exact (judged true (.inr hn)).trans (judgeFrame_good (notLate hl) hn hh)
    · by_cases ho : x.outside = true ∧ n ≠ x.rxNext
      · exact execFrameReceive_behind ok ho.1 ho.2
      · refine (judged ok ?_).trans (judgeFrame_late ((lateFrame_iff s p l n re).mpr hl))
        rw [Decidable.not_and_iff_not_or_not, Decidable.not_not, Bool.not_eq_true] at ho
        exact ho
    · exact (judged ok ho).trans (judgeFrame_bad (notLate hl) hb)
  case live =>
    refine ⟨execRetryRequest_goBack hv, execRetryRequest_skid hv, execAckTimeout_fails hv, execRekeyStart_starts hv,
      execRekeyDeadline_fails hv, fun hb => ⟨fun h0 => ?_, fun h0 => ?_⟩, execLinkKeyed_updates hv⟩
    · exact (execLaneFault_loses hv hb).trans (by rw [if_pos h0])
    · exact (execLaneFault_loses hv hb).trans (by rw [if_neg h0])
  case mark =>
    exact ⟨execVerdictMark_gives hu, fun q hv => execVerdictMark_follows hu hv, fun q hv => execVerdictMark_poisons hu hv⟩

end Sys2Proof.Machine
end

section
/-! SUPPORT. SPDM answers and sessions, DOE objects and the debug unlock (14 R390-R397, 18 R462). -/

namespace Sys2Proof.Machine

theorem spdmError_invalid (s : State) : s.spdmError invalidRequest = s.spdm 0x7F [1] := rfl

theorem spdmError_unsupported (s : State) : s.spdmError unsupportedRequest = s.spdm 0x7F [7] := rfl

/-! Algorithms, certificates and measurements (14 R390, R393). -/

/-- A requester that offers each of the four has them chosen; any other is refused. -/
theorem execNegotiateAlgorithms_eq (x : SpdmOffer) (s : State) : execNegotiateAlgorithms x s =
    if x.asym &&& ecdsaP384 ≠ 0 ∧ x.hash &&& hashSha384 ≠ 0 ∧ x.dhe &&& ecdhP384 ≠ 0 ∧ x.aead &&& aes256Gcm ≠ 0 then
      .next ((s.setDevice { s.device with algorithms := true }).spdm 0x63 chosenAlgorithms).rest
    else .next (s.spdm 0x7F [7]).rest := rfl

section
variable {slot : Byte} {s : State} (h : slot ≠ 0)
include h

theorem execGetCertificate_refuses : execGetCertificate slot s = .next (s.spdm 0x7F [1]).rest := if_neg h

theorem execChallenge_refuses (nonce : BitVec 256) : execChallenge slot nonce s = .next (s.spdm 0x7F [1]).rest := if_neg h

end

theorem execGetMeasurements_reports {block : Byte} {s : State} {v : BitVec 384} (h0 : block ≠ 0) (h255 : block ≠ 255)
    (hv : s.device.slots.toList[block.toNat - 1]? = some v) :
    execGetMeasurements block s = .next (s.signed 0x60 (leBytes v.toNat 48)).rest := by
  simp only [execGetMeasurements, if_neg h0, if_neg h255, hv, settle_eq]

/-! Sessions (14 R392). -/

/-- The exchange's session has the requester's half in its id. -/
theorem execKeyExchange_begins (req : BitVec 16) (random : BitVec 256) (s : State) :
    ∃ id k t, t = (s.draw.2).draw.2 ∧ execKeyExchange req random s =
      .next ((t.putSession ⟨id, k, false, false, none⟩).signed 0x64 (leBytes id.toNat 4 ++ leBytes mutAuthRequested 1 ++
        leBytes random.toNat 32)).rest ∧ id.toNat % 65536 = req.toNat := by
  refine ⟨(s.draw.1.setWidth 16 : BitVec 16) ++ req, (s.draw.2).draw.1.setWidth 256, _, rfl, rfl, ?_⟩
  rw [BitVec.toNat_append, ← Nat.shiftLeft_add_eq_or_of_lt req.isLt, Nat.shiftLeft_eq]
  omega

section
variable {sid : BitVec 32} {s : State} {x : Session} (hx : s.anySession sid = some x)
include hx

theorem execGetEncapsulatedRequest_asks :
    execGetEncapsulatedRequest sid s = .next (s.spdm 0x6A (leBytes sid.toNat 4)).rest := by
  simp only [execGetEncapsulatedRequest, hx, settle_eq]

variable (hd : x.done = false)
include hd

theorem execFinish_establishes : execFinish sid true s =
    .next ((s.putSession { x with done := true, authed := x.leaf.isSome }).spdm 0x65 (leBytes sid.toNat 4)).rest := by
  simp only [execFinish, hx, hd, Bool.false_eq_true, if_false, if_true, settle_eq]

theorem execFinish_drops : execFinish sid false s = .next ((s.dropSession sid).spdm 0x7F [1]).rest := by
  simp only [execFinish, hx, hd, Bool.false_eq_true, if_false, settle_eq, spdmError_invalid]

theorem execDeliverEncapsulatedResponse_keeps (leaf : BitVec 768) : execDeliverEncapsulatedResponse sid leaf true s =
    .next ((s.putSession { x with leaf := some leaf }).spdm 0x6B (leBytes sid.toNat 4)).rest := by
  simp only [execDeliverEncapsulatedResponse, hx, hd, Bool.not_true, Bool.false_eq_true, or_self, if_false, settle_eq]

end

section
variable {sid : BitVec 32} {s : State}

theorem execKeyUpdate_rekeys {x : Session} (hx : s.session sid = some x) : execKeyUpdate sid s =
    .next ((s.draw.2.putSession { x with key := s.draw.1.setWidth 256 }).spdm 0x69 []).rest := by
  simp only [execKeyUpdate, hx, settle_eq]

theorem execEndSession_ends {x : Session} (hx : s.session sid = some x) :
    execEndSession sid s = .next ((s.dropSession sid).spdm 0x6C []).rest := by
  simp only [execEndSession, hx, settle_eq]

theorem execKeyUpdate_refuses (hx : s.session sid = none) : execKeyUpdate sid s = .next (s.spdm 0x7F [1]).rest := by
  simp only [execKeyUpdate, hx, settle_eq, spdmError_invalid]

theorem execEndSession_refuses (hx : s.session sid = none) : execEndSession sid s = .next (s.spdm 0x7F [1]).rest := by
  simp only [execEndSession, hx, settle_eq, spdmError_invalid]

end

/-! DOE objects (18 R462). -/

section
variable {obj : DoeObject} {s : State}

theorem execDoeUnsupported_errs (h : (obj.vendor, obj.kind) ∉ doeTypes) :
    execDoeUnsupported obj s = .next (s.setDevice { s.device with doeError := true }).rest := by
  have hunknown : doeTypes.contains (obj.vendor, obj.kind) = false := by simpa using h
  exact if_pos (by rw [hunknown]; rfl)

theorem execDoeUnsupported_discovers (hv : obj.vendor = 1) (hk : obj.kind = 0) : execDoeUnsupported obj s =
    .next { s with out := s.out ++ [Out.doe 1 0 (doeDiscovery obj.index.toNat)] }.rest := by
  have hknown : doeTypes.contains ((1 : BitVec 16), (0 : Byte)) = true := by decide
  have hother : ¬(1 : BitVec 16) = 0x1E98 := by decide
  simp only [execDoeUnsupported, hv, hk, hknown, Bool.not_true, Bool.false_eq_true, if_false, if_neg hother, if_true, settle_eq]

/-- Table Access answers a table whose bytes are open. -/
theorem execDoeUnsupported_tables (hv : obj.vendor = 0x1E98) (hk : obj.kind = 2) : ∃ cdat, execDoeUnsupported obj s =
    .next { s.draw.2 with out := s.out ++ [Out.doe 0x1E98 2 cdat] }.rest := by
  have hknown : doeTypes.contains ((0x1E98 : BitVec 16), (2 : Byte)) = true := by decide
  refine ⟨drawBytes s.draw.1 0 256, ?_⟩
  simp only [execDoeUnsupported, hv, hk, hknown, Bool.not_true, Bool.false_eq_true, if_false, if_true, settle_eq]
  rfl

end

/-! The debug unlock (14 R395-R397). -/

/-- The nonce goes with the token; status 0 alone unlocks. -/
theorem execDebugToken_answers (token : BitVec 1408) (s : State) :
    let t := s.setDevice { s.device with nonce := none }
    execDebugToken token s = .next (if tokenStatus s.device token = 0 then (t.unlock token).spdm 0x7E [0]
      else t.spdm 0x7E (leBytes (tokenStatus s.device token) 1)).rest := by
  intro t
  by_cases h : tokenStatus s.device token = 0
  · simp only [execDebugToken, h, if_true, settle_eq]
    rfl
  · simp only [execDebugToken, if_neg h, settle_eq]
    rfl

/-- Settles O56: each request by its lemma. -/
theorem attestationAndDebugComplete : Obligations.AttestationAndDebugComplete := by
  intro s slot block code obj nonce random req sid leaf n384 token asym hash dhe aead d on refusal
  refine ⟨rfl, rfl, ⟨fun hall => ?_, fun hall => ?_⟩, rfl, rfl, rfl,
    fun h => ⟨execGetCertificate_refuses h, execChallenge_refuses h nonce⟩,
    fun v h0 h255 hv => execGetMeasurements_reports h0 h255 hv, execKeyExchange_begins req random s,
    fun x hx => ⟨fun hd => ⟨execFinish_establishes hx hd, execFinish_drops hx hd, execDeliverEncapsulatedResponse_keeps hx hd leaf⟩,
      execGetEncapsulatedRequest_asks hx⟩,
    fun x hx => ⟨execKeyUpdate_rekeys hx, execEndSession_ends hx⟩,
    fun hx => ⟨execKeyUpdate_refuses hx, execEndSession_refuses hx⟩, rfl, execDoeUnsupported_errs,
    execDoeUnsupported_discovers, execDoeUnsupported_tables, rfl, execDebugToken_answers token s⟩
  · exact (execNegotiateAlgorithms_eq ⟨asym, hash, dhe, aead⟩ s).trans (if_pos hall)
  · exact (execNegotiateAlgorithms_eq ⟨asym, hash, dhe, aead⟩ s).trans (if_neg hall)

end Sys2Proof.Machine
end

section
/-! SUPPORT. Management commands of an owner's session (14 R375-R378, R383, R391, R392, 16 R440-R447, 18 R466). -/

namespace Sys2Proof.Machine

/-! A request as posted (18 R466). -/

section
variable (s : State) (r : MgmtReq)

theorem posted_running : (s.posted r).device.running = s.device.running := by
  unfold State.posted
  split <;> rfl

theorem posted_routeBusy (port : Bool) : (s.posted r).routeBusy port = s.routeBusy port := by
  unfold State.routeBusy
  rw [posted_running]

theorem posted_ownerSession (x : Session) : (s.posted r).device.ownerSession x = s.device.ownerSession x := by
  unfold State.posted
  split <;> rfl

theorem posted_node : (s.posted r).node = s.node := by
  unfold State.posted
  split <;> rfl

theorem turnsAway_iff : s.turnsAway r = true ↔ r.port = false ∧ s.device.go = true := by
  simp [State.turnsAway]

theorem routeBusy_iff (port : Bool) : s.routeBusy port = true ↔ ∃ q ∈ s.device.running, q.port = port := by
  simp [State.routeBusy]

theorem respond_fails (port : Bool) (opc status : Nat) (tag results : Word) (payload : List Byte) :
    (s.respond port opc status tag results payload).device.fails = s.device.fails := by
  unfold State.respond
  cases port <;> rfl

end

/-! The checks that every command makes, in their order (18 R466). -/

section
variable {opc : Nat} {r : MgmtReq} {allowed : State → Session → Bool} {form : Bool} {act : State → Option Answer × State}
  {s : State}

/-- A request of BAR0 while GO is set is discarded. -/
theorem command_away (h : s.turnsAway r = true) : command opc r allowed form act s = .next s.rest := if_pos h

section
variable (ha : s.turnsAway r = false)
include ha

/-- One that no session carries is answered by its transport alone. -/
theorem command_noSession (hs : s.session r.session = none) :
    command opc r allowed form act s = .next ((s.posted r).transport r.port 1).rest := by
  simp only [command, ha, Bool.false_eq_true, if_false, hs, settle_eq]

theorem command_busy {x : Session} (hs : s.session r.session = some x) (hb : s.routeBusy r.port = true) :
    command opc r allowed form act s = .next ((s.posted r).respond r.port opc 4 r.tag 0 []).rest := by
  simp only [command, ha, Bool.false_eq_true, if_false, hs, posted_routeBusy, hb, if_true, settle_eq]
  rfl

end

/-- A request whose session is there, on a route without a running command. -/
structure State.Serves (s : State) (r : MgmtReq) (x : Session) : Prop where
  taken : s.turnsAway r = false
  session : s.session r.session = some x
  free : s.routeBusy r.port = false

/-- Minimal mode accepts ELOG_READ, IMAGE_LOAD and MINIMAL_CLEAR alone. -/
def minimalRefuses (d : Device) (opc : Nat) : Bool := d.minimal && !(opc == 3 || opc == 6 || opc == 7)

theorem minimalRefuses_of_normal {d : Device} (h : d.minimal = false) (opc : Nat) : minimalRefuses d opc = false := by
  rw [minimalRefuses, h, Bool.false_and]

variable {x : Session} (h : s.Serves r x)
include h

theorem command_denied (hd : minimalRefuses (s.posted r).device opc = true ∨ allowed (s.posted r) x = false) :
    command opc r allowed form act s = .next ((s.posted r).respond r.port opc 2 r.tag 0 []).rest := by
  have hor : (minimalRefuses (s.posted r).device opc || !allowed (s.posted r) x) = true := by
    rcases hd with hd | hd <;> simp [hd]
  unfold minimalRefuses at hor
  simp only [command, h.taken, Bool.false_eq_true, if_false, h.session, posted_routeBusy, h.free, hor, if_true, settle_eq]
  rfl

section
variable (hm : minimalRefuses (s.posted r).device opc = false) (hall : allowed (s.posted r) x = true)
include hm hall

theorem command_badForm (hf : form = false) :
    command opc r allowed form act s = .next ((s.posted r).respond r.port opc 3 r.tag 0 []).rest := by
  unfold minimalRefuses at hm
  simp only [command, h.taken, Bool.false_eq_true, if_false, h.session, posted_routeBusy, h.free, hm, hall, hf, Bool.not_true,
    Bool.not_false, Bool.or_self, if_true, settle_eq]
  rfl

variable (hf : form = true)
include hf

theorem command_says {a : Answer} {t : State} (hact : act (s.posted r) = (some a, t)) :
    command opc r allowed form act s = .next (t.respond r.port opc a.status r.tag a.results a.payload).rest := by
  unfold minimalRefuses at hm
  simp only [command, h.taken, Bool.false_eq_true, if_false, h.session, posted_routeBusy, h.free, hm, hall, hf, Bool.not_true,
    Bool.or_self, hact, settle_eq]

/-- A command without an answer yet answers when it comes to its end. -/
theorem command_later {t : State} (hact : act (s.posted r) = (none, t)) :
    command opc r allowed form act s = .next t.rest := by
  unfold minimalRefuses at hm
  simp only [command, h.taken, Bool.false_eq_true, if_false, h.session, posted_routeBusy, h.free, hm, hall, hf, Bool.not_true,
    Bool.or_self, hact, settle_eq]

end
end

/-! Requests that no command runs (18 R466). -/

section
variable {r : MgmtReq} {opc : BitVec 16} {s : State}

theorem execMgmtRequestReject_command : execMgmtRequestReject r opc .badForm s =
    command opc.toNat r (fun s x => anySession opc.toNat || owned s x) false (fun s => (none, s)) s := rfl

theorem execMgmtRequestReject_away (h : s.turnsAway r = true) (k : RejectKind) :
    execMgmtRequestReject r opc k s = .next s.rest := by
  cases k with
  | badForm => rw [execMgmtRequestReject_command, command_away h]
  | noSession | badTag | badLen => simp only [execMgmtRequestReject, h, if_true, settle_eq]
  | busy => simp only [execMgmtRequestReject, h, true_or, if_true, settle_eq]

section
variable (h : s.turnsAway r = false)
include h

theorem execMgmtRequestReject_noSession :
    execMgmtRequestReject r opc .noSession s = .next ((s.posted r).transport r.port 1).rest := by
  simp only [execMgmtRequestReject, h, Bool.false_eq_true, if_false, settle_eq]

theorem execMgmtRequestReject_badTag :
    execMgmtRequestReject r opc .badTag s = .next ((s.posted r).transport r.port 2).rest := by
  simp only [execMgmtRequestReject, h, Bool.false_eq_true, if_false, settle_eq]

theorem execMgmtRequestReject_badLen :
    execMgmtRequestReject r opc .badLen s = .next ((s.posted r).transport r.port 3).rest := by
  simp only [execMgmtRequestReject, h, Bool.false_eq_true, if_false, settle_eq]

theorem execMgmtRequestReject_busy (hb : s.routeBusy r.port = true) : execMgmtRequestReject r opc .busy s =
    .next { s with out := s.out ++ [Out.mgmt r.port (response opc.toNat 4 r.tag 0 [])] }.rest := by
  simp only [execMgmtRequestReject, h, hb, Bool.not_true, Bool.false_eq_true, or_self, if_false, settle_eq]
  rfl

end

theorem execMgmtRequestReject_notBusy (hb : s.routeBusy r.port = false) :
    execMgmtRequestReject r opc .busy s = .next s.rest := by
  simp only [execMgmtRequestReject, hb, Bool.not_false, or_true, if_true, settle_eq]

section
variable {x : Session} (h : s.Serves r x)
include h

/-- A wrong form is BADFORM to a session that may ask for the command. -/
theorem execMgmtRequestReject_badForm (hmay : anySession opc.toNat = true ∨ (s.posted r).device.ownerSession x = true)
    (hm : (s.posted r).device.minimal = false ∨ opc = 3 ∨ opc = 6 ∨ opc = 7) :
    execMgmtRequestReject r opc .badForm s = .next ((s.posted r).respond r.port opc.toNat 3 r.tag 0 []).rest := by
  have hrefuses : minimalRefuses (s.posted r).device opc.toNat = false := by
    rcases hm with hm | rfl | rfl | rfl
    · exact minimalRefuses_of_normal hm _
    all_goals simp [minimalRefuses]
  rw [execMgmtRequestReject_command]
  refine command_badForm h hrefuses ?_ rfl
  rcases hmay with hmay | hmay <;> simp [hmay, owned]

/-- To any other it is DENIED. -/
theorem execMgmtRequestReject_denied (hmay : ¬(anySession opc.toNat = true ∨ (s.posted r).device.ownerSession x = true)) :
    execMgmtRequestReject r opc .badForm s = .next ((s.posted r).respond r.port opc.toNat 2 r.tag 0 []).rest := by
  rw [execMgmtRequestReject_command]
  refine command_denied h (.inr ?_)
  rw [not_or, Bool.not_eq_true, Bool.not_eq_true] at hmay
  simp only [hmay.1, owned, hmay.2, Bool.or_self]

end
end

/-! What each command answers to the owner's session (14 R375-R378, R383, R391, 16 R440-R447, 18 R466). -/

section
variable {s : State} {r : MgmtReq} {x : Session} (h : s.Serves r x) (hm : (s.posted r).device.minimal = false)
  (ho : (s.posted r).device.ownerSession x = true)
include h hm ho

theorem owner_says {opc : Nat} {form : Bool} {act : State → Option Answer × State} {a : Answer} {t : State} (hf : form = true)
    (hact : act (s.posted r) = (some a, t)) :
    command opc r owned form act s = .next (t.respond r.port opc a.status r.tag a.results a.payload).rest :=
  command_says h (minimalRefuses_of_normal hm opc) ho hf hact

theorem owner_later {opc : Nat} {form : Bool} {act : State → Option Answer × State} {t : State} (hf : form = true)
    (hact : act (s.posted r) = (none, t)) : command opc r owned form act s = .next t.rest :=
  command_later h (minimalRefuses_of_normal hm opc) ho hf hact

section
variable {entry : BitVec 16} {image : List Byte} (hn : entry.toNat < 64) (hl : image.length = 256)
  (hfree : Part.state ((s.posted r).part entry.toNat) = 0)
include hn hl hfree

theorem execPartWrite_creates (hp : Part.state (BitVec.ofNat 2048 (ofLE image)) = 1) (hstage : (s.posted r).device.stage = 6)
    (hok : (s.posted r).partOk (BitVec.ofNat 2048 (ofLE image)) = true) :
    let p : Part := BitVec.ofNat 2048 (ofLE image)
    let u := ((s.posted r).zeroPart p).dropPart entry.toNat
    execPartWrite r entry image s = .next ((({ u with parts := put u.parts entry.toNat p }.extend 5 (Config.sha384 image)).respond
      r.port 1 0 r.tag 0 []).rest) := by
  refine owner_says h hm ho (a := .of 0) (by simp [hn, hl]) ?_
  simp only [State.partWrite, hfree, hp, hstage, hok, decide_true, Bool.and_self, if_true]
  rfl

theorem execPartWrite_refuses (hno : Part.state (BitVec.ofNat 2048 (ofLE image)) ≠ 1 ∨ (s.posted r).device.stage ≠ 6 ∨
      (s.posted r).partOk (BitVec.ofNat 2048 (ofLE image)) = false) :
    execPartWrite r entry image s = .next ((s.posted r).respond r.port 1 1 r.tag 0 []).rest := by
  refine owner_says h hm ho (a := .of 1) (by simp [hn, hl]) ?_
  have hbad : (decide (Part.state (BitVec.ofNat 2048 (ofLE image)) = 1) && decide ((s.posted r).device.stage = 6) &&
      (s.posted r).partOk (BitVec.ofNat 2048 (ofLE image))) = false := by
    rcases hno with hno | hno | hno <;> simp [hno]
  simp only [State.partWrite, hfree, hbad, Bool.false_eq_true, if_false]
  rfl

end

theorem execFreezeClear_pair {entry : BitVec 16} {action : Byte} (ha : action.toNat < 2) (hn : entry.toNat < 256) {e : PairFreeze}
    (he : look (s.posted r).pairs entry.toNat = some e) : execFreezeClear r entry action s =
      .next ((((s.posted r).clearPair entry.toNat e action.toNat).pump).respond r.port 2 0 r.tag 0 []).rest := by
  refine owner_says h hm ho (a := .of 0) (by simp; omega) ?_
  simp only [State.freezeClear, if_neg (Nat.not_le.mpr ha), if_pos hn, he]
  rfl

/-- Action 0 resumes a halted context, action 1 ends its task. -/
theorem execFreezeClear_context {entry : BitVec 16} {action : Byte} (ha : action.toNat < 2) (hlo : 256 ≤ entry.toNat)
    (hhi : entry.toNat < 2304)
    (hc : ((s.posted r).ctxAt ((entry.toNat - 256) / 4) (BitVec.ofNat 2 (entry.toNat - 256))).haltFlag = true) :
    execFreezeClear r entry action s = .next ((if action.toNat = 0 then (s.posted r).resumeCtx (entry.toNat - 256)
      else (s.posted r).endTask (entry.toNat - 256)).respond r.port 2 0 r.tag 0 []).rest := by
  refine owner_says h hm ho (a := .of 0) (by simp; omega) ?_
  simp only [State.freezeClear, if_neg (Nat.not_le.mpr ha), if_neg (Nat.not_lt.mpr hlo), hc, Bool.true_or, if_true]
  rfl

theorem execElogRead_owner {ring first count : BitVec 16} (hr : ring.toNat ≤ 64) (hfirst : first.toNat < 1024)
    (hc : count.toNat ≤ 126) : execElogRead r ring first count s =
      .next ((s.posted r).respond r.port 3 0 r.tag (BitVec.ofNat 64 ((s.posted r).ring ring.toNat).lost)
        (((((s.posted r).ring ring.toNat).entries.drop first.toNat).take count.toNat).flatMap fun e => leBytes e.toNat 32)).rest := by
  refine owner_says h hm ho (a := ⟨0, _, _⟩) ?_ rfl
  simp only [hr, hfirst, hc, decide_true, Bool.and_self]

theorem execPortEnable_owner {port mode : Byte} (hp : port.toNat < 6) (hmode : mode.toNat < 2) :
    let f := (s.posted r).fabric.trainPort port.toNat
    let bit := 1#6 <<< port.toNat
    execPortEnable r port mode s = .next ((((s.posted r).setFabric
      { f with skid := if mode = 1 then f.skid ||| bit else f.skid &&& ~~~bit })).respond r.port 4 0 r.tag 0 []).rest :=
  owner_says h hm ho (a := .of 0) (by simp [hp, hmode]) rfl

section
variable {lid : BitVec 32} (hz : fld lid.toNat 0 12 = 0) (hq : fld lid.toNat 14 3 < 6)
  (hnode : fld lid.toNat 17 15 = (s.posted r).node.toNat)
include hz hq hnode

theorem execLinkReset_failed (hst : ((s.posted r).link (fld lid.toNat 14 3) (fld lid.toNat 12 2)).st = .failed) :
    execLinkReset r lid s = .next (((s.posted r).setLink (fld lid.toNat 14 3) (fld lid.toNat 12 2)
      { Link.reset with lanes := ((s.posted r).link (fld lid.toNat 14 3) (fld lid.toNat 12 2)).lanes }).respond
        r.port 5 0 r.tag 0 []).rest := by
  rw [posted_node] at hnode
  unfold execLinkReset
  refine owner_says h hm ho (a := .of 0) (by simp [hz, hq, hnode]) ?_
  simp only [hst, if_true]
  rfl

theorem execLinkReset_refuses (hst : ((s.posted r).link (fld lid.toNat 14 3) (fld lid.toNat 12 2)).st ≠ .failed) :
    execLinkReset r lid s = .next ((s.posted r).respond r.port 5 1 r.tag 0 []).rest := by
  rw [posted_node] at hnode
  unfold execLinkReset
  refine owner_says h hm ho (a := .of 1) (by simp [hz, hq, hnode]) ?_
  simp only [hst, if_false]
  rfl

end

theorem execImageLoad_owner {slot : Byte} {piece : List Byte} (hslot : slot.toNat < 4) :
    let d := (s.posted r).device
    execImageLoad r slot piece s = .next (((s.posted r).setDevice
      { d with staged := put d.staged slot.toNat ((look d.staged slot.toNat).getD [] ++ piece) }).respond r.port 6 0 r.tag 0 []).rest :=
  owner_says h hm ho (a := .of 0) (by simp [hslot]) rfl

theorem execMinimalClear_owner : execMinimalClear r s = .next (((((s.posted r).setDevice { (s.posted r).device with fails := 0 }).respond
    r.port 7 0 r.tag 0 []).rest).beginStart).rest := by
  have hc := owner_says h hm ho (opc := 7) (form := true)
    (act := fun s => (some (.of mgOK), s.setDevice { s.device with fails := 0 })) rfl rfl
  have hx : owned s x = true := (posted_ownerSession s r x).symm.trans ho
  unfold execMinimalClear
  simp only [hc, rest_device, respond_fails, h.session, Option.any_some, hx, h.taken, h.free]
  rfl

section
variable {entry : BitVec 16} (hn : entry.toNat < 64)
include hn

section
variable (hidle : ∀ q ∈ (s.posted r).device.running, q.part ≠ entry.toNat)
include hidle

theorem execPartSwapOut_later (hst : Part.state ((s.posted r).part entry.toNat) = 1)
    (hswap : Part.swap ((s.posted r).part entry.toNat) = true) : execPartSwapOut r entry s =
      .next (((s.posted r).preempt entry.toNat ((s.posted r).placedOf entry.toNat)).runCommand r 8 entry.toNat).rest := by
  unfold execPartSwapOut
  refine owner_later h hm ho (by simp [hn]) (if_pos ⟨hst, hswap, ?_⟩)
  simpa using hidle

theorem execPartDestroy_later (hst : Part.state ((s.posted r).part entry.toNat) = 1 ∨
      Part.state ((s.posted r).part entry.toNat) = 2) : execPartDestroy r entry s =
      .next (((s.posted r).destroyPart entry.toNat).runCommand r 10 entry.toNat).rest := by
  unfold execPartDestroy
  refine owner_later h hm ho (by simp [hn]) (if_pos ⟨hst, ?_⟩)
  simpa using hidle

end

theorem execPartSwapIn_owner (hst : Part.state ((s.posted r).part entry.toNat) = 2) :
    let t := ((s.posted r).setPartState entry.toNat 1).refreshGroups
    execPartSwapIn r entry s =
      .next ((t.returnAll entry.toNat (t.savedOf entry.toNat)).respond r.port 9 0 r.tag 0 []).rest := by
  unfold execPartSwapIn
  exact owner_says h hm ho (a := .of 0) (by simp [hn]) (if_pos hst)

end

section
variable {slot : BitVec 16} (hslot : slot.toNat < 256)
include hslot

theorem execKeyLoad_free {key : BitVec 768} (hk : look (s.posted r).device.keys slot.toNat = none) :
    let d := (s.posted r).device
    execKeyLoad r slot (some key) s = .next ((((s.posted r).setDevice { d with keys := put d.keys slot.toNat key }).extend 6
      (Config.sha384 (keyBytes key))).respond r.port 12 0 r.tag 0 []).rest := by
  refine owner_says h hm ho (a := .of 0) (by simp [hslot]) ?_
  simp only [State.keyLoad, hk, Option.isSome_none, Bool.false_eq_true, if_false]
  rfl

theorem execKeyLoad_occupied {key : BitVec 768} (hk : (look (s.posted r).device.keys slot.toNat).isSome = true) :
    execKeyLoad r slot (some key) s = .next ((s.posted r).respond r.port 12 1 r.tag 0 []).rest :=
  owner_says h hm ho (a := .of 1) (by simp [hslot]) (if_pos hk)

theorem execKeyLoad_inUse (hk : (s.posted r).keyInUse slot.toNat = true) :
    execKeyLoad r slot none s = .next ((s.posted r).respond r.port 12 1 r.tag 0 []).rest :=
  owner_says h hm ho (a := .of 1) (by simp [hslot]) (if_pos hk)

end

end

/-! The owner's key, minimal mode, and a session that is not the owner's (14 R391, R392). -/

section
variable {s : State} {r : MgmtReq} {x : Session} (h : s.Serves r x)
include h

theorem execOwnerSet_allowed {key : BitVec 768} (hm : (s.posted r).device.minimal = false) (hlcs : (s.posted r).device.lcs ≠ 3)
    (hmay : (s.posted r).device.owner = none ∧ x.authed = true ∨
      (s.posted r).device.owner.isSome = true ∧ (s.posted r).device.ownerSession x = true) :
    execOwnerSet r key s = if Config.onCurve key = true
      then .next ((((s.posted r).setDevice { (s.posted r).device with owner := some key }).extend 6
        (Config.sha384 (keyBytes key))).respond r.port 11 0 r.tag 0 []).rest
      else .next ((s.posted r).respond r.port 11 3 r.tag 0 []).rest := by
  have hrefuses := minimalRefuses_of_normal hm 11
  have hall : (match (s.posted r).device.owner with
      | none => x.authed
      | some _ => (s.posted r).device.ownerSession x) = true := by
    rcases hmay with ⟨hnone, hx⟩ | ⟨hsome, hx⟩
    · rw [hnone]
      exact hx
    · obtain ⟨k, hk⟩ := Option.isSome_iff_exists.mp hsome
      rw [hk]
      exact hx
  split
  case isTrue hcurve =>
    exact command_says (a := .of 0) h hrefuses hall hcurve (if_neg hlcs)
  case isFalse hcurve =>
    exact command_badForm h hrefuses hall (Bool.not_eq_true _ ▸ hcurve)

theorem execPartWrite_minimal {entry : BitVec 16} {image : List Byte} (hm : (s.posted r).device.minimal = true) :
    execPartWrite r entry image s = .next ((s.posted r).respond r.port 1 2 r.tag 0 []).rest :=
  command_denied h (.inl (by simp [minimalRefuses, hm]))

section
variable (ho : (s.posted r).device.ownerSession x = false)
include ho

theorem execPartWrite_denied {entry : BitVec 16} {image : List Byte} :
    execPartWrite r entry image s = .next ((s.posted r).respond r.port 1 2 r.tag 0 []).rest :=
  command_denied h (.inr ho)

theorem execPartDestroy_denied {entry : BitVec 16} :
    execPartDestroy r entry s = .next ((s.posted r).respond r.port 10 2 r.tag 0 []).rest := by
  unfold execPartDestroy
  exact command_denied h (.inr ho)

theorem execMinimalClear_denied : execMinimalClear r s = .next ((s.posted r).respond r.port 7 2 r.tag 0 []).rest := by
  have hc := command_denied (opc := 7) (form := true) (allowed := owned)
    (act := fun s => (some (.of mgOK), s.setDevice { s.device with fails := 0 })) h (.inr ho)
  have hx : owned s x = false := (posted_ownerSession s r x).symm.trans ho
  unfold execMinimalClear
  simp only [hc, h.session, Option.any_some, hx, Bool.false_eq_true, false_and, and_false, if_false]

end
end

section
variable {s : State} {r : MgmtReq} {entry : BitVec 16} {image : List Byte}

theorem execPartWrite_away (h : s.turnsAway r = true) : execPartWrite r entry image s = .next s.rest := command_away h

section
variable (ha : s.turnsAway r = false)
include ha

theorem execPartWrite_noSession (hs : s.session r.session = none) :
    execPartWrite r entry image s = .next ((s.posted r).transport r.port 1).rest :=
  command_noSession ha hs

theorem execPartWrite_busy {x : Session} (hs : s.session r.session = some x) (hb : s.routeBusy r.port = true) :
    execPartWrite r entry image s = .next ((s.posted r).respond r.port 1 4 r.tag 0 []).rest :=
  command_busy ha hs hb

theorem execMgmtRequestReject_badForm_noSession {opc : BitVec 16} (hs : s.session r.session = none) :
    execMgmtRequestReject r opc .badForm s = .next ((s.posted r).transport r.port 1).rest := by
  rw [execMgmtRequestReject_command, command_noSession ha hs]

theorem execMgmtRequestReject_badForm_busy {opc : BitVec 16} {x : Session} (hs : s.session r.session = some x)
    (hb : s.routeBusy r.port = true) :
    execMgmtRequestReject r opc .badForm s = .next ((s.posted r).respond r.port opc.toNat 4 r.tag 0 []).rest := by
  rw [execMgmtRequestReject_command, command_busy ha hs hb]

end
end

theorem execMinimalClear_away {s : State} {r : MgmtReq} (h : s.turnsAway r = true) : execMinimalClear r s = .next s.rest := by
  have hc := command_away (opc := 7) (allowed := owned) (form := true)
    (act := fun s => (some (.of mgOK), s.setDevice { s.device with fails := 0 })) h
  unfold execMinimalClear
  simp only [hc, h, Bool.not_true, Bool.false_eq_true, false_and, and_false, if_false]

/-- Settles O55: the checks of a command in their order, then each command's own rule on the state as posted. -/
theorem managementCommandsComplete : Obligations.ManagementCommandsComplete := by
  unfold Obligations.ManagementCommandsComplete
  intro s r x entry ring first count slot opc image piece action port mode sl lid key
  simp only [← turnsAway_iff, ← routeBusy_iff, Bool.not_eq_true]
  refine ⟨fun ha => ⟨execMgmtRequestReject_away ha, execPartWrite_away ha, execMinimalClear_away ha⟩, fun ha => ?_,
    fun hs ha hb => ?_, fun hs ha hb => ?_, fun hs ha hb hm => ?_⟩
  · exact ⟨execMgmtRequestReject_noSession (opc := opc) ha, execMgmtRequestReject_badTag (opc := opc) ha,
      execMgmtRequestReject_badLen (opc := opc) ha,
      fun hs => ⟨execPartWrite_noSession ha hs, execMgmtRequestReject_badForm_noSession ha hs⟩, execMgmtRequestReject_busy ha, execMgmtRequestReject_notBusy⟩
  · exact ⟨execPartWrite_busy ha hs hb, execMgmtRequestReject_badForm_busy ha hs hb⟩
  · have h : s.Serves r x := ⟨ha, hs, hb⟩
    exact ⟨execMgmtRequestReject_badForm h, execMgmtRequestReject_denied h, execPartWrite_minimal h⟩
  · have h : s.Serves r x := ⟨ha, hs, hb⟩
    refine ⟨fun ho => ⟨fun hn hl hst => ⟨execPartWrite_creates h hm ho hn hl hst, execPartWrite_refuses h hm ho hn hl hst⟩,
      fun hact hn e he => execFreezeClear_pair h hm ho hact hn he,
      fun hlo hhi hc => ⟨execFreezeClear_context h hm ho (by decide) hlo hhi hc,
        execFreezeClear_context h hm ho (by decide) hlo hhi hc⟩,
      execElogRead_owner h hm ho, execPortEnable_owner h hm ho,
      fun hz hq hnode => ⟨execLinkReset_failed h hm ho hz hq hnode, execLinkReset_refuses h hm ho hz hq hnode⟩,
      execImageLoad_owner h hm ho, execMinimalClear_owner h hm ho,
      fun hn hidle => ⟨execPartSwapOut_later h hm ho hn hidle, execPartDestroy_later h hm ho hn hidle⟩,
      execPartSwapIn_owner h hm ho,
      fun hslot => ⟨execKeyLoad_free h hm ho hslot, execKeyLoad_occupied h hm ho hslot, execKeyLoad_inUse h hm ho hslot⟩⟩,
      execOwnerSet_allowed h hm, fun ho => ⟨execPartWrite_denied h ho, execPartDestroy_denied h ho, execMinimalClear_denied h ho⟩⟩

end Sys2Proof.Machine
end
